-- ==== Sys2Proof/Word.lean ====
section
/-! DEFINITION. The word types of the J64 and their plainest arithmetic (spec/00_scope.md, R2). -/

namespace Sys2Proof

/-- A 64-bit register or memory word. -/
abbrev Word := BitVec 64

/-- One byte of memory or tile storage. -/
abbrev Byte := BitVec 8

/-- A generation tag (R43). -/
abbrev Gen := BitVec 16

/-- The word whose value is `n` modulo 2^64. -/
abbrev wd (n : Nat) : Word := BitVec.ofNat 64 n

end Sys2Proof
end

