-- ==== Sys2Proof/Syntax.lean ====
section
/-! DEFINITION. The instructions and events of the J64: one constructor for each of the 301 rows of
spec/opcode_table.json. Rows 0 to 188 are the encoded forms of Tarura T2 (spec/06, R175); rows 189 to 300 are the
events of the part (spec/95), which have no encoding and carry what the event names. -/

namespace Sys2Proof

/-- A source register field (R44): a named register, or queue age `i + 1`. -/
inductive Src where
  | n (i : Fin 16)
  | q (i : Fin 16)
  deriving DecidableEq, Repr

/-- A destination register field (R44): a named register, push (16) or discard (31). -/
inductive Dst where
  | n (i : Fin 16)
  | push
  | drop
  deriving DecidableEq, Repr

/-- The cond field of br and cmpi (R163), also COND of PRED and WAITMEM (R334). -/
inductive Cond where
  | eq | ne | lt | ge | ltu | geu
  deriving DecidableEq, Repr

/-- The sz field of a load (R163). -/
inductive LdSize where
  | s8 | z8 | s16 | z16 | s32 | z32 | d64
  deriving DecidableEq, Repr

/-- The sz field of a store (R163): 1, 2, 4 or 8 bytes. -/
inductive StSize where
  | b1 | b2 | b4 | b8
  deriving DecidableEq, Repr

/-- The kind of a fence (R231). -/
inductive FenceKind where
  | acq | rel | full
  deriving DecidableEq, Repr

/-- The lane type codes 0 to 13 of W32 (R168), in code order. -/
inductive LaneTy where
  | f32 | bf16 | s32 | s16 | z32 | z16 | s8 | z8 | f16 | e4m3 | e5m2 | e2m1 | s4 | bs12
  deriving DecidableEq, Repr

/-- The ty field of an L16 word (R157). -/
inductive L16Ty where
  | f32 | bf16 | s32 | s16
  deriving DecidableEq, Repr

/-- The kinds of access a translation is asked for (R359). -/
inductive Access where
  | read | write | exec
  deriving DecidableEq, Repr

/-- The sub-units of an easel (R123). -/
inductive SubUnit where
  | canvas | lanes | drain
  deriving DecidableEq, Repr

/-- Who executes instructions: a strand in its slot, an engine hart, a command core or the security core (R176). -/
inductive Agent where
  | strand (q : Fin 64) (c : Fin 4) (k : Fin 24)
  | hart (q : Fin 64) (h : Fin 2)
  | weir (u : Fin 16)
  | cmd (x : Fin 2)
  | sec
  deriving DecidableEq, Repr

/-- An engine that the halt line stops (R367). -/
inductive Engine where
  | core (q : Fin 64) (c : Fin 4)
  | hart (q : Fin 64) (h : Fin 2)
  | easel (q : Fin 64)
  | weir (u : Fin 16)
  | distributor (q : Fin 64)
  deriving DecidableEq, Repr

/-- A launch: hardware queue slot and sequence number (LNCH, R59). -/
structure LaunchId where
  hwq : Fin 16
  lseq : Word
  deriving DecidableEq, Repr

/-- A strand named by its slot and generation (STID, R59), quad by its physical number. -/
structure StrandId where
  q : Fin 64
  c : Fin 4
  k : Fin 24
  gen : Gen
  deriving DecidableEq, Repr

/-- Who waits for the answer to a message (R19): a parked strand, the drain of a strand's committed region (R226), a
launch distributor, or firmware. -/
inductive Sender where
  | strand (s : StrandId)
  | drain (s : StrandId)
  | distributor (q : Fin 64)
  | firmware
  deriving DecidableEq, Repr

/-- The header every mesh message carries (R387, R391): the sending partition, the launch, the quads of the sending and the
receiving interface, and the trailer of a confidential partition's message, its sequence number and its 64-bit tag. `taken`
says that the receiving interface has checked and opened the message, which now waits at its core. -/
structure Header where
  part : BitVec 8
  launch : LaunchId
  port : Nat
  dest : Nat
  seq : Nat
  tag : BitVec 64
  taken : Bool
  deriving DecidableEq, Repr

/-- What a message of the mesh names, beside its header (R387). -/
abbrev Mailed (α : Type) : Type := Header × α

/-- A creation message, a frame request (k = 1 to 15) or a stamped event (R19, R21, R241). -/
structure CreMsg where
  hdr : Header
  q : Fin 64
  c : Fin 4
  entry : Word
  a0 : Word
  a1 : Word
  a2 : Word
  frameK : Nat
  timed : Bool
  stamp : Word
  order : Word
  sender : Sender
  tries : Nat
  retriable : Bool
  deriving DecidableEq, Repr

/-- A migration image on its way: the ten flits of R26. -/
structure MigrMsg where
  hdr : Header
  q : Fin 64
  c : Fin 4
  source : StrandId
  image : List Byte
  deriving DecidableEq, Repr

/-- A deposit, or the check that a SEND of a region makes (R235). -/
structure DepMsg where
  hdr : Header
  q : Fin 64
  c : Fin 4
  k : Nat
  gen : Gen
  reg : Fin 16
  value : Word
  checkOnly : Bool
  sender : Option Sender
  deriving DecidableEq, Repr

/-- The target core's answer to a parked sender (R232, R235). -/
inductive Answer where
  | accepted (token : Word)
  | refused
  | landed
  | dropped
  | denied
  deriving DecidableEq, Repr

/-- The host's read-modify-write on device memory (R135), as an amo has them (R215). -/
inductive HostRmw where
  | add | and | or | xor | swap
  | cas (expected : Nat)
  deriving DecidableEq, Repr

/-- A host request to device memory over CXL.mem (R411): a read, a write of `bytes`, or with `rmw` a read-modify-write whose
operand is `bytes` (R135). -/
structure HostReq where
  write : Bool
  rmw : Option HostRmw
  addr : Nat
  bytes : List Byte
  part : Option (Fin 64)
  ide : Bool
  deriving DecidableEq, Repr

/-- The signature block of a firmware image (R398, R311): the parameter identifier, the digest of the key, and the verdict of the
signature under that key over the image, which the model holds in the place of the signature's bytes. -/
structure SigBlock where
  param : BitVec 32
  key : BitVec 256
  verifies : Bool
  deriving DecidableEq, Repr

/-- A firmware image (R401, R404): the measurement index of its component, its number, version, SVN and signature block. -/
structure FwImage where
  comp : Fin 8
  number : Nat
  version : Nat
  svn : BitVec 16
  sig : SigBlock
  deriving DecidableEq, Repr

/-- The protocols of the host link (R395). -/
inductive Proto where
  | io | cache | mem
  deriving DecidableEq, Repr

/-- An IDE stream of the host link (R395): a link stream of a protocol in one direction, or a selective one of CXL.io. -/
inductive IdeStream where
  | link (proto : Proto) (out : Bool)
  | sel (i : Fin 8)
  deriving DecidableEq, Repr

/-- Who writes a register (R4, R55, R394): a command core, the security core, the debug access port, the host, or a strand or an
engine hart. -/
inductive Master where
  | cmd | sec | debug | host | agent
  deriving DecidableEq, Repr

/-- A liveness record (R306). -/
structure LiveRec where
  nlive : BitVec 16
  qdepth : Nat
  wlive : BitVec 8
  loops : BitVec 2
  ranges : List (Fin 64 × Nat × Nat)
  deriving DecidableEq, Repr

/-- What a debug read or write names (R66, R85, R104): a tagged register, a palette granule, an accumulator row, an IO place
of the windows, or 8 bytes of the memory array (R150). -/
inductive DebugItem where
  | named (q : Fin 64) (c : Fin 4) (k : Fin 24) (i : Fin 16)
  | queue (q : Fin 64) (c : Fin 4) (k : Fin 24) (i : Fin 16)
  | loop (q : Fin 64) (c : Fin 4) (k : Fin 24) (i : Fin 6)
  | vector (q : Fin 64) (c : Fin 4) (i : Fin 8)
  | mask (q : Fin 64) (c : Fin 4) (i : Fin 7)
  | granule (q : Fin 64) (g : Nat)
  | accRow (q : Fin 64) (r : Nat)
  | io (addr : Nat)
  | array (addr : Nat)
  deriving DecidableEq, Repr

/-- A register write through a window or by the security core (R4): the address, the size and the value, or a table; an
access of the debug access port (R66); or what befalls a sector in its memory channel: an uncorrectable error (R365), or with `code`
a change of its ciphertext or its integrity code (R393). -/
inductive RegWrite where
  | window (by_ : Master) (addr : Nat) (bytes : List Byte)
  | ownership (granule : Nat) (entry : BitVec 16)
  | accessTable (target master : Nat) (parts : Word) (rights : BitVec 5)
  | copySlotClear (slot : Fin 64)
  | breakpoint (part : Fin 64) (addr : Word) (word : BitVec 32)
  | clearBreakpoint (part : Fin 64) (addr : Word)
  | singleStep (a : Agent) (on : Bool)
  | injector (q : Fin 64) (v : BitVec 16)
  | jobTable (part : Fin 64) (base : Word)
  | microcode (part : Fin 64) (addr : Nat) (bytes : List Byte)
  | powerGate (q : Fin 64) (off : Bool)
  | liveness (part : Fin 64) (image : Word) (recs : List LiveRec)
  | debugRead (item : DebugItem)
  | channelError (sector : Nat) (code : Bool)
  | i3cRead
  | debugWrite (item : DebugItem) (value : Nat)
  deriving DecidableEq, Repr

/-- What an event from outside carries, or which hardware slot's packet is processed: the request register that the
moment's turn fills in (Turn.input, Turn.packet). An event row with no argument of its own reads its fields here. -/
structure Req where
  slot : Fin 16
  port : Fin 2
  session : Nat
  cert : Fin 8
  index : Nat
  offset : Nat
  part : Option (Fin 64)
  key : BitVec 256
  salt : BitVec 32
  keySlot : Fin 64
  chain : Nat
  on : Bool
  image : FwImage
  stream : IdeStream
  pasid : BitVec 20
  granule : BitVec 48
  granuleHi : BitVec 48
  kind : Access
  host : HostReq
  sector : Nat
  reg : RegWrite
  deriving DecidableEq, Repr

/-- An instruction or an event of the J64, one constructor per row of spec/opcode_table.json; the rows with operands
or arguments first, then those with none. -/
inductive Instr where
  /-- ALU_ADD (R183). -/
  | aluAdd (d : Dst) (a b : Src)
  /-- ALU_SUB (R183). -/
  | aluSub (d : Dst) (a b : Src)
  /-- ALU_AND (R183). -/
  | aluAnd (d : Dst) (a b : Src)
  /-- ALU_OR (R183). -/
  | aluOr (d : Dst) (a b : Src)
  /-- ALU_XOR (R183). -/
  | aluXor (d : Dst) (a b : Src)
  /-- ALU_SLL (R183). -/
  | aluSll (d : Dst) (a b : Src)
  /-- ALU_SRL (R183). -/
  | aluSrl (d : Dst) (a b : Src)
  /-- ALU_SRA (R183). -/
  | aluSra (d : Dst) (a b : Src)
  /-- ALU_SLT (R183). -/
  | aluSlt (d : Dst) (a b : Src)
  /-- ALU_SLTU (R183). -/
  | aluSltu (d : Dst) (a b : Src)
  /-- ALU_MIN (R183). -/
  | aluMin (d : Dst) (a b : Src)
  /-- ALU_MAX (R183). -/
  | aluMax (d : Dst) (a b : Src)
  /-- ALU_MINU (R183). -/
  | aluMinu (d : Dst) (a b : Src)
  /-- ALU_MAXU (R183). -/
  | aluMaxu (d : Dst) (a b : Src)
  /-- MUL_MUL (R184). -/
  | mulMul (d : Dst) (a b : Src) (la : Fin 16)
  /-- MUL_MULH (R184). -/
  | mulMulh (d : Dst) (a b : Src) (la : Fin 16)
  /-- MUL_MULHU (R184). -/
  | mulMulhu (d : Dst) (a b : Src) (la : Fin 16)
  /-- MUL_DIV (R185). -/
  | mulDiv (d : Dst) (a b : Src) (la : Fin 16)
  /-- MUL_DIVU (R185). -/
  | mulDivu (d : Dst) (a b : Src) (la : Fin 16)
  /-- MUL_REM (R185). -/
  | mulRem (d : Dst) (a b : Src) (la : Fin 16)
  /-- MUL_REMU (R185). -/
  | mulRemu (d : Dst) (a b : Src) (la : Fin 16)
  /-- ADDI (R186). -/
  | addi (d : Dst) (a : Src) (imm : BitVec 15)
  /-- ANDI (R186). -/
  | andi (d : Dst) (a : Src) (imm : BitVec 15)
  /-- ORI (R186). -/
  | ori (d : Dst) (a : Src) (imm : BitVec 15)
  /-- XORI (R186). -/
  | xori (d : Dst) (a : Src) (imm : BitVec 15)
  /-- SHI_SLL (R187). -/
  | shiSll (d : Dst) (a : Src) (count : BitVec 6)
  /-- SHI_SRL (R187). -/
  | shiSrl (d : Dst) (a : Src) (count : BitVec 6)
  /-- SHI_SRA (R187). -/
  | shiSra (d : Dst) (a : Src) (count : BitVec 6)
  /-- CMPI (R188). -/
  | cmpi (c : Cond) (d : Dst) (a : Src) (imm : BitVec 12)
  /-- LUI (R189). -/
  | lui (d : Dst) (imm : BitVec 20)
  /-- AUIPC (R189). -/
  | auipc (d : Dst) (imm : BitVec 20)
  /-- BITS_EXT (R190). -/
  | bitsExt (d : Dst) (a : Src) (pos len1 : BitVec 6)
  /-- BITS_EXTU (R190). -/
  | bitsExtu (d : Dst) (a : Src) (pos len1 : BitVec 6)
  /-- BITS_INS (R190). -/
  | bitsIns (d : Fin 16) (a : Src) (pos len1 : BitVec 6)
  /-- FPU_ADD (R191). -/
  | fpuAdd (d : Dst) (a b : Src)
  /-- FPU_SUB (R191). -/
  | fpuSub (d : Dst) (a b : Src)
  /-- FPU_MUL (R191). -/
  | fpuMul (d : Dst) (a b : Src)
  /-- FPU_MIN (R191). -/
  | fpuMin (d : Dst) (a b : Src)
  /-- FPU_MAX (R191). -/
  | fpuMax (d : Dst) (a b : Src)
  /-- FPU_CVTS (R191). -/
  | fpuCvts (d : Dst) (a : Src)
  /-- FPU_CVTF (R191). -/
  | fpuCvtf (d : Dst) (a : Src)
  /-- FPU_EQ (R192). -/
  | fpuEq (d : Dst) (a b : Src)
  /-- FPU_LT (R192). -/
  | fpuLt (d : Dst) (a b : Src)
  /-- FPU_LE (R192). -/
  | fpuLe (d : Dst) (a b : Src)
  /-- FPL_DIV (R194). -/
  | fplDiv (d : Dst) (a b : Src) (la : Fin 16)
  /-- FPL_SQRT (R194). -/
  | fplSqrt (d : Dst) (a : Src) (la : Fin 16)
  /-- FPL_FMA (R194). -/
  | fplFma (d : Fin 16) (a b : Src) (la : Fin 16)
  /-- BR (R195). -/
  | br (c : Cond) (a b : Src) (off : BitVec 12)
  /-- JAL_CALL (R196). -/
  | jalCall (off : BitVec 20)
  /-- JAL_JUMP (R196). -/
  | jalJump (off : BitVec 20)
  /-- JR_JUMP (R196). -/
  | jrJump (a : Src)
  /-- JR_CALL (R196). -/
  | jrCall (a : Src)
  /-- LOOP (R198). -/
  | loopSet (k : Fin 2) (a : Fin 16) (stop : BitVec 15)
  /-- GETS (R201). -/
  | gets (d : Dst) (num : BitVec 12)
  /-- SETS (R201). -/
  | sets (a : Src) (num : BitVec 12)
  /-- TRAP (R203). -/
  | trap (a : Src) (code : BitVec 12)
  /-- BRK (R203). -/
  | brk (a : Src) (code : BitVec 12)
  /-- SYSC (R203). -/
  | sysc (a : Src) (code : BitVec 12)
  /-- YIELD (R207). -/
  | yieldPt (index : BitVec 12)
  /-- LD (R211). -/
  | ld (sz : LdSize) (acq : Bool) (d : Dst) (base : Src) (off : BitVec 7) (la : Fin 16)
  /-- ST (R213). -/
  | st (sz : StSize) (rel : Bool) (data base : Src) (off : BitVec 7)
  /-- AMO_ADD (R215). -/
  | amoAdd (wide acq rel : Bool) (d : Dst) (a : Fin 16) (b : Src) (la : Fin 16)
  /-- AMO_AND (R215). -/
  | amoAnd (wide acq rel : Bool) (d : Dst) (a : Fin 16) (b : Src) (la : Fin 16)
  /-- AMO_OR (R215). -/
  | amoOr (wide acq rel : Bool) (d : Dst) (a : Fin 16) (b : Src) (la : Fin 16)
  /-- AMO_XOR (R215). -/
  | amoXor (wide acq rel : Bool) (d : Dst) (a : Fin 16) (b : Src) (la : Fin 16)
  /-- AMO_MIN (R215). -/
  | amoMin (wide acq rel : Bool) (d : Dst) (a : Fin 16) (b : Src) (la : Fin 16)
  /-- AMO_MAX (R215). -/
  | amoMax (wide acq rel : Bool) (d : Dst) (a : Fin 16) (b : Src) (la : Fin 16)
  /-- AMO_MINU (R215). -/
  | amoMinu (wide acq rel : Bool) (d : Dst) (a : Fin 16) (b : Src) (la : Fin 16)
  /-- AMO_MAXU (R215). -/
  | amoMaxu (wide acq rel : Bool) (d : Dst) (a : Fin 16) (b : Src) (la : Fin 16)
  /-- AMO_SWAP (R215). -/
  | amoSwap (wide acq rel : Bool) (d : Dst) (a : Fin 16) (b : Src) (la : Fin 16)
  /-- AMO_CAS (R215). -/
  | amoCas (wide acq rel : Bool) (d : Fin 16) (a : Fin 16) (b : Src) (la : Fin 16)
  /-- WAITA (R218). -/
  | waita (d : Dst) (a b : Src)
  /-- WAITP (R220). -/
  | waitp (d : Dst) (a : Src)
  /-- PARK (R223). -/
  | park (d : Dst) (a b : Src)
  /-- FLUSHR (R229). -/
  | flushr (a b : Src)
  /-- INVR (R230). -/
  | invr (a b : Src)
  /-- PREF (R230). -/
  | pref (a : Src)
  /-- FENCE (R231). -/
  | fence (kind : FenceKind)
  /-- SPARK (R233). -/
  | spark (a b : Src)
  /-- FRAME (R234). -/
  | frame (d : Dst) (a b : Src)
  /-- MIGR_ADDR (R236). -/
  | migrAddr (d : Dst) (a : Src)
  /-- MIGR_TILE (R236). -/
  | migrTile (d : Dst) (a : Src)
  /-- SEND (R235). -/
  | send (reg : Fin 16) (a b : Src)
  /-- VTGET (R238). -/
  | vtget (d : Dst)
  /-- VTSET (R239). -/
  | vtset (d : Dst) (a : Src)
  /-- ANNOUNCE (R240). -/
  | announce (a : Src)
  /-- SENDT (R241). -/
  | sendt (a b : Src)
  /-- W_ADD (R250). -/
  | wAdd (ty : LaneTy) (m d a b : Fin 8)
  /-- W_SUB (R250). -/
  | wSub (ty : LaneTy) (m d a b : Fin 8)
  /-- W_RSUB (R250). -/
  | wRsub (ty : LaneTy) (m d a b : Fin 8)
  /-- W_MUL (R250). -/
  | wMul (ty : LaneTy) (m d a b : Fin 8)
  /-- W_MAC (R250). -/
  | wMac (ty : LaneTy) (m d a b : Fin 8)
  /-- W_MIN (R250). -/
  | wMin (ty : LaneTy) (m d a b : Fin 8)
  /-- W_MAX (R250). -/
  | wMax (ty : LaneTy) (m d a b : Fin 8)
  /-- W_AND (R250). -/
  | wAnd (ty : LaneTy) (m d a b : Fin 8)
  /-- W_OR (R250). -/
  | wOr (ty : LaneTy) (m d a b : Fin 8)
  /-- W_XOR (R250). -/
  | wXor (ty : LaneTy) (m d a b : Fin 8)
  /-- W_ANDN (R250). -/
  | wAndn (ty : LaneTy) (m d a b : Fin 8)
  /-- W_SHL (R250). -/
  | wShl (ty : LaneTy) (m d a b : Fin 8)
  /-- W_SHR (R250). -/
  | wShr (ty : LaneTy) (m d a b : Fin 8)
  /-- W_MOV (R250). -/
  | wMov (ty : LaneTy) (m d b : Fin 8)
  /-- W_ABS (R250). -/
  | wAbs (ty : LaneTy) (m d b : Fin 8)
  /-- W_NEG (R250). -/
  | wNeg (ty : LaneTy) (m d b : Fin 8)
  /-- W_FMA (R250). -/
  | wFma (ty : LaneTy) (m d a b c : Fin 8)
  /-- W_SEL (R250). -/
  | wSel (ty : LaneTy) (m d a b : Fin 8)
  /-- L16_ADD (R158). -/
  | l16Add (ty : L16Ty) (m d s : Fin 8)
  /-- L16_SUB (R158). -/
  | l16Sub (ty : L16Ty) (m d s : Fin 8)
  /-- L16_RSUB (R158). -/
  | l16Rsub (ty : L16Ty) (m d s : Fin 8)
  /-- L16_MUL (R158). -/
  | l16Mul (ty : L16Ty) (m d s : Fin 8)
  /-- L16_MAC (R158). -/
  | l16Mac (ty : L16Ty) (m d s : Fin 8)
  /-- L16_MIN (R158). -/
  | l16Min (ty : L16Ty) (m d s : Fin 8)
  /-- L16_MAX (R158). -/
  | l16Max (ty : L16Ty) (m d s : Fin 8)
  /-- L16_AND (R158). -/
  | l16And (ty : L16Ty) (m d s : Fin 8)
  /-- L16_OR (R158). -/
  | l16Or (ty : L16Ty) (m d s : Fin 8)
  /-- L16_XOR (R158). -/
  | l16Xor (ty : L16Ty) (m d s : Fin 8)
  /-- L16_ANDN (R158). -/
  | l16Andn (ty : L16Ty) (m d s : Fin 8)
  /-- L16_SHL (R158). -/
  | l16Shl (ty : L16Ty) (m d s : Fin 8)
  /-- L16_SHR (R158). -/
  | l16Shr (ty : L16Ty) (m d s : Fin 8)
  /-- L16_MOV (R158). -/
  | l16Mov (ty : L16Ty) (m d s : Fin 8)
  /-- L16_ABS (R158). -/
  | l16Abs (ty : L16Ty) (m d s : Fin 8)
  /-- L16_NEG (R158). -/
  | l16Neg (ty : L16Ty) (m d s : Fin 8)
  /-- WMATH_EXP2 (R253). -/
  | wmathExp2 (ty : LaneTy) (m d b : Fin 8)
  /-- WMATH_LOG2 (R253). -/
  | wmathLog2 (ty : LaneTy) (m d b : Fin 8)
  /-- WMATH_RECIP (R253). -/
  | wmathRecip (ty : LaneTy) (m d b : Fin 8)
  /-- WMATH_RSQRT (R253). -/
  | wmathRsqrt (ty : LaneTy) (m d b : Fin 8)
  /-- WMATH_TANH (R253). -/
  | wmathTanh (ty : LaneTy) (m d b : Fin 8)
  /-- WMATH_RSUM (R254). -/
  | wmathRsum (ty : LaneTy) (m d b : Fin 8)
  /-- WMATH_RMAX (R254). -/
  | wmathRmax (ty : LaneTy) (m d b : Fin 8)
  /-- WMATH_SCAN (R255). -/
  | wmathScan (ty : LaneTy) (m d b : Fin 8)
  /-- WMATH_PERM (R256). -/
  | wmathPerm (ty : LaneTy) (m d a b : Fin 8)
  /-- WMASK_EQ (R257). -/
  | wmaskEq (ty : LaneTy) (m d a b : Fin 8)
  /-- WMASK_LT (R257). -/
  | wmaskLt (ty : LaneTy) (m d a b : Fin 8)
  /-- WMASK_LE (R257). -/
  | wmaskLe (ty : LaneTy) (m d a b : Fin 8)
  /-- WMASK_AND (R257). -/
  | wmaskAnd (m d a b : Fin 8)
  /-- WMASK_OR (R257). -/
  | wmaskOr (m d a b : Fin 8)
  /-- WMASK_XOR (R257). -/
  | wmaskXor (m d a b : Fin 8)
  /-- WMOVE_BCAST (R258). -/
  | wmoveBcast (m : Fin 8) (a : Src) (b : Fin 8)
  /-- WMOVE_EXT (R258). -/
  | wmoveExt (d : Dst) (a : Src) (b : Fin 8)
  /-- WMOVE_TRLD (R260). -/
  | wmoveTrld (m : Fin 8) (a : Src) (b : Fin 8)
  /-- WMOVE_TRST (R261). -/
  | wmoveTrst (m : Fin 8) (a : Src) (b : Fin 8)
  /-- WMOVE_MPOP (R258). -/
  | wmoveMpop (m : Fin 8) (d : Dst)
  /-- WCVT_UP (R262). -/
  | wcvtUp (ty : LaneTy) (m d a b : Fin 8)
  /-- WCVT_DOWN (R262). -/
  | wcvtDown (ty : LaneTy) (m d a b : Fin 8)
  /-- WCVT_DOWNSAT (R262). -/
  | wcvtDownsat (ty : LaneTy) (m d a b : Fin 8)
  /-- WCVT_TOINT (R262). -/
  | wcvtToint (ty : LaneTy) (m d a b : Fin 8)
  /-- WCVT_FROMINT (R262). -/
  | wcvtFromint (ty : LaneTy) (m d a b : Fin 8)
  /-- WSAMP_TOPK (R263). -/
  | wsampTopk (m d a b : Fin 8)
  /-- WSAMP_CBG (R264). -/
  | wsampCbg (m d a b : Fin 8)
  /-- WSAMP_DRAW (R264). -/
  | wsampDraw (m d a b : Fin 8)
  /-- WSAMP_PICK (R265). -/
  | wsampPick (m d a b : Fin 8)
  /-- TALLOC (R271). -/
  | talloc (nw : Src) (h : Fin 64)
  /-- TFREE (R272). -/
  | tfree (h : Fin 64)
  /-- TLD (R274). -/
  | tld (nw : Src) (ha hb : Fin 64) (la : Fin 16)
  /-- TST (R274). -/
  | tst (nw : Src) (h : Fin 64)
  /-- TZERO (R274). -/
  | tzero (nw : Src) (h : Fin 64)
  /-- CLOAD (R278). -/
  | cload (nw : Src) (ha hb : Fin 64) (la : Fin 16)
  /-- CPASS (R281). -/
  | cpass (nw : Src) (ha hb : Fin 64) (la : Fin 16)
  /-- CDRAIN (R283). -/
  | cdrain (nw : Src) (ha hb : Fin 64) (la : Fin 16)
  /-- CZERO (R283). -/
  | czero (nw : Src) (ha : Fin 64) (la : Fin 16)
  /-- CANVASX_LOAD (R277). -/
  | canvasxLoad (nw : Src) (ha hb : Fin 64) (la : Fin 16)
  /-- CANVASX_PASS (R281). -/
  | canvasxPass (nw : Src) (ha hb : Fin 64) (la : Fin 16)
  /-- CPY_IN (R285). -/
  | cpyIn (d : Dst) (a : Src) (h : Fin 64) (la : Fin 16)
  /-- CPY_OUT (R285). -/
  | cpyOut (d : Dst) (a : Src) (h : Fin 64) (la : Fin 16)
  /-- GATH (R286). -/
  | gath (d : Dst) (a : Src) (h : Fin 64) (la : Fin 16)
  /-- SCAT (R286). -/
  | scat (d : Dst) (a : Src) (h : Fin 64) (la : Fin 16)
  /-- COLL (R287). -/
  | coll (d : Dst) (a : Src) (h : Fin 64) (la : Fin 16)
  /-- WEIR (R288). -/
  | weir (d : Dst) (a : Src) (h : Fin 64) (la : Fin 16)
  /-- BARM (R290). -/
  | barm (a : Src) (b : Fin 16)
  /-- BARR (R290). -/
  | barrClaim (d : Dst) (a : Src) (b : Fin 16)
  /-- BWAIT (R290). -/
  | bwait (b : Fin 16)
  /-- ENGX_DMARD (R292). -/
  | engxDmard (d : Dst) (a b : Src)
  /-- ENGX_DMAWR (R292). -/
  | engxDmawr (d : Dst) (a b : Src)
  /-- ENGX_MBOX (R292). -/
  | engxMbox (a : Src)
  /-- ENGX_GCMKEY (R292). -/
  | engxGcmkey (a : Src)
  /-- ENGX_GCMENC (R292). -/
  | engxGcmenc (d : Dst) (a b : Src)
  /-- ENGX_GCMDEC (R292). -/
  | engxGcmdec (d : Dst) (a b : Src)
  /-- TLBINV (R294). -/
  | tlbinv (a b : Src)
  /-- GENSCRUB (R295). -/
  | genscrub (d : Dst) (a : Src)
  /-- QOWN (R386). -/
  | qown (d : Dst) (a b : Src)
  /-- HALT (R294). -/
  | halt (a b : Src)
  /-- STOPREC (R294). -/
  | stoprec (d : Dst) (a : Src)
  /-- CCTL (R294). -/
  | cctl (a b : Src)
  /-- PSET (R294). -/
  | pset (a b : Src)
  /-- CREATION_MESSAGE (R19). -/
  | creationMessage (m : CreMsg)
  /-- CONTEXT_SCRUB_COMPLETE (R62). -/
  | contextScrubComplete (q : Fin 64) (c : Fin 4)
  /-- CONTEXT_FREE_NOTICE (R19). -/
  | contextFreeNotice (q : Mailed (Fin 64)) (c : Fin 4)
  /-- RESEND_TIMEOUT (R19). -/
  | resendTimeout (q : Fin 64) (c : Fin 4)
  /-- REFUSAL_RELEASE (R19). -/
  | refusalRelease (q : Mailed (Fin 64)) (c : Fin 4)
  /-- REFUSED_RESEND (R20). -/
  | refusedResend (q : Fin 64) (c : Fin 4)
  /-- MIGR_QUERY (R25). -/
  | migrQuery (src : Mailed StrandId) (quad : Fin 64)
  /-- MIGR_QUERY_ANSWER (R25). -/
  | migrQueryAnswer (src : Mailed StrandId)
  /-- MIGRATION_IMAGE (R26). -/
  | migrationImage (m : MigrMsg)
  /-- TARGET_ANSWER (R232). -/
  | targetAnswer (dest : Mailed Sender) (ans : Answer)
  /-- DEPOSIT (R64). -/
  | deposit (m : DepMsg)
  /-- CORE_SELECT (R18). -/
  | coreSelect (q : Fin 64) (c : Fin 4)
  /-- CLOCK_ANNOUNCEMENT (R34). -/
  | clockAnnouncement (q : Mailed (Fin 64)) (c : Fin 4) (ch : Fin 8) (v : Word)
  /-- NULL_EVENT (R34). -/
  | nullEvent (q : Mailed (Fin 64)) (c : Fin 4) (ch : Fin 8) (v : Word)
  /-- STAMPED_EVENT (R241). -/
  | stampedEvent (m : CreMsg)
  /-- EVENT_START (R36). -/
  | eventStart (q : Fin 64) (c : Fin 4)
  /-- NULL_ROUND (R38). -/
  | nullRound (q : Fin 64) (c : Fin 4)
  /-- EASEL_GRANT (R123). -/
  | easelGrant (q : Fin 64)
  /-- EASEL_SUBUNIT_COMPLETE (R123). -/
  | easelSubunitComplete (q : Fin 64) (unit : SubUnit)
  /-- SCOREBOARD_ENTRY_COMPLETE (R108). -/
  | scoreboardEntryComplete (q : Fin 64) (entry : Nat)
  /-- TILE_SCRUB_SWEEP_COMPLETE (R103). -/
  | tileScrubSweepComplete (q : Fin 64)
  /-- GENSCRUB_COMPLETE (R295). -/
  | genscrubComplete (q : Fin 64)
  /-- COLLECTIVE_MATCH (R287). -/
  | collectiveMatch (launch : LaunchId) (cid : Word)
  /-- PROMISE_DUE (R120). -/
  | promiseDue (a : Agent)
  /-- MONITOR_FIRE (R219). -/
  | monitorFire (sector : Nat)
  /-- PARK_DEADLINE (R223). -/
  | parkDeadline (a : Agent)
  /-- REGION_BUFFER_DRAIN (R226). -/
  | regionBufferDrain (a : Agent)
  /-- WALK_MONITOR_FIRE (R364). -/
  | walkMonitorFire (sector : Nat)
  /-- ENGINE_STOP (R367). -/
  | engineStop (e : Engine)
  /-- CONTAINMENT_WALK (R371). -/
  | containmentWalk (part : Fin 64)
  /-- HALTCTL_HOLD_SET (R368). -/
  | haltctlHoldSet (q : Fin 64)
  /-- HALTCTL_HOLD_CLEAR (R368). -/
  | haltctlHoldClear (q : Fin 64)
  /-- CHLA_WRITE (R40). -/
  | chlaWrite (q : Fin 64) (c : Fin 4) (ch : Fin 8) (v : Word)
  /-- PREEMPTION_DEADLINE (R374). -/
  | preemptionDeadline (slot : Fin 16)
  /-- SAVE_COMPLETE (R376). -/
  | saveComplete (slot : Fin 16)
  /-- RESTORE (R377). -/
  | restore (slot : Fin 16)
  /-- DEBUG_RESUME (R381). -/
  | debugResume (a : Agent)
  /-- KICK (R328). -/
  | kick (queue : Fin 4096) (v : BitVec 32)
  /-- CANCEL_GRAPH (R347). -/
  | cancelGraph (queue : Fin 4096)
  /-- CANCEL_PHASE (R347). -/
  | cancelPhase (queue : Fin 4096)
  /-- CANCEL_JOB (R347). -/
  | cancelJob (queue : Fin 4096)
  /-- PACKET_READ (R342). -/
  | packetRead (slot : Fin 16)
  /-- LAUNCH_DISTRIBUTION (R345). -/
  | launchDistribution (l : LaunchId)
  /-- LAUNCH_COMPLETE (R344). -/
  | launchComplete (l : LaunchId)
  /-- AGEING_INTERVAL (R351). -/
  | ageingInterval (slot : Fin 16)
  /-- QUANTUM_EXPIRY (R352). -/
  | quantumExpiry (slot : Fin 16)
  /-- SCTL_MAP (R353). -/
  | sctlMap (slot : Fin 16) (queue : Fin 4096)
  /-- SCTL_UNMAP (R353). -/
  | sctlUnmap (slot : Fin 16)
  /-- UNMAP_COMPLETE (R353). -/
  | unmapComplete (slot : Fin 16)
  /-- SCTL_RESET (R354). -/
  | sctlReset (slot : Fin 16)
  /-- QUEUE_RESET_COMPLETE (R354). -/
  | queueResetComplete (slot : Fin 16)
  /-- BIASCMD_GO (R413). -/
  | biascmdGo (granule : BitVec 36) (target : Bool)
  /-- BIAS_FLIP_COMPLETE (R412). -/
  | biasFlipComplete (granule : BitVec 36) (target : Bool)
  /-- RELEASE_SEQUENCE_COMPLETE (R390). -/
  | releaseSequenceComplete (part : Fin 64)
  /-- DROWSY_ENTRY (R417). -/
  | drowsyEntry (q : Fin 64)
  /-- DROWSY_WAKE (R417). -/
  | drowsyWake (q : Fin 64)
  /-- LONG_LATENCY_COMPLETION (R172). -/
  | longLatencyCompletion (a : Agent)
  /-- CACHE_MAINTENANCE_COMPLETE (R229). -/
  | cacheMaintenanceComplete (a : Agent)
  /-- JR_RET (R196). -/
  | jrRet
  /-- RTE (R206). -/
  | rte
  /-- REGION (R224). -/
  | region
  /-- COMMIT (R226). -/
  | commit
  /-- EXIT (R237). -/
  | exit
  /-- ENGX_KWAIT (R292). -/
  | engxKwait
  /-- PAGE_REQUEST_RESPONSE (R364). -/
  | pageRequestResponse
  /-- GRANQ0_READ (R360). -/
  | granq0Read
  /-- GRANRESP_WALK_AGAIN (R360). -/
  | granrespWalkAgain
  /-- GRANRESP_REFUSE (R360). -/
  | granrespRefuse
  /-- ATS_INVALIDATION (R362). -/
  | atsInvalidation
  /-- NOP (R334). -/
  | pktNop
  /-- DISPATCH (R336). -/
  | pktDispatch
  /-- DELTA (R336). -/
  | pktDelta
  /-- IBCALL (R338). -/
  | pktIbcall
  /-- PRED (R339). -/
  | pktPred
  /-- LOOP_PACKET (R340). -/
  | pktLoop
  /-- FFENCE (R342). -/
  | pktFfence
  /-- SIGNAL (R341). -/
  | pktSignal
  /-- WAITMEM (R341). -/
  | pktWaitmem
  /-- LEVEL_GRAPH (R346). -/
  | levelGraph
  /-- LEVEL_PHASE (R346). -/
  | levelPhase
  /-- LEVEL_JOB (R346). -/
  | levelJob
  /-- LEVEL_CANCEL (R347). -/
  | levelCancel
  /-- SLOT_SELECTION (R351). -/
  | slotSelection
  /-- HOST_CXL_MEM_REQUEST (R411). -/
  | hostCxlMemRequest
  /-- HOST_SNOOP (R410). -/
  | hostSnoop
  /-- LOCK_INTERFACE (R395). -/
  | lockInterface
  /-- START_INTERFACE (R388). -/
  | startInterface
  /-- STOP_INTERFACE (R390). -/
  | stopInterface
  /-- IDE_INTEGRITY_FAILURE (R395). -/
  | ideIntegrityFailure
  /-- GET_VERSION (R402). -/
  | getVersion
  /-- GET_CAPABILITIES (R402). -/
  | getCapabilities
  /-- NEGOTIATE_ALGORITHMS (R402). -/
  | negotiateAlgorithms
  /-- GET_DIGESTS (R402). -/
  | getDigests
  /-- GET_CERTIFICATE (R403). -/
  | getCertificate
  /-- CHALLENGE (R402). -/
  | challenge
  /-- GET_MEASUREMENTS (R402). -/
  | getMeasurements
  /-- KEY_EXCHANGE (R402). -/
  | keyExchange
  /-- FINISH (R402). -/
  | finish
  /-- HEARTBEAT (R402). -/
  | heartbeat
  /-- KEY_UPDATE (R402). -/
  | keyUpdate
  /-- END_SESSION (R402). -/
  | endSession
  /-- SET_CERTIFICATE (R403). -/
  | setCertificate
  /-- CERT_REWRITE_TIMEOUT (R403). -/
  | certRewriteTimeout
  /-- SET_COPY_KEY (R396). -/
  | setCopyKey
  /-- SET_DEBUG_CONSENT (R402). -/
  | setDebugConsent
  /-- STAGE_UPDATE (R404). -/
  | stageUpdate
  /-- ACTIVATION_REQUEST (R404). -/
  | activationRequest
  /-- ACKNOWLEDGE_STAGED (R404). -/
  | acknowledgeStaged
  /-- LIVE_UPDATE_TAKEOVER (R405). -/
  | liveUpdateTakeover
  /-- STANDBY_FAILURE (R405). -/
  | standbyFailure
  /-- COLD_RESET (R418). -/
  | coldReset
  /-- WARM_RESET (R418). -/
  | warmReset
  /-- LINK_RESET (R418). -/
  | linkReset
  /-- CLOCK_STEP (R416). -/
  | clockStep
  /-- EVLOG_READ (R415). -/
  | evlogRead
  /-- REGISTER_WRITE (R4). -/
  | registerWrite
  /-- COMMAND_COMPLEX_FAILURE (R11). -/
  | commandComplexFailure
  /-- IDE_KEY_MANAGEMENT (R395). -/
  | ideKeyManagement
  deriving DecidableEq, Repr

end Sys2Proof
end

