-- ==== Sys2Proof/WellFormed.lean ====
section
/-! DEFINITION. Which terms of Instr are instructions: what the encodings of spec/06 exclude beyond the types of
the fields (R159, R162, R168, R250, R253 to R265). An event is always well formed. -/

namespace Sys2Proof

/-- Class A of R250. -/
def LaneTy.isArith : LaneTy → Bool
  | .f32 | .bf16 | .f16 | .s32 | .s16 | .z32 | .z16 => true
  | .s8 | .z8 | .e4m3 | .e5m2 | .e2m1 | .s4 | .bs12 => false

/-- Class I of R250. -/
def LaneTy.isInt : LaneTy → Bool
  | .s32 | .s16 | .z32 | .z16 => true
  | .f32 | .bf16 | .f16 | .s8 | .z8 | .e4m3 | .e5m2 | .e2m1 | .s4 | .bs12 => false

/-- Class S of R250. -/
def LaneTy.isSigned : LaneTy → Bool
  | .f32 | .bf16 | .f16 | .s32 | .s16 => true
  | .z32 | .z16 | .s8 | .z8 | .e4m3 | .e5m2 | .e2m1 | .s4 | .bs12 => false

/-- The types of perm and of the mask compares (R256, R257). -/
def LaneTy.isWord : LaneTy → Bool
  | .f32 | .s32 | .z32 => true
  | .bf16 | .s16 | .z16 | .s8 | .z8 | .f16 | .e4m3 | .e5m2 | .e2m1 | .s4 | .bs12 => false

/-- The types of wcvt.up, down and downsat (R262). -/
def LaneTy.isNarrowFloat : LaneTy → Bool
  | .bf16 | .f16 | .e4m3 | .e5m2 | .e2m1 | .bs12 => true
  | .f32 | .s32 | .s16 | .z32 | .z16 | .s8 | .z8 | .s4 => false

/-- The types of wcvt.toint and fromint (R262). -/
def LaneTy.isCvtInt : LaneTy → Bool
  | .s32 | .z32 | .s16 | .z16 | .s8 | .z8 | .s4 => true
  | .f32 | .bf16 | .f16 | .e4m3 | .e5m2 | .e2m1 | .bs12 => false

/-- The integer types of an L16 word (R159). -/
def L16Ty.isInt : L16Ty → Bool
  | .s32 | .s16 => true
  | .f32 | .bf16 => false

/-- The encodings' own checks; L16 add with every field 0 is the halfword 0x0000, which is no instruction (R159). -/
def Instr.wf : Instr → Bool
  | .aluAdd _ _ _ => true
  | .aluSub _ _ _ => true
  | .aluAnd _ _ _ => true
  | .aluOr _ _ _ => true
  | .aluXor _ _ _ => true
  | .aluSll _ _ _ => true
  | .aluSrl _ _ _ => true
  | .aluSra _ _ _ => true
  | .aluSlt _ _ _ => true
  | .aluSltu _ _ _ => true
  | .aluMin _ _ _ => true
  | .aluMax _ _ _ => true
  | .aluMinu _ _ _ => true
  | .aluMaxu _ _ _ => true
  | .mulMul _ _ _ _ => true
  | .mulMulh _ _ _ _ => true
  | .mulMulhu _ _ _ _ => true
  | .mulDiv _ _ _ _ => true
  | .mulDivu _ _ _ _ => true
  | .mulRem _ _ _ _ => true
  | .mulRemu _ _ _ _ => true
  | .addi _ _ _ => true
  | .andi _ _ _ => true
  | .ori _ _ _ => true
  | .xori _ _ _ => true
  | .shiSll _ _ _ => true
  | .shiSrl _ _ _ => true
  | .shiSra _ _ _ => true
  | .cmpi _ _ _ _ => true
  | .lui _ _ => true
  | .auipc _ _ => true
  | .bitsExt _ _ pos len1 => decide (pos.toNat + len1.toNat + 1 ≤ 64)
  | .bitsExtu _ _ pos len1 => decide (pos.toNat + len1.toNat + 1 ≤ 64)
  | .bitsIns _ _ pos len1 => decide (pos.toNat + len1.toNat + 1 ≤ 64)
  | .fpuAdd _ _ _ => true
  | .fpuSub _ _ _ => true
  | .fpuMul _ _ _ => true
  | .fpuMin _ _ _ => true
  | .fpuMax _ _ _ => true
  | .fpuCvts _ _ => true
  | .fpuCvtf _ _ => true
  | .fpuEq _ _ _ => true
  | .fpuLt _ _ _ => true
  | .fpuLe _ _ _ => true
  | .fplDiv _ _ _ _ => true
  | .fplSqrt _ _ _ => true
  | .fplFma _ _ _ _ => true
  | .br _ _ _ _ => true
  | .jalCall _ => true
  | .jalJump _ => true
  | .jrJump _ => true
  | .jrCall _ => true
  | .jrRet => true
  | .loopSet _ _ stop => decide (2 ≤ stop.toNat)
  | .gets _ _ => true
  | .sets _ _ => true
  | .trap _ _ => true
  | .rte => true
  | .brk _ _ => true
  | .sysc _ _ => true
  | .yieldPt _ => true
  | .ld _ _ _ _ _ _ => true
  | .st _ _ _ _ _ => true
  | .amoAdd _ _ _ _ _ _ _ => true
  | .amoAnd _ _ _ _ _ _ _ => true
  | .amoOr _ _ _ _ _ _ _ => true
  | .amoXor _ _ _ _ _ _ _ => true
  | .amoMin _ _ _ _ _ _ _ => true
  | .amoMax _ _ _ _ _ _ _ => true
  | .amoMinu _ _ _ _ _ _ _ => true
  | .amoMaxu _ _ _ _ _ _ _ => true
  | .amoSwap _ _ _ _ _ _ _ => true
  | .amoCas _ _ _ _ _ _ _ => true
  | .waita _ _ _ => true
  | .waitp _ _ => true
  | .park _ _ _ => true
  | .region => true
  | .commit => true
  | .flushr _ _ => true
  | .invr _ _ => true
  | .pref _ => true
  | .fence _ => true
  | .spark _ _ => true
  | .frame _ _ _ => true
  | .migrAddr _ _ => true
  | .migrTile _ _ => true
  | .exit => true
  | .send _ _ _ => true
  | .vtget _ => true
  | .vtset _ _ => true
  | .announce _ => true
  | .sendt _ _ => true
  | .wAdd ty _ _ _ _ => ty.isArith
  | .wSub ty _ _ _ _ => ty.isArith
  | .wRsub ty _ _ _ _ => ty.isArith
  | .wMul ty _ _ _ _ => ty.isArith
  | .wMac ty _ _ _ _ => ty.isArith
  | .wMin ty _ _ _ _ => ty.isArith
  | .wMax ty _ _ _ _ => ty.isArith
  | .wAnd ty _ _ _ _ => ty.isArith
  | .wOr ty _ _ _ _ => ty.isArith
  | .wXor ty _ _ _ _ => ty.isArith
  | .wAndn ty _ _ _ _ => ty.isArith
  | .wShl ty _ _ _ _ => ty.isInt
  | .wShr ty _ _ _ _ => ty.isInt
  | .wMov ty _ _ _ => ty.isArith
  | .wAbs ty _ _ _ => ty.isSigned
  | .wNeg ty _ _ _ => ty.isSigned
  | .wFma ty _ _ _ _ _ => ty.isArith
  | .wSel ty _ _ _ _ => ty.isArith
  | .l16Add ty m d s => !(m == 0 && d == 0 && s == 0 && ty == .f32)
  | .l16Sub _ _ _ _ => true
  | .l16Rsub _ _ _ _ => true
  | .l16Mul _ _ _ _ => true
  | .l16Mac _ _ _ _ => true
  | .l16Min _ _ _ _ => true
  | .l16Max _ _ _ _ => true
  | .l16And _ _ _ _ => true
  | .l16Or _ _ _ _ => true
  | .l16Xor _ _ _ _ => true
  | .l16Andn _ _ _ _ => true
  | .l16Shl ty _ _ _ => ty.isInt
  | .l16Shr ty _ _ _ => ty.isInt
  | .l16Mov _ _ _ _ => true
  | .l16Abs _ _ _ _ => true
  | .l16Neg _ _ _ _ => true
  | .wmathExp2 ty _ _ _ => ty == .f32 || ty == .bf16
  | .wmathLog2 ty _ _ _ => ty == .f32 || ty == .bf16
  | .wmathRecip ty _ _ _ => ty == .f32 || ty == .bf16
  | .wmathRsqrt ty _ _ _ => ty == .f32 || ty == .bf16
  | .wmathTanh ty _ _ _ => ty == .f32 || ty == .bf16
  | .wmathRsum ty _ _ _ => ty.isArith
  | .wmathRmax ty _ _ _ => ty.isArith
  | .wmathScan ty _ _ _ => ty.isArith
  | .wmathPerm ty _ _ _ _ => ty.isWord
  | .wmaskEq ty _ _ _ _ => ty.isWord
  | .wmaskLt ty _ _ _ _ => ty.isWord
  | .wmaskLe ty _ _ _ _ => ty.isWord
  | .wmaskAnd _ _ _ _ => true
  | .wmaskOr _ _ _ _ => true
  | .wmaskXor _ _ _ _ => true
  | .wmoveBcast _ _ _ => true
  | .wmoveExt _ _ _ => true
  | .wmoveTrld _ _ _ => true
  | .wmoveTrst _ _ _ => true
  | .wmoveMpop _ _ => true
  | .wcvtUp ty _ _ _ _ => ty.isNarrowFloat
  | .wcvtDown ty _ _ _ _ => ty.isNarrowFloat
  | .wcvtDownsat ty _ _ _ _ => ty.isNarrowFloat
  | .wcvtToint ty _ _ _ _ => ty.isCvtInt
  | .wcvtFromint ty _ _ _ _ => ty.isCvtInt
  | .wsampTopk _ _ _ _ => true
  | .wsampCbg _ _ _ _ => true
  | .wsampDraw _ _ _ _ => true
  | .wsampPick _ _ _ _ => true
  | .talloc _ _ => true
  | .tfree _ => true
  | .tld _ _ _ _ => true
  | .tst _ _ => true
  | .tzero _ _ => true
  | .cload _ _ _ _ => true
  | .cpass _ _ _ _ => true
  | .cdrain _ _ _ _ => true
  | .czero _ _ _ => true
  | .canvasxLoad _ _ _ _ => true
  | .canvasxPass _ _ _ _ => true
  | .cpyIn _ _ _ _ => true
  | .cpyOut _ _ _ _ => true
  | .gath _ _ _ _ => true
  | .scat _ _ _ _ => true
  | .coll _ _ _ _ => true
  | .weir _ _ _ _ => true
  | .barm _ _ => true
  | .barrClaim _ _ _ => true
  | .bwait _ => true
  | .engxDmard _ _ _ => true
  | .engxDmawr _ _ _ => true
  | .engxMbox _ => true
  | .engxKwait => true
  | .engxGcmkey _ => true
  | .engxGcmenc _ _ _ => true
  | .engxGcmdec _ _ _ => true
  | .tlbinv _ _ => true
  | .genscrub _ _ => true
  | .qown _ _ _ => true
  | .halt _ _ => true
  | .stoprec _ _ => true
  | .cctl _ _ => true
  | .pset _ _ => true
  | .creationMessage _ => true
  | .contextScrubComplete _ _ => true
  | .contextFreeNotice _ _ => true
  | .resendTimeout _ _ => true
  | .refusalRelease _ _ => true
  | .refusedResend _ _ => true
  | .migrQuery _ _ => true
  | .migrQueryAnswer _ => true
  | .migrationImage _ => true
  | .targetAnswer _ _ => true
  | .deposit _ => true
  | .coreSelect _ _ => true
  | .clockAnnouncement _ _ _ _ => true
  | .nullEvent _ _ _ _ => true
  | .stampedEvent _ => true
  | .eventStart _ _ => true
  | .nullRound _ _ => true
  | .easelGrant _ => true
  | .easelSubunitComplete _ _ => true
  | .scoreboardEntryComplete _ _ => true
  | .tileScrubSweepComplete _ => true
  | .genscrubComplete _ => true
  | .collectiveMatch _ _ => true
  | .promiseDue _ => true
  | .monitorFire _ => true
  | .parkDeadline _ => true
  | .regionBufferDrain _ => true
  | .walkMonitorFire _ => true
  | .pageRequestResponse => true
  | .granq0Read => true
  | .granrespWalkAgain => true
  | .granrespRefuse => true
  | .atsInvalidation => true
  | .engineStop _ => true
  | .containmentWalk _ => true
  | .haltctlHoldSet _ => true
  | .haltctlHoldClear _ => true
  | .chlaWrite _ _ _ _ => true
  | .preemptionDeadline _ => true
  | .saveComplete _ => true
  | .restore _ => true
  | .debugResume _ => true
  | .kick _ _ => true
  | .cancelGraph _ => true
  | .cancelPhase _ => true
  | .cancelJob _ => true
  | .packetRead _ => true
  | .pktNop => true
  | .pktDispatch => true
  | .pktDelta => true
  | .pktIbcall => true
  | .pktPred => true
  | .pktLoop => true
  | .pktFfence => true
  | .pktSignal => true
  | .pktWaitmem => true
  | .levelGraph => true
  | .levelPhase => true
  | .levelJob => true
  | .levelCancel => true
  | .launchDistribution _ => true
  | .launchComplete _ => true
  | .slotSelection => true
  | .ageingInterval _ => true
  | .quantumExpiry _ => true
  | .sctlMap _ _ => true
  | .sctlUnmap _ => true
  | .unmapComplete _ => true
  | .sctlReset _ => true
  | .queueResetComplete _ => true
  | .biascmdGo _ _ => true
  | .biasFlipComplete _ _ => true
  | .hostCxlMemRequest => true
  | .hostSnoop => true
  | .lockInterface => true
  | .startInterface => true
  | .stopInterface => true
  | .releaseSequenceComplete _ => true
  | .ideIntegrityFailure => true
  | .getVersion => true
  | .getCapabilities => true
  | .negotiateAlgorithms => true
  | .getDigests => true
  | .getCertificate => true
  | .challenge => true
  | .getMeasurements => true
  | .keyExchange => true
  | .finish => true
  | .heartbeat => true
  | .keyUpdate => true
  | .endSession => true
  | .setCertificate => true
  | .certRewriteTimeout => true
  | .setCopyKey => true
  | .setDebugConsent => true
  | .stageUpdate => true
  | .activationRequest => true
  | .acknowledgeStaged => true
  | .liveUpdateTakeover => true
  | .standbyFailure => true
  | .coldReset => true
  | .warmReset => true
  | .linkReset => true
  | .clockStep => true
  | .drowsyEntry _ => true
  | .drowsyWake _ => true
  | .evlogRead => true
  | .registerWrite => true
  | .longLatencyCompletion _ => true
  | .cacheMaintenanceComplete _ => true
  | .commandComplexFailure => true
  | .ideKeyManagement => true

end Sys2Proof
end

