-- ==== Sys2Proof/Decode.lean ====
section
/-! DEFINITION. Decoding and encoding of the Tarura T2 words (spec/06). The decoder follows R154 to R177 on the
value of a word; a refusal carries its reason, all of which the machine raises as ILLEGAL (R177). After it stands
the encoder, written from the match values and field places of spec/opcode_table.json. -/

namespace Sys2Proof

/-- Why a word is no instruction (R177, steps 1, 3 and 4). -/
inductive Reject where
  | zeroHalfword
  | reservedMajor
  | badSelector
  | badField
  deriving DecidableEq, Repr

/-- Bits [lo + n - 1 : lo] of a word. -/
def fld (w lo n : Nat) : Nat := w / 2 ^ lo % 2 ^ n

/-- A source field value (R44). -/
def srcOf (f : Nat) : Src := if f < 16 then .n (Fin.ofNat 16 f) else .q (Fin.ofNat 16 (f - 16))

/-- A destination field value; 17 to 30 are no destination (R44). -/
def dstOf (f : Nat) : Option Dst :=
  if f < 16 then some (.n (Fin.ofNat 16 f)) else if f = 16 then some .push else if f = 31 then some .drop else none

/-- A cond field value (R163). -/
def condOf : Nat → Option Cond
  | 0 => some .eq | 1 => some .ne | 2 => some .lt | 3 => some .ge | 4 => some .ltu | 5 => some .geu | _ => none

/-- A sz field value of a load (R163). -/
def ldSizeOf : Nat → Option LdSize
  | 0 => some .s8 | 1 => some .z8 | 2 => some .s16 | 3 => some .z16 | 4 => some .s32 | 5 => some .z32
  | 6 => some .d64 | _ => none

/-- A sz field value of a store (R163). -/
def stSizeOf : Nat → Option StSize
  | 0 => some .b1 | 2 => some .b2 | 4 => some .b4 | 6 => some .b8 | _ => none

/-- The kind of a fence: b [18:17] (R161). -/
def fenceOf : Nat → Option FenceKind
  | 1 => some .acq | 2 => some .rel | 3 => some .full | _ => none

/-- A ty field value of W32 (R168). -/
def laneTyOf : Nat → Option LaneTy
  | 0 => some .f32 | 1 => some .bf16 | 2 => some .s32 | 3 => some .s16 | 4 => some .z32 | 5 => some .z16
  | 6 => some .s8 | 7 => some .z8 | 8 => some .f16 | 9 => some .e4m3 | 10 => some .e5m2 | 11 => some .e2m1
  | 12 => some .s4 | 13 => some .bs12 | _ => none

/-- A ty field value of L16 (R157). -/
def l16TyOf : Nat → Option L16Ty
  | 0 => some .f32 | 1 => some .bf16 | 2 => some .s32 | 3 => some .s16 | _ => none

/-- The alu forms by fn (R183). -/
def aluOf : Nat → Option (Dst → Src → Src → Instr)
  | 0 => some .aluAdd
  | 1 => some .aluSub
  | 2 => some .aluAnd
  | 3 => some .aluOr
  | 4 => some .aluXor
  | 5 => some .aluSll
  | 6 => some .aluSrl
  | 7 => some .aluSra
  | 8 => some .aluSlt
  | 9 => some .aluSltu
  | 10 => some .aluMin
  | 11 => some .aluMax
  | 12 => some .aluMinu
  | 13 => some .aluMaxu
  | _ => none

/-- The mul forms by fn (R184). -/
def mulOf : Nat → Option (Dst → Src → Src → Fin 16 → Instr)
  | 0 => some .mulMul
  | 1 => some .mulMulh
  | 2 => some .mulMulhu
  | 3 => some .mulDiv
  | 4 => some .mulDivu
  | 5 => some .mulRem
  | 6 => some .mulRemu
  | _ => none

/-- addi, andi, ori, xori by major (R186). -/
def immOf : Nat → Option (Dst → Src → BitVec 15 → Instr)
  | 2 => some .addi
  | 3 => some .andi
  | 4 => some .ori
  | 5 => some .xori
  | _ => none

/-- The shi forms by op (R187). -/
def shiOf : Nat → Option (Dst → Src → BitVec 6 → Instr)
  | 0 => some .shiSll
  | 1 => some .shiSrl
  | 2 => some .shiSra
  | _ => none

/-- The two-source fpu forms by fn (R191). -/
def fpuOf : Nat → Option (Dst → Src → Src → Instr)
  | 0 => some .fpuAdd
  | 1 => some .fpuSub
  | 2 => some .fpuMul
  | 3 => some .fpuMin
  | 4 => some .fpuMax
  | 7 => some .fpuEq
  | 8 => some .fpuLt
  | 9 => some .fpuLe
  | _ => none

/-- The amo forms but cas by op (R215). -/
def amoOf : Nat → Option (Bool → Bool → Bool → Dst → Fin 16 → Src → Fin 16 → Instr)
  | 0 => some .amoAdd
  | 1 => some .amoAnd
  | 2 => some .amoOr
  | 3 => some .amoXor
  | 4 => some .amoMin
  | 5 => some .amoMax
  | 6 => some .amoMinu
  | 7 => some .amoMaxu
  | 8 => some .amoSwap
  | _ => none

/-- The two-source wlane forms by fn (R250). -/
def w3Of : Nat → Option (LaneTy → Fin 8 → Fin 8 → Fin 8 → Fin 8 → Instr)
  | 0 => some .wAdd
  | 1 => some .wSub
  | 2 => some .wRsub
  | 3 => some .wMul
  | 4 => some .wMac
  | 5 => some .wMin
  | 6 => some .wMax
  | 7 => some .wAnd
  | 8 => some .wOr
  | 9 => some .wXor
  | 10 => some .wAndn
  | 11 => some .wShl
  | 12 => some .wShr
  | _ => none

/-- The unary wlane forms by fn (R250). -/
def w2Of : Nat → Option (LaneTy → Fin 8 → Fin 8 → Fin 8 → Instr)
  | 13 => some .wMov
  | 14 => some .wAbs
  | 15 => some .wNeg
  | _ => none

/-- The L16 forms by op (R158). -/
def l16Of : Nat → Option (L16Ty → Fin 8 → Fin 8 → Fin 8 → Instr)
  | 0 => some .l16Add
  | 1 => some .l16Sub
  | 2 => some .l16Rsub
  | 3 => some .l16Mul
  | 4 => some .l16Mac
  | 5 => some .l16Min
  | 6 => some .l16Max
  | 7 => some .l16And
  | 8 => some .l16Or
  | 9 => some .l16Xor
  | 10 => some .l16Andn
  | 11 => some .l16Shl
  | 12 => some .l16Shr
  | 13 => some .l16Mov
  | 14 => some .l16Abs
  | 15 => some .l16Neg
  | _ => none

/-- The one-source wmath forms by fn (R253 to R255). -/
def wmathOf : Nat → Option (LaneTy → Fin 8 → Fin 8 → Fin 8 → Instr)
  | 0 => some .wmathExp2
  | 1 => some .wmathLog2
  | 2 => some .wmathRecip
  | 3 => some .wmathRsqrt
  | 4 => some .wmathTanh
  | 5 => some .wmathRsum
  | 6 => some .wmathRmax
  | 7 => some .wmathScan
  | _ => none

/-- The mask compares by fn (R257). -/
def wcmpOf : Nat → Option (LaneTy → Fin 8 → Fin 8 → Fin 8 → Fin 8 → Instr)
  | 0 => some .wmaskEq
  | 1 => some .wmaskLt
  | 2 => some .wmaskLe
  | _ => none

/-- The mask combinations by fn (R257). -/
def wboolOf : Nat → Option (Fin 8 → Fin 8 → Fin 8 → Fin 8 → Instr)
  | 3 => some .wmaskAnd
  | 4 => some .wmaskOr
  | 5 => some .wmaskXor
  | _ => none

/-- The wcvt forms by fn (R262). -/
def wcvtOf : Nat → Option (LaneTy → Fin 8 → Fin 8 → Fin 8 → Fin 8 → Instr)
  | 0 => some .wcvtUp
  | 1 => some .wcvtDown
  | 2 => some .wcvtDownsat
  | 3 => some .wcvtToint
  | 4 => some .wcvtFromint
  | _ => none

/-- The wsamp forms by fn, with the ty code each takes (R263 to R265). -/
def wsampOf : Nat → Option (Nat × (Fin 8 → Fin 8 → Fin 8 → Fin 8 → Instr))
  | 0 => some (0, .wsampTopk)
  | 1 => some (4, .wsampCbg)
  | 2 => some (0, .wsampDraw)
  | 3 => some (0, .wsampPick)
  | _ => none

/-- The two-tile canvas forms by fn (R275 to R283). -/
def canvasOf : Nat → Option (Src → Fin 64 → Fin 64 → Fin 16 → Instr)
  | 0 => some .cload
  | 1 => some .cpass
  | 2 => some .cdrain
  | _ => none

/-- The canvasx forms by fn (R175). -/
def canvasxOf : Nat → Option (Src → Fin 64 → Fin 64 → Fin 16 → Instr)
  | 0 => some .canvasxLoad
  | 1 => some .canvasxPass
  | _ => none

/-- The eng forms by fn (R284). -/
def engOf : Nat → Option (Dst → Src → Fin 64 → Fin 16 → Instr)
  | 0 => some .cpyIn
  | 1 => some .cpyOut
  | 2 => some .gath
  | 3 => some .scat
  | 4 => some .coll
  | 5 => some .weir
  | _ => none

/-- The parts of a field check: a needed destination, or a field that shall be 0. -/
def needDst (w : Nat) (f : Dst → Except Reject Instr) : Except Reject Instr :=
  match dstOf (fld w 7 5) with
  | some d => f d
  | none => .error .badField

/-- Refuses unless `p` holds. -/
def need (p : Bool) (r : Reject) (x : Except Reject Instr) : Except Reject Instr := if p then x else .error r

/-- Takes the value a selecting field names, or refuses. -/
def pick {α : Type} (o : Option α) (r : Reject) (f : α → Except Reject Instr) : Except Reject Instr :=
  match o with
  | some x => f x
  | none => .error r

/-- The source in bits [16:12] (R160). -/
def fA (w : Nat) : Src := srcOf (fld w 12 5)
/-- The source in bits [21:17] (R160). -/
def fB (w : Nat) : Src := srcOf (fld w 17 5)
/-- The lookahead field (R160). -/
def fLa (w : Nat) : Fin 16 := Fin.ofNat 16 (fld w 28 4)
/-- A 3-bit register field at `lo` (R160). -/
def f8 (w lo : Nat) : Fin 8 := Fin.ofNat 8 (fld w lo 3)
/-- A handle field at `lo` (R160). -/
def f64 (w lo : Nat) : Fin 64 := Fin.ofNat 64 (fld w lo 6)

/-- The RR majors with a constant la of 0 whose fn, b, a and dst fields are checked here (R164). -/
def decAlu (w : Nat) : Except Reject Instr :=
  pick (aluOf (fld w 22 6)) .badSelector fun f => need (fld w 28 4 == 0) .badField <|
    needDst w fun d => .ok (f d (fA w) (fB w))

def decMul (w : Nat) : Except Reject Instr :=
  pick (mulOf (fld w 22 6)) .badSelector fun f => needDst w fun d => .ok (f d (fA w) (fB w) (fLa w))

def decImm (major w : Nat) : Except Reject Instr :=
  pick (immOf major) .badSelector fun f => needDst w fun d => .ok (f d (fA w) (BitVec.ofNat 15 (fld w 17 15)))

def decShi (w : Nat) : Except Reject Instr :=
  pick (shiOf (fld w 23 2)) .badSelector fun f => need (fld w 25 7 == 0) .badSelector <|
    needDst w fun d => .ok (f d (fA w) (BitVec.ofNat 6 (fld w 17 6)))

def decCmpi (w : Nat) : Except Reject Instr :=
  pick (condOf (fld w 17 3)) .badSelector fun c => needDst w fun d => .ok (.cmpi c d (fA w) (BitVec.ofNat 12 (fld w 20 12)))

def decUi (f : Dst → BitVec 20 → Instr) (w : Nat) : Except Reject Instr :=
  needDst w fun d => .ok (f d (BitVec.ofNat 20 (fld w 12 20)))

/-- The bits major: op 3 to 7 and pos + len above 64 are refused, and bits.ins reads its destination (R162, R190). -/
def decBits (w : Nat) : Except Reject Instr :=
  let pos := BitVec.ofNat 6 (fld w 17 6)
  let len1 := BitVec.ofNat 6 (fld w 23 6)
  need (decide (fld w 17 6 + fld w 23 6 + 1 ≤ 64)) .badSelector <|
  match fld w 29 3 with
  | 0 => needDst w fun d => .ok (.bitsExt d (fA w) pos len1)
  | 1 => needDst w fun d => .ok (.bitsExtu d (fA w) pos len1)
  | 2 => need (decide (fld w 7 5 < 16)) .badField (.ok (.bitsIns (Fin.ofNat 16 (fld w 7 5)) (fA w) pos len1))
  | _ => .error .badSelector

def decFpu (w : Nat) : Except Reject Instr :=
  need (decide (fld w 22 6 < 10)) .badSelector <| need (fld w 28 4 == 0) .badField <|
  match fld w 22 6 with
  | 5 => need (fld w 17 5 == 0) .badField <| needDst w fun d => .ok (.fpuCvts d (fA w))
  | 6 => need (fld w 17 5 == 0) .badField <| needDst w fun d => .ok (.fpuCvtf d (fA w))
  | k => pick (fpuOf k) .badSelector fun f => needDst w fun d => .ok (f d (fA w) (fB w))

def decFpl (w : Nat) : Except Reject Instr :=
  match fld w 22 6 with
  | 0 => needDst w fun d => .ok (.fplDiv d (fA w) (fB w) (fLa w))
  | 1 => need (fld w 17 5 == 0) .badField <| needDst w fun d => .ok (.fplSqrt d (fA w) (fLa w))
  | 2 => need (decide (fld w 7 5 < 16)) .badField (.ok (.fplFma (Fin.ofNat 16 (fld w 7 5)) (fA w) (fB w) (fLa w)))
  | _ => .error .badSelector

def decBr (w : Nat) : Except Reject Instr :=
  pick (condOf (fld w 17 3)) .badSelector fun c =>
    .ok (.br c (srcOf (fld w 7 5)) (fA w) (BitVec.ofNat 12 (fld w 20 12)))

def decJal (w : Nat) : Except Reject Instr :=
  match fld w 7 5 with
  | 14 => .ok (.jalCall (BitVec.ofNat 20 (fld w 12 20)))
  | 31 => .ok (.jalJump (BitVec.ofNat 20 (fld w 12 20)))
  | _ => .error .badField

def decJr (w : Nat) : Except Reject Instr :=
  need (decide (fld w 22 6 < 3)) .badSelector <|
  need (fld w 28 4 == 0 && fld w 17 5 == 0 && fld w 7 5 == 0) .badField <|
  match fld w 22 6 with
  | 0 => .ok (.jrJump (fA w))
  | 1 => .ok (.jrCall (fA w))
  | _ => need (fld w 12 5 == 0) .badField (.ok .jrRet)

def decLoop (w : Nat) : Except Reject Instr :=
  need (decide (2 ≤ fld w 17 15)) .badSelector <|
  need (fld w 8 4 == 0 && decide (fld w 12 5 < 16)) .badField
    (.ok (.loopSet (Fin.ofNat 2 (fld w 7 1)) (Fin.ofNat 16 (fld w 12 5)) (BitVec.ofNat 15 (fld w 17 15))))

def decSys (w : Nat) : Except Reject Instr :=
  let num := BitVec.ofNat 12 (fld w 17 12)
  match fld w 29 3 with
  | 0 => need (fld w 12 5 == 0) .badField <| needDst w fun d => .ok (.gets d num)
  | 1 => need (fld w 7 5 == 0) .badField (.ok (.sets (fA w) num))
  | 2 => need (fld w 7 5 == 0) .badField (.ok (.trap (fA w) num))
  | 3 => need (fld w 7 22 == 0) .badField (.ok .rte)
  | 4 => need (fld w 7 5 == 0) .badField (.ok (.brk (fA w) num))
  | 5 => need (fld w 7 5 == 0) .badField (.ok (.sysc (fA w) num))
  | _ => .error .badSelector

def decYield (w : Nat) : Except Reject Instr :=
  need (fld w 29 3 == 0) .badSelector <| need (fld w 7 10 == 0) .badField
    (.ok (.yieldPt (BitVec.ofNat 12 (fld w 17 12))))

def decLd (w : Nat) : Except Reject Instr :=
  pick (ldSizeOf (fld w 17 3)) .badSelector fun sz => needDst w fun d =>
    .ok (.ld sz (fld w 20 1 == 1) d (fA w) (BitVec.ofNat 7 (fld w 21 7)) (fLa w))

def decSt (w : Nat) : Except Reject Instr :=
  pick (stSizeOf (fld w 17 3)) .badSelector fun sz => need (fld w 28 4 == 0) .badField
    (.ok (.st sz (fld w 20 1 == 1) (srcOf (fld w 7 5)) (fA w) (BitVec.ofNat 7 (fld w 21 7))))

def decAmo (w : Nat) : Except Reject Instr :=
  need (decide (fld w 22 4 < 10)) .badSelector <|
  match fld w 22 4 with
  | 9 => need (decide (fld w 7 5 < 16)) .badField
      (.ok (.amoCas (fld w 16 1 == 1) (fld w 27 1 == 1) (fld w 26 1 == 1) (Fin.ofNat 16 (fld w 7 5))
        (Fin.ofNat 16 (fld w 12 4)) (fB w) (fLa w)))
  | k => pick (amoOf k) .badSelector fun f => needDst w fun d =>
      .ok (f (fld w 16 1 == 1) (fld w 27 1 == 1) (fld w 26 1 == 1) d (Fin.ofNat 16 (fld w 12 4)) (fB w) (fLa w))

def decWait (w : Nat) : Except Reject Instr :=
  need (decide (fld w 22 6 < 3)) .badSelector <| need (fld w 28 4 == 0) .badField <|
  match fld w 22 6 with
  | 0 => needDst w fun d => .ok (.waita d (fA w) (fB w))
  | 1 => need (fld w 17 5 == 0) .badField <| needDst w fun d => .ok (.waitp d (fA w))
  | _ => needDst w fun d => .ok (.park d (fA w) (fB w))

def decRegion (w : Nat) : Except Reject Instr :=
  need (decide (fld w 22 6 < 2)) .badSelector <| need (fld w 28 4 == 0 && fld w 7 15 == 0) .badField <|
  match fld w 22 6 with
  | 0 => .ok .region
  | _ => .ok .commit

def decCache (w : Nat) : Except Reject Instr :=
  need (decide (fld w 22 6 < 4)) .badSelector <|
  match fld w 22 6 with
  | 0 => need (fld w 28 4 == 0 && fld w 7 5 == 0) .badField (.ok (.flushr (fA w) (fB w)))
  | 1 => need (fld w 28 4 == 0 && fld w 7 5 == 0) .badField (.ok (.invr (fA w) (fB w)))
  | 2 => need (fld w 28 4 == 0 && fld w 7 5 == 0 && fld w 17 5 == 0) .badField (.ok (.pref (fA w)))
  | _ => need (fld w 19 3 == 0) .badSelector <| pick (fenceOf (fld w 17 2)) .badSelector fun k =>
      need (fld w 28 4 == 0 && fld w 7 10 == 0) .badField (.ok (.fence k))

def decMsg (w : Nat) : Except Reject Instr :=
  if fld w 26 2 == 1 then
    need (fld w 28 4 == 0 && fld w 7 5 == 0) .badField (.ok (.send (Fin.ofNat 16 (fld w 22 4)) (fA w) (fB w)))
  else
    need (decide (fld w 22 6 < 5)) .badSelector <| need (fld w 28 4 == 0) .badField <|
    match fld w 22 6 with
    | 0 => need (fld w 7 5 == 0) .badField (.ok (.spark (fA w) (fB w)))
    | 1 => needDst w fun d => .ok (.frame d (fA w) (fB w))
    | 2 => need (fld w 17 5 == 0) .badField <| needDst w fun d => .ok (.migrAddr d (fA w))
    | 3 => need (fld w 17 5 == 0) .badField <| needDst w fun d => .ok (.migrTile d (fA w))
    | _ => need (fld w 7 15 == 0) .badField (.ok .exit)

def decLtm (w : Nat) : Except Reject Instr :=
  need (decide (fld w 22 6 < 4)) .badSelector <| need (fld w 28 4 == 0) .badField <|
  match fld w 22 6 with
  | 0 => need (fld w 12 10 == 0) .badField <| needDst w fun d => .ok (.vtget d)
  | 1 => need (fld w 17 5 == 0) .badField <| needDst w fun d => .ok (.vtset d (fA w))
  | 2 => need (fld w 17 5 == 0 && fld w 7 5 == 0) .badField (.ok (.announce (fA w)))
  | _ => need (fld w 7 5 == 0) .badField (.ok (.sendt (fA w) (fB w)))

/-- wlane: mac and the two-source forms, the unary forms whose wa and wc shall be 0, fma and sel (R250). -/
def decW (w : Nat) : Except Reject Instr :=
  need (decide (fld w 23 6 < 18)) .badSelector <|
  pick (laneTyOf (fld w 19 4)) .badSelector fun ty =>
  let m := f8 w 16; let b := f8 w 13; let a := f8 w 10; let d := f8 w 7
  match fld w 23 6 with
  | 16 => need ty.isArith .badSelector (.ok (.wFma ty m d a b (f8 w 29)))
  | 17 => need ty.isArith .badSelector <| need (fld w 29 3 == 0) .badField (.ok (.wSel ty m d a b))
  | k =>
    match w2Of k with
    | some f => need (if k == 13 then ty.isArith else ty.isSigned) .badSelector <|
        need (fld w 29 3 == 0 && fld w 10 3 == 0) .badField (.ok (f ty m d b))
    | none => pick (w3Of k) .badSelector fun f =>
        need (if k == 11 || k == 12 then ty.isInt else ty.isArith) .badSelector <|
        need (fld w 29 3 == 0) .badField (.ok (f ty m d a b))

def decWmath (w : Nat) : Except Reject Instr :=
  need (decide (fld w 23 6 < 9)) .badSelector <|
  pick (laneTyOf (fld w 19 4)) .badSelector fun ty =>
  let m := f8 w 16; let b := f8 w 13; let d := f8 w 7
  match fld w 23 6 with
  | 8 => need ty.isWord .badSelector <| need (fld w 29 3 == 0) .badField (.ok (.wmathPerm ty m d (f8 w 10) b))
  | k => pick (wmathOf k) .badSelector fun f =>
      need (if k < 5 then ty == .f32 || ty == .bf16 else ty.isArith) .badSelector <|
      need (fld w 29 3 == 0 && fld w 10 3 == 0) .badField (.ok (f ty m d b))

def decWmask (w : Nat) : Except Reject Instr :=
  let m := f8 w 16; let b := f8 w 13; let a := f8 w 10; let d := f8 w 7
  match wcmpOf (fld w 23 6) with
  | some f => pick (laneTyOf (fld w 19 4)) .badSelector fun ty =>
      need ty.isWord .badSelector <| need (fld w 29 3 == 0) .badField (.ok (f ty m d a b))
  | none => pick (wboolOf (fld w 23 6)) .badSelector fun f =>
      need (fld w 29 3 == 0 && fld w 19 4 == 0) .badField (.ok (f m d a b))

def decWmove (w : Nat) : Except Reject Instr :=
  let m := f8 w 25; let b := f8 w 17
  need (decide (fld w 22 3 < 5) && fld w 20 2 == 0) .badSelector <| need (fld w 28 4 == 0) .badField <|
  match fld w 22 3 with
  | 0 => need (fld w 7 5 == 0) .badField (.ok (.wmoveBcast m (fA w) b))
  | 1 => need (fld w 25 3 == 0) .badField <| needDst w fun d => .ok (.wmoveExt d (fA w) b)
  | 2 => need (fld w 7 5 == 0) .badField (.ok (.wmoveTrld m (fA w) b))
  | 3 => need (fld w 7 5 == 0) .badField (.ok (.wmoveTrst m (fA w) b))
  | _ => need (fld w 17 3 == 0 && fld w 12 5 == 0) .badField <| needDst w fun d => .ok (.wmoveMpop m d)

def decWcvt (w : Nat) : Except Reject Instr :=
  pick (wcvtOf (fld w 23 6)) .badSelector fun f => pick (laneTyOf (fld w 19 4)) .badSelector fun ty =>
    need (if fld w 23 6 < 3 then ty.isNarrowFloat else ty.isCvtInt) .badSelector <|
    need (fld w 29 3 == 0) .badField (.ok (f ty (f8 w 16) (f8 w 7) (f8 w 10) (f8 w 13)))

def decWsamp (w : Nat) : Except Reject Instr :=
  pick (wsampOf (fld w 23 6)) .badSelector fun p => need (fld w 19 4 == p.1) .badSelector <|
    need (fld w 29 3 == 0) .badField (.ok (p.2 (f8 w 16) (f8 w 7) (f8 w 10) (f8 w 13)))

def decTile (w : Nat) : Except Reject Instr :=
  let nw := srcOf (fld w 7 5); let ha := f64 w 12
  need (decide (fld w 24 4 < 5)) .badSelector <|
  match fld w 24 4 with
  | 0 => need (fld w 28 4 == 0 && fld w 18 6 == 0) .badField (.ok (.talloc nw ha))
  | 1 => need (fld w 28 4 == 0 && fld w 18 6 == 0 && fld w 7 5 == 0) .badField (.ok (.tfree ha))
  | 2 => .ok (.tld nw ha (f64 w 18) (fLa w))
  | 3 => need (fld w 28 4 == 0 && fld w 18 6 == 0) .badField (.ok (.tst nw ha))
  | _ => need (fld w 28 4 == 0 && fld w 18 6 == 0) .badField (.ok (.tzero nw ha))

def decCanvas (w : Nat) : Except Reject Instr :=
  let nw := srcOf (fld w 7 5); let ha := f64 w 12
  match fld w 24 4 with
  | 3 => need (fld w 18 6 == 0) .badField (.ok (.czero nw ha (fLa w)))
  | k => pick (canvasOf k) .badSelector fun f => .ok (f nw ha (f64 w 18) (fLa w))

def decCanvasx (w : Nat) : Except Reject Instr :=
  pick (canvasxOf (fld w 24 4)) .badSelector fun f => .ok (f (srcOf (fld w 7 5)) (f64 w 12) (f64 w 18) (fLa w))

def decEng (w : Nat) : Except Reject Instr :=
  pick (engOf (fld w 23 5)) .badSelector fun f => needDst w fun d => .ok (f d (fA w) (f64 w 17) (fLa w))

def decBarr (w : Nat) : Except Reject Instr :=
  let b := Fin.ofNat 16 (fld w 17 4)
  need (decide (fld w 22 6 < 3) && fld w 21 1 == 0) .badSelector <| need (fld w 28 4 == 0) .badField <|
  match fld w 22 6 with
  | 0 => need (fld w 7 5 == 0) .badField (.ok (.barm (fA w) b))
  | 1 => needDst w fun d => .ok (.barrClaim d (fA w) b)
  | _ => need (fld w 7 10 == 0) .badField (.ok (.bwait b))

def decEngx (w : Nat) : Except Reject Instr :=
  need (decide (fld w 22 6 < 7)) .badSelector <| need (fld w 28 4 == 0) .badField <|
  match fld w 22 6 with
  | 0 => needDst w fun d => .ok (.engxDmard d (fA w) (fB w))
  | 1 => needDst w fun d => .ok (.engxDmawr d (fA w) (fB w))
  | 2 => need (fld w 17 5 == 0 && fld w 7 5 == 0) .badField (.ok (.engxMbox (fA w)))
  | 3 => need (fld w 7 15 == 0) .badField (.ok .engxKwait)
  | 4 => need (fld w 17 5 == 0 && fld w 7 5 == 0) .badField (.ok (.engxGcmkey (fA w)))
  | 5 => needDst w fun d => .ok (.engxGcmenc d (fA w) (fB w))
  | _ => needDst w fun d => .ok (.engxGcmdec d (fA w) (fB w))

def decPriv (w : Nat) : Except Reject Instr :=
  need (decide (fld w 22 6 < 7)) .badSelector <| need (fld w 28 4 == 0) .badField <|
  match fld w 22 6 with
  | 0 => need (fld w 7 5 == 0) .badField (.ok (.tlbinv (fA w) (fB w)))
  | 1 => need (fld w 17 5 == 0) .badField <| needDst w fun d => .ok (.genscrub d (fA w))
  | 2 => needDst w fun d => .ok (.qown d (fA w) (fB w))
  | 3 => need (fld w 7 5 == 0) .badField (.ok (.halt (fA w) (fB w)))
  | 4 => need (fld w 17 5 == 0) .badField <| needDst w fun d => .ok (.stoprec d (fA w))
  | 5 => need (fld w 7 5 == 0) .badField (.ok (.cctl (fA w) (fB w)))
  | _ => need (fld w 7 5 == 0) .badField (.ok (.pset (fA w) (fB w)))

/-- The 16-bit lane word (R157 to R159). -/
def decode16 (w : Nat) : Except Reject Instr :=
  need (!(w % 65536 == 0)) .zeroHalfword <|
  pick (l16Of (fld w 1 4)) .badSelector fun f => pick (l16TyOf (fld w 11 2)) .badSelector fun ty =>
    need (if fld w 1 4 == 11 || fld w 1 4 == 12 then ty.isInt else true) .badSelector
      (.ok (f ty (f8 w 13) (f8 w 5) (f8 w 8)))

/-- The 32-bit word by its major opcode, bits [6:1] (R160, R175). -/
def decode32 (w : Nat) : Except Reject Instr :=
  match fld w 1 6 with
  | 0x00 => decAlu w
  | 0x01 => decMul w
  | 0x02 => decImm 2 w
  | 0x03 => decImm 3 w
  | 0x04 => decImm 4 w
  | 0x05 => decImm 5 w
  | 0x06 => decShi w
  | 0x07 => decCmpi w
  | 0x08 => decUi .lui w
  | 0x09 => decUi .auipc w
  | 0x0A => decBits w
  | 0x0B => decFpu w
  | 0x0C => decFpl w
  | 0x10 => decBr w
  | 0x11 => decJal w
  | 0x12 => decJr w
  | 0x13 => decLoop w
  | 0x14 => decSys w
  | 0x15 => decYield w
  | 0x18 => decLd w
  | 0x19 => decSt w
  | 0x1A => decAmo w
  | 0x1B => decWait w
  | 0x1C => decRegion w
  | 0x1D => decCache w
  | 0x1E => decMsg w
  | 0x1F => decLtm w
  | 0x20 => decW w
  | 0x21 => decWmath w
  | 0x22 => decWmask w
  | 0x23 => decWmove w
  | 0x24 => decWcvt w
  | 0x25 => decWsamp w
  | 0x28 => decTile w
  | 0x29 => decCanvas w
  | 0x2A => decEng w
  | 0x2B => decBarr w
  | 0x30 => decEngx w
  | 0x31 => decPriv w
  | 0x32 => decCanvasx w
  | _ => .error .reservedMajor

/-- Bit 0 of the first halfword gives the length (R154). -/
def wordBytes (w : Nat) : Nat := if w % 2 = 0 then 2 else 4

/-- Decodes the word at the head of the fetched bits: 16 bits when bit 0 is 0, else 32 (R154). -/
def decodeWord (w : Nat) : Except Reject Instr :=
  if w % 2 = 0 then decode16 (w % 65536) else decode32 (w % 4294967296)

/-- The value of a little-endian run of bytes (R2). -/
def leNat : List Byte → Nat
  | [] => 0
  | b :: bs => b.toNat + 256 * leNat bs

/-- The little-endian bytes of a value (R2). -/
def leBytes : Nat → Nat → List Byte
  | 0, _ => []
  | k + 1, v => BitVec.ofNat 8 v :: leBytes k (v / 256)

/-- Decodes a run of bytes: the instruction and the bytes after it, or the reason it is none. A run shorter than the
word is refused as a zero halfword would be. -/
def decode (bs : List Byte) : Except Reject (Instr × List Byte) :=
  let v := leNat (bs.take 4)
  if bs.length < wordBytes v then .error .zeroHalfword
  else match decodeWord v with
    | .ok i => .ok (i, bs.drop (wordBytes v))
    | .error r => .error r

/-- What the decoder reads from an instruction whose bits, as spec/opcode_table.json numbers them, are `w`: the
word is laid out little-endian, the first halfword lowest, and zeros stand above `nbits`. -/
def decodeTableWord (nbits w : Nat) : Option Instr :=
  match decode (leBytes 4 (w % 2 ^ nbits)) with
  | .ok (i, _) => some i
  | .error _ => none

/-- The 5-bit code of a source field (R44). -/
def Src.code : Src → Nat
  | .n i => i.val
  | .q i => i.val + 16

/-- The 5-bit code of a destination field (R44). -/
def Dst.code : Dst → Nat
  | .n i => i.val
  | .push => 16
  | .drop => 31

/-- The cond code (R163). -/
def Cond.code : Cond → Nat
  | .eq => 0 | .ne => 1 | .lt => 2 | .ge => 3 | .ltu => 4 | .geu => 5

/-- The sz code of a load (R163). -/
def LdSize.code : LdSize → Nat
  | .s8 => 0 | .z8 => 1 | .s16 => 2 | .z16 => 3 | .s32 => 4 | .z32 => 5 | .d64 => 6

/-- The sz code of a store (R163). -/
def StSize.code : StSize → Nat
  | .b1 => 0 | .b2 => 2 | .b4 => 4 | .b8 => 6

/-- The fence kind code (R161). -/
def FenceKind.code : FenceKind → Nat
  | .acq => 1 | .rel => 2 | .full => 3

/-- The lane type code (R168). -/
def LaneTy.code : LaneTy → Nat
  | .f32 => 0 | .bf16 => 1 | .s32 => 2 | .s16 => 3 | .z32 => 4 | .z16 => 5 | .s8 => 6 | .z8 => 7
  | .f16 => 8 | .e4m3 => 9 | .e5m2 => 10 | .e2m1 => 11 | .s4 => 12 | .bs12 => 13

/-- The L16 type code (R157). -/
def L16Ty.code : L16Ty → Nat
  | .f32 => 0 | .bf16 => 1 | .s32 => 2 | .s16 => 3

/-- The length in bits and the value of an instruction's word: the match value of its row plus each field at its
place. An event has no word. -/
def encode : Instr → Option (Nat × Nat)
  | .aluAdd d a b => some (32, 1 + d.code * 128 + a.code * 4096 + b.code * 131072)
  | .aluSub d a b => some (32, 4194305 + d.code * 128 + a.code * 4096 + b.code * 131072)
  | .aluAnd d a b => some (32, 8388609 + d.code * 128 + a.code * 4096 + b.code * 131072)
  | .aluOr d a b => some (32, 12582913 + d.code * 128 + a.code * 4096 + b.code * 131072)
  | .aluXor d a b => some (32, 16777217 + d.code * 128 + a.code * 4096 + b.code * 131072)
  | .aluSll d a b => some (32, 20971521 + d.code * 128 + a.code * 4096 + b.code * 131072)
  | .aluSrl d a b => some (32, 25165825 + d.code * 128 + a.code * 4096 + b.code * 131072)
  | .aluSra d a b => some (32, 29360129 + d.code * 128 + a.code * 4096 + b.code * 131072)
  | .aluSlt d a b => some (32, 33554433 + d.code * 128 + a.code * 4096 + b.code * 131072)
  | .aluSltu d a b => some (32, 37748737 + d.code * 128 + a.code * 4096 + b.code * 131072)
  | .aluMin d a b => some (32, 41943041 + d.code * 128 + a.code * 4096 + b.code * 131072)
  | .aluMax d a b => some (32, 46137345 + d.code * 128 + a.code * 4096 + b.code * 131072)
  | .aluMinu d a b => some (32, 50331649 + d.code * 128 + a.code * 4096 + b.code * 131072)
  | .aluMaxu d a b => some (32, 54525953 + d.code * 128 + a.code * 4096 + b.code * 131072)
  | .mulMul d a b la => some (32, 3 + d.code * 128 + a.code * 4096 + b.code * 131072 + la.val * 268435456)
  | .mulMulh d a b la => some (32, 4194307 + d.code * 128 + a.code * 4096 + b.code * 131072 + la.val * 268435456)
  | .mulMulhu d a b la => some (32, 8388611 + d.code * 128 + a.code * 4096 + b.code * 131072 + la.val * 268435456)
  | .mulDiv d a b la => some (32, 12582915 + d.code * 128 + a.code * 4096 + b.code * 131072 + la.val * 268435456)
  | .mulDivu d a b la => some (32, 16777219 + d.code * 128 + a.code * 4096 + b.code * 131072 + la.val * 268435456)
  | .mulRem d a b la => some (32, 20971523 + d.code * 128 + a.code * 4096 + b.code * 131072 + la.val * 268435456)
  | .mulRemu d a b la => some (32, 25165827 + d.code * 128 + a.code * 4096 + b.code * 131072 + la.val * 268435456)
  | .addi d a imm => some (32, 5 + d.code * 128 + a.code * 4096 + imm.toNat * 131072)
  | .andi d a imm => some (32, 7 + d.code * 128 + a.code * 4096 + imm.toNat * 131072)
  | .ori d a imm => some (32, 9 + d.code * 128 + a.code * 4096 + imm.toNat * 131072)
  | .xori d a imm => some (32, 11 + d.code * 128 + a.code * 4096 + imm.toNat * 131072)
  | .shiSll d a count => some (32, 13 + d.code * 128 + a.code * 4096 + count.toNat * 131072)
  | .shiSrl d a count => some (32, 8388621 + d.code * 128 + a.code * 4096 + count.toNat * 131072)
  | .shiSra d a count => some (32, 16777229 + d.code * 128 + a.code * 4096 + count.toNat * 131072)
  | .cmpi c d a imm => some (32, 15 + c.code * 131072 + d.code * 128 + a.code * 4096 + imm.toNat * 1048576)
  | .lui d imm => some (32, 17 + d.code * 128 + imm.toNat * 4096)
  | .auipc d imm => some (32, 19 + d.code * 128 + imm.toNat * 4096)
  | .bitsExt d a pos len1 => some (32, 21 + d.code * 128 + a.code * 4096 + pos.toNat * 131072 + len1.toNat * 8388608)
  | .bitsExtu d a pos len1 => some (32, 536870933 + d.code * 128 + a.code * 4096 + pos.toNat * 131072 + len1.toNat * 8388608)
  | .bitsIns d a pos len1 => some (32, 1073741845 + d.val * 128 + a.code * 4096 + pos.toNat * 131072 + len1.toNat * 8388608)
  | .fpuAdd d a b => some (32, 23 + d.code * 128 + a.code * 4096 + b.code * 131072)
  | .fpuSub d a b => some (32, 4194327 + d.code * 128 + a.code * 4096 + b.code * 131072)
  | .fpuMul d a b => some (32, 8388631 + d.code * 128 + a.code * 4096 + b.code * 131072)
  | .fpuMin d a b => some (32, 12582935 + d.code * 128 + a.code * 4096 + b.code * 131072)
  | .fpuMax d a b => some (32, 16777239 + d.code * 128 + a.code * 4096 + b.code * 131072)
  | .fpuCvts d a => some (32, 20971543 + d.code * 128 + a.code * 4096)
  | .fpuCvtf d a => some (32, 25165847 + d.code * 128 + a.code * 4096)
  | .fpuEq d a b => some (32, 29360151 + d.code * 128 + a.code * 4096 + b.code * 131072)
  | .fpuLt d a b => some (32, 33554455 + d.code * 128 + a.code * 4096 + b.code * 131072)
  | .fpuLe d a b => some (32, 37748759 + d.code * 128 + a.code * 4096 + b.code * 131072)
  | .fplDiv d a b la => some (32, 25 + d.code * 128 + a.code * 4096 + b.code * 131072 + la.val * 268435456)
  | .fplSqrt d a la => some (32, 4194329 + d.code * 128 + a.code * 4096 + la.val * 268435456)
  | .fplFma d a b la => some (32, 8388633 + d.val * 128 + a.code * 4096 + b.code * 131072 + la.val * 268435456)
  | .br c a b off => some (32, 33 + c.code * 131072 + a.code * 128 + b.code * 4096 + off.toNat * 1048576)
  | .jalCall off => some (32, 1827 + off.toNat * 4096)
  | .jalJump off => some (32, 4003 + off.toNat * 4096)
  | .jrJump a => some (32, 37 + a.code * 4096)
  | .jrCall a => some (32, 4194341 + a.code * 4096)
  | .jrRet => some (32, 8388645)
  | .loopSet k a stop => some (32, 39 + k.val * 128 + a.val * 4096 + stop.toNat * 131072)
  | .gets d num => some (32, 41 + d.code * 128 + num.toNat * 131072)
  | .sets a num => some (32, 536870953 + a.code * 4096 + num.toNat * 131072)
  | .trap a code => some (32, 1073741865 + a.code * 4096 + code.toNat * 131072)
  | .rte => some (32, 1610612777)
  | .brk a code => some (32, 2147483689 + a.code * 4096 + code.toNat * 131072)
  | .sysc a code => some (32, 2684354601 + a.code * 4096 + code.toNat * 131072)
  | .yieldPt index => some (32, 43 + index.toNat * 131072)
  | .ld sz acq d base off la => some (32, 49 + sz.code * 131072 + acq.toNat * 1048576 + d.code * 128 + base.code * 4096 + off.toNat * 2097152 + la.val * 268435456)
  | .st sz rel data base off => some (32, 51 + sz.code * 131072 + rel.toNat * 1048576 + data.code * 128 + base.code * 4096 + off.toNat * 2097152)
  | .amoAdd wide acq rel d a b la => some (32, 53 + wide.toNat * 65536 + acq.toNat * 134217728 + rel.toNat * 67108864 + d.code * 128 + a.val * 4096 + b.code * 131072 + la.val * 268435456)
  | .amoAnd wide acq rel d a b la => some (32, 4194357 + wide.toNat * 65536 + acq.toNat * 134217728 + rel.toNat * 67108864 + d.code * 128 + a.val * 4096 + b.code * 131072 + la.val * 268435456)
  | .amoOr wide acq rel d a b la => some (32, 8388661 + wide.toNat * 65536 + acq.toNat * 134217728 + rel.toNat * 67108864 + d.code * 128 + a.val * 4096 + b.code * 131072 + la.val * 268435456)
  | .amoXor wide acq rel d a b la => some (32, 12582965 + wide.toNat * 65536 + acq.toNat * 134217728 + rel.toNat * 67108864 + d.code * 128 + a.val * 4096 + b.code * 131072 + la.val * 268435456)
  | .amoMin wide acq rel d a b la => some (32, 16777269 + wide.toNat * 65536 + acq.toNat * 134217728 + rel.toNat * 67108864 + d.code * 128 + a.val * 4096 + b.code * 131072 + la.val * 268435456)
  | .amoMax wide acq rel d a b la => some (32, 20971573 + wide.toNat * 65536 + acq.toNat * 134217728 + rel.toNat * 67108864 + d.code * 128 + a.val * 4096 + b.code * 131072 + la.val * 268435456)
  | .amoMinu wide acq rel d a b la => some (32, 25165877 + wide.toNat * 65536 + acq.toNat * 134217728 + rel.toNat * 67108864 + d.code * 128 + a.val * 4096 + b.code * 131072 + la.val * 268435456)
  | .amoMaxu wide acq rel d a b la => some (32, 29360181 + wide.toNat * 65536 + acq.toNat * 134217728 + rel.toNat * 67108864 + d.code * 128 + a.val * 4096 + b.code * 131072 + la.val * 268435456)
  | .amoSwap wide acq rel d a b la => some (32, 33554485 + wide.toNat * 65536 + acq.toNat * 134217728 + rel.toNat * 67108864 + d.code * 128 + a.val * 4096 + b.code * 131072 + la.val * 268435456)
  | .amoCas wide acq rel d a b la => some (32, 37748789 + wide.toNat * 65536 + acq.toNat * 134217728 + rel.toNat * 67108864 + d.val * 128 + a.val * 4096 + b.code * 131072 + la.val * 268435456)
  | .waita d a b => some (32, 55 + d.code * 128 + a.code * 4096 + b.code * 131072)
  | .waitp d a => some (32, 4194359 + d.code * 128 + a.code * 4096)
  | .park d a b => some (32, 8388663 + d.code * 128 + a.code * 4096 + b.code * 131072)
  | .region => some (32, 57)
  | .commit => some (32, 4194361)
  | .flushr a b => some (32, 59 + a.code * 4096 + b.code * 131072)
  | .invr a b => some (32, 4194363 + a.code * 4096 + b.code * 131072)
  | .pref a => some (32, 8388667 + a.code * 4096)
  | .fence kind => some (32, 12582971 + kind.code * 131072)
  | .spark a b => some (32, 61 + a.code * 4096 + b.code * 131072)
  | .frame d a b => some (32, 4194365 + d.code * 128 + a.code * 4096 + b.code * 131072)
  | .migrAddr d a => some (32, 8388669 + d.code * 128 + a.code * 4096)
  | .migrTile d a => some (32, 12582973 + d.code * 128 + a.code * 4096)
  | .exit => some (32, 16777277)
  | .send reg a b => some (32, 67108925 + reg.val * 4194304 + a.code * 4096 + b.code * 131072)
  | .vtget d => some (32, 63 + d.code * 128)
  | .vtset d a => some (32, 4194367 + d.code * 128 + a.code * 4096)
  | .announce a => some (32, 8388671 + a.code * 4096)
  | .sendt a b => some (32, 12582975 + a.code * 4096 + b.code * 131072)
  | .wAdd ty m d a b => some (32, 65 + ty.code * 524288 + m.val * 65536 + d.val * 128 + a.val * 1024 + b.val * 8192)
  | .wSub ty m d a b => some (32, 8388673 + ty.code * 524288 + m.val * 65536 + d.val * 128 + a.val * 1024 + b.val * 8192)
  | .wRsub ty m d a b => some (32, 16777281 + ty.code * 524288 + m.val * 65536 + d.val * 128 + a.val * 1024 + b.val * 8192)
  | .wMul ty m d a b => some (32, 25165889 + ty.code * 524288 + m.val * 65536 + d.val * 128 + a.val * 1024 + b.val * 8192)
  | .wMac ty m d a b => some (32, 33554497 + ty.code * 524288 + m.val * 65536 + d.val * 128 + a.val * 1024 + b.val * 8192)
  | .wMin ty m d a b => some (32, 41943105 + ty.code * 524288 + m.val * 65536 + d.val * 128 + a.val * 1024 + b.val * 8192)
  | .wMax ty m d a b => some (32, 50331713 + ty.code * 524288 + m.val * 65536 + d.val * 128 + a.val * 1024 + b.val * 8192)
  | .wAnd ty m d a b => some (32, 58720321 + ty.code * 524288 + m.val * 65536 + d.val * 128 + a.val * 1024 + b.val * 8192)
  | .wOr ty m d a b => some (32, 67108929 + ty.code * 524288 + m.val * 65536 + d.val * 128 + a.val * 1024 + b.val * 8192)
  | .wXor ty m d a b => some (32, 75497537 + ty.code * 524288 + m.val * 65536 + d.val * 128 + a.val * 1024 + b.val * 8192)
  | .wAndn ty m d a b => some (32, 83886145 + ty.code * 524288 + m.val * 65536 + d.val * 128 + a.val * 1024 + b.val * 8192)
  | .wShl ty m d a b => some (32, 92274753 + ty.code * 524288 + m.val * 65536 + d.val * 128 + a.val * 1024 + b.val * 8192)
  | .wShr ty m d a b => some (32, 100663361 + ty.code * 524288 + m.val * 65536 + d.val * 128 + a.val * 1024 + b.val * 8192)
  | .wMov ty m d b => some (32, 109051969 + ty.code * 524288 + m.val * 65536 + d.val * 128 + b.val * 8192)
  | .wAbs ty m d b => some (32, 117440577 + ty.code * 524288 + m.val * 65536 + d.val * 128 + b.val * 8192)
  | .wNeg ty m d b => some (32, 125829185 + ty.code * 524288 + m.val * 65536 + d.val * 128 + b.val * 8192)
  | .wFma ty m d a b c => some (32, 134217793 + ty.code * 524288 + m.val * 65536 + d.val * 128 + a.val * 1024 + b.val * 8192 + c.val * 536870912)
  | .wSel ty m d a b => some (32, 142606401 + ty.code * 524288 + m.val * 65536 + d.val * 128 + a.val * 1024 + b.val * 8192)
  | .l16Add ty m d s => some (16, 0 + ty.code * 2048 + m.val * 8192 + d.val * 32 + s.val * 256)
  | .l16Sub ty m d s => some (16, 2 + ty.code * 2048 + m.val * 8192 + d.val * 32 + s.val * 256)
  | .l16Rsub ty m d s => some (16, 4 + ty.code * 2048 + m.val * 8192 + d.val * 32 + s.val * 256)
  | .l16Mul ty m d s => some (16, 6 + ty.code * 2048 + m.val * 8192 + d.val * 32 + s.val * 256)
  | .l16Mac ty m d s => some (16, 8 + ty.code * 2048 + m.val * 8192 + d.val * 32 + s.val * 256)
  | .l16Min ty m d s => some (16, 10 + ty.code * 2048 + m.val * 8192 + d.val * 32 + s.val * 256)
  | .l16Max ty m d s => some (16, 12 + ty.code * 2048 + m.val * 8192 + d.val * 32 + s.val * 256)
  | .l16And ty m d s => some (16, 14 + ty.code * 2048 + m.val * 8192 + d.val * 32 + s.val * 256)
  | .l16Or ty m d s => some (16, 16 + ty.code * 2048 + m.val * 8192 + d.val * 32 + s.val * 256)
  | .l16Xor ty m d s => some (16, 18 + ty.code * 2048 + m.val * 8192 + d.val * 32 + s.val * 256)
  | .l16Andn ty m d s => some (16, 20 + ty.code * 2048 + m.val * 8192 + d.val * 32 + s.val * 256)
  | .l16Shl ty m d s => some (16, 22 + ty.code * 2048 + m.val * 8192 + d.val * 32 + s.val * 256)
  | .l16Shr ty m d s => some (16, 24 + ty.code * 2048 + m.val * 8192 + d.val * 32 + s.val * 256)
  | .l16Mov ty m d s => some (16, 26 + ty.code * 2048 + m.val * 8192 + d.val * 32 + s.val * 256)
  | .l16Abs ty m d s => some (16, 28 + ty.code * 2048 + m.val * 8192 + d.val * 32 + s.val * 256)
  | .l16Neg ty m d s => some (16, 30 + ty.code * 2048 + m.val * 8192 + d.val * 32 + s.val * 256)
  | .wmathExp2 ty m d b => some (32, 67 + ty.code * 524288 + m.val * 65536 + d.val * 128 + b.val * 8192)
  | .wmathLog2 ty m d b => some (32, 8388675 + ty.code * 524288 + m.val * 65536 + d.val * 128 + b.val * 8192)
  | .wmathRecip ty m d b => some (32, 16777283 + ty.code * 524288 + m.val * 65536 + d.val * 128 + b.val * 8192)
  | .wmathRsqrt ty m d b => some (32, 25165891 + ty.code * 524288 + m.val * 65536 + d.val * 128 + b.val * 8192)
  | .wmathTanh ty m d b => some (32, 33554499 + ty.code * 524288 + m.val * 65536 + d.val * 128 + b.val * 8192)
  | .wmathRsum ty m d b => some (32, 41943107 + ty.code * 524288 + m.val * 65536 + d.val * 128 + b.val * 8192)
  | .wmathRmax ty m d b => some (32, 50331715 + ty.code * 524288 + m.val * 65536 + d.val * 128 + b.val * 8192)
  | .wmathScan ty m d b => some (32, 58720323 + ty.code * 524288 + m.val * 65536 + d.val * 128 + b.val * 8192)
  | .wmathPerm ty m d a b => some (32, 67108931 + ty.code * 524288 + m.val * 65536 + d.val * 128 + a.val * 1024 + b.val * 8192)
  | .wmaskEq ty m d a b => some (32, 69 + ty.code * 524288 + m.val * 65536 + d.val * 128 + a.val * 1024 + b.val * 8192)
  | .wmaskLt ty m d a b => some (32, 8388677 + ty.code * 524288 + m.val * 65536 + d.val * 128 + a.val * 1024 + b.val * 8192)
  | .wmaskLe ty m d a b => some (32, 16777285 + ty.code * 524288 + m.val * 65536 + d.val * 128 + a.val * 1024 + b.val * 8192)
  | .wmaskAnd m d a b => some (32, 25165893 + m.val * 65536 + d.val * 128 + a.val * 1024 + b.val * 8192)
  | .wmaskOr m d a b => some (32, 33554501 + m.val * 65536 + d.val * 128 + a.val * 1024 + b.val * 8192)
  | .wmaskXor m d a b => some (32, 41943109 + m.val * 65536 + d.val * 128 + a.val * 1024 + b.val * 8192)
  | .wmoveBcast m a b => some (32, 71 + m.val * 33554432 + a.code * 4096 + b.val * 131072)
  | .wmoveExt d a b => some (32, 4194375 + d.code * 128 + a.code * 4096 + b.val * 131072)
  | .wmoveTrld m a b => some (32, 8388679 + m.val * 33554432 + a.code * 4096 + b.val * 131072)
  | .wmoveTrst m a b => some (32, 12582983 + m.val * 33554432 + a.code * 4096 + b.val * 131072)
  | .wmoveMpop m d => some (32, 16777287 + m.val * 33554432 + d.code * 128)
  | .wcvtUp ty m d a b => some (32, 73 + ty.code * 524288 + m.val * 65536 + d.val * 128 + a.val * 1024 + b.val * 8192)
  | .wcvtDown ty m d a b => some (32, 8388681 + ty.code * 524288 + m.val * 65536 + d.val * 128 + a.val * 1024 + b.val * 8192)
  | .wcvtDownsat ty m d a b => some (32, 16777289 + ty.code * 524288 + m.val * 65536 + d.val * 128 + a.val * 1024 + b.val * 8192)
  | .wcvtToint ty m d a b => some (32, 25165897 + ty.code * 524288 + m.val * 65536 + d.val * 128 + a.val * 1024 + b.val * 8192)
  | .wcvtFromint ty m d a b => some (32, 33554505 + ty.code * 524288 + m.val * 65536 + d.val * 128 + a.val * 1024 + b.val * 8192)
  | .wsampTopk m d a b => some (32, 75 + m.val * 65536 + d.val * 128 + a.val * 1024 + b.val * 8192)
  | .wsampCbg m d a b => some (32, 10485835 + m.val * 65536 + d.val * 128 + a.val * 1024 + b.val * 8192)
  | .wsampDraw m d a b => some (32, 16777291 + m.val * 65536 + d.val * 128 + a.val * 1024 + b.val * 8192)
  | .wsampPick m d a b => some (32, 25165899 + m.val * 65536 + d.val * 128 + a.val * 1024 + b.val * 8192)
  | .talloc nw h => some (32, 81 + nw.code * 128 + h.val * 4096)
  | .tfree h => some (32, 16777297 + h.val * 4096)
  | .tld nw ha hb la => some (32, 33554513 + nw.code * 128 + ha.val * 4096 + hb.val * 262144 + la.val * 268435456)
  | .tst nw h => some (32, 50331729 + nw.code * 128 + h.val * 4096)
  | .tzero nw h => some (32, 67108945 + nw.code * 128 + h.val * 4096)
  | .cload nw ha hb la => some (32, 83 + nw.code * 128 + ha.val * 4096 + hb.val * 262144 + la.val * 268435456)
  | .cpass nw ha hb la => some (32, 16777299 + nw.code * 128 + ha.val * 4096 + hb.val * 262144 + la.val * 268435456)
  | .cdrain nw ha hb la => some (32, 33554515 + nw.code * 128 + ha.val * 4096 + hb.val * 262144 + la.val * 268435456)
  | .czero nw ha la => some (32, 50331731 + nw.code * 128 + ha.val * 4096 + la.val * 268435456)
  | .canvasxLoad nw ha hb la => some (32, 101 + nw.code * 128 + ha.val * 4096 + hb.val * 262144 + la.val * 268435456)
  | .canvasxPass nw ha hb la => some (32, 16777317 + nw.code * 128 + ha.val * 4096 + hb.val * 262144 + la.val * 268435456)
  | .cpyIn d a h la => some (32, 85 + d.code * 128 + a.code * 4096 + h.val * 131072 + la.val * 268435456)
  | .cpyOut d a h la => some (32, 8388693 + d.code * 128 + a.code * 4096 + h.val * 131072 + la.val * 268435456)
  | .gath d a h la => some (32, 16777301 + d.code * 128 + a.code * 4096 + h.val * 131072 + la.val * 268435456)
  | .scat d a h la => some (32, 25165909 + d.code * 128 + a.code * 4096 + h.val * 131072 + la.val * 268435456)
  | .coll d a h la => some (32, 33554517 + d.code * 128 + a.code * 4096 + h.val * 131072 + la.val * 268435456)
  | .weir d a h la => some (32, 41943125 + d.code * 128 + a.code * 4096 + h.val * 131072 + la.val * 268435456)
  | .barm a b => some (32, 87 + a.code * 4096 + b.val * 131072)
  | .barrClaim d a b => some (32, 4194391 + d.code * 128 + a.code * 4096 + b.val * 131072)
  | .bwait b => some (32, 8388695 + b.val * 131072)
  | .engxDmard d a b => some (32, 97 + d.code * 128 + a.code * 4096 + b.code * 131072)
  | .engxDmawr d a b => some (32, 4194401 + d.code * 128 + a.code * 4096 + b.code * 131072)
  | .engxMbox a => some (32, 8388705 + a.code * 4096)
  | .engxKwait => some (32, 12583009)
  | .engxGcmkey a => some (32, 16777313 + a.code * 4096)
  | .engxGcmenc d a b => some (32, 20971617 + d.code * 128 + a.code * 4096 + b.code * 131072)
  | .engxGcmdec d a b => some (32, 25165921 + d.code * 128 + a.code * 4096 + b.code * 131072)
  | .tlbinv a b => some (32, 99 + a.code * 4096 + b.code * 131072)
  | .genscrub d a => some (32, 4194403 + d.code * 128 + a.code * 4096)
  | .qown d a b => some (32, 8388707 + d.code * 128 + a.code * 4096 + b.code * 131072)
  | .halt a b => some (32, 12583011 + a.code * 4096 + b.code * 131072)
  | .stoprec d a => some (32, 16777315 + d.code * 128 + a.code * 4096)
  | .cctl a b => some (32, 20971619 + a.code * 4096 + b.code * 131072)
  | .pset a b => some (32, 25165923 + a.code * 4096 + b.code * 131072)
  | .creationMessage _ => none
  | .contextScrubComplete _ _ => none
  | .contextFreeNotice _ _ => none
  | .resendTimeout _ _ => none
  | .refusalRelease _ _ => none
  | .refusedResend _ _ => none
  | .migrQuery _ _ => none
  | .migrQueryAnswer _ => none
  | .migrationImage _ => none
  | .targetAnswer _ _ => none
  | .deposit _ => none
  | .coreSelect _ _ => none
  | .clockAnnouncement _ _ _ _ => none
  | .nullEvent _ _ _ _ => none
  | .stampedEvent _ => none
  | .eventStart _ _ => none
  | .nullRound _ _ => none
  | .easelGrant _ => none
  | .easelSubunitComplete _ _ => none
  | .scoreboardEntryComplete _ _ => none
  | .tileScrubSweepComplete _ => none
  | .genscrubComplete _ => none
  | .collectiveMatch _ _ => none
  | .promiseDue _ => none
  | .monitorFire _ => none
  | .parkDeadline _ => none
  | .regionBufferDrain _ => none
  | .walkMonitorFire _ => none
  | .pageRequestResponse => none
  | .granq0Read => none
  | .granrespWalkAgain => none
  | .granrespRefuse => none
  | .atsInvalidation => none
  | .engineStop _ => none
  | .containmentWalk _ => none
  | .haltctlHoldSet _ => none
  | .haltctlHoldClear _ => none
  | .chlaWrite _ _ _ _ => none
  | .preemptionDeadline _ => none
  | .saveComplete _ => none
  | .restore _ => none
  | .debugResume _ => none
  | .kick _ _ => none
  | .cancelGraph _ => none
  | .cancelPhase _ => none
  | .cancelJob _ => none
  | .packetRead _ => none
  | .pktNop => none
  | .pktDispatch => none
  | .pktDelta => none
  | .pktIbcall => none
  | .pktPred => none
  | .pktLoop => none
  | .pktFfence => none
  | .pktSignal => none
  | .pktWaitmem => none
  | .levelGraph => none
  | .levelPhase => none
  | .levelJob => none
  | .levelCancel => none
  | .launchDistribution _ => none
  | .launchComplete _ => none
  | .slotSelection => none
  | .ageingInterval _ => none
  | .quantumExpiry _ => none
  | .sctlMap _ _ => none
  | .sctlUnmap _ => none
  | .unmapComplete _ => none
  | .sctlReset _ => none
  | .queueResetComplete _ => none
  | .biascmdGo _ _ => none
  | .biasFlipComplete _ _ => none
  | .hostCxlMemRequest => none
  | .hostSnoop => none
  | .lockInterface => none
  | .startInterface => none
  | .stopInterface => none
  | .releaseSequenceComplete _ => none
  | .ideIntegrityFailure => none
  | .getVersion => none
  | .getCapabilities => none
  | .negotiateAlgorithms => none
  | .getDigests => none
  | .getCertificate => none
  | .challenge => none
  | .getMeasurements => none
  | .keyExchange => none
  | .finish => none
  | .heartbeat => none
  | .keyUpdate => none
  | .endSession => none
  | .setCertificate => none
  | .certRewriteTimeout => none
  | .setCopyKey => none
  | .setDebugConsent => none
  | .stageUpdate => none
  | .activationRequest => none
  | .acknowledgeStaged => none
  | .liveUpdateTakeover => none
  | .standbyFailure => none
  | .coldReset => none
  | .warmReset => none
  | .linkReset => none
  | .clockStep => none
  | .drowsyEntry _ => none
  | .drowsyWake _ => none
  | .evlogRead => none
  | .registerWrite => none
  | .longLatencyCompletion _ => none
  | .cacheMaintenanceComplete _ => none
  | .commandComplexFailure => none
  | .ideKeyManagement => none

end Sys2Proof
end

