-- ==== Sys2Proof/Machine/Bits.lean ====
section
/-! DEFINITION. Bit fields, extensions and byte runs over words (spec/00, R2, R4 to R6). -/

/-- Each element put through `f`. -/
def Vector.each {α β : Type} {n : Nat} (v : Vector α n) (f : α → β) : Vector β n := Vector.ofFn fun i => f (v.get i)

namespace Sys2Proof.Machine

/-- x[hi:lo] as a number (the pseudocode's bit slice). -/
def bits (x : Word) (hi lo : Nat) : Nat := x.toNat / 2 ^ lo % 2 ^ (hi - lo + 1)

/-- Bit `k` of a word. -/
def bitAt (x : Word) (k : Nat) : Bool := x.toNat / 2 ^ k % 2 == 1

/-- sext of the low `n` bits. -/
def sext (n v : Nat) : Word :=
  let m := v % 2 ^ n
  if m < 2 ^ (n - 1) then wd m else wd (m + 2 ^ 64 - 2 ^ n)

/-- The low `n` bits read as two's complement. -/
def sInt (n v : Nat) : Int :=
  let m := v % 2 ^ n
  if m < 2 ^ (n - 1) then (m : Int) else (m : Int) - 2 ^ n

/-- The low `n` bits of an integer. -/
def wrap (n : Nat) (v : Int) : Nat := (v % (2 ^ n : Int)).toNat

/-- An integer clamped to [lo, hi]. -/
def clampInt (lo hi v : Int) : Int := if v < lo then lo else if hi < v then hi else v

/-- ceil(a / b). -/
def ceilDiv (a b : Nat) : Nat := (a + b - 1) / b

/-- `a` rounded up to a multiple of `b`. -/
def roundUp (a b : Nat) : Nat := ceilDiv a b * b

/-- The number of set bits among the low `k` bits. -/
def popCount : Nat → Nat → Nat
  | 0, _ => 0
  | k + 1, v => v % 2 + popCount k (v / 2)

/-- The index of the lowest set bit among the low `k` bits, or `k`. -/
def lowestSet : Nat → Nat → Nat
  | 0, _ => 0
  | k + 1, v => if v % 2 = 1 then 0 else lowestSet k (v / 2) + 1

/-- The bit length of a number below 2^k. -/
def bitLength : Nat → Nat → Nat
  | 0, _ => 0
  | k + 1, v => if v = 0 then 0 else bitLength k (v / 2) + 1

/-- Bytes `[off, off + len)` of a run, missing ones read as 0. -/
def sliceBytes (bs : List Byte) (off len : Nat) : List Byte :=
  let t := (bs.drop off).take len
  t ++ List.replicate (len - t.length) 0

/-- The little-endian value of bytes `[off, off + len)` of a run. -/
def fieldAt (bs : List Byte) (off len : Nat) : Nat := leNat (sliceBytes bs off len)

/-- The run with `new` written at `off`. -/
def patchBytes (bs : List Byte) (off : Nat) (new : List Byte) : List Byte :=
  bs.take off ++ new ++ bs.drop (off + new.length)

/-- Reads of a table kept as key and value pairs. -/
def lookupNat {α : Type} (xs : List (Nat × α)) (k : Nat) : Option α :=
  match xs with
  | [] => none
  | (k', v) :: t => if k' = k then some v else lookupNat t k

/-- Writes of such a table, kept sorted by key with no repeats. -/
def insertNat {α : Type} (xs : List (Nat × α)) (k : Nat) (v : α) : List (Nat × α) :=
  match xs with
  | [] => [(k, v)]
  | (k', v') :: t => if k < k' then (k, v) :: (k', v') :: t else if k' = k then (k, v) :: t
      else (k', v') :: insertNat t k v

/-- Removal from such a table. -/
def eraseNat {α : Type} (xs : List (Nat × α)) (k : Nat) : List (Nat × α) :=
  match xs with
  | [] => []
  | (k', v) :: t => if k' = k then t else (k', v) :: eraseNat t k

end Sys2Proof.Machine
end

