-- ==== Sys2Proof/Machine/Float.lean ====
section
/-! DEFINITION. Number formats, rounding and the arithmetic defined on them (spec/03). An exact value is a sign and
a ratio of naturals; every result is rounded once by `roundFmt`. -/

namespace Sys2Proof.Machine

/-- Rounding modes (FRM.RM, R59). -/
inductive RM where
  | rne | rtz | rup | rdn
  deriving DecidableEq, Repr

def RM.ofBits (b : BitVec 2) : RM :=
  match b.toNat with
  | 0 => .rne | 1 => .rtz | 2 => .rup | _ => .rdn

/-- How a format uses its top exponent (R68). -/
inductive FStyle where
  | ieee | e4m3 | e2m1
  deriving DecidableEq, Repr

/-- A floating-point format: exponent bits, fraction bits, bias, and whether it has subnormals (R68). -/
structure Fmt where
  eb : Nat
  fb : Nat
  bias : Nat
  style : FStyle
  sub : Bool
  deriving DecidableEq, Repr

def fE2m1 : Fmt := { eb := 2, fb := 1, bias := 1, style := .e2m1, sub := true }
def fE4m3 : Fmt := { eb := 4, fb := 3, bias := 7, style := .e4m3, sub := true }
def fE5m2 : Fmt := { eb := 5, fb := 2, bias := 15, style := .ieee, sub := true }
def fF16 : Fmt := { eb := 5, fb := 10, bias := 15, style := .ieee, sub := true }
def fBf16 : Fmt := { eb := 8, fb := 7, bias := 127, style := .ieee, sub := true }
def fF32 : Fmt := { eb := 8, fb := 23, bias := 127, style := .ieee, sub := true }
def fFx34 : Fmt := { eb := 10, fb := 23, bias := 511, style := .ieee, sub := false }

/-- An exact value: a NaN (signalling or not), an infinity, or a sign with a magnitude `num / den`. -/
inductive Xr where
  | nan (sig : Bool)
  | inf (neg : Bool)
  | fin (neg : Bool) (num den : Nat)
  deriving DecidableEq, Repr

/-- 2^e as a ratio. -/
def pow2 (e : Int) : Nat × Nat := if e < 0 then (1, 2 ^ (-e).toNat) else (2 ^ e.toNat, 1)

/-- A ratio times 2^e. -/
def scale2 (n d : Nat) (e : Int) : Nat × Nat :=
  let p := pow2 e
  (n * p.1, d * p.2)

/-- The sign bit of an encoding. -/
def Fmt.signOf (f : Fmt) (b : Nat) : Bool := b / 2 ^ (f.eb + f.fb) % 2 == 1

/-- The exact value of an encoding (R68, R69). A NaN is signalling when its fraction's top bit is 0, in f32, bf16 and
f16 only. -/
def Fmt.val (f : Fmt) (b : Nat) : Xr :=
  let frac := b % 2 ^ f.fb
  let e := b / 2 ^ f.fb % 2 ^ f.eb
  let neg := f.signOf b
  let top := 2 ^ f.eb - 1
  if f.style == .ieee && e == top then
    if frac = 0 then .inf neg else .nan (f != fE5m2 && f != fFx34 && decide (frac < 2 ^ (f.fb - 1)))
  else if f.style == .e4m3 && e == top && frac == 2 ^ f.fb - 1 then .nan false
  else if e = 0 then
    if f.sub then
      let p := scale2 frac (2 ^ f.fb) (1 - (f.bias : Int))
      .fin neg p.1 p.2
    else .fin neg 0 1
  else
    let p := scale2 (2 ^ f.fb + frac) (2 ^ f.fb) ((e : Int) - f.bias)
    .fin neg p.1 p.2

/-- The encoding of an infinity of a format that has one. -/
def Fmt.infBits (f : Fmt) (neg : Bool) : Nat := neg.toNat * 2 ^ (f.eb + f.fb) + (2 ^ f.eb - 1) * 2 ^ f.fb

/-- The canonical NaN (R69). -/
def Fmt.nanBits (f : Fmt) : Nat :=
  match f.style with
  | .ieee => (2 ^ f.eb - 1) * 2 ^ f.fb + 2 ^ (f.fb - 1)
  | .e4m3 => 0x7F
  | .e2m1 => 0
-- e5m2's canonical NaN is 0x7E, which the ieee case gives; fx34's is 0x1_FFC0_0000.

/-- The encoding of the largest finite magnitude (R68). -/
def Fmt.maxMag (f : Fmt) : Nat :=
  match f.style with
  | .ieee => (2 ^ f.eb - 1) * 2 ^ f.fb - 1
  | .e4m3 => 0x7E
  | .e2m1 => 0x7

/-- FFLG bits (R59): NV, DZ, OF, UF, NX from bit 4 to bit 0. -/
abbrev Flags := BitVec 5
def flNV : Flags := 16
def flDZ : Flags := 8
def flOF : Flags := 4
def flUF : Flags := 2
def flNX : Flags := 1

/-- floor(log2(n / d)) of a nonzero ratio. -/
def ilog2 (n d : Nat) : Int :=
  let k : Int := (Nat.log2 n : Int) - (Nat.log2 d : Int)
  let p := scale2 1 1 k
  if n * p.2 < p.1 * d then k - 1 else k

/-- Rounds the quotient `n / d` to an integer in the direction the mode requires for a value of sign `neg` (R71). -/
def roundNat (rm : RM) (neg : Bool) (n d : Nat) : Nat :=
  let q := n / d
  let r := n % d
  if r = 0 then q
  else match rm with
    | .rtz => q
    | .rup => if neg then q else q + 1
    | .rdn => if neg then q + 1 else q
    | .rne => if 2 * r < d then q else if d < 2 * r then q + 1 else if q % 2 = 0 then q else q + 1

/-- Overflow of a finite value of sign `neg` (R72). -/
def Fmt.overflow (f : Fmt) (sat : Bool) (rm : RM) (neg : Bool) : Nat :=
  let s := neg.toNat * 2 ^ (f.eb + f.fb)
  match f.style with
  | .e2m1 => s + f.maxMag
  | .e4m3 => if sat then s + f.maxMag else f.nanBits
  | .ieee =>
    if sat then s + f.maxMag
    else match rm with
      | .rne => f.infBits neg
      | .rtz => s + f.maxMag
      | .rup => if neg then s + f.maxMag else f.infBits neg
      | .rdn => if neg then f.infBits neg else s + f.maxMag

/-- round_fmt (R71, R72): the encoding and the flags. -/
def roundFmt (f : Fmt) (sat : Bool) (rm : RM) (v : Xr) : Nat × Flags :=
  match v with
  | .nan sig =>
    (f.nanBits, if f.style == .e2m1 then flNV else if sig && f.style == .ieee && f != fE5m2 then flNV else 0)
  | .inf neg =>
    match f.style with
    | .e2m1 => (neg.toNat * 2 ^ (f.eb + f.fb) + f.maxMag, 0)
    | .e4m3 => (if sat then neg.toNat * 2 ^ (f.eb + f.fb) + f.maxMag else f.nanBits, 0)
    | .ieee => (if sat then neg.toNat * 2 ^ (f.eb + f.fb) + f.maxMag else f.infBits neg, 0)
  | .fin neg n d =>
    let s := neg.toNat * 2 ^ (f.eb + f.fb)
    if n = 0 then (s, 0)
    else
      let emin : Int := 1 - (f.bias : Int)
      let e0 := ilog2 n d
      let below := decide (e0 < emin)
      let e := if below then emin else e0
      -- the grid: multiples of 2^(e - fb); fx34 below its smallest normal has only 0 and that normal (log 19)
      let g := if below && !f.sub then emin else e - (f.fb : Int)
      let p := scale2 n d (-g)
      let q := roundNat rm neg p.1 p.2
      let exact := p.1 % p.2 == 0
      let q' := if below && !f.sub then q * 2 ^ f.fb else q
      -- q' counts units of 2^(e - fb): the encoding's magnitude is q' with the exponent's offset added
      let mag := if q' < 2 ^ f.fb then q' else ((e - emin).toNat) * 2 ^ f.fb + q'
      if f.maxMag < mag then (f.overflow sat rm neg, flOF ||| flNX)
      else
        let fl := if exact then (0 : Flags) else if q' != 0 && mag < 2 ^ f.fb then flNX ||| flUF else flNX
        (s + mag, fl)

/-- round_fmt to an integer type of `n` bits (R72): the value, saturated, and the flags. A saturated result raises NV
alone (log 19). -/
def roundIntTy (lo hi : Int) (rm : RM) (v : Xr) : Int × Flags :=
  match v with
  | .nan _ => (0, flNV)
  | .inf neg => (if neg then lo else hi, flNV)
  | .fin neg n d =>
    let q : Int := roundNat rm neg n d
    let x := if neg then -q else q
    if x < lo then (lo, flNV) else if hi < x then (hi, flNV) else (x, if n % d == 0 then 0 else flNX)

/-- Conversion to bs12 (R70, R72): always saturating; a negative nonzero source gives 0 and NV. -/
def roundBs12 (rm : RM) (v : Xr) : Nat × Flags :=
  match v with
  | .nan _ => (0xFF0, 0)
  | .inf neg => if neg then (0, flNV) else (0xFEF, 0)
  | .fin neg n d =>
    if n = 0 then (0, 0)
    else if neg then (0, flNV)
    else roundFmt { eb := 8, fb := 4, bias := 127, style := .ieee, sub := true } true rm (.fin false n d)

/-- The value of a bs12 scale; E = 0xFF is a NaN scale (R70). -/
def bs12Val (b : Nat) : Xr :=
  let e := b / 16 % 256
  let frac := b % 16
  if e = 255 then .nan false
  else
    let p := if e = 0 then scale2 frac 16 (-126) else scale2 (16 + frac) 16 ((e : Int) - 127)
    .fin false p.1 p.2

/-- An integer as an exact value. -/
def Xr.ofInt (v : Int) : Xr := .fin (decide (v < 0)) v.natAbs 1

def Xr.isNan : Xr → Bool
  | .nan _ => true
  | .inf _ | .fin .. => false

def Xr.isSig : Xr → Bool
  | .nan s => s
  | .inf _ | .fin .. => false

/-- A zero of either sign. -/
def Xr.isZero : Xr → Bool
  | .fin _ n _ => n == 0
  | .nan _ | .inf _ => false

def Xr.neg : Xr → Xr
  | .nan s => .nan s
  | .inf s => .inf (!s)
  | .fin s n d => .fin (!s) n d

/-- The signed numerator over a denominator. -/
def sgn (neg : Bool) (n : Nat) : Int := if neg then -(n : Int) else n

/-- Exact sum under IEEE 754 (R86): NV for a signalling NaN and for infinity minus infinity; an exact zero of opposite
signs is +0, or -0 under RDN. -/
def addX (rm : RM) (x y : Xr) : Xr × Flags :=
  match x, y with
  | .nan s, .nan t => (.nan false, if s || t then flNV else 0)
  | .nan s, .inf _ | .nan s, .fin .. => (.nan false, if s then flNV else 0)
  | .inf _, .nan t | .fin .., .nan t => (.nan false, if t then flNV else 0)
  | .inf s, .inf t => if s == t then (.inf s, 0) else (.nan false, flNV)
  | .inf s, .fin .. => (.inf s, 0)
  | .fin .., .inf t => (.inf t, 0)
  | .fin s n d, .fin t m e =>
    let v := sgn s n * (e : Int) + sgn t m * (d : Int)
    if v = 0 then (.fin (if s == t then s else rm == .rdn) 0 1, 0)
    else (.fin (decide (v < 0)) v.natAbs (d * e), 0)

/-- Exact product (R86). -/
def mulX (x y : Xr) : Xr × Flags :=
  match x, y with
  | .nan s, .nan t => (.nan false, if s || t then flNV else 0)
  | .nan s, .inf _ | .nan s, .fin .. => (.nan false, if s then flNV else 0)
  | .inf _, .nan t | .fin .., .nan t => (.nan false, if t then flNV else 0)
  | .inf s, .inf t => (.inf (s != t), 0)
  | .inf s, .fin t n _ => if n = 0 then (.nan false, flNV) else (.inf (s != t), 0)
  | .fin s n _, .inf t => if n = 0 then (.nan false, flNV) else (.inf (s != t), 0)
  | .fin s n d, .fin t m e => (.fin (s != t) (n * m) (d * e), 0)

/-- Exact quotient (R194). -/
def divX (x y : Xr) : Xr × Flags :=
  match x, y with
  | .nan s, .nan t => (.nan false, if s || t then flNV else 0)
  | .nan s, .inf _ | .nan s, .fin .. => (.nan false, if s then flNV else 0)
  | .inf _, .nan t | .fin .., .nan t => (.nan false, if t then flNV else 0)
  | .inf _, .inf _ => (.nan false, flNV)
  | .inf s, .fin t _ _ => (.inf (s != t), 0)
  | .fin s _ _, .inf t => (.fin (s != t) 0 1, 0)
  | .fin s n d, .fin t m e =>
    if m = 0 then if n = 0 then (.nan false, flNV) else (.inf (s != t), flDZ)
    else (.fin (s != t) (n * e) (d * m), 0)

/-- z + x * y with one rounding (R86, R194): infinity times 0 raises NV even beside a quiet NaN. -/
def fmaX (rm : RM) (z x y : Xr) : Xr × Flags :=
  let p := mulX x y
  let r := addX rm z p.1
  (r.1, p.2 ||| r.2)

/-- Integer square root by bisection on bits: the greatest r below 2^k with r * r <= n. -/
def isqrt : Nat → Nat → Nat
  | 0, _ => 0
  | k + 1, n =>
    let r := 2 * isqrt k (n / 4)
    if (r + 1) * (r + 1) ≤ n then r + 1 else r

/-- A ratio that rounds as the square root of `n / d` does in any format of at most 60 fraction bits: the root to 80
bits past its top, plus half a unit when it is not exact. -/
def sqrtRatio (n d : Nat) : Nat × Nat :=
  let e := ilog2 n d
  let h : Int := e / 2
  let p := scale2 n d (2 * (80 - h))
  let m := p.1 / p.2
  let r := isqrt 100 m
  let exact := p.1 % p.2 == 0 && r * r == m
  let v := if exact then 2 * r else 2 * r + 1
  scale2 v 2 (h - 80)

/-- The square root (R194): -0 stays -0; a negative value gives NaN and NV. -/
def sqrtX (x : Xr) : Xr × Flags :=
  match x with
  | .nan s => (.nan false, if s then flNV else 0)
  | .inf s => if s then (.nan false, flNV) else (.inf false, 0)
  | .fin s n d =>
    if n = 0 then (.fin s 0 1, 0)
    else if s then (.nan false, flNV)
    else
      let p := sqrtRatio n d
      (.fin false p.1 p.2, 0)

/-- Order of two values that are not NaNs, with -0 equal to +0: -1, 0 or 1. -/
def cmpX (x y : Xr) : Int :=
  match x, y with
  | .inf s, .inf t => if s == t then 0 else if s then -1 else 1
  | .inf s, _ => if s then -1 else 1
  | _, .inf t => if t then 1 else -1
  | .fin s n d, .fin t m e =>
    let a := sgn s n * (e : Int)
    let b := sgn t m * (d : Int)
    if a < b then -1 else if b < a then 1 else 0
  | .nan _, _ | _, .nan _ => 0

/-- The sign of a value. -/
def Xr.isNeg : Xr → Bool
  | .nan _ => false
  | .inf s => s
  | .fin s _ _ => s

/-- Min and max of a format's encodings (R86): the operand that is not a NaN when one is, -0 below +0, NV for a
signalling NaN, the canonical NaN for two NaNs. -/
def minMaxF (f : Fmt) (max : Bool) (a b : Nat) : Nat × Flags :=
  let x := f.val a
  let y := f.val b
  let fl := if x.isSig || y.isSig then flNV else 0
  if x.isNan && y.isNan then (f.nanBits, fl)
  else if x.isNan then (b, fl)
  else if y.isNan then (a, fl)
  else
    let c := cmpX x y
    let aLess := decide (c < 0) || (c == 0 && x.isNeg && !y.isNeg)
    (if aLess == max then b else a, fl)

/-- A rounded two-operand result in a format. -/
def arith (f : Fmt) (rm : RM) (r : Xr × Flags) : Nat × Flags :=
  let p := roundFmt f false rm r.1
  (p.1, p.2 ||| r.2)

/-! ## Comparisons (R192) -/

def eqF (f : Fmt) (a b : Nat) : Bool × Flags :=
  let x := f.val a; let y := f.val b
  if x.isNan || y.isNan then (false, if x.isSig || y.isSig then flNV else 0) else (cmpX x y == 0, 0)

def ltF (f : Fmt) (a b : Nat) : Bool × Flags :=
  let x := f.val a; let y := f.val b
  if x.isNan || y.isNan then (false, flNV) else (decide (cmpX x y < 0), 0)

def leF (f : Fmt) (a b : Nat) : Bool × Flags :=
  let x := f.val a; let y := f.val b
  if x.isNan || y.isNan then (false, flNV) else (decide (cmpX x y ≤ 0), 0)

/-! ## Transcendental procedures (R88 to R91) -/

/-- round_int(2^(j/64) * 2^30), j = 0 to 63 (R88). -/
def tabT : List Nat :=
  [1073741824, 1085434106, 1097253708, 1109202018, 1121280436, 1133490379, 1145833280, 1158310587,
   1170923762, 1183674286, 1196563654, 1209593378, 1222764986, 1236080024, 1249540052, 1263146652,
   1276901417, 1290805962, 1304861917, 1319070932, 1333434672, 1347954824, 1362633090, 1377471191,
   1392470869, 1407633882, 1422962010, 1438457051, 1454120821, 1469955159, 1485961921, 1502142985,
   1518500250, 1535035634, 1551751076, 1568648537, 1585730000, 1602997467, 1620452965, 1638098541,
   1655936265, 1673968228, 1692196547, 1710623359, 1729250827, 1748081133, 1767116489, 1786359126,
   1805811301, 1825475297, 1845353420, 1865448001, 1885761398, 1906295993, 1927054196, 1948038440,
   1969251188, 1990694927, 2012372174, 2034285470, 2056437387, 2078830522, 2101467502, 2124350982]

/-- round_int(2^30 / (1 + j/64)), j = 0 to 63 (R89). -/
def tabG : List Nat :=
  [1073741824, 1057222719, 1041204193, 1025663832, 1010580540, 995934445, 981706811, 967879954,
   954437177, 941362695, 928641578, 916259690, 904203641, 892460737, 881018933, 869866794,
   858993459, 848388602, 838042399, 827945503, 818089009, 808464432, 799063683, 789879043,
   780903145, 772128952, 763549742, 755159085, 746950834, 738919105, 731058263, 723362913,
   715827883, 708448214, 701219150, 694136129, 687194767, 680390859, 673720360, 667179386,
   660764199, 654471207, 648296950, 642238100, 636291451, 630453915, 624722516, 619094385,
   613566757, 608136962, 602802428, 597560667, 592409282, 587345955, 582368447, 577474594,
   572662306, 567929560, 563274399, 558694933, 554189329, 549755814, 545392673, 541098242]

/-- round_int(log2(G) * 2^30), j = 0 to 63 (R89). -/
def tabH : List Int :=
  [0, -24017256, -47667823, -70962728, -93912511, -116527249, -138816582, -160789745,
   -182455581, -203822568, -224898838, -245692198, -266210141, -286459867, -306448298, -326182095,
   -345667660, -364911161, -383918542, -402695523, -421247625, -439580171, -457698295, -475606957,
   -493310944, -510814882, -528123240, -545240343, -562170370, -578917365, -595485245, -611877800,
   -628098702, -644151509, -660039670, -675766524, -691335320, -706749198, -722011214, -737124328,
   -752091421, -766915285, -781598637, -796144115, -810554284, -824831638, -838978603, -852997541,
   -866890746, -880660456, -894308842, -907838030, -921250079, -934547002, -947730758, -960803258,
   -973766363, -986621888, -999371608, -1012017244, -1024560485, -1037002979, -1049346326, -1061592099]

/-- C1, C2, C3 and K1 to K4 times 2^30 (R88, R89), KE times 2^30 (R91). -/
def cC1 : Int := 744261118
def cC2 : Int := 257941248
def cC3 : Int := 59597083
def cK1 : Int := 1549082005
def cK2 : Int := -774541002
def cK3 : Int := 516360668
def cK4 : Int := -387270501

/-- exp2_core of y = Y / 2^24 as an exact ratio (R88). -/
def exp2Core (y : Int) : Nat × Nat :=
  let i := y / 2 ^ 24
  let fr := y % 2 ^ 24
  let j := (fr / 2 ^ 18).toNat
  let d := fr % 2 ^ 18
  let t := tabT.getD j 0
  let p := 2 ^ 102 + cC1 * d * 2 ^ 48 + cC2 * d * d * 2 ^ 24 + cC3 * d * d * d
  scale2 (t * p.toNat) (2 ^ 132) i

/-- round_int(n / d): nearest, ties to even, for a signed ratio (R71). -/
def roundSigned (neg : Bool) (n d : Nat) : Int := sgn neg (roundNat .rne neg n d)

/-- exp2 (R88) as the exact value that is rounded once. -/
def exp2X (x : Xr) : Xr × Flags :=
  match x with
  | .nan s => (.nan false, if s then flNV else 0)
  | .inf s => if s then (.fin false 0 1, 0) else (.inf false, 0)
  | .fin s n d =>
    let c : Int := clampInt (-160 * 2 ^ 24) (129 * 2 ^ 24) (roundSigned s (n * 2 ^ 24) d)
    let p := exp2Core c
    (.fin false p.1 p.2, 0)

/-- log2 (R89). -/
def log2X (x : Xr) : Xr × Flags :=
  match x with
  | .nan s => (.nan false, if s then flNV else 0)
  | .inf s => if s then (.nan false, flNV) else (.inf false, 0)
  | .fin s n d =>
    if n = 0 then (.inf true, flDZ)
    else if s then (.nan false, flNV)
    else
      let e := ilog2 n d
      let p := scale2 n d (-e)            -- m = p.1 / p.2 in [1, 2)
      let j := (p.1 - p.2) * 64 / p.2
      let g : Int := tabG.getD j 0
      let h : Int := tabH.getD j 0
      -- v = V / D with D = p.2 * 2^30
      let dd : Int := (p.2 : Int) * 2 ^ 30
      let v : Int := (p.1 : Int) * g - dd
      -- Q over 2^30 * D^4, each constant over 2^30
      let q := v * (cK1 * dd ^ 3 + v * (cK2 * dd ^ 2 + v * (cK3 * dd + v * cK4)))
      let r := (e * 2 ^ 30 - h) * dd ^ 4 + q
      (.fin (decide (r < 0)) r.natAbs ((2 ^ 30 * dd ^ 4).toNat), 0)

/-- recip and rsqrt (R90). -/
def recipX (x : Xr) : Xr × Flags :=
  match x with
  | .nan s => (.nan false, if s then flNV else 0)
  | .inf s => (.fin s 0 1, 0)
  | .fin s n d => if n = 0 then (.inf s, flDZ) else (.fin s d n, 0)

def rsqrtX (x : Xr) : Xr × Flags :=
  match x with
  | .nan s => (.nan false, if s then flNV else 0)
  | .inf s => if s then (.nan false, flNV) else (.fin false 0 1, 0)
  | .fin s n d =>
    if n = 0 then (.inf s, flDZ)
    else if s then (.nan false, flNV)
    else
      let p := sqrtRatio d n
      (.fin false p.1 p.2, 0)

/-- tanh (R91). -/
def tanhX (x : Xr) : Xr × Flags :=
  match x with
  | .nan s => (.nan false, if s then flNV else 0)
  | .inf s => (.fin s 1 1, 0)
  | .fin s n d =>
    if n = 0 then (.fin s 0 1, 0)
    else if 16 * d ≤ n then (.fin s 1 1, 0)
    else if 16 * n < d then
      let a : Int := n
      let b : Int := d
      let v := 315 * a * b ^ 6 - 105 * a ^ 3 * b ^ 4 + 42 * a ^ 5 * b ^ 2 - 17 * a ^ 7
      (.fin s v.toNat ((315 * b ^ 7).toNat), 0)
    else
      let y := roundSigned true (2 * n * cK1.toNat * 2 ^ 24) (d * 2 ^ 30)
      let e := exp2Core y
      (.fin s (e.2 - e.1) (e.2 + e.1), 0)

/-! ## CBG-4 (R92, R93) -/

def rotl (x : BitVec 32) (k : Nat) : BitVec 32 := x.rotateLeft k

/-- One round of CBG-4. -/
def cbgRound (k0 k1 : BitVec 32) (i ra rb : Nat) (x : BitVec 32 × BitVec 32 × BitVec 32 × BitVec 32) :
    BitVec 32 × BitVec 32 × BitVec 32 × BitVec 32 :=
  let x0 := x.1 + x.2.1
  let x3 := rotl (x.2.2.2 ^^^ x0) ra
  let x2 := x.2.2.1 + x3
  let x1 := rotl (x.2.1 ^^^ x2) rb
  (x0 + k0 + BitVec.ofNat 32 i, x1, x2 + k1, x3)

def cbg4 (key ctr : Word) (l : Nat) : BitVec 32 :=
  let k0 : BitVec 32 := key.extractLsb' 0 32
  let k1 : BitVec 32 := key.extractLsb' 32 32
  let x := (ctr.extractLsb' 0 32, ctr.extractLsb' 32 32, BitVec.ofNat 32 l ^^^ k0, 0x9E3779B9#32 ^^^ k1)
  let y := cbgRound k0 k1 3 8 7 (cbgRound k0 k1 2 16 12 (cbgRound k0 k1 1 8 7 (cbgRound k0 k1 0 16 12 x)))
  y.1 ^^^ y.2.1 ^^^ y.2.2.1 ^^^ y.2.2.2

/-- The uniform draw (R93): (g >> 8) * 2^-24 as f32, exact. -/
def uniformF32 (g : BitVec 32) : Nat := (roundFmt fF32 false .rne (.fin false (g.toNat / 256) (2 ^ 24))).1

/-! ## The block sum, promotion and drain conversions (R76 to R82) -/

/-- Products of one block, exact. -/
def blockProducts : List Xr → List Xr → List Xr
  | a :: as, w :: ws => (mulX a w).1 :: blockProducts as ws
  | _, _ => []

/-- An infinite activation meets a zero weight (R76). -/
def infTimesZero : List Xr → List Xr → Bool
  | a :: as, w :: ws => ((match a with | .inf _ => true | _ => false) && w.isZero) || infTimesZero as ws
  | _, _ => false

/-- emax of R76: the greatest floor(log2 |p|) over the nonzero products. -/
def blockEmax : List Xr → Option Int
  | [] => none
  | .fin _ n d :: t =>
    if n = 0 then blockEmax t
    else match blockEmax t with
      | none => some (ilog2 n d)
      | some e => some (max e (ilog2 n d))
  | _ :: t => blockEmax t

/-- The kept integers m[i] with q[i] = m[i] * u, u = 2^(emax - 40) (R76, R83). -/
def blockKept (emax : Int) : List Xr → List Int
  | [] => []
  | .fin s n d :: t =>
    let p := scale2 n d (40 - emax)
    sgn s (p.1 / p.2) :: blockKept emax t
  | _ :: t => 0 :: blockKept emax t

def sumInt : List Int → Int
  | [] => 0
  | x :: t => x + sumInt t

/-- block_sum (R76): the fx34 encoding of one block and column. -/
def blockSum (a w : List Xr) : Nat :=
  if a.any Xr.isNan || w.any Xr.isNan || infTimesZero a w then fFx34.nanBits
  else
    let p := blockProducts a w
    let pos := p.any fun x => match x with | .inf s => !s | _ => false
    let neg := p.any fun x => match x with | .inf s => s | _ => false
    if pos && neg then fFx34.nanBits
    else if pos then fFx34.infBits false
    else if neg then fFx34.infBits true
    else match blockEmax p with
      | none => 0
      | some e =>
        let m := sumInt (blockKept e p)
        if m = 0 then 0
        else
          let r := scale2 m.natAbs 1 (e - 40)
          (roundFmt fFx34 false .rne (.fin (decide (m < 0)) r.1 r.2)).1

/-- promote (R77): the triple product rounded once, then the sum rounded once; a zero sum is +0 unless both are -0. -/
def promote (acc : Nat) (s : Nat) (as_ ws : Xr) : Nat :=
  let t := (roundFmt fFx34 false .rne (mulX (mulX (fFx34.val s) as_).1 ws).1).1
  (roundFmt fFx34 false .rne (addX .rne (fFx34.val acc) (fFx34.val t)).1).1

/-- The integer mode addition into a 34-bit entry, and whether it clamped (R80). -/
def clamp34 (v : Int) : Nat × Bool :=
  let c := clampInt (-(2 ^ 33)) (2 ^ 33 - 1) v
  (wrap 34 c, c != v)

/-- The residue of a 34-bit value taken as unsigned (R85). -/
def residue (v : Nat) : Nat := v % 3

/-- An accumulator entry with its residue (R81, R85). -/
def accEntry (v : Nat) : BitVec 36 := BitVec.ofNat 36 (residue (v % 2 ^ 34) * 2 ^ 34 + v % 2 ^ 34)

/-- The residue check of an entry (R85). -/
def accOk (e : BitVec 36) : Bool := e.toNat / 2 ^ 34 == residue (e.toNat % 2 ^ 34)

/-- Drain to s32 or s8 (R82): q := round_int(v * rs) + zp, saturated. -/
def drainInt (lo hi : Int) (v rs : Xr) (zp : Int) : Int :=
  match (mulX v rs).1 with
  | .nan _ => clampInt lo hi zp
  | .inf neg => if neg then lo else hi
  | .fin neg n d => clampInt lo hi (roundSigned neg n d + zp)

/-! ## Weights and activations (R73 to R75) -/

/-- A latched float weight from its planes (R74): sign, stored exponent, the top `n` of `full` significand bits. -/
def latchFloat (bias full n : Nat) (sign : Bool) (e sig : Nat) (nanPat : Bool) : Xr :=
  if nanPat && n == full && sig == 2 ^ full - 1 then .nan false
  else
    let kept := sig / 2 ^ (full - n) * 2 ^ (full - n)
    let p := scale2 kept (2 ^ (full - 1)) ((e : Int) - bias)
    .fin sign p.1 p.2

/-- An activation as it enters the path (R75); f32 is first rounded to bf16. -/
def activation (ty bitsV : Nat) : Xr :=
  match ty with
  | 0 => .ofInt (sInt 8 bitsV)
  | 11 => fE4m3.val bitsV
  | 12 => fE5m2.val bitsV
  | 14 => fBf16.val bitsV
  | 16 => fBf16.val (roundFmt fBf16 false .rne (fF32.val bitsV)).1
  | _ => .fin false 0 1

end Sys2Proof.Machine
end

