-- ==== Sys2Proof/Machine/Crypto.lean ====
section
/-! DEFINITION. AES-128-GCM with a 96-bit IV (R292, R391, R396; NIST SP 800-38D, FIPS 197), and AES-XTS-128 (R393; IEEE 1619).
Numbers are byte strings read most significant byte first (log 31). -/

namespace Sys2Proof.Machine

/-! ## AES-128 (FIPS 197) -/

def xtime (b : Nat) : Nat := if 128 ≤ b then (2 * b) ^^^ 0x11B else 2 * b

/-- The product in GF(2^8), over the low `k` bits of `b`. -/
def gmul8 : Nat → Nat → Nat → Nat
  | 0, _, _ => 0
  | k + 1, a, b => (if b % 2 = 1 then a else 0) ^^^ gmul8 k (xtime a) (b / 2)

def gmul (a b : Nat) : Nat := gmul8 8 a b

/-- x^254, the inverse of a nonzero byte. -/
def ginv (x : Nat) : Nat :=
  let x2 := gmul x x
  let x4 := gmul x2 x2
  let x8 := gmul x4 x4
  let x16 := gmul x8 x8
  let x32 := gmul x16 x16
  let x64 := gmul x32 x32
  gmul (gmul x64 x64) (gmul x64 (gmul x32 (gmul x16 (gmul x8 (gmul x4 x2)))))

def rotl8 (x k : Nat) : Nat := (x * 2 ^ k) % 256 + x / 2 ^ (8 - k)

def sbox (x : Nat) : Nat :=
  let b := ginv x
  b ^^^ rotl8 b 1 ^^^ rotl8 b 2 ^^^ rotl8 b 3 ^^^ rotl8 b 4 ^^^ 0x63

def xorBytes (a b : List Nat) : List Nat := List.zipWith (· ^^^ ·) a b

/-- The next round key of 16 bytes. -/
def nextKey (k : List Nat) (rcon : Nat) : List Nat :=
  let t := ((k.drop 13).take 3 ++ (k.drop 12).take 1).map sbox
  let w0 := xorBytes (k.take 4) (xorBytes t [rcon, 0, 0, 0])
  let w1 := xorBytes ((k.drop 4).take 4) w0
  let w2 := xorBytes ((k.drop 8).take 4) w1
  w0 ++ w1 ++ w2 ++ xorBytes ((k.drop 12).take 4) w2

/-- The state's bytes stand column by column; row r moves r places. -/
def shiftRows (x : List Nat) : List Nat := (List.range 16).map fun i => x.getD ((i + 4 * (i % 4)) % 16) 0

def mixColumn (c : List Nat) : List Nat :=
  (List.range 4).map fun i =>
    gmul (c.getD i 0) 2 ^^^ gmul (c.getD ((i + 1) % 4) 0) 3 ^^^ c.getD ((i + 2) % 4) 0 ^^^ c.getD ((i + 3) % 4) 0

def mixColumns (x : List Nat) : List Nat :=
  (List.range 4).flatMap fun j => mixColumn ((x.drop (4 * j)).take 4)

/-- Rounds 1 to 10. -/
def aesRounds : Nat → List Nat → List Nat → Nat → List Nat
  | 0, x, _, _ => x
  | n + 1, x, k, rcon =>
    let k1 := nextKey k rcon
    let y := shiftRows (x.map sbox)
    aesRounds n (xorBytes (if n = 0 then y else mixColumns y) k1) k1 (xtime rcon)

/-- One block encrypted. -/
def aesBlock (key x : List Nat) : List Nat := aesRounds 10 (xorBytes x key) key 1

/-! ## GCM (SP 800-38D) -/

/-- `n` bytes of a number, most significant first. -/
def beBytes : Nat → Nat → List Nat
  | 0, _ => []
  | n + 1, v => v / 256 ^ n % 256 :: beBytes n v

def beNat (bs : List Nat) : Nat := bs.foldl (fun v b => v * 256 + b) 0

/-- The product of GHASH, over the remaining `k` bits of `x`, the highest first. -/
def ghashMul : Nat → Nat → Nat → Nat → Nat
  | 0, _, _, z => z
  | k + 1, x, v, z =>
    ghashMul k x (if v % 2 = 1 then v / 2 ^^^ 0xE1 * 2 ^ 120 else v / 2) (if x / 2 ^ k % 2 = 1 then z ^^^ v else z)

def ghashFrom (h : Nat) : List (List Nat) → Nat → Nat
  | [], y => y
  | b :: bs, y => ghashFrom h bs (ghashMul 128 (y ^^^ beNat b) h 0)

/-- The blocks of 16 bytes, the last filled with zeros. -/
def blocks16 : Nat → List Nat → List (List Nat)
  | 0, _ => []
  | n + 1, bs => if bs.isEmpty then [] else
      let b := bs.take 16
      (b ++ List.replicate (16 - b.length) 0) :: blocks16 n (bs.drop 16)

/-- The key stream applied from counter `c` on. -/
def gctr (key : List Nat) (iv : Nat) : Nat → Nat → List Nat → List Nat
  | 0, _, _ => []
  | n + 1, c, bs => if bs.isEmpty then [] else
      xorBytes (bs.take 16) (aesBlock key (beBytes 16 (iv * 2 ^ 32 + c % 2 ^ 32))) ++ gctr key iv n (c + 1) (bs.drop 16)

def gcmCrypt (key iv : Nat) (bs : List Byte) : List Byte :=
  (gctr (beBytes 16 key) iv (bs.length / 16 + 1) 2 (bs.map BitVec.toNat)).map (BitVec.ofNat 8)

/-- The tag of a ciphertext, with the additional authenticated data `aad`. -/
def gcmTagOver (key iv : Nat) (aad ct : List Byte) : List Byte :=
  let k := beBytes 16 key
  let h := beNat (aesBlock k (List.replicate 16 0))
  let blocks := fun (bs : List Byte) => blocks16 (bs.length / 16 + 1) (bs.map BitVec.toNat)
  let y := ghashFrom h (blocks aad ++ blocks ct ++ [beBytes 8 (8 * aad.length) ++ beBytes 8 (8 * ct.length)]) 0
  (beBytes 16 (y ^^^ beNat (aesBlock k (beBytes 16 (iv * 2 ^ 32 + 1))))).map (BitVec.ofNat 8)

/-- The tag of a ciphertext with no additional authenticated data (R292, R396). -/
def gcmTag (key iv : Nat) (ct : List Byte) : List Byte := gcmTagOver key iv [] ct

/-- Ciphertext and tag. -/
def gcmEncrypt (key iv : Nat) (bs : List Byte) : List Byte × List Byte :=
  let c := gcmCrypt key iv bs
  (c, gcmTag key iv c)

/-- The plaintext when the tag matches. -/
def gcmDecrypt (key iv : Nat) (ct tag : List Byte) : Option (List Byte) :=
  if gcmTag key iv ct == tag then some (gcmCrypt key iv ct) else none

/-! ## XTS (IEEE 1619) -/

/-- The tweak of the next block: the product with x in GF(2^128), the first byte the least significant. -/
def xtsNext (t : Nat) : Nat := if 2 ^ 127 ≤ t then (2 * t % 2 ^ 128) ^^^ 0x87 else 2 * t

def leBlock (v : Nat) : List Nat := (beBytes 16 v).reverse

/-- The blocks of a data unit encrypted, from the tweak `t` on. -/
def xtsFrom (key : List Nat) : Nat → Nat → List Nat → List Nat
  | 0, _, _ => []
  | n + 1, t, bs => if bs.isEmpty then [] else
      let w := leBlock t
      xorBytes (aesBlock key (xorBytes (bs.take 16) w)) w ++ xtsFrom key n (xtsNext t) (bs.drop 16)

/-- A sector of 64 bytes as its channel stores it (R393): AES-XTS-128 under the data key `k1` and the tweak key `k2`, the data unit
the sector, the tweak its address. -/
def xtsSector (k1 k2 tweak : Nat) (bs : List Byte) : List Byte :=
  let t := aesBlock (beBytes 16 k2) (leBlock tweak)
  (xtsFrom (beBytes 16 k1) 4 (beNat t.reverse) (bs.map BitVec.toNat)).map (BitVec.ofNat 8)

end Sys2Proof.Machine
end

