-- ==== Sys2Proof/Config.lean ====
section
/-! DEFINITION. What the part and its integrator fix, and the free values: constants with no body, which no proof can see.
Each free value and each fixed constant that the spec leaves open has a row in notes/assumptions. -/

namespace Sys2Proof.Config

/-- Encoding revision of this part, ISAREV.REV (R59): T2. -/
def rev : Nat := 2

/-- Device memory in GB, DEVCAP.MEMGB (R415): the spec allows 64 or 128. DESIGN CHOICE 64 (log 20). -/
def memGB : Nat := 64

/-- Bytes of device memory (the HDM range of the Coherence section of spec/21). -/
def memBytes : Nat := memGB * 2 ^ 30

/-- Base of the command window in the system physical map; the spec gives offsets only. DESIGN CHOICE (log 8). -/
def cmdWindow : Nat := 0xF_F000_0000_0000

/-- Bytes of the command window: the highest instance offset is 0x10_0000 + 0x2000 * 64 (R55). -/
def cmdWindowBytes : Nat := 0x20_0000

/-- Base of the host register window (BAR 0, R415). DESIGN CHOICE (log 8). -/
def hostWindow : Nat := 0xF_F001_0000_0000

/-- Bytes of the host register window: counters end at 0x3200 + 0x40 * 64 (R415). -/
def hostWindowBytes : Nat := 0x1_0000

/-- Base of the engine window (R113). DESIGN CHOICE (log 8). -/
def engWindow : Nat := 0xF_F002_0000_0000

/-- Bytes of the engine window. DESIGN CHOICE (log 8). -/
def engWindowBytes : Nat := 0x10_0000

/-- The version of the state table that a running command complex keeps (R405); a staged image reads it when its own
version is the same. DESIGN CHOICE (log 14). -/
def tableVersion : Nat := 1

/-- The parameter identifier of XMSS-SHAKE256_20_256 in a signature block (R398). PRESUMED (NIST SP 800-208; log 55). -/
def xmssParam : BitVec 32 := 0x12

/-- The digest of the XMSS public key in boot ROM (R398), which the spec does not give. PRESUMED (log 55). -/
def romKey : BitVec 256 := 1

/-- Free value: the tag of the replay-protected store, keyed by the store key and the write counter (R399); log 55. -/
opaque freeStoreTag : BitVec 256 → Nat → BitVec 128

/-- Free value: the 32-bit integrity code of a sector, over the key, the ciphertext and the address (R393), whose function the
spec does not give; log 54. -/
opaque freeCode : BitVec 256 → List Byte → Nat → BitVec 32

/-- Free values: die temperature and module power as the I3C status block reads them at a moment (R420); log 55. -/
opaque freeTemperature : Nat → BitVec 16
opaque freePower : Nat → BitVec 16

/-- Free value: bits the security core draws at random (mesh keys, memory keys, R393, R395); log 12. -/
opaque freeKey : Nat → BitVec 128

/-- Free value: an XMSS or XMSS^MT signature, keyed by the index used (R398, R400); log 12. -/
opaque freeSignature : Nat → Word

/-- Free value: the digest SHA3-384 computes over an image, keyed by the image's number (R401); log 12. -/
opaque freeDigest : Nat → BitVec 384

/-- Free value: the secrets that the device's PUF reading expands into (R397): attestation seed, store key, wrap key, the same at
every boot; log 12. -/
opaque freeIdentity : Fin 3 → BitVec 256

/-- Free value: bytes of an SPDM answer whose contents the spec does not lay out (R402); log 14. -/
opaque freeAnswer : Nat → Word

/-- Free value: what an IO location of the windows reads when the spec gives it no register; log 8. -/
opaque freeIo : Nat → Byte

/-- Free value: a scale or an activation that a weir block needs and its ports do not hold; log 16. -/
opaque freePort : Nat → BitVec 32

/-- Free value: the bits of a row's last byte in memory past its last column, when a copy or a scatter of a sub-byte type writes it;
log 48. -/
opaque freePad : Nat → Byte

/-- Free value: the KIND (less 1), CAUSE and VALUE of a request that its microcode ends with STATUS 2; log 16. -/
opaque freeFault : Nat → Fin 11 × BitVec 8 × Word

/-- Free value: a unit (byte or entry) of a row that a BCAST sends and no participant holds, by collective, row and unit; log 19. -/
opaque freeRow : Nat → Nat → Nat → BitVec 34

/-- Free value: which of the outcomes 0, 1, 2 of R116 a STATUS that it does not list stands for; log 16. -/
opaque freeStatus : Nat → Fin 3

end Sys2Proof.Config
end

