-- ==== Sys2Proof/Machine/State.lean ====
section
/-! DEFINITION. The state of the J64, as plain data: every register, table, queue and memory the spec names, the
outcomes a step may stop with, and the state after reset. INVENTORY.md lists each piece with its rule. -/

namespace Sys2Proof.Machine

/-! ## Registers and one executing context -/

/-- A tagged register: data, generation tag, SCRUBBED bit (R43, R406). -/
structure Reg where
  data : Word
  tag : Gen
  scr : Bool
  deriving DecidableEq, Repr

/-- A result-queue position (R46): `resv` names the long-latency instruction that reserved it (R47). -/
structure QEnt where
  data : Word
  tag : Gen
  scr : Bool
  resv : Option Nat
  deriving DecidableEq, Repr

/-- The part of a strand's state that a region checkpoint holds (R224): named registers, queue, loop registers
(lc0, lc1, ls0, ls1, le0, le1), LCS, CMASK, FRM, FFLG, DEPS and the PC. -/
structure Arch where
  n : Vector Reg 16
  q : Vector QEnt 16
  loops : Vector Reg 6
  act : BitVec 2
  sact : BitVec 2
  cmask : BitVec 32
  frm : BitVec 2
  fflg : BitVec 5
  deps : BitVec 16
  pc : Word
  deriving DecidableEq, Repr

/-- The special registers and status bits of a strand outside the checkpoint (R54, R56, R289). -/
structure Spec where
  intrap : Bool
  sstep : Bool
  inregion : Bool
  trapc : BitVec 8
  trappc : Word
  trapv : Word
  btag : BitVec 5
  deriving DecidableEq, Repr

/-- Where a long-latency result goes (R171): a named register, the queue position it reserved, or nowhere. -/
inductive PDst where
  | n (i : Fin 16)
  | q (id : Nat)
  | none
  deriving DecidableEq, Repr

/-- An open lookahead window: how many more instructions it covers, and its owner's destination (R170, R171). -/
structure Win where
  id : Nat
  left : Nat
  dst : PDst
  deriving DecidableEq, Repr

/-- A long-latency instruction whose result has not arrived: its name, destination, result, flags, and the state
before it (R172). `form` marks an easel form that runs in the canvas or the drain: it has no result, `ckpt` is the state that
it leaves, and it commits when it retires (R169, R246). -/
structure Pend where
  id : Nat
  dst : PDst
  val : Word
  flags : BitVec 5
  ckpt : Arch
  wins : List Win
  form : Bool
  deriving DecidableEq, Repr

/-- Through which caches an access goes: the core whose L1 may hold the sector, or none for an access performed at its home
(R410); the partition whose table gives host memory its domain (R131); the attributes of the leaf (R361). -/
structure Via where
  l1 : Option (Fin 64 × Fin 4)
  part : Nat
  attr : BitVec 6
  deriving DecidableEq, Repr

/-- A store or message held back until commit: the bytes by physical address, or a message (R172, R225). -/
inductive BufEnt where
  | store (via : Via) (pieces : List (Nat × List Byte))
  | spark (m : CreMsg)
  | send (m : DepMsg)
  | sendt (m : CreMsg)
  deriving DecidableEq, Repr

/-- The in-flight work of a context: region checkpoint, region buffer, the buffer still draining, whether its head is a
message on its way (R226), long-latency instructions, windows, window stores (each with the instruction it waits for), and
the next name. -/
structure Flight where
  ckpt : Option Arch
  rbuf : List BufEnt
  drain : List BufEnt
  sent : Bool
  pend : List Pend
  wins : List Win
  wst : List (Nat × BufEnt)
  nextId : Nat
  deriving DecidableEq, Repr

/-- How a request on an outstanding list stands (R116, R220). -/
inductive ReqSt where
  | running
  | cancelled
  | faulted (kind cause : Nat) (value : Word)
  deriving DecidableEq, Repr

/-- An entry of a strand's outstanding list (R220). -/
structure OutReq where
  eng : BitVec 5
  seq : BitVec 11
  st : ReqSt
  deriving DecidableEq, Repr

/-- The states of a context slot (R16). -/
inductive SlotSt where
  | free | pending | ready | running | parked | migrating
  deriving DecidableEq, Repr

/-- The event a parked agent waits for (R17); `restored` stands until the whole context is back (R377), and `saving` says that a
yield has retired into a save: its index, and the quad, tile-table entry and rows of each range of its record (R207, R306). -/
inductive Why where
  | waita (sector : Nat)
  | waitp (due : BitVec 48)
  | deposit (deadline : Word)
  | barrier (b : Fin 16)
  | answer
  | restored
  | page (granule : BitVec 48) (kind : Access)
  | scoreboard
  | engineQueue (eng : BitVec 5)
  | outstanding
  | lease
  | flush
  | debug
  | stopRecords (part : Fin 64)
  | request
  | scrub (q : Fin 64)
  | saving (index : BitVec 12) (ranges : List (Fin 64 × Nat × Nat × Nat))
  deriving DecidableEq, Repr

/-- The copy of a strand's creation message that its slot keeps (R372), with stamp and order key. -/
structure CreCopy where
  entry : Word
  a0 : Word
  a1 : Word
  a2 : Word
  timed : Bool
  stamp : Word
  order : Word
  retriable : Bool
  tries : Nat
  deriving DecidableEq, Repr

/-- A MIGR under way: the candidate quads, the answers that their interfaces have given, and the quads whose answers are back (R25). -/
structure Query where
  cands : List (Fin 64)
  answers : List (Fin 64 × List Nat)
  back : List (Fin 64)
  deriving DecidableEq, Repr

/-- One executing context: a strand's slot, or the core of a hart, a command complex or the security core. `waited` names
the requests that the instruction at the PC has waited on in the scoreboard (R121), `latch` the operands that it read when it
first issued, while it waits (R218, R223, R232), `abortAt` the PC and the address of the access whose absent page aborted its
region (R227), `fence` says that it has left an absent wait and not walked since (R384). -/
structure Ctx where
  st : SlotSt
  why : Option Why
  arch : Arch
  gen : Gen
  sp : Spec
  fl : Flight
  outst : List OutReq
  answer : Option Answer
  refused : Option (BitVec 48 × Access)
  query : Option Query
  launch : Option LaunchId
  copy : CreCopy
  awaited : Nat
  lastGen : Option Gen
  displaced : Option (BitVec 32)
  stepping : Bool
  parkedAt : Nat
  waited : List (BitVec 5 × BitVec 11)
  latch : Option (List Word)
  abortAt : Option (Word × Word)
  fence : Bool
  deriving DecidableEq, Repr

/-! ## Cores -/

/-- A vector register (R48). -/
structure VReg where
  data : Vector (BitVec 32) 96
  tag : Gen
  scr : Bool
  deriving DecidableEq, Repr

/-- A mask register (R48). -/
structure MReg where
  data : BitVec 96
  tag : Gen
  scr : Bool
  deriving DecidableEq, Repr

/-- WBIND and the declaration of the core's last CLOAD (R59, R110, R278); `launch` and `shape` are its tile's. -/
structure WBind where
  valid : Bool
  launch : LaunchId
  shape : Word
  tgen : Gen
  handle : Fin 64
  entry : Nat
  row0 : Nat
  pln : Nat
  smode : Bool
  nosc : Bool
  scEntry : Nat
  scGen : Gen
  scHandle : Fin 64
  deriving DecidableEq, Repr

/-- An entry of a core's refusal FIFO (R19): the sender's message, whether its sender still waits, the slot reserved for it
(for a stamped event any number stands for a place in the event store), and whether its notice has arrived. -/
structure Refusal19 where
  msg : Instr
  waiting : Bool
  resv : Option (Fin 24)
  noticed : Bool
  deriving DecidableEq, Repr

/-- A waiting event of a local-time launch (R35). -/
structure Event where
  stamp : Word
  entry : Word
  a0 : Word
  a1 : Word
  a2 : Word
  order : Word
  tries : Nat
  restarted : Bool
  launch : LaunchId
  deriving DecidableEq, Repr

/-- An output channel of a core (R31): the receiving core, its input channel, the lookahead and A(c). -/
structure OutCh where
  q : Fin 64
  c : Fin 4
  ch : Fin 8
  l : BitVec 32
  deriving DecidableEq, Repr

/-- Local-time state of a core (R31 to R39). `bRose` says that a bound rose since the last null round, `dispatched` are the events the
launch distributor still holds for the core (R33). -/
structure LTime where
  launch : Option LaunchId
  vt : Word
  a : Vector Word 8
  b : Vector Word 8
  out : Vector (Option OutCh) 8
  chla : Vector (Option (BitVec 32)) 8
  store : List Event
  dispatched : List Event
  sendSeq : Nat
  blocked : Nat
  nulls : Nat
  bRose : Bool
  deriving DecidableEq, Repr

/-- A tile-table entry (R95). `freeing` marks an unbound entry whose free has not reached the head of its order, `serial` tells one
allocation of an entry from the next (R268). -/
structure Tile where
  launch : LaunchId
  handle : Fin 64
  shape : Word
  base : Nat
  gen : Gen
  freeing : Bool
  serial : Nat
  deriving DecidableEq, Repr

/-- Where an issued easel instruction stands: in the dispatch queue, in its sub-unit, or completed behind an earlier one of its
core (R123). -/
inductive DqPhase where
  | waiting | granted | done
  deriving DecidableEq, Repr

/-- An easel instruction that its core has issued and not retired (R123, R246): its slot, the instruction, the operand words
and the tiles of its handles as they were when it issued (R246, R268), the loop registers, LCS.ACT, PC and windows before it,
which a trap brings back, and the requests it has waited on (R121). -/
structure DqEnt where
  k : Fin 24
  ins : Instr
  ops : List Word
  tiles : List (Fin 64 × Nat × Tile)
  loops : Vector Reg 6
  act : BitVec 2
  pc : Word
  wins : List Win
  waited : List (BitVec 5 × BitVec 11)
  phase : DqPhase
  deriving DecidableEq, Repr

/-- A translation-buffer entry (R362): partition and PASID, granule pair, size in granules, permissions, DIRTY,
attributes. -/
structure TlbEnt where
  part : BitVec 8
  pasid : BitVec 20
  va : BitVec 48
  pa : BitVec 48
  count : Nat
  write : Bool
  exec : Bool
  dirty : Bool
  attr : BitVec 6
  deriving DecidableEq, Repr

/-- The trace unit of a core (R378, R380): TRCCTL fields, records, the CTC of the last record, TRIG0-7. -/
structure Trace where
  en : Bool
  branch : Bool
  mask : Bool
  mem : Bool
  faults : Bool
  switch : Bool
  wrap : Bool
  frozen : Bool
  full : Bool
  widx : Nat
  postleft : Nat
  freezing : Bool
  recs : List (Nat × Word)
  last : Word
  trig : Vector Word 8
  deriving DecidableEq, Repr

/-- A strand core: its slots, vector and mask registers, the lease, the ready list, messages. `cgenFresh` says that the scrub
has advanced CGEN to a value that no strand has taken yet (R62). -/
structure Core where
  ctxs : Vector Ctx 24
  w : Vector VReg 8
  m : Vector MReg 8
  leaseCtr : Gen
  leaseGen : Gen
  holder : Option (Fin 24)
  lwait : List (Fin 24)
  cgen : Gen
  cgenFresh : Bool
  scrubbing : Bool
  held : List Instr
  ready : List (Fin 24)
  run : Option (Fin 24)
  quantum : Nat
  fifo : List Refusal19
  late : List Instr
  dq : List DqEnt
  wbind : WBind
  lt : LTime
  trc : Trace
  tlb : List TlbEnt
  scrubs : BitVec 32
  dropped : BitVec 32
  deriving DecidableEq, Repr

/-! ## Tiles, easel, engines -/

/-- A palette granule of 64 bytes, byte 0 in bits [7:0] (R100). -/
structure Granule where
  data : BitVec 512
  tag : Gen
  scr : Bool
  deriving DecidableEq, Repr

/-- An accumulator row: 96 entries of 36 bits, tag, sticky SAT (R80, R81). -/
structure AccRow where
  data : Vector (BitVec 36) 96
  tag : Gen
  sat : Bool
  scr : Bool
  deriving DecidableEq, Repr

/-- Who made a scoreboard entry (R107): an instruction in an easel's sub-unit, an engine request, a tile.ld of a slot that
waits for its turn, or a tile form that has committed and waits for its turn: a free, an element write, a zeroing (R267). -/
inductive SbOwner where
  | easel (unit : SubUnit)
  | request (eng : BitVec 5) (seq : BitVec 11)
  | load (c : Fin 4) (k : Fin 24)
  | free
  | put (col : Nat) (value : Word)
  | zero
  deriving DecidableEq, Repr

/-- A scoreboard entry (R107). -/
structure SbEnt where
  id : Nat
  tile : Nat
  gen : Gen
  lo : Nat
  hi : Nat
  write : Bool
  owner : SbOwner
  deriving DecidableEq, Repr

/-- What the canvas has latched (R110, R278): the binding with its declaration, the latched rows of its two tiles, whether a
write entry has since covered one of them, and the window's planes, metadata and scales. -/
structure Canvas where
  decl : WBind
  rowLo : Nat
  rowHi : Nat
  scLo : Nat
  scHi : Nat
  stale : Bool
  planes : List Nat
  masks : Nat
  scales : List Nat
  deriving DecidableEq, Repr

/-- A barrier (R122). -/
structure Barrier where
  owner : Option LaunchId
  pending : BitVec 36
  deriving DecidableEq, Repr

/-- A request record (R284) with what the engine needs beside it; `cid` is a collective's identifier as read last (R287). -/
structure Request where
  record : Word
  rows : Nat
  kind : Nat
  tentry : Nat
  tgen : Gen
  aentry : Nat
  agen : Gen
  btag : BitVec 5
  stid : StrandId
  home : Fin 64
  launch : LaunchId
  part : BitVec 8
  queue : Fin 4096
  strict : Bool
  eng : BitVec 5
  seq : BitVec 11
  bytes : Nat
  work : Nat
  left : Nat
  recs : List Byte
  cid : Word
  order : Nat
  deriving DecidableEq, Repr

/-- What a weir unit's ports hold (R293). -/
structure Ports where
  acts : List (List Byte)
  scales : List Byte
  weights : List Byte
  sums : List (BitVec 34)
  scaleIdx : Nat
  deriving DecidableEq, Repr

/-- An engine hart: its core, its queue with the running request at the head, the next row, the hold on a
translation fault, P, SEQ, the staging buffer, the loaded key and salt, and the ports (R112 to R119, R291 to R293). -/
structure Hart where
  ctx : Ctx
  queue : List Request
  row : Nat
  holdAt : Option (BitVec 48 × Access)
  refused : Option (BitVec 48 × Access)
  lastDue : Word
  nextSeq : BitVec 11
  staging : List Byte
  gcm : Option (BitVec 128 × BitVec 32)
  ports : Ports
  tlb : List TlbEnt
  deriving DecidableEq, Repr

/-- HALTCTL of a quad but CONSENT, which reads OWNER (R368). -/
structure Halt where
  hcause : BitVec 8
  nfault : BitVec 8
  debug : Bool
  hold : Bool
  halted : Bool
  deriving DecidableEq, Repr

/-- The power state of a quad (R417). -/
inductive Power where
  | awake | drowsy | gated
  deriving DecidableEq, Repr

structure Quad where
  enabled : Bool
  cores : Vector Core 4
  harts : Vector Hart 2
  part : BitVec 8
  owner : BitVec 32
  qgen : Gen
  halt : Halt
  stopbase : Word
  tiles : List (Nat × Tile)
  pal : List (Nat × Granule)
  acc : List (Nat × AccRow)
  sb : List SbEnt
  sbNext : Nat
  canvas : Option Canvas
  colmap : List (Nat × Nat)
  spares : Nat
  inj : BitVec 16
  rr : Fin 4
  busy : List SubUnit
  bars : Vector Barrier 16
  sweeping : Bool
  scrubbing : Bool
  held : List Instr
  retired : Word
  sweeps : Word
  dropWrites : Word
  dropMsgs : Word
  tlb : List TlbEnt
  power : Power
  idleSince : Word
  seqs : List (Nat × Nat × Nat)
  deriving DecidableEq, Repr

/-! ## Launches, queues and partitions -/

/-- The launch record fields that a launch keeps (R304). -/
structure LRec where
  entry : Word
  strands : Nat
  pack : Bool
  strict : Bool
  ltm : Bool
  upol : BitVec 8
  lpol : BitVec 8
  amode : List Nat
  astride : List Nat
  cmask : BitVec 32
  trap : Word
  chan : Option Word
  tiles : List (Fin 64 × Word)
  deriving DecidableEq, Repr

/-- An entry of a launch's channel table (R307), quads by logical number. -/
structure Chan where
  fq : Nat
  fc : Fin 4
  tq : Nat
  tc : Fin 4
  outch : Fin 8
  inch : Fin 8
  l : BitVec 32
  deriving DecidableEq, Repr

/-- A launch in progress (R12, R13, R344, R346, R372), with the policies of its graph, phase and job. `next` is, for each
quad of its mask in logical order, how many strands its distributor has sent; `waiting` the quads whose message is not
accepted yet; `todo` messages that a save took back. `badColl` names the collectives refused by one participant, with the
logical quads whose participants have still to fault (R287). -/
structure Launch where
  id : LaunchId
  part : BitVec 8
  queue : Fin 4096
  image : Word
  index : Nat
  args : List Word
  qmask : Word
  rec_ : LRec
  todo : List CreMsg
  next : List Nat
  waiting : List (Fin 64)
  inflight : Nat
  job : Nat
  jobInst : Nat
  graph : Nat
  phase : Nat
  gpol : BitVec 8
  ppol : BitVec 8
  jpol : BitVec 8
  distributed : Bool
  accepted : Bool
  refused : Bool
  cancelled : Bool
  faulted : Bool
  framesDropped : Bool
  kind : BitVec 8
  cause : BitVec 8
  tries : Nat
  chans : List Chan
  badColl : List (Word × List Nat)
  deriving DecidableEq, Repr

/-- The states of a hardware queue slot (R350). -/
inductive HwSt where
  | free | idle | runnable | running | waiting | preempting | unmapping | resetting | error
  deriving DecidableEq, Repr

/-- Where the processing pointer of a queue stands: ring index or indirect buffers (R338), LOOPST (R340); `depth` is the
level whose buffer holds the loop. -/
structure IbEnt where
  next : Word
  remain : BitVec 32
  deriving DecidableEq, Repr

structure LoopSt where
  active : Bool
  start : Word
  remain : BitVec 32
  span : BitVec 8
  pos : BitVec 8
  depth : Nat
  deriving DecidableEq, Repr

/-- The state of a mapped queue that lives in the slot (R325, R336, R342). `half` is the 32-byte half of a packet read so far,
the first or the second, with the packet's address (R329). -/
structure QueueSt where
  qcb : Word
  rbase : Word
  rsize : BitVec 32
  crbase : Word
  crsize : BitVec 32
  shsave : Word
  klim : BitVec 32
  rptr : BitVec 32
  pos : BitVec 32
  err : BitVec 8
  pend : Bool
  lseq : Word
  ldone : Word
  gdone : Word
  pdone : Word
  ib : List IbEnt
  loop : LoopSt
  job : BitVec 8
  jobInst : Nat
  gpol : BitVec 8
  ppol : BitVec 8
  jpol : BitVec 8
  skip : BitVec 8
  sh : Vector Word 32
  graph : Nat
  phase : Nat
  graphOpen : List Nat
  phaseOpen : List Nat
  cancelG : List Nat
  cancelP : List Nat
  jobCancelled : Bool
  ahead : List (Word × List Byte)
  half : Option (Bool × Word × List Byte)
  stuck : Bool
  deriving DecidableEq, Repr

/-- What a saved strand keeps that its image has no place for: the kinds of its undelivered request faults, a debug
stop, the answer to its message and what its waiting form had read, when that is not to issue again from the start (R374), what
a committed region has still to send (R226), and its creation message's tries and order (R372, R375, R381). -/
structure Kept where
  id : StrandId
  outst : List OutReq
  debug : Bool
  answer : Option Answer
  latch : Option (List Word)
  drain : List BufEnt
  displaced : Option (BitVec 32)
  copy : CreCopy
  deriving DecidableEq, Repr

/-- What a saved core keeps that its record has no place for: the next send sequence number (R35), whether a bound rose since the last
null round (R39), the tries and restart of each waiting event in their order (R372), the launch and the tile shape of its weight
binding, and whether that and its scales were current (R111). Quads by logical number. -/
structure KeptCore where
  quad : Nat
  core : Fin 4
  sendSeq : Nat
  rose : Bool
  events : List (Nat × Bool)
  launch : LaunchId
  shape : Word
  bound : Bool
  scaled : Bool
  deriving DecidableEq, Repr

/-- A hardware queue slot (R349 to R353). `rsince` is the moment from which it counts as
RUNNABLE (R351), `charged` names the launches of which its save has charged a residue mismatch (R85), `holdWrite` is the page of its first held
write and `refusedW` that of a refused one (R342), `held` are its own writes that wait for a page (R342); `keptTiles`
the launches of the tile images of its save area, in their order (R376), `restoring` the strand images whose restore still waits
(R377). -/
structure HwSlot where
  qid : Fin 4096
  quantum : BitVec 16
  part : BitVec 8
  st : HwSt
  eprio : BitVec 3
  prio : BitVec 3
  en : Bool
  qmask : Word
  ssave : Word
  q : QueueSt
  since : Word
  rsince : Word
  age : Word
  ended : Bool
  granted : Word
  deadline : Bool
  saved : Bool
  charged : List LaunchId
  kept : List Kept
  keptTiles : List LaunchId
  keptCores : List KeptCore
  restoring : List (List Byte)
  holdFetch : Option (BitVec 48 × Access)
  refused : Option (BitVec 48 × Access)
  holdWrite : Option (BitVec 48 × Access)
  refusedW : Option (BitVec 48 × Access)
  held : List (Word × List Byte)
  waitSector : Option Nat
  tlb : List TlbEnt
  deriving DecidableEq, Repr

/-- A fault recorded for a containment walk (R370). -/
structure FaultRec where
  kind : Nat
  cause : Nat
  strand : Option StrandId
  launch : Option LaunchId
  rseq : Nat
  deriving DecidableEq, Repr

/-- An entry of a job table (R348). -/
structure JobEnt where
  job : Nat
  outst : Nat
  done : Nat
  cancelled : Bool
  faulted : Bool
  pol : BitVec 8
  deriving DecidableEq, Repr

/-- The partition states (R388). -/
inductive PartSt where
  | empty | unlocked | locked | run | error | releasing
  deriving DecidableEq, Repr

structure Part where
  st : PartSt
  keyid : BitVec 6
  meshKey : Option (BitVec 128)
  memKey : Option (BitVec 256)
  rgnb : Vector Word 64
  rgnl : Vector Word 64
  pfd0 : Word
  pfd1 : Word
  pfd2 : Word
  line : Bool
  walking : Bool
  faults : List FaultRec
  rseq : Nat
  stopCount : Nat
  toStop : List Engine
  jobs : List JobEnt
  jobBase : Word
  live : List (Word × List LiveRec)
  bps : List (Word × BitVec 32)
  ucode : List Host.Cell
  tdiErrors : Nat
  releaseStep : Nat
  acked : Bool
  measure : Option (BitVec 384)
  deriving DecidableEq, Repr

/-! ## Translation, host interface, management -/

/-- Who a monitor wakes (R218, R341, R364). -/
inductive MonFor where
  | agent (a : Agent)
  | slot (i : Fin 16)
  | walk (part : BitVec 8) (pasid : BitVec 20) (granule : BitVec 48)
  deriving DecidableEq, Repr

structure Monitor where
  sector : Nat
  who : MonFor
  deriving DecidableEq, Repr

/-- A page request group outstanding, or waiting for a free group (R364). -/
structure PageReq where
  part : BitVec 8
  pasid : BitVec 20
  granule : BitVec 48
  kind : Access
  deriving DecidableEq, Repr

/-- A non-leaf entry of the walk cache (R362). -/
structure WalkEnt where
  part : BitVec 8
  pasid : BitVec 20
  addr : Nat
  value : Word
  deriving DecidableEq, Repr

/-- The translation service. `granOut` are the GRANULE reports that the host has read and not answered, `granIrq` says that the
host's GRANULE interrupt has been raised and no report read since (R360). -/
structure Xlat where
  walk : List WalkEnt
  monitors : List Monitor
  groups : List PageReq
  groupWait : List PageReq
  granq : List PageReq
  granWait : List PageReq
  granOut : List PageReq
  granIrq : Bool
  deriving DecidableEq, Repr

/-- MOESI states of a sector in the basin, and the host's copy (R410). -/
inductive Moesi where
  | m | o | e | s | i
  deriving DecidableEq, Repr

inductive HostCopy where
  | none | shared | exclusive
  deriving DecidableEq, Repr

/-- A cached sector of 64 bytes: the KEYID that tags it (R393), basin state, L1 copies (quad, core, dirty), the host's copy. -/
structure Line where
  sector : Nat
  keyid : Nat
  st : Moesi
  l1 : List (Fin 64 × Fin 4 × Bool)
  host : HostCopy
  deriving DecidableEq, Repr

/-- Memory and what lies behind it: `mem` is what an agent reads, `arr` what memory-side observers read (R150). `foreign` are the
sectors whose data and integrity code were made under another KEYID than their granule's, with that KEYID, 64 for a key that
is gone, `altered` those whose ciphertext or code in their channel is no longer what was stored (R393). -/
structure Store where
  mem : List Host.Cell
  arr : List Host.Cell
  lines : List Line
  poison : List Nat
  foreign : List (Nat × Nat)
  altered : List Nat
  owners : List (Nat × BitVec 16)
  hdmBase : Nat
  deriving DecidableEq, Repr

/-- An event-log entry (R415). -/
structure EvEnt where
  ctc : BitVec 32
  inj : Bool
  block : BitVec 8
  pcol : BitVec 7
  lcol : BitVec 7
  quad : BitVec 6
  deriving DecidableEq, Repr

/-- Cancel marks of an unmapped queue, which the QCB has no field for (R347): its partition, its current job, and whether
its graph, its phase and its job are cancelled. -/
structure Marks where
  part : BitVec 8
  job : BitVec 8
  graph : Bool
  phase : Bool
  jobC : Bool
  deriving DecidableEq, Repr

/-- The command window's registers beside the slots' (R332, R349, R373, R413), the cancel marks of unmapped queues, and
whether an interrupt to the active command complex has been raised (R330, R343, R376). -/
structure CmdWin where
  kapbase : Word
  kftbase : Word
  astbase : Word
  btbase : Word
  kpend : Vector Word 64
  marks : List (Nat × Marks)
  dropKicks : Nat
  ageint : BitVec 32
  pdeadline : BitVec 32
  biasGran : BitVec 36
  biasAuto : Bool
  biasBusy : Bool
  biasTarget : Bool
  irq : Bool
  deriving DecidableEq, Repr

/-- A command complex or the security core: its context, CSEL, and what it runs (R55, R405). -/
inductive CmdRole where
  | off | active | standby | failed
  deriving DecidableEq, Repr

structure CmdCore where
  ctx : Ctx
  csel : BitVec 16
  role : CmdRole
  fw : Nat
  fault : Option (Nat × Nat)
  deriving DecidableEq, Repr

/-- A copy-in key slot (R396). -/
structure KeySlot where
  key : BitVec 128
  salt : BitVec 32
  grant : Option (Fin 64)
  deriving DecidableEq, Repr

/-- An SPDM session (R402): its number, the port's or the partition's tenant, whether FINISH has completed it. -/
structure Session where
  num : Nat
  tenant : Option (Fin 64)
  finished : Bool
  keyGen : Nat
  deriving DecidableEq, Repr

/-- The requests that the responder offers (R402). -/
inductive SpdmRequest where
  | getVersion | getCapabilities | negotiateAlgorithms | getDigests | getCertificate | challenge | getMeasurements
  | keyExchange | finish | heartbeat | keyUpdate | endSession | setCertificate | vendorDefined
  deriving DecidableEq, Repr

/-- The algorithms that the responder selects (R402): its base hash, and its extended asymmetric algorithm of the Pelga
registry. -/
inductive BaseHash where
  | sha3_384
  deriving DecidableEq, Repr

inductive ExtAsym where
  | xmssMt
  deriving DecidableEq, Repr

/-- The answers an SPDM responder gives (R402): words, the versions that it speaks (major, minor), the requests that it offers,
the algorithms, or an error. -/
inductive SpdmAnswer where
  | ok (words : List Word)
  | versions (vs : List (Nat × Nat))
  | capabilities (offers : List SpdmRequest)
  | algorithms (hash : BaseHash) (asym : ExtAsym)
  | error
  deriving DecidableEq, Repr

/-- The signed responses being prepared for a certificate slot, each with the index of its signature and its words (R400), a rewrite
waiting on them, and the CTC of its arrival (R403). -/
structure CertSlot where
  chain : Nat
  epoch : Nat
  pending : List (Nat × List Word)
  rewrite : Option Nat
  since : Word
  deriving DecidableEq, Repr

/-- The staged images, of the command complexes and of the other components, and the activation request (R404, R405). -/
structure Update where
  staged : Option FwImage
  others : List FwImage
  wanted : Bool
  reading : Bool
  deriving DecidableEq, Repr

/-- What a debug read returns (R66, R85, R406): data, tag, match flag, the flags SCRUBBED and PROTECTED, and the columns of an
accumulator row whose residue does not match. -/
structure DebugView where
  data : Nat
  tag : Gen
  matches_ : Bool
  scrubbed : Bool
  protected_ : Bool
  mismatch : List Nat
  deriving DecidableEq, Repr

/-- The secrets that the PUF reading expands into (R397): the attestation seed, the key of the replay-protected store, and the
key that wraps certificate slots. -/
structure Secrets where
  attest : BitVec 256
  store : BitVec 256
  wrap : BitVec 256
  deriving DecidableEq, Repr

/-- The I3C status block (R420): BOOTSTAT, the die temperature in steps of 0.5 °C, the module power in steps of 0.1 W. -/
structure I3cStatus where
  bootstat : Word
  temperature : BitVec 16
  power : BitVec 16
  deriving DecidableEq, Repr

/-- The security core's stores and the management interfaces: the replay-protected store (`xmssEnd`, `svn`, `release`,
`certDigest`, with its write counter and its tag, R399), the firmware in flash by measurement index (R401), the digests of the
public keys in ROM and in the configuration (R398), what the configuration decides (R401, R403, R416), the key of KEYID 0
(R393), the IDE streams with their keys and the TDIs bound to them (R395), and the I3C interface (R419, R420). -/
structure Mgmt where
  slots : Vector KeySlot 64
  xmssNext : Nat
  xmssEnd : Nat
  svn : Vector (BitVec 16) 8
  release : List (Fin 64)
  certDigest : Vector (BitVec 384) 8
  storeCtr : Nat
  storeTag : BitVec 128
  flash : Vector FwImage 8
  romKeys : List (BitVec 256)
  blobKeys : List (BitVec 256)
  unsigned : BitVec 64
  key0 : BitVec 256
  certs : Vector CertSlot 8
  reading : List (Fin 2 × Fin 8 × Nat)
  sessions : List Session
  answers : List SpdmAnswer
  measures : Vector (Option (BitVec 384)) 8
  update : Update
  identity : Option Secrets
  certOwner : Bool
  allowDebug : Bool
  envelope : Nat
  ide : List (IdeStream × BitVec 256 × List (Fin 64))
  bootStage : Nat
  bootErr : Nat
  bootDetail : Nat
  linkUp : Nat
  evlog : List EvEnt
  evread : Word
  granRead : Word
  tables : List (Nat × Nat × Word × BitVec 5)
  hostAnswer : List Byte
  debugView : Option DebugView
  i3cFailure : Option (Nat × Nat)
  i3cStatus : Option I3cStatus
  deriving DecidableEq, Repr

/-! ## The machine -/

/-- Whose move comes next, as data: the i-th event in flight, an event from outside or of the hardware's own timing
with what it carries, the head packet of a slot, an instruction of an agent, a row of an engine's request, or clock
ticks (log 2). -/
inductive Turn where
  | deliver (i : Nat)
  | input (e : Instr) (r : Req)
  | packet (slot : Fin 16)
  | run (a : Agent)
  | engine (a : Agent)
  | tick (n : Nat)
  deriving DecidableEq, Repr

/-- The model's own bookkeeping (log 2, log 15): the agent whose instruction runs, the request register, the events on
their way, the moves to come, and the counter that feeds the free values and names new things. -/
structure Model where
  who : Agent
  req : Req
  inflight : List Instr
  turns : List Turn
  freeCtr : Nat
  deriving DecidableEq, Repr

structure State where
  ctc : Word
  clock : Nat
  lastStep : Word
  quads : Vector Quad 64
  weirs : Vector Hart 16
  launches : List Launch
  slots : Vector HwSlot 16
  parts : Vector Part 64
  cw : CmdWin
  xl : Xlat
  mm : Store
  cmds : Vector CmdCore 2
  sec : CmdCore
  mg : Mgmt
  md : Model
  deriving DecidableEq, Repr

/-- Where a run stops for good. No instruction of the opcode table stops on every path. -/
inductive Fault where
  /-- A command core or the security core, which address system physical memory directly (R357), accessed an address
  at or past 2^52, which no register of the spec can name (RGNL, PAHI and KAPBASE end at bit 51). Safe. -/
  | noSuchAddress (addr : Nat)
  deriving DecidableEq, Repr

/-- Why an instruction has no meaning. -/
inductive Refusal where
  /-- An instruction of the opcode table whose meaning has not been written. Safe. -/
  | notModelled (mnemonic : String)
  deriving DecidableEq, Repr

/-! ## The state after reset -/

namespace Init

def reg : Reg := { data := 0, tag := 0, scr := true }
def qent : QEnt := { data := 0, tag := 0, scr := true, resv := none }

def arch : Arch :=
  { n := Vector.replicate 16 reg, q := Vector.replicate 16 qent, loops := Vector.replicate 6 reg, act := 0, sact := 0
    cmask := 0xFFFF00F8, frm := 0, fflg := 0, deps := 0, pc := 0 }

def spec : Spec :=
  { intrap := false, sstep := false, inregion := false, trapc := 0, trappc := 0, trapv := 0, btag := 0 }

def flight : Flight := { ckpt := none, rbuf := [], drain := [], sent := false, pend := [], wins := [], wst := [], nextId := 0 }

def copy : CreCopy :=
  { entry := 0, a0 := 0, a1 := 0, a2 := 0, timed := false, stamp := 0, order := 0, retriable := false, tries := 0 }

def ctx : Ctx :=
  { st := .free, why := none, arch := arch, gen := 0, sp := spec, fl := flight, outst := [], answer := none
    refused := none, query := none, launch := none, copy := copy, awaited := 0, lastGen := none, displaced := none
    stepping := false, parkedAt := 0, waited := [], latch := none, abortAt := none, fence := false }

def vreg : VReg := { data := Vector.replicate 96 0, tag := 0, scr := true }
def mreg : MReg := { data := 0, tag := 0, scr := true }

def wbind : WBind :=
  { valid := false, launch := { hwq := 0, lseq := 0 }, shape := 0, tgen := 0, handle := 0, entry := 0, row0 := 0, pln := 0, smode := false, nosc := false
    scEntry := 0, scGen := 0, scHandle := 0 }

def ltime : LTime :=
  { launch := none, vt := 0, a := Vector.replicate 8 0, b := Vector.replicate 8 0, out := Vector.replicate 8 none
    chla := Vector.replicate 8 none, store := [], dispatched := [], sendSeq := 0, blocked := 0, nulls := 0
    bRose := false }

def trace : Trace :=
  { en := false, branch := false, mask := false, mem := false, faults := false, switch := false, wrap := true
    frozen := false, full := false, widx := 0, postleft := 0, freezing := false, recs := [], last := 0
    trig := Vector.replicate 8 0 }

/-- CGEN resets to 1 (R60). -/
def core : Core :=
  { ctxs := Vector.replicate 24 ctx, w := Vector.replicate 8 vreg, m := Vector.replicate 8 mreg, leaseCtr := 0
    leaseGen := 0, holder := none, lwait := [], cgen := 1, cgenFresh := false, scrubbing := false, held := [], ready := [], run := none
    quantum := 0, fifo := [], late := [], dq := [], wbind := wbind, lt := ltime, trc := trace, tlb := []
    scrubs := 0, dropped := 0 }

def ports : Ports := { acts := [], scales := [], weights := [], sums := [], scaleIdx := 0 }

/-- An engine's first request takes SEQ 0 with P = 0 (R119). -/
def hart : Hart :=
  { ctx := { ctx with st := .running }, queue := [], row := 0, holdAt := none, refused := none, lastDue := 0
    nextSeq := 0, staging := List.replicate 4096 0, gcm := none, ports := ports, tlb := [] }

def quad : Quad :=
  { enabled := true, cores := Vector.replicate 4 core, harts := Vector.replicate 2 hart, part := 0, owner := 0
    qgen := 1, halt := { hcause := 0, nfault := 0, debug := false, hold := false, halted := false }, stopbase := 0
    tiles := [], pal := [], acc := [], sb := [], sbNext := 0, canvas := none, colmap := [], spares := 0, inj := 0
    rr := 0, busy := [], bars := Vector.replicate 16 { owner := none, pending := 0 }, sweeping := false
    scrubbing := false, held := [], retired := 0, sweeps := 0, dropWrites := 0, dropMsgs := 0, tlb := []
    power := .awake, idleSince := 0, seqs := [] }

def queue : QueueSt :=
  { qcb := 0, rbase := 0, rsize := 0, crbase := 0, crsize := 0, shsave := 0, klim := 0, rptr := 0, pos := 0, err := 0
    pend := false, lseq := 0, ldone := 0, gdone := 0, pdone := 0, ib := []
    loop := { active := false, start := 0, remain := 0, span := 0, pos := 0, depth := 0 }, job := 0, jobInst := 0, gpol := 2
    ppol := 2, jpol := 2, skip := 0, sh := Vector.replicate 32 0, graph := 0, phase := 0, graphOpen := []
    phaseOpen := [], cancelG := [], cancelP := [], jobCancelled := false, ahead := [], half := none, stuck := false }

def slot : HwSlot :=
  { qid := 0, quantum := 0, part := 0, st := .free, eprio := 0, prio := 0, en := false, qmask := 0, ssave := 0
    q := queue, since := 0, rsince := 0, age := 0, ended := false, granted := 0, deadline := false, saved := false, charged := [], kept := []
    keptTiles := [], keptCores := [], restoring := [], holdFetch := none, refused := none, holdWrite := none, refusedW := none, held := [], waitSector := none, tlb := [] }

/-- PFD2.BAD reads 1 while the descriptor is all zero (R358). -/
def part : Part :=
  { st := .empty, keyid := 0, meshKey := none, memKey := none, rgnb := Vector.replicate 64 0
    rgnl := Vector.replicate 64 0, pfd0 := 0, pfd1 := 0, pfd2 := 0, line := false, walking := false, faults := []
    rseq := 0, stopCount := 0, toStop := [], jobs := [], jobBase := 0, live := [], bps := [], ucode := []
    tdiErrors := 0, releaseStep := 0, acked := false, measure := none }

/-- AGEINT 50,000 (R349), PDEADLINE 200,000 (R373), BIASCMD.AUTO 1 (R413). -/
def cmdWin : CmdWin :=
  { kapbase := 0, kftbase := 0, astbase := 0, btbase := 0, kpend := Vector.replicate 64 0, marks := [], dropKicks := 0
    ageint := 50000, pdeadline := 200000, biasGran := 0, biasAuto := true, biasBusy := false, biasTarget := false
    irq := false }

def xlat : Xlat := { walk := [], monitors := [], groups := [], groupWait := [], granq := [], granWait := [], granOut := [], granIrq := false }

def store : Store := { mem := [], arr := [], lines := [], poison := [], foreign := [], altered := [], owners := [], hdmBase := 0 }

def cmdCore : CmdCore :=
  { ctx := { ctx with st := .running }, csel := 0, role := .off, fw := 0, fault := none }

/-- The firmware that a new module's flash holds at a measurement index, signed under the ROM's key. -/
def firmware (i : Fin 8) : FwImage :=
  { comp := i, number := i.val, version := 1, svn := 0, sig := { param := Config.xmssParam, key := Config.romKey, verifies := true } }

def mgmt : Mgmt :=
  { slots := Vector.replicate 64 { key := 0, salt := 0, grant := none }, xmssNext := 0, xmssEnd := 0
    svn := Vector.replicate 8 0, release := [], certDigest := Vector.replicate 8 0, storeCtr := 0, storeTag := 0
    flash := Vector.ofFn firmware, romKeys := [Config.romKey], blobKeys := [], unsigned := 0, key0 := 0
    certs := Vector.replicate 8 { chain := 0, epoch := 0, pending := [], rewrite := none, since := 0 }, reading := []
    sessions := [], answers := [], measures := Vector.replicate 8 none
    update := { staged := none, others := [], wanted := false, reading := false }, identity := none, certOwner := true
    allowDebug := true, envelope := 120, ide := [], bootStage := 0, bootErr := 0, bootDetail := 0, linkUp := 0
    evlog := [], evread := 0, granRead := 0, tables := [], hostAnswer := [], debugView := none
    i3cFailure := none, i3cStatus := none }

def req : Req :=
  { slot := 0, port := 0, session := 0, cert := 0, index := 0, offset := 0, part := none, key := 0, salt := 0
    keySlot := 0, chain := 0, on := false, image := { firmware 0 with version := 0 }
    stream := .link .io false, pasid := 0, granule := 0, granuleHi := 0, kind := .read
    host := { write := false, rmw := none, addr := 0, bytes := [], part := none, ide := false }, sector := 0
    reg := .copySlotClear 0 }

def model : Model := { who := .sec, req := req, inflight := [.coldReset], turns := [], freeCtr := 0 }

end Init

/-- The machine at power-on: every register at the value the spec states for reset, or the value that log 1, 4, 9, 13
or 20 to 22 names; the cold reset is under way, so that the boot stages of R419 are the first step (log 3). -/
def State.reset : State :=
  { ctc := 0, clock := 23, lastStep := 0, quads := Vector.replicate 64 Init.quad
    weirs := Vector.replicate 16 Init.hart, launches := [], slots := Vector.replicate 16 Init.slot
    parts := Vector.replicate 64 Init.part, cw := Init.cmdWin, xl := Init.xlat, mm := Init.store
    cmds := Vector.replicate 2 Init.cmdCore, sec := Init.cmdCore, mg := Init.mgmt, md := Init.model }

end Sys2Proof.Machine
end

