-- ==== Sys2Proof/Machine/Mem.lean ====
section
/-! DEFINITION. Memory by system physical address (R126): a list of cells in one canonical form, addresses strictly
rising and no cell equal to what an unlisted address reads as. -/

namespace Sys2Proof.Machine

/-- What an address that the list does not name reads as: zero. For device memory the boot writes zero to every sector
(R419); for host memory it is the model's choice (DESIGN CHOICE, log 4). -/
def unlisted : Byte := 0

/-- The byte at an address. -/
def readCell : List Host.Cell → Nat → Byte
  | [], _ => unlisted
  | (a', b) :: t, a => if a = a' then b else if a < a' then unlisted else readCell t a

/-- The list with one byte written; writing what an unlisted address reads as removes the cell. -/
def writeCell : List Host.Cell → Nat → Byte → List Host.Cell
  | [], a, v => if v = unlisted then [] else [(a, v)]
  | (a', b) :: t, a, v =>
    if a < a' then (if v = unlisted then (a', b) :: t else (a, v) :: (a', b) :: t)
    else if a = a' then (if v = unlisted then t else (a, v) :: t)
    else (a', b) :: writeCell t a v

/-- Every address of the list lies above `lo`, strictly rising, and no cell holds the unlisted value. -/
def cellsAbove : Nat → List Host.Cell → Bool
  | _, [] => true
  | lo, (a, b) :: t => decide (lo ≤ a) && b != unlisted && cellsAbove (a + 1) t

/-- The canonical form. -/
def Memory.wf (m : List Host.Cell) : Bool := cellsAbove 0 m

/-- `len` bytes from `a` up. -/
def readCells (m : List Host.Cell) (a : Nat) : Nat → List Byte
  | 0 => []
  | k + 1 => readCell m a :: readCells m (a + 1) k

/-- Bytes written from `a` up. -/
def writeCells (m : List Host.Cell) (a : Nat) : List Byte → List Host.Cell
  | [] => m
  | b :: bs => writeCells (writeCell m a b) (a + 1) bs

/-- The pieces of an access of `len` bytes at `a`, split at every 32-byte boundary, in rising order (R126). -/
def pieces : Nat → Nat → Nat → List (Nat × Nat)
  | 0, _, _ => []
  | fuel + 1, a, len =>
    if len = 0 then []
    else
      let n := min len (32 - a % 32)
      (a, n) :: pieces fuel (a + n) (len - n)

/-- The home slice of a physical address (R409). -/
def home (pa : Nat) : Nat :=
  let x := fun lo => pa / 2 ^ lo % 16
  x 8 ^^^ x 16 ^^^ x 24 ^^^ x 32 ^^^ x 40 ^^^ x 48

/-- What a system physical address names: device memory, host memory, or a window that is IO (R130). -/
inductive Target where
  | device | host | kick | cmdWindow | hostWindow | engWindow
  deriving DecidableEq, Repr

def inRange (pa base len : Nat) : Bool := decide (base ≤ pa) && decide (pa < base + len)

/-- The kick aperture, 4,096 pages of 4 KiB at KAPBASE [51:24] (R332). While V is 0 a placed aperture stays where it is and its
kicks are dropped and counted; with V and BASE both 0 none is placed yet (DESIGN CHOICE, log 36). -/
def kickBase (s : State) : Option Nat :=
  if bitAt s.cw.kapbase 0 || bits s.cw.kapbase 51 24 != 0 then some (bits s.cw.kapbase 51 24 * 2 ^ 24) else none

def target (s : State) (pa : Nat) : Target :=
  if inRange pa Config.cmdWindow Config.cmdWindowBytes then .cmdWindow
  else if inRange pa Config.hostWindow Config.hostWindowBytes then .hostWindow
  else if inRange pa Config.engWindow Config.engWindowBytes then .engWindow
  else if (match kickBase s with | some b => inRange pa b (2 ^ 24) | none => false) then .kick
  else if inRange pa s.mm.hdmBase Config.memBytes then .device
  else .host

/-- Reads bytes at a physical address. -/
def readPhys (s : State) (pa len : Nat) : List Byte := readCells s.mm.mem pa len

def readPhysN (s : State) (pa len : Nat) : Nat := leNat (readPhys s pa len)

/-- The coherence domains (R129). -/
inductive Dom where
  | sys | dev | io
  deriving DecidableEq, Repr

/-- The region-table entry of lowest index that matches granule `g` (R130). -/
def rgnMatch (p : Part) (g : Nat) : Nat → Nat → Option Nat
  | 0, _ => none
  | k + 1, i =>
    let b := p.rgnb.toList.getD i 0
    let l := p.rgnl.toList.getD i 0
    if bitAt b 0 && bits b 2 1 != 3 && decide (bits b 51 16 ≤ g) && decide (g ≤ bits l 51 16) then some (bits b 2 1)
    else rgnMatch p g k (i + 1)

/-- The ownership entry of a granule: V, SHAREABLE, KEYID, PART (R392). -/
def ownerOf (s : State) (pa : Nat) : BitVec 16 := (lookupNat s.mm.owners (pa / 65536)).getD 0

def ownV (e : BitVec 16) : Bool := e.toNat / 2 ^ 15 % 2 == 1
def ownShare (e : BitVec 16) : Bool := e.toNat / 2 ^ 14 % 2 == 1
def ownKey (e : BitVec 16) : Nat := e.toNat / 256 % 64
def ownPart (e : BitVec 16) : Nat := e.toNat % 256

/-- The key identifier under which a granule's sectors are encrypted: 0 for one that no partition owns (R392, R393). -/
def granuleKey (e : BitVec 16) : Nat := if ownV e then ownKey e else 0

/-- The domain of an address for a device agent of partition `part` (R130, R131): the owner's table for device memory,
DEV for a granule that no partition owns, the agent's own table for host memory, where DEV reads as SYS. -/
def domain (s : State) (part : Nat) (pa : Nat) : Dom :=
  let tbl := fun (p : Nat) => match s.parts.toList[p]? with
    | some t => rgnMatch t (pa / 65536) 64 0
    | none => none
  match target s pa with
  | .kick | .cmdWindow | .hostWindow | .engWindow => .io
  | .device =>
    if ownV (ownerOf s pa) then
      match tbl (ownPart (ownerOf s pa)) with
      | some 0 => .sys
      | some 2 => .io
      | _ => .dev
    else .dev
  | .host =>
    match tbl part with
    | some 2 => .io
    | _ => .sys

/-- Appends an event to those in flight. -/
def post (e : Instr) (s : State) : State := { s with md := { s.md with inflight := s.md.inflight ++ [e] } }

def postAll : List Instr → State → State
  | [], s => s
  | e :: t, s => postAll t (post e s)

/-- Events that waited, before those in flight. -/
def postFront (es : List Instr) (s : State) : State := { s with md := { s.md with inflight := es ++ s.md.inflight } }

/-- A fresh name for a message or a free value, and the counter advanced (log 15). -/
def fresh (s : State) : Nat × State :=
  (s.md.freeCtr, { s with md := { s.md with freeCtr := s.md.freeCtr + 1 } })

/-- The monitors that a write to a sector fires, as events: WAITA and WAITMEM waiters, and walks (R219, R364). -/
def monitorEvents (ms : List Monitor) (sector : Nat) : List Instr :=
  let here := ms.filter fun m => m.sector == sector
  let walks := here.any fun m => match m.who with | .walk .. => true | .agent _ | .slot _ => false
  let waits := here.any fun m => match m.who with | .walk .. => false | .agent _ | .slot _ => true
  (if waits then [Instr.monitorFire sector] else []) ++ (if walks then [Instr.walkMonitorFire sector] else [])

/-- A sector that nothing holds, tagged with the KEYID of its granule (R393, R410). -/
def noLine (s : State) (sector : Nat) : Line :=
  { sector := sector, keyid := granuleKey (ownerOf s (64 * sector)), st := .i, l1 := [], host := .none }

/-- The cached sector, or one not held (R410): a line under another KEYID than the granule's is never returned (R393). -/
def lineOf (s : State) (sector : Nat) : Line :=
  match s.mm.lines.find? fun l => l.sector == sector && l.keyid == (noLine s sector).keyid with
  | some l => l
  | none => noLine s sector

/-- Records the coherence state of a sector, kept sorted; a sector held nowhere is not listed. -/
def putLine (l : Line) (s : State) : State :=
  let rest := s.mm.lines.filter fun x => x.sector != l.sector
  let keep := !(l.st == .i && l.l1.isEmpty && l.host == .none)
  let new := if keep then rest.filter (fun x => decide (x.sector < l.sector)) ++ [l] ++
      rest.filter (fun x => decide (l.sector < x.sector)) else rest
  { s with mm := { s.mm with lines := new } }

/-- The sectors of 64 bytes that a run of bytes touches. -/
def sectors (a len : Nat) : List Nat :=
  if len = 0 then [] else (List.range ((a + len - 1) / 64 - a / 64 + 1)).map (fun i => a / 64 + i)

/-- An access that no L1 takes part in, for an agent of a partition. -/
def Via.home (part : Nat) : Via := { l1 := none, part := part, attr := 0 }

/-- CLEVEL of a leaf's attributes, 3 acting as 0, and EVPRI (R361). -/
def Via.clevel (v : Via) : Nat := if v.attr.toNat % 4 = 3 then 0 else v.attr.toNat % 4
def Via.evpri (v : Via) : Nat := v.attr.toNat / 16

/-- A sector of an IO location: never cached (R131). -/
def ioSector (v : Via) (sector : Nat) (s : State) : Bool := domain s v.part (64 * sector) == .io

/-- A DEV location of a partition other than the agent's: the agent is treated as a host thread is, and its access is performed
uncached at the home slice (R131). -/
def foreignDev (v : Via) (sector : Nat) (s : State) : Bool :=
  let o := ownerOf s (64 * sector)
  ownV o && ownPart o != v.part && domain s v.part (64 * sector) == .dev

/-- The core whose L1 an access may allocate a sector in. -/
def Via.l1For (v : Via) (sector : Nat) (s : State) : Option (Fin 64 × Fin 4) := if foreignDev v sector s then none else v.l1

/-- A sector written back to the memory array (R150). -/
def arrBack (sector : Nat) (s : State) : State :=
  let bs := readPhys s (64 * sector) 64
  { s with mm := { s.mm with arr := writeCells s.mm.arr (64 * sector) bs } }

/-- A write's effect on a sector's copies (R361, R410): the writing core's L1 holds it dirty, or the basin does, or neither and
the array holds it; host copies are recalled; other L1 copies are dropped. -/
def lineWritten (v : Via) (sector : Nat) (s : State) : State :=
  if ioSector v sector s || v.clevel == 2 then
    putLine (noLine s sector) (arrBack sector s)
  else match (if v.clevel == 0 then v.l1For sector s else none) with
    | some (q, c) => putLine { noLine s sector with st := .o, l1 := [(q, c, !v.attr.getLsbD 2)] } s
    | none => putLine { noLine s sector with st := .m } s

/-- A basin state once another agent shares the sector (R410). -/
def Moesi.shared : Moesi → Moesi
  | .m | .o => .o
  | .e | .s | .i => .s

/-- A line whose exclusive host copy has been recalled, with its dirty data (R411). -/
def Line.recalled (l : Line) : Line := if l.host == .exclusive then { l with host := .none, st := .m } else l

/-- A dirty sector of which no other copy is left is in M, not in O (R410). -/
def Line.alone (l : Line) : Line := if l.st == .o && l.l1.isEmpty && l.host == .none then { l with st := .m } else l

/-- A read's effect on a sector's copies (R361, R410, R411): an exclusive copy of the host is recalled; the core's L1 shares the
sector, or the basin alone; a streaming leaf allocates nothing on a miss. -/
def lineRead (v : Via) (sector : Nat) (s : State) : State :=
  let l := (lineOf s sector).recalled
  let kept := if l == lineOf s sector then s else putLine l s
  if ioSector v sector s || v.clevel == 2 || (v.evpri == 3 && l.st == .i) then kept
  else match v.l1For sector s with
    | none => kept
    | some (q, c) =>
      if v.clevel == 1 then (if l.st == .i then putLine { l with st := .s } s else kept)
      else if l.l1.any (fun x => x.1 == q && x.2.1 == c) then kept
      else putLine { l with st := l.st.shared, l1 := l.l1 ++ [(q, c, false)] } s

def foldSectors (f : Nat → State → State) : List Nat → State → State
  | [], s => s
  | x :: t, s => foldSectors f t (f x s)

/-- Walk-cache entries whose table entry lies in the bytes written are dropped, so that a walk after the write sees it
(R152). -/
def dropWalks (pa len : Nat) (s : State) : State :=
  if s.xl.walk.isEmpty then s
  else { s with xl := { s.xl with walk := s.xl.walk.filter fun w => !(decide (w.addr < pa + len) && decide (pa < w.addr + 8)) } }

/-- The write covers the whole of a sector. -/
def coversSector (pa len x : Nat) : Bool := decide (pa ≤ 64 * x) && decide (64 * x + 64 ≤ pa + len)

/-- A whole sector written is under its granule's own key, with a code of its own, from then on (R393; log 54). -/
def Store.restored (m : Store) (pa len : Nat) : Store :=
  { m with foreign := m.foreign.filter fun e => !coversSector pa len e.1
           altered := m.altered.filter fun x => !coversSector pa len x }

/-- Writes bytes at a physical address: what every agent reads from now on, with the monitors it fires. -/
def writePhys (v : Via) (pa : Nat) (bs : List Byte) (s : State) : State :=
  let s1 := dropWalks pa bs.length { s with mm := { s.mm.restored pa bs.length with mem := writeCells s.mm.mem pa bs } }
  let secs := sectors pa bs.length
  let s2 := foldSectors (lineWritten v) secs s1
  postAll (secs.flatMap (monitorEvents s2.xl.monitors)) s2

/-- The queue of a kick page, and the offset in it (R330). -/
def kickPlace (s : State) (pa : Nat) : Fin 4096 × Nat :=
  let b := (kickBase s).getD 0
  (Fin.ofNat 4096 ((pa - b) / 4096), (pa - b) % 4096)

/-- An aligned store on a kick page (R327, R347): KICK takes 4 bytes, CANCEL 8; anything else is ignored. -/
def kickStore (pa : Nat) (bs : List Byte) (s : State) : State :=
  let p := kickPlace s pa
  if p.2 = 0 ∧ bs.length = 4 then post (.kick p.1 (BitVec.ofNat 32 (leNat bs))) s
  else if p.2 = 8 ∧ bs.length = 8 then
    match leNat bs % 4 with
    | 1 => post (.cancelGraph p.1) s
    | 2 => post (.cancelPhase p.1) s
    | 3 => post (.cancelJob p.1) s
    | _ => s
  else s

/-- A piece of a strand's store performed: in memory, or on a kick page, where a store of more than one piece is misaligned
and ignored (R327); no strand reaches another window (R332, R415). -/
def storeAt (v : Via) (whole : Bool) (pa : Nat) (bs : List Byte) (s : State) : State :=
  match target s pa with
  | .device | .host => writePhys v pa bs s
  | .kick => if whole then kickStore pa bs s else s
  | .cmdWindow | .hostWindow | .engWindow => s

/-- The pieces of a store performed, in rising order (R126). -/
def storeAll (v : Via) (ps : List (Nat × List Byte)) (s : State) : State :=
  ps.foldl (fun s p => storeAt v (ps.length == 1) p.1 p.2 s) s

/-- Writes back every dirty copy of a sector to the memory array and leaves it clean (R229). -/
def flushSector (sector : Nat) (s : State) : State :=
  let l := lineOf s sector
  let st' := match l.st with | .m => .e | .o => .s | x => x
  putLine { l with st := st', l1 := l.l1.map fun x => (x.1, x.2.1, false) } (arrBack sector s)

/-- One core's copy of a sector written back to the basin and dropped (R230, R294). -/
def dropL1 (p : Fin 64 → Fin 4 → Bool) (sector : Nat) (s : State) : State :=
  let l := lineOf s sector
  let dirty := l.l1.any fun x => p x.1 x.2.1 && x.2.2
  let rest := l.l1.filter fun x => !p x.1 x.2.1
  putLine (Line.alone { l with st := if dirty then .o else l.st, l1 := rest }) s

end Sys2Proof.Machine
end

