-- ==== Sys2Proof/Machine/Ops.lean ====
section
/-! DEFINITION. The named operations over contexts, cores, quads, launches and messages, and the two shared operations
of a recoverable trap: entering the handler (R203) and returning from it (R206). -/

namespace Sys2Proof.Machine

/-- Why an instruction does not complete: a program fault (KIND, CAUSE, VALUE of R365, R369), one that leaves a mark beside it,
a fault that an engine hart's microcode meets and that is its request's (R269), a recoverable trap (cause, TRAPV, return PC of R203), parking, parking in a state that holds what the form has done so far, an absent page or a
GRANULE report at an address (R364, R360), a stall until something changes, a stall that leaves a mark, or an access to an
address that does not exist. -/
inductive Stop where
  | fault (kind cause : Nat) (value : Word)
  | faultIn (kind cause : Nat) (value : Word) (s : State)
  | request (kind cause : Nat) (value : Word)
  | trap (cause : Nat) (v ret : Word)
  | park (w : Why)
  | hold (w : Why) (s : State)
  | wait (s : State)
  | absent (va : Word) (kind : Access) (entry : Nat)
  | granule (va : Word) (kind : Access)
  | stall
  | noAddress (addr : Nat)
  deriving DecidableEq, Repr

/-- A body of an instruction: the state it leaves, or why it does not complete. -/
abbrev Act := State → Except Stop State

def illegal {α : Type} : Except Stop α := .error (.fault 1 0 0)
def uninit {α : Type} : Except Stop α := .error (.fault 3 0 0)
def tilegen {α : Type} : Except Stop α := .error (.fault 4 0 0)
def alignF {α : Type} (a : Word) : Except Stop α := .error (.fault 5 0 a)
def shape {α : Type} : Except Stop α := .error (.fault 6 0 0)
/-- PERM of causes 1 to 4 (R365). -/
def perm {α : Type} (cause : Nat) (value : Word) : Except Stop α := .error (.fault 7 cause value)
def regovf {α : Type} : Except Stop α := .error (.fault 8 0 0)
def zla {α : Type} (cause : Nat) (v : Word) : Except Stop α := .error (.fault 9 cause v)
def dataerr {α : Type} (cause : Nat) : Except Stop α := .error (.fault 10 cause 0)
def memerr {α : Type} (cause : Nat) (v : Word) : Except Stop α := .error (.fault 11 cause v)

/-- Goes on only when `p` holds. -/
def check (p : Bool) (e : Except Stop Unit) : Except Stop Unit := if p then .ok () else e

/-! ## Quads, cores, contexts -/

def State.updQuad (s : State) (q : Fin 64) (f : Quad → Quad) : State :=
  { s with quads := s.quads.set q.val (f (s.quads.get q)) q.isLt }

def Quad.updCore (x : Quad) (c : Fin 4) (f : Core → Core) : Quad :=
  { x with cores := x.cores.set c.val (f (x.cores.get c)) c.isLt }

def State.core (s : State) (q : Fin 64) (c : Fin 4) : Core := (s.quads.get q).cores.get c

def State.updCore (s : State) (q : Fin 64) (c : Fin 4) (f : Core → Core) : State := s.updQuad q fun x => x.updCore c f

def Core.updCtx (x : Core) (k : Fin 24) (f : Ctx → Ctx) : Core :=
  { x with ctxs := x.ctxs.set k.val (f (x.ctxs.get k)) k.isLt }

def State.hart (s : State) : Agent → Option Hart
  | .hart q h => some ((s.quads.get q).harts.get h)
  | .weir u => some (s.weirs.get u)
  | .strand .. | .cmd _ | .sec => none

def State.updHart (s : State) (a : Agent) (f : Hart → Hart) : State :=
  match a with
  | .hart q h => s.updQuad q fun x => { x with harts := x.harts.set h.val (f (x.harts.get h)) h.isLt }
  | .weir u => { s with weirs := s.weirs.set u.val (f (s.weirs.get u)) u.isLt }
  | .strand .. | .cmd _ | .sec => s

/-- The context in which an agent executes. -/
def State.ctx (s : State) : Agent → Ctx
  | .strand q c k => (s.core q c).ctxs.get k
  | .hart q h => ((s.quads.get q).harts.get h).ctx
  | .weir u => (s.weirs.get u).ctx
  | .cmd x => (s.cmds.get x).ctx
  | .sec => s.sec.ctx

def State.updCtx (s : State) (a : Agent) (f : Ctx → Ctx) : State :=
  match a with
  | .strand q c k => s.updCore q c fun x => x.updCtx k f
  | .hart q h => s.updHart (.hart q h) fun x => { x with ctx := f x.ctx }
  | .weir u => s.updHart (.weir u) fun x => { x with ctx := f x.ctx }
  | .cmd x => { s with cmds := s.cmds.set x.val { s.cmds.get x with ctx := f (s.cmds.get x).ctx } x.isLt }
  | .sec => { s with sec := { s.sec with ctx := f s.sec.ctx } }

def State.updArch (s : State) (a : Agent) (f : Arch → Arch) : State := s.updCtx a fun x => { x with arch := f x.arch }
def State.updSpec (s : State) (a : Agent) (f : Spec → Spec) : State := s.updCtx a fun x => { x with sp := f x.sp }
def State.updFlight (s : State) (a : Agent) (f : Flight → Flight) : State := s.updCtx a fun x => { x with fl := f x.fl }
def State.updPart (s : State) (p : Fin 64) (f : Part → Part) : State :=
  { s with parts := s.parts.set p.val (f (s.parts.get p)) p.isLt }
def State.updSlot (s : State) (i : Fin 16) (f : HwSlot → HwSlot) : State :=
  { s with slots := s.slots.set i.val (f (s.slots.get i)) i.isLt }

def State.arch (s : State) (a : Agent) : Arch := (s.ctx a).arch

/-- The kinds of core of R176. -/
inductive CoreClass where
  | strand | hart | command | security
  deriving DecidableEq, Repr

def Agent.cls : Agent → CoreClass
  | .strand .. => .strand
  | .hart .. | .weir _ => .hart
  | .cmd _ => .command
  | .sec => .security

/-! ## Launches -/

def State.launch (s : State) (l : LaunchId) : Option Launch := s.launches.find? fun x => x.id == l

def State.updLaunch (s : State) (l : LaunchId) (f : Launch → Launch) : State :=
  { s with launches := s.launches.map fun x => if x.id == l then f x else x }

/-- The launch an agent runs for: a strand's own, a hart's the head request's. -/
def State.launchOf (s : State) (a : Agent) : Option LaunchId :=
  match a with
  | .strand .. => (s.ctx a).launch
  | .hart .. | .weir _ => match s.hart a with
    | some h => h.queue.head?.map fun r => r.launch
    | none => none
  | .cmd _ | .sec => none

def State.launchRec (s : State) (a : Agent) : Option Launch :=
  match s.launchOf a with
  | some l => s.launch l
  | none => none

/-- The strict flag of the agent's launch (R45); for a hart the request's (R291). -/
def State.strict (s : State) (a : Agent) : Bool :=
  match s.launchRec a with
  | some l => l.rec_.strict
  | none => false

def State.ltm (s : State) (a : Agent) : Bool :=
  match s.launchRec a with
  | some l => l.rec_.ltm
  | none => false

/-- The partition an agent acts for: its quad's PARTID, or the request's (R387). -/
def State.partOf (s : State) (a : Agent) : BitVec 8 :=
  match a with
  | .strand q _ _ => (s.quads.get q).part
  | .hart .. | .weir _ => match s.hart a with
    | some h => (h.queue.head?.map fun r => r.part).getD 0
    | none => 0
  | .cmd _ | .sec => 0

/-- A partition number as an index; PARTID never exceeds 63 (R385). -/
def pIdx (p : BitVec 8) : Fin 64 := Fin.ofNat 64 p.toNat

/-- The physical quads of a partition in ascending order (R7). -/
def State.partQuads (s : State) (p : BitVec 8) : List (Fin 64) :=
  (List.finRange 64).filter fun q =>
    let x := s.quads.get q
    x.owner.toNat % 2 == 1 && x.part == p && x.enabled

/-- A quad's logical number in its partition (R7). -/
def State.logical (s : State) (q : Fin 64) : Nat := (s.partQuads (s.quads.get q).part).idxOf q

/-- The physical quad of a logical number (R7). -/
def State.physical (s : State) (p : BitVec 8) (l : Nat) : Option (Fin 64) := (s.partQuads p)[l]?

/-- Whether a quad mask names a logical quad. -/
def maskHas (m : Word) (l : Nat) : Bool := decide (l < 64) && bitAt m l

/-- STID: GEN [28:13], QUAD [12:7], CORE [6:5], SLOT [4:0] (R59). -/
def stidWord (s : State) (x : StrandId) : Word :=
  wd (x.gen.toNat * 2 ^ 13 + s.logical x.q % 64 * 2 ^ 7 + x.c.val * 32 + x.k.val)

/-- The identity of a strand in its slot. -/
def State.strandId (s : State) (q : Fin 64) (c : Fin 4) (k : Fin 24) : StrandId :=
  { q := q, c := c, k := k, gen := (s.ctx (.strand q c k)).gen }

def agentOf (x : StrandId) : Agent := .strand x.q x.c x.k

/-- The strand still stands in its slot. -/
def State.alive (s : State) (x : StrandId) : Bool :=
  let c := s.ctx (agentOf x)
  c.st != .free && c.gen == x.gen

/-! ## Trace and triggers (R378 to R380) -/

/-- Whether trace and debug state of a partition is hidden: CONF = 1 and no consent (R66, R379). -/
def hidden (x : Quad) : Bool := x.owner.toNat / 2 % 2 == 1 && !(x.owner.toNat / 4 % 2 == 1)

/-- One record at the write index (R378, R379). -/
def Trace.push (t : Trace) (r : Word) : Trace :=
  if t.frozen || t.full then t
  else
    let recs := insertNat t.recs (t.widx % 512) r
    let fz := t.freezing && t.postleft == 1
    { t with recs := recs, widx := (t.widx + 1) % 512
             full := !t.wrap && decide (512 ≤ recs.length)
             postleft := t.postleft - 1
             frozen := fz, freezing := t.freezing && !fz }

/-- A trace record of a type with its payload; a gap of 4,095 ticks or more first writes a TIME record (R379). A trace that is
stopped writes none, and its last record stays the last. -/
def traceRec (q : Fin 64) (c : Fin 4) (ty payload : Nat) (s : State) : State :=
  let t := (s.core q c).trc
  if !t.en || t.frozen || t.full then s
  else
    let gap := s.ctc.toNat - t.last.toNat
    let pl := if hidden (s.quads.get q) then 0 else payload % 2 ^ 48
    let tm := if hidden (s.quads.get q) then 0 else s.ctc.toNat % 2 ^ 48
    let t1 := if 4095 ≤ gap then t.push (wd (15 + 4095 * 16 + tm * 65536)) else t
    let d := if 4095 ≤ gap then 0 else gap
    let t2 := { t1.push (wd (ty + d * 16 + pl * 65536)) with last := s.ctc }
    s.updCore q c fun x => { x with trc := t2 }

/-- The trace record of an agent's event when its class is enabled; only strand cores trace. -/
def traceIf (a : Agent) (on : Trace → Bool) (ty payload : Nat) (s : State) : State :=
  match a with
  | .strand q c _ => if on (s.core q c).trc then traceRec q c ty payload s else s
  | .hart .. | .weir _ | .cmd _ | .sec => s

/-- Trigger k of a core matches an address of a kind (R380). -/
def trigMatch (t : Trace) (k kind : Nat) (addr : Word) (fkind : Nat) : Bool :=
  let tctl := t.trig.toList.getD (2 * k + 1) 0
  let taddr := t.trig.toList.getD (2 * k) 0
  bitAt tctl 0 && bits tctl 2 1 == kind &&
    (if kind == 3 then bits tctl 15 8 == 0 || bits tctl 15 8 == fkind
     else addr.toNat / 2 ^ bits tctl 21 16 == taddr.toNat / 2 ^ bits tctl 21 16)

/-- The effect of a match: a type 7 record, and the freeze after POST more (R380). -/
def fireTrigger (q : Fin 64) (c : Fin 4) (k : Nat) (s : State) : State :=
  let tctl := (s.core q c).trc.trig.toList.getD (2 * k + 1) 0
  let s1 := traceRec q c 7 k s
  let fz := fun (t : Trace) =>
    if bits tctl 31 24 = 0 then { t with frozen := true } else { t with freezing := true, postleft := bits tctl 31 24 }
  if bitAt tctl 22 then s1.updCore q c fun x => { x with trc := fz x.trc } else s1

/-- Runs the four triggers of a core on an address; the flag says that one of them stops the strand, which holds only
while HALTCTL.DEBUG = 1 and CONSENT = 1 (R380). -/
def runTriggers (q : Fin 64) (c : Fin 4) (kind : Nat) (addr : Word) (fkind : Nat) : List Nat → State → State × Bool
  | [], s => (s, false)
  | k :: ks, s =>
    let t := (s.core q c).trc
    if trigMatch t k kind addr fkind then
      let x := s.quads.get q
      let halts := bitAt (t.trig.toList.getD (2 * k + 1) 0) 23 && x.halt.debug && x.owner.toNat / 4 % 2 == 1
      let r := runTriggers q c kind addr fkind ks (fireTrigger q c k s)
      (r.1, halts || r.2)
    else runTriggers q c kind addr fkind ks s

/-- No trigger of the core is enabled. -/
def noTriggers (t : Trace) : Bool := [1, 3, 5, 7].all fun i => !bitAt (t.trig.toList.getD i 0) 0

/-! ## Ready lists, parking, waking (R17, R18) -/

/-- Asks for a selection when the core has a ready strand and runs none (R18). -/
def askSelect (q : Fin 64) (c : Fin 4) (s : State) : State :=
  let x := s.core q c
  if x.run == none && !x.ready.isEmpty then post (.coreSelect q c) s else s

/-- A strand becomes READY at the tail of its core's ready list; another agent simply goes on. -/
def makeReady (a : Agent) (s : State) : State :=
  match a with
  | .strand q c k =>
    askSelect q c (s.updCore q c fun x =>
      { (x.updCtx k fun y => { y with st := .ready, why := none }) with ready := x.ready ++ [k] })
  | .hart .. | .weir _ | .cmd _ | .sec => s.updCtx a fun y => { y with st := .running, why := none }

/-- A parked agent whose event has occurred (R17). Its parking instruction issues again. -/
def wake (a : Agent) (s : State) : State := if (s.ctx a).st == .parked then makeReady a s else s

/-- The running strand leaves the core, which selects another (R17). -/
def leaveCore (q : Fin 64) (c : Fin 4) (k : Fin 24) (s : State) : State :=
  if (s.core q c).run == some k then askSelect q c (s.updCore q c fun x => { x with run := none }) else s

/-- Parks an agent on an event. -/
def parkAgent (a : Agent) (w : Why) (s : State) : State :=
  let n := fresh s
  let s1 := n.2.updCtx a fun y => { y with st := .parked, why := some w, parkedAt := n.1 }
  match a with
  | .strand q c k => leaveCore q c k s1
  | .hart .. | .weir _ | .cmd _ | .sec => s1

/-- Every strand of the machine, by slot. -/
def allStrands : List Agent :=
  (List.finRange 64).flatMap fun q => (List.finRange 4).flatMap fun c => (List.finRange 24).map fun k => .strand q c k

def strandsOf (qs : List (Fin 64)) : List Agent :=
  qs.flatMap fun q => (List.finRange 4).flatMap fun c => (List.finRange 24).map fun k => .strand q c k

/-- Agents that are not strands. -/
def otherAgents : List Agent :=
  ((List.finRange 64).flatMap fun q => (List.finRange 2).map fun h => Agent.hart q h) ++
    (List.finRange 16).map Agent.weir ++ (List.finRange 2).map Agent.cmd ++ [.sec]

/-- Wakes, of a list, every agent parked for a reason that satisfies `p`, in order. -/
def wakeWhere (p : Why → Bool) : List Agent → State → State
  | [], s => s
  | a :: t, s =>
    let y := s.ctx a
    wakeWhere p t (if y.st == .parked && (match y.why with | some w => p w | none => false) then wake a s else s)

/-- Wakes every strand of a quad parked for a reason that satisfies `p`. -/
def wakeQuad (q : Fin 64) (p : Why → Bool) (s : State) : State := wakeWhere p (strandsOf [q]) s

/-- Insertion by the order in which agents parked. -/
def insertParked (s : State) (a : Agent) : List Agent → List Agent
  | [] => [a]
  | b :: t => if (s.ctx a).parkedAt < (s.ctx b).parkedAt then a :: b :: t else b :: insertParked s a t

/-- The agents of a list parked for a reason that satisfies `p`, in the order in which they parked (R109, R114). -/
def parkedFor (s : State) (p : Why → Bool) (xs : List Agent) : List Agent :=
  (xs.filter fun a => (s.ctx a).st == .parked && (match (s.ctx a).why with | some w => p w | none => false)).foldr
    (insertParked s) []

def wakeAll : List Agent → State → State
  | [], s => s
  | a :: t, s => wakeAll t (wake a s)

/-! ## Tags, scrubs and the vector lease (R48 to R50, R61) -/

/-- Marks a register dead: tag 0, data and SCRUBBED bit kept (R58, R61, R406). -/
def Reg.dead (r : Reg) : Reg := { r with tag := 0 }
def QEnt.dead (r : QEnt) : QEnt := { r with tag := 0, resv := none }

/-- The tags of every named register, queue position and loop register set to 0 (R61). -/
def Arch.clearTags (a : Arch) : Arch :=
  { a with n := a.n.each Reg.dead, q := a.q.each QEnt.dead, loops := a.loops.each Reg.dead }

/-- A register's tag cleared unless it is the occupant's generation (R62). -/
def Arch.keepTags (g : Gen) (a : Arch) : Arch :=
  { a with n := a.n.each (fun r => if r.tag == g then r else r.dead)
           q := a.q.each (fun r => if r.tag == g then r else { r with tag := 0 })
           loops := a.loops.each (fun r => if r.tag == g then r else r.dead) }

/-- The next lease generation: the counter advanced past 0; when it would wrap, every w and m tag becomes 0 and
counting restarts at 1 (R49). -/
def Core.grantLease (x : Core) (k : Fin 24) : Core :=
  if x.leaseCtr.toNat + 1 < 65536 then
    { x with leaseCtr := x.leaseCtr + 1, leaseGen := x.leaseCtr + 1, holder := some k }
  else
    { x with leaseCtr := 1, leaseGen := 1, holder := some k
             w := x.w.each (fun r => { r with tag := 0 }), m := x.m.each (fun r => { r with tag := 0 }) }

/-- The lease leaves its holder and passes to the first waiter still parked for it (R48). -/
def releaseLease (q : Fin 64) (c : Fin 4) (s : State) : State :=
  let x := s.core q c
  match x.lwait with
  | [] => s.updCore q c fun x => { x with holder := none }
  | k :: rest => wake (.strand q c k) (s.updCore q c fun x => ({ x with lwait := rest }).grantLease k)

def releaseIfHolder (q : Fin 64) (c : Fin 4) (k : Fin 24) (s : State) : State :=
  if (s.core q c).holder == some k then releaseLease q c s
  else s.updCore q c fun x => { x with lwait := x.lwait.filter fun j => j != k }

/-! ## Mesh messages (R19, R387, R391) -/

/-- The launch of what belongs to none. -/
def noLaunch : LaunchId := { hwq := 0, lseq := 0 }

/-- The confidential flag of a quad's partition (R385). -/
def Quad.conf (x : Quad) : Bool := x.owner.toNat / 2 % 2 == 1

/-- The last sequence number of a direction (0 sent, 1 accepted) with a peer interface (R391). -/
def Quad.seqOf (x : Quad) (dir peer : Nat) : Nat :=
  match x.seqs.find? fun e => e.1 == dir && e.2.1 == peer with
  | some e => e.2.2
  | none => 0

def Quad.setSeq (x : Quad) (dir peer v : Nat) : Quad :=
  { x with seqs := (x.seqs.filter fun e => !(e.1 == dir && e.2.1 == peer)) ++ [(dir, peer, v)] }

/-- The header of a mesh message. -/
def headerOf : Instr → Option Header
  | .creationMessage m | .stampedEvent m => some m.hdr
  | .migrationImage m => some m.hdr
  | .deposit m => some m.hdr
  | .contextFreeNotice (h, _) .. | .refusalRelease (h, _) .. | .clockAnnouncement (h, _) .. | .nullEvent (h, _) .. => some h
  | .migrQuery (h, _) .. | .migrQueryAnswer (h, _) | .targetAnswer (h, _) .. => some h
  | _ => none

/-- A mesh message with its header changed. -/
def withHeader (f : Header → Header) : Instr → Instr
  | .creationMessage m => .creationMessage { m with hdr := f m.hdr }
  | .stampedEvent m => .stampedEvent { m with hdr := f m.hdr }
  | .migrationImage m => .migrationImage { m with hdr := f m.hdr }
  | .deposit m => .deposit { m with hdr := f m.hdr }
  | .contextFreeNotice (h, q) c => .contextFreeNotice (f h, q) c
  | .refusalRelease (h, q) c => .refusalRelease (f h, q) c
  | .clockAnnouncement (h, q) c ch v => .clockAnnouncement (f h, q) c ch v
  | .nullEvent (h, q) c ch v => .nullEvent (f h, q) c ch v
  | .migrQuery (h, src) quad => .migrQuery (f h, src) quad
  | .migrQueryAnswer (h, src) => .migrQueryAnswer (f h, src)
  | .targetAnswer (h, dest) ans => .targetAnswer (f h, dest) ans
  | m => m

/-- The mesh key under which a quad's interface seals and opens: that of its confidential partition (R391). -/
def meshKey (s : State) (q : Fin 64) : Option (BitVec 128) :=
  if (s.quads.get q).conf then (s.parts.get (pIdx (s.quads.get q).part)).meshKey else none

/-- The 96-bit IV: the physical numbers of the two interfaces, and SEQ (R391). -/
def meshIv (h : Header) : Nat := h.port % 256 * 2 ^ 88 + h.dest % 256 * 2 ^ 80 + h.seq % 2 ^ 64

/-- The plaintext header that the tag covers (R391), laid out as log 56 says. -/
def headerBytes (h : Header) : List Byte :=
  leBytes 1 h.part.toNat ++ leBytes 1 h.port ++ leBytes 1 h.dest ++ leBytes 1 h.launch.hwq.val ++ leBytes 8 h.launch.lseq.toNat

/-- The words of a payload, encrypted or decrypted: the key stream of AES-128-GCM goes over them (R391). -/
def cryptWords (key : Option (BitVec 128)) (h : Header) (ws : List Word) : List Word :=
  match key with
  | none => ws
  | some k =>
    if h.taken then ws
    else
      let bs := gcmCrypt k.toNat (meshIv h) (ws.flatMap fun w => leBytes 8 w.toNat)
      (List.range ws.length).map fun i => wd (fieldAt bs (8 * i) 8)

/-- The words that a creation message carries in its flits (R19, R31): entry, arguments, and the timestamp of a stamped one. -/
def creWords (m : CreMsg) : List Word := [m.entry, m.a0, m.a1, m.a2] ++ if m.timed then [m.stamp] else []

def creWith (m : CreMsg) (ws : List Word) : CreMsg :=
  { m with entry := ws.getD 0 m.entry, a0 := ws.getD 1 m.a0, a1 := ws.getD 2 m.a1, a2 := ws.getD 3 m.a2
           stamp := ws.getD 4 m.stamp }

/-- The payload of a message under the mesh key, and back. -/
def creCrypt (key : Option (BitVec 128)) (m : CreMsg) : CreMsg :=
  if key.isNone then m else creWith m (cryptWords key m.hdr (creWords m))

def migrCrypt (key : Option (BitVec 128)) (m : MigrMsg) : MigrMsg :=
  match key with
  | none => m
  | some k => if m.hdr.taken then m else { m with image := gcmCrypt k.toNat (meshIv m.hdr) m.image }

def depCrypt (key : Option (BitVec 128)) (m : DepMsg) : DepMsg :=
  if key.isNone then m else { m with value := (cryptWords key m.hdr [m.value]).getD 0 m.value }

def cryptWord (key : Option (BitVec 128)) (h : Header) (v : Word) : Word := (cryptWords key h [v]).getD 0 v

def answerCrypt (key : Option (BitVec 128)) (h : Header) : Answer → Answer
  | .accepted t => .accepted (cryptWord key h t)
  | .refused => .refused
  | .landed => .landed
  | .dropped => .dropped
  | .denied => .denied

/-- Any message, sealed or opened. -/
def cryptMsg (key : Option (BitVec 128)) : Instr → Instr
  | .creationMessage m => .creationMessage (creCrypt key m)
  | .stampedEvent m => .stampedEvent (creCrypt key m)
  | .migrationImage m => .migrationImage (migrCrypt key m)
  | .deposit m => .deposit (depCrypt key m)
  | .clockAnnouncement (h, q) c ch v => .clockAnnouncement (h, q) c ch (cryptWord key h v)
  | .nullEvent (h, q) c ch v => .nullEvent (h, q) c ch (cryptWord key h v)
  | .targetAnswer (h, dest) ans => .targetAnswer (h, dest) (answerCrypt key h ans)
  | m => m

/-- The bytes of a message's payload as it travels. -/
def payloadOf : Instr → List Byte
  | .creationMessage m | .stampedEvent m => (creWords m).flatMap fun w => leBytes 8 w.toNat
  | .migrationImage m => m.image
  | .deposit m => leBytes 8 m.value.toNat
  | .clockAnnouncement (_, _) _ _ v | .nullEvent (_, _) _ _ v => leBytes 8 v.toNat
  | .targetAnswer (_, _) (.accepted t) => leBytes 8 t.toNat
  | _ => []

/-- The 64-bit tag over the header and the ciphertext (R391). -/
def meshTag (k : BitVec 128) (h : Header) (ct : List Byte) : BitVec 64 :=
  BitVec.ofNat 64 (beNat (((gcmTagOver k.toNat (meshIv h) (headerBytes h) ct).take 8).map BitVec.toNat))

/-- A message as it leaves its interface: its payload encrypted, with its trailer (R391). -/
def sealMsg (key : Option (BitVec 128)) (m : Instr) : Instr :=
  match key with
  | none => m
  | some k =>
    let c := cryptMsg key m
    withHeader (fun h => { h with tag := meshTag k h (payloadOf c) }) c

/-- The trailer's tag is that of the message. -/
def tagRight (key : Option (BitVec 128)) (m : Instr) : Bool :=
  match key, headerOf m with
  | some k, some h => h.tag == meshTag k h (payloadOf m)
  | _, _ => true

/-- The header of a message from quad `src` to quad `dst`, with the next sequence number when the partition is
confidential (R391). -/
def stampHeader (src dst : Fin 64) (l : LaunchId) (s : State) : Header × State :=
  let x := s.quads.get src
  let n := x.seqOf 0 dst.val + 1
  ({ part := x.part, launch := l, port := src.val, dest := dst.val, seq := n, tag := 0, taken := false },
    if x.conf then s.updQuad src fun x => x.setSeq 0 dst.val n else s)

/-- A message goes from one quad's interface to another's (R387, R391). -/
def mail (src dst : Fin 64) (l : LaunchId) (mk : Header → Instr) (s : State) : State :=
  let h := stampHeader src dst l s
  post (sealMsg (meshKey s src) (mk h.1)) h.2

/-! ## Slots, generations, the refusal FIFO (R19, R20, R60 to R63) -/

/-- The generations of the slots of a core that are not FREE (R60). -/
def Core.liveGens (x : Core) : List Gen := (x.ctxs.toList.filter fun y => y.st != .free).map fun y => y.gen

/-- The next value of a generation counter, skipping 0 and the listed ones; none when it would pass 0xFFFF. -/
def nextGen (used : List Gen) : Nat → Nat → Option Gen
  | 0, _ => none
  | fuel + 1, g =>
    if 65535 ≤ g then none
    else if used.contains (BitVec.ofNat 16 (g + 1)) then nextGen used fuel (g + 1) else some (BitVec.ofNat 16 (g + 1))

/-- Two messages are the same message sent again. -/
def sameMsg : Instr → Instr → Bool
  | .creationMessage x, .creationMessage y => { x with hdr := y.hdr } == y
  | .stampedEvent x, .stampedEvent y => { x with hdr := y.hdr } == y
  | .migrationImage x, .migrationImage y => { x with hdr := y.hdr } == y
  | _, _ => false

/-- A stamped event, which takes a place in the event store and no slot (R241). -/
def isStamped : Instr → Bool
  | .stampedEvent _ => true
  | _ => false

/-- A slot is reserved for a sender of the refusal FIFO (R19). -/
def Core.reserved (x : Core) (k : Fin 24) : Bool := x.fifo.any fun e => !isStamped e.msg && e.resv == some k

/-- The places of the event store that are reserved (R241). -/
def Core.storeReserved (x : Core) : Nat := (x.fifo.filter fun e => isStamped e.msg && e.resv.isSome).length

/-- The FREE slot of lowest index that no reservation holds and `p` accepts (log 23). -/
def Core.freeSlot (x : Core) (p : Ctx → Bool) : Option (Fin 24) :=
  (List.finRange 24).find? fun k => (x.ctxs.get k).st == .free && !x.reserved k && p (x.ctxs.get k)

/-- The place that can be reserved for a refused message: a FREE slot, or for a stamped event room in the store. -/
def Core.freePlace (x : Core) (m : Instr) : Option (Fin 24) :=
  if isStamped m then (if x.lt.store.length + x.storeReserved < 64 then some 0 else none) else x.freeSlot fun _ => true

/-- Places reserved for the senders of the FIFO in their order, as far as there are any, and the messages whose senders are to have
a notice. -/
def Core.reserveFrom (x : Core) : List Refusal19 → List Refusal19 → List Refusal19 × List Instr
  | done, [] => (done, [])
  | done, e :: t =>
    if e.resv.isSome then x.reserveFrom (done ++ [e]) t
    else match { x with fifo := done ++ e :: t }.freePlace e.msg with
      | none => (done ++ e :: t, [])
      | some k =>
        let r := x.reserveFrom (done ++ [{ e with resv := some k }]) t
        (r.1, e.msg :: r.2)

/-- Context-free notices to the interfaces that sent the messages (R19). -/
def sendNotices (q : Fin 64) (c : Fin 4) : List Instr → State → State
  | [], s => s
  | m :: t, s => sendNotices q c t (match headerOf m with
      | some h => mail q (Fin.ofNat 64 h.port) h.launch (fun h => .contextFreeNotice (h, q) c) s
      | none => s)

/-- Each FREE slot, or place in the event store, is reserved for the first sender of the FIFO that has none, and its notice
goes out (R19). -/
def serveFifo (q : Fin 64) (c : Fin 4) (s : State) : State :=
  let r := (s.core q c).reserveFrom [] (s.core q c).fifo
  if r.2.isEmpty then s else sendNotices q c r.2 (s.updCore q c fun x => { x with fifo := r.1 })

/-- A slot becomes FREE (R61): tags 0, the last generation recorded, DEPS and the outstanding list cleared (R237), and
the refusal FIFO served (R19). -/
def freeSlot (q : Fin 64) (c : Fin 4) (k : Fin 24) (s : State) : State :=
  let s1 := releaseIfHolder q c k s
  let l := (s1.ctx (.strand q c k)).launch
  let s2 := s1.updCore q c fun x =>
    { (x.updCtx k fun y =>
        { Init.ctx with arch := { y.arch.clearTags with act := 0, sact := 0, deps := 0 }, gen := y.gen
                        lastGen := some y.gen }) with
      ready := x.ready.filter fun j => j != k
      dq := x.dq.filter fun e => e.k != k
      lt := if l != none && x.lt.launch == l then { x.lt with blocked := 0, bRose := false } else x.lt }
  let s3 := serveFifo q c (leaveCore q c k s2)
  let s4 := (if l != none && (s3.core q c).lt.launch == l then post (.eventStart q c) s3 else s3).updQuad q fun x =>
    { x with idleSince := s3.ctc }
  match l with
  | some l => post (.launchComplete l) s4
  | none => s4

/-! ## Recoverable traps (R203 to R206) -/

/-- TRAPH of the agent's launch (R54, R205). R203 does not say whose TRAPH a recoverable trap of an engine hart's microcode enters:
the model takes that of the running request's launch, as an address of the microcode (DESIGN CHOICE, log 57). -/
def State.traph (s : State) (a : Agent) : Word :=
  match s.launchRec a with
  | some l => l.rec_.trap
  | none => 0

/-- enter_trap (R203): TRAPC, TRAPV and TRAPPC are saved, the loops' active bits move to SACT (R52), INTRAP is set, and
the PC goes to TRAPH. -/
def enterTrap (a : Agent) (cause : Nat) (v ret : Word) (s : State) : State :=
  let h := s.traph a
  let s1 := s.updCtx a fun y =>
    { y with sp := { y.sp with trapc := BitVec.ofNat 8 cause, trapv := v, trappc := ret, intrap := true }
             arch := { y.arch with sact := y.arch.act, act := 0, pc := h } }
  traceIf a (fun t => t.faults) 6 (0x80 + cause) s1

/-- sys.rte (R206): the loops' active bits come back from SACT, INTRAP is cleared, and the PC goes to TRAPPC. -/
def returnFromTrap (a : Agent) (s : State) : Except Stop State :=
  let y := s.ctx a
  if !y.sp.intrap then illegal
  else if y.sp.trappc.toNat % 2 = 1 then alignF y.sp.trappc
  else .ok (s.updCtx a fun y =>
    { y with sp := { y.sp with intrap := false }
             arch := { y.arch with act := y.arch.sact, sact := 0, pc := y.sp.trappc } })

/-- A fault of a partition put on record, numbered in its record sequence, and counted in NFAULT (R368, R370). -/
def recordFault (p : Fin 64) (kind cause : Nat) (strand : Option StrandId) (l : Option LaunchId) (s : State) : State :=
  let s1 := s.updPart p fun x =>
    { x with faults := x.faults ++ [{ kind := kind, cause := cause, strand := strand, launch := l, rseq := x.rseq }] }
  { s1 with quads := s1.quads.each fun x =>
      if x.part.toNat == p.val && x.owner.toNat % 2 == 1 then
        { x with halt := { x.halt with nfault := if x.halt.nfault == 255 then 255 else x.halt.nfault + 1 } } else x }

/-- Every engine of a partition (R367). -/
def enginesOf (s : State) (p : Fin 64) : List Engine :=
  ((s.partQuads (BitVec.ofNat 8 p.val)).flatMap fun q =>
    (List.finRange 4).map (Engine.core q) ++ (List.finRange 2).map (Engine.hart q) ++
      [.easel q, .distributor q]) ++
  ((List.finRange 16).filter fun u => (s.weirs.get u).queue.any fun r => r.part.toNat == p.val).map Engine.weir

/-- The halt line of a partition rises (R366, R368): HALTED and HCAUSE are set, and every engine is told to stop. A
line already up stays up. -/
def raiseLine (p : Fin 64) (kind : Nat) (s : State) : State :=
  if (s.parts.get p).line then s
  else
    let es := enginesOf s p
    let s1 := s.updPart p fun x => { x with line := true, toStop := es }
    let s2 := { s1 with quads := s1.quads.each fun x =>
      if x.part.toNat == p.val && x.owner.toNat % 2 == 1 then
        { x with halt := { x.halt with halted := true, hcause := BitVec.ofNat 8 kind } } else x }
    postAll (es.map Instr.engineStop) s2

/-- Whether the partition's line is up and this engine has stopped. -/
def engineStopped (s : State) (p : Fin 64) (e : Engine) : Bool :=
  (s.parts.get p).line && !(s.parts.get p).toStop.contains e

/-- Adds to the count of a launch's messages in flight (R13). -/
def addInflight (l : LaunchId) (s : State) : State := s.updLaunch l fun x => { x with inflight := x.inflight + 1 }
def subInflight (l : LaunchId) (s : State) : State :=
  post (.launchComplete l) (s.updLaunch l fun x => { x with inflight := x.inflight - 1 })

def setUpdate (f : Update → Update) (s : State) : State := { s with mg := { s.mg with update := f s.mg.update } }

/-- Activation may proceed (R404): asked for, and acknowledged by every partition in RUN. -/
def activationReady (s : State) : Bool :=
  s.mg.update.wanted && s.mg.update.staged.isSome && s.parts.toList.all fun p => p.st != .run || p.acked

/-- Complex B boots the staged firmware once activation may proceed (R405, step 1). -/
def bootStandby (s : State) : State := if activationReady s then setUpdate (fun u => { u with reading := true }) s else s

/-- A partition enters ERROR; its halt line is held raised (R388), and an activation that waited for its acknowledgement waits for
it no more (R404). -/
def enterError (p : Fin 64) (s : State) : State :=
  let st := (s.parts.get p).st
  if st == .locked || st == .run then bootStandby (raiseLine p 0 (s.updPart p fun x => { x with st := .error })) else s

/-- A message that its launch counts while it is on its way (R13): creation messages, images and deposits. -/
def countedMsg : Instr → Bool
  | .creationMessage _ | .stampedEvent _ | .migrationImage _ | .deposit _ => true
  | _ => false

/-- A message that an interface discards is in flight no more (R13). -/
def discardMsg (h : Header) (m : Instr) (s : State) : State := if countedMsg m then subInflight h.launch s else s

/-- A message reaches a quad's network interface: discarded when its PART is not the quad's (R387), or with MEMERR
cause 2, and its LOCKED or RUN partition in ERROR, when its tag or sequence is wrong (R388, R391); held while the quad is scrubbed
(R295), or wakes a drowsy quad (R417). `none` says it is taken. -/
def intercept (h : Header) (q : Fin 64) (m : Instr) (s : State) : Option State :=
  let x := s.quads.get q
  if x.scrubbing then some (s.updQuad q fun x => { x with held := x.held ++ [m] })
  else if x.power != .awake then
    some (post (.drowsyWake q) (s.updQuad q fun x => { x with held := x.held ++ [m] }))
  else if h.part != x.part then some (discardMsg h m (s.updQuad q fun x => { x with dropMsgs := x.dropMsgs + 1 }))
  else if x.conf && !h.taken && (!tagRight (meshKey s q) m || decide (h.seq ≤ x.seqOf 1 h.port)) then
    some (discardMsg h m (enterError (pIdx h.part) (raiseLine (pIdx h.part) 11
      (recordFault (pIdx h.part) 11 2 none (some h.launch) s))))
  else none

/-- A taken message's sequence number becomes the last accepted from its sender (R391). -/
def noteSeq (h : Header) (q : Fin 64) (s : State) : State :=
  if (s.quads.get q).conf && !h.taken then s.updQuad q fun x => x.setSeq 1 h.port h.seq else s

/-- A message with no effect on the count of its launch reaches a quad's interface, and has the effect `f` there. -/
def arrive (h : Header) (q : Fin 64) (m : Instr) (f : State → State) (s : State) : State :=
  match intercept h q m s with
  | some s1 => s1
  | none => f (noteSeq h q s)

/-- Sends a creation message from a quad; it counts in its launch's outstanding count until it is taken (R13). -/
def sendCreation (src : Fin 64) (m : CreMsg) (s : State) : State :=
  mail src m.q m.hdr.launch (fun h => .creationMessage { m with hdr := h }) (addInflight m.hdr.launch s)

/-- Sends a stamped event (R241); it counts as a creation message in flight (R323). -/
def sendStamped (src : Fin 64) (m : CreMsg) (s : State) : State :=
  mail src m.q m.hdr.launch (fun h => .stampedEvent { m with hdr := h }) (addInflight m.hdr.launch s)

/-- Sends a deposit (R235). -/
def sendDeposit (src : Fin 64) (m : DepMsg) (s : State) : State :=
  mail src m.q m.hdr.launch (fun h => .deposit { m with hdr := h }) (addInflight m.hdr.launch s)

/-- A refused message is sent again, as a message of its own with the next sequence number (R20, R391). -/
def resend (m : Instr) (s : State) : State :=
  match headerOf m with
  | some x => mail (Fin.ofNat 64 x.port) (Fin.ofNat 64 x.dest) x.launch (fun h => withHeader (fun _ => { h with part := x.part }) m) s
  | none => post m s

/-- Answers a waiting sender from a quad (R232), or the drain that waits to go on (R226). -/
def answer (src : Fin 64) (to_ : Sender) (x : Answer) (s : State) : State :=
  match to_ with
  | .strand id | .drain id =>
    mail src id.q (((s.ctx (agentOf id)).launch).getD noLaunch) (fun h => .targetAnswer (h, to_) x) s
  | .distributor _ | .firmware => s

end Sys2Proof.Machine
end

