-- ==== Sys2Proof/Machine/Translate.lean ====
section
/-! DEFINITION. Address spaces, the platform format descriptor, walks, translation buffers, access tables
(spec/17, R357 to R364; spec/19, R392, R394). -/

namespace Sys2Proof.Machine

/-- An address-space table entry (R357). -/
structure Space where
  root : Nat
  pasid : BitVec 20
  part : BitVec 8
  deriving DecidableEq, Repr

/-- The entry of a queue at ASTBASE, when valid (R357). -/
def spaceOf (s : State) (queue : Fin 4096) : Option Space :=
  let base := bits s.cw.astbase 51 16 * 65536 + 16 * queue.val
  let bs := readPhys s base 16
  if fieldAt bs 13 1 % 2 = 1 then
    some { root := fieldAt bs 0 8, pasid := BitVec.ofNat 20 (fieldAt bs 8 4), part := BitVec.ofNat 8 (fieldAt bs 12 1) }
  else none

/-! ## The descriptor (R358) -/

def pfdLevels (p : Part) : Nat := bits p.pfd0 62 60
def pfdLo (p : Part) (l : Nat) : Nat := bits p.pfd0 (12 * l + 5) (12 * l)
def pfdNb (p : Part) (l : Nat) : Nat := bits p.pfd0 (12 * l + 9) (12 * l + 6) + 1
def pfdLeafOk (p : Part) (l : Nat) : Bool := bitAt p.pfd0 (12 * l + 10)
def pfdValid (p : Part) : Nat := bits p.pfd1 5 0
def pfdWrite (p : Part) : Nat := bits p.pfd1 11 6
def pfdExec (p : Part) : Nat := bits p.pfd1 17 12
def pfdAcc (p : Part) : Nat := bits p.pfd1 23 18
def pfdDirty (p : Part) : Nat := bits p.pfd1 29 24
def pfdLeaf (p : Part) : Nat := bits p.pfd1 35 30
def pfdAttr (p : Part) : Nat := bits p.pfd1 41 36
def pfdWinv (p : Part) : Bool := bitAt p.pfd1 42
def pfdXinv (p : Part) : Bool := bitAt p.pfd1 43
def pfdAdmode (p : Part) : Bool := bitAt p.pfd1 44
def pfdPalo (p : Part) : Nat := bits p.pfd2 5 0
def pfdPahi (p : Part) : Nat := bits p.pfd2 11 6

/-- The index fields of levels `l` and below descend without overlap. -/
def pfdDescends (p : Part) : Nat → Nat → Bool
  | 0, _ => true
  | k + 1, l => decide (pfdLo p (l + 1) + pfdNb p (l + 1) ≤ pfdLo p l) && pfdDescends p k (l + 1)

def noDup : List Nat → Bool
  | [] => true
  | x :: t => !t.contains x && noDup t

/-- PFD2.BAD (R358). -/
def pfdBad (p : Part) : Bool :=
  let n := pfdLevels p
  let special := [pfdValid p, pfdWrite p, pfdExec p, pfdAcc p, pfdDirty p, pfdLeaf p]
  decide (n < 2) || decide (5 < n) || !pfdDescends p (n - 1) 0 || decide (pfdLo p (n - 1) < 12) ||
  decide (56 < pfdLo p 0 + pfdNb p 0 - 1) || !noDup special ||
  special.any (fun b => (decide (pfdAttr p ≤ b) && decide (b ≤ pfdAttr p + 5)) ||
    (decide (pfdPalo p ≤ b) && decide (b ≤ pfdPahi p))) ||
  decide (63 < pfdAttr p + 5) || decide (pfdLo p (n - 1) < pfdPalo p) || decide (pfdPahi p < pfdPalo p) ||
  decide (51 < pfdPahi p)

/-! ## The walk (R359, R360) -/

/-- What a walk finds: the refusal of a bad descriptor (R358), an address that is not canonical (R359), an absent entry, a GRANULE
condition, or a translation of `count` granules from the granule `va` to the granule `pa` with its permissions, DIRTY bit and
attributes. -/
inductive Walked where
  | refuse
  | outside
  | absent (entry : Nat)
  | granule
  | found (e : TlbEnt)
  deriving DecidableEq, Repr

def writable (p : Part) (e : Word) : Bool := bitAt e (pfdWrite p) != pfdWinv p
def executable (p : Part) (e : Word) : Bool := bitAt e (pfdExec p) != pfdXinv p
def entryPa (p : Part) (e : Word) : Nat := bits e (pfdPahi p) (pfdPalo p) * 2 ^ pfdPalo p

/-- The bytes at `[pa, pa + n)` with the stores of a buffer laid over them, later ones last. -/
def overlay (held : List BufEnt) (pa : Nat) (bs : List Byte) : List Byte :=
  let stores := held.flatMap fun e => match e with
    | .store _ ps => ps
    | .spark _ | .send _ | .sendt _ => []
  let one := fun (i : Nat) (b : Byte) =>
    stores.foldl (fun b p => if p.1 ≤ pa + i ∧ pa + i < p.1 + p.2.length then p.2.getD (pa + i - p.1) b else b) b
  (List.range bs.length).map fun i => one i (bs.getD i 0)

/-- An agent's stores that have not been performed, oldest first: a committed region's, the open region's, and those of
a window (R172, R225, R226). -/
def heldStores (s : State) (a : Agent) : List BufEnt :=
  let f := (s.ctx a).fl
  f.drain ++ f.rbuf ++ f.wst.map fun e => e.2

/-- Those of the agent that walks, when it is one whose stores come before the walk in its order (R152). -/
def heldBy (s : State) (by_ : Option Agent) : List BufEnt :=
  match by_ with
  | some a => heldStores s a
  | none => []

/-- A table entry in memory, under the walking agent's own stores `held`, which come before the walk in its order (R152). -/
def tableWord (held : List BufEnt) (s : State) (ea : Nat) : Word :=
  if held.isEmpty then wd (readPhysN s ea 8) else wd (leNat (overlay held ea (readPhys s ea 8)))

/-- An 8-byte walk read; a non-leaf entry may come from the walk cache, which no write newer than it has passed (R152,
R362). -/
def walkRead (held : List BufEnt) (sp : Space) (ea : Nat) (s : State) : Word :=
  match s.xl.walk.find? fun x => held.isEmpty && x.addr == ea && x.part == sp.part && x.pasid == sp.pasid with
  | some x => x.value
  | none => tableWord held s ea

/-- Puts a valid non-leaf entry into the walk cache, dropping the oldest of 4,096 (R362). -/
def cacheWalk (sp : Space) (ea : Nat) (v : Word) (s : State) : State :=
  if s.xl.walk.any fun x => x.addr == ea && x.part == sp.part && x.pasid == sp.pasid then s
  else
    let kept := s.xl.walk.drop (s.xl.walk.length - 4095)
    { s with xl := { s.xl with walk := kept ++ [{ part := sp.part, pasid := sp.pasid, addr := ea, value := v }] } }

/-- The leaf's permissions for an access (R359). -/
def leafAllows (p : Part) (need : Access) (e : Word) : Bool :=
  match need with
  | .read => true
  | .write => writable p e
  | .exec => executable p e

/-- The bits the walker sets by its 64-bit atomic OR under ADMODE 0 (R359). -/
def setBitsOf (p : Part) (need : Access) : Nat :=
  2 ^ pfdAcc p + (if need == .write then 2 ^ pfdDirty p else 0)

/-- The piece covers the byte at `x`. -/
def pieceCovers (x : Nat) (p : Nat × List Byte) : Bool := decide (p.1 ≤ x) && decide (x < p.1 + p.2.length)

def entryCovers (x : Nat) : BufEnt → Bool
  | .store _ ps => ps.any (pieceCovers x)
  | .spark _ | .send _ | .sendt _ => false

/-- A held store with the bits of `m`, a number of 8 bytes at `ea`, set in the bytes that it covers. -/
def orEntry (ea m : Nat) (e : BufEnt) : BufEnt :=
  let byte := fun (x : Nat) (b : Byte) =>
    if ea ≤ x ∧ x < ea + 8 then b ||| BitVec.ofNat 8 (m / 256 ^ (x - ea)) else b
  match e with
  | .store v ps => .store v (ps.map fun p => (p.1, (p.2.zipIdx).map fun b => byte (p.1 + b.2) b.1))
  | .spark x => .spark x
  | .send x => .send x
  | .sendt x => .sendt x

/-- The walker's 64-bit atomic OR at an entry (R359). It comes after the walking agent's own unperformed stores, so the bits of a
byte that one of them covers go into those stores, and into memory as they are performed (R139, R149). -/
def orBits (by_ : Option Agent) (v : Via) (ea m : Nat) (s : State) : State :=
  let held := heldBy s by_
  let fix := orEntry ea m
  let s1 := match by_ with
    | none => s
    | some a => if held.isEmpty then s else s.updFlight a fun f =>
        { f with rbuf := f.rbuf.map fix, drain := f.drain.map fix, wst := f.wst.map fun e => (e.1, fix e.2) }
  let free := (List.range 8).filter fun i => !held.any (entryCovers (ea + i))
  let m' := (free.map fun i => m / 256 ^ i % 256 * 256 ^ i).sum
  let e := readPhysN s1 ea 8
  if e ||| m' = e then s1 else writePhys v ea (leBytes 8 (e ||| m')) s1

/-- granule_check (R360): the 2^(16 - LO) entries that cover the granule make one translation, or GRANULE. -/
def granuleCheck (held : List BufEnt) (p : Part) (lo ea : Nat) (va : Word) (s : State) : Option Nat :=
  let n := 2 ^ (16 - lo)
  let first := ea - 8 * (va.toNat / 2 ^ lo % n)
  let es := (List.range n).map fun i => tableWord held s (first + 8 * i)
  let e0 := es.headD 0
  let pa0 := entryPa p e0
  let same := fun (e : Word) => bitAt e (pfdWrite p) == bitAt e0 (pfdWrite p) && bitAt e (pfdExec p) == bitAt e0 (pfdExec p) &&
    bitAt e (pfdAcc p) == bitAt e0 (pfdAcc p) && bitAt e (pfdDirty p) == bitAt e0 (pfdDirty p) &&
    bits e (pfdAttr p + 5) (pfdAttr p) == bits e0 (pfdAttr p + 5) (pfdAttr p)
  let ok := es.all (fun e => bitAt e (pfdValid p) && same e) && pa0 % 65536 == 0 &&
    (List.range n).all fun i => entryPa p (es.getD i 0) == pa0 + i * 2 ^ lo
  if ok then some pa0 else none

/-- What a leaf entry gives, with the accessed and dirty bits it sets (R359). -/
def takeLeaf (by_ : Option Agent) (p : Part) (sp : Space) (need : Access) (va : Word) (l ea : Nat) (e : Word) (s : State) :
    Walked × State :=
  if !leafAllows p need e then (.absent ea, s)
  else
    let clear := !bitAt e (pfdAcc p) || (need == .write && !bitAt e (pfdDirty p))
    if pfdAdmode p && clear then (.absent ea, s)
    else
      let e' := if pfdAdmode p then e else e ||| wd (setBitsOf p need)
      let s1 := if e' == e then s else orBits by_ (.home sp.part.toNat) ea (setBitsOf p need) s
      let lo := pfdLo p l
      let ent := fun (pa count vg : Nat) =>
        ({ part := sp.part, pasid := sp.pasid, va := BitVec.ofNat 48 vg, pa := BitVec.ofNat 48 (pa / 65536), count := count
           write := writable p e', exec := executable p e', dirty := bitAt e' (pfdDirty p)
           attr := BitVec.ofNat 6 (bits e' (pfdAttr p + 5) (pfdAttr p)) } : TlbEnt)
      let vg := va.toNat / 65536
      if lo < 16 then
        match granuleCheck (heldBy s1 by_) p lo ea va s1 with
        | some pa => (.found (ent pa 1 vg), s1)
        | none => (.granule, s1)
      else
        let n := 2 ^ (lo - 16)
        -- an entry for a leaf of 2 MiB or more covers the whole leaf, a smaller one its granule (R362)
        if 21 ≤ lo then (.found (ent (entryPa p e') n (vg / n * n)), s1)
        else (.found (ent (entryPa p e' + vg % n * 65536) 1 vg), s1)

/-- The levels of a walk from `l` on, with `fuel` levels left (R359). -/
def walkFrom (by_ : Option Agent) (p : Part) (sp : Space) (need : Access) (va : Word) : Nat → Nat → Nat → State → Walked × State
  | 0, _, _, s => (.refuse, s)
  | fuel + 1, l, t, s =>
    let ea := t + 8 * bits va (pfdLo p l + pfdNb p l - 1) (pfdLo p l)
    let held := heldBy s by_
    let e := walkRead held sp ea s
    if !bitAt e (pfdValid p) then (.absent ea, s)
    else if l + 1 == pfdLevels p || (pfdLeafOk p l && bitAt e (pfdLeaf p)) then takeLeaf by_ p sp need va l ea e s
    else walkFrom by_ p sp need va fuel (l + 1) (entryPa p e) (if held.isEmpty then cacheWalk sp ea e s else s)

/-- A walk of the granule that holds `va` (R359), which sees the unperformed stores of the agent `by_` (R152); that of a bad
descriptor is refused (R358). -/
def walk (by_ : Option Agent) (sp : Space) (need : Access) (va : Word) (s : State) : Walked × State :=
  let p := s.parts.get (pIdx sp.part)
  let top := pfdLo p 0 + pfdNb p 0 - 1
  let high := va.toNat / 2 ^ (top + 1)
  if pfdBad p then (.refuse, s)
  else if high != (if bitAt va top then 2 ^ (63 - top) - 1 else 0) then (.outside, s)
  else walkFrom by_ p sp need va 5 0 sp.root s

/-! ## Translation buffers (R362) -/

/-- Where an agent's translations are held. -/
inductive TlbAt where
  | core (q : Fin 64) (c : Fin 4)
  | quad (q : Fin 64)
  | weir (u : Fin 16)
  | slot (i : Fin 16)
  deriving DecidableEq, Repr

def tlbOf (s : State) : TlbAt → List TlbEnt
  | .core q c => (s.core q c).tlb
  | .quad q => (s.quads.get q).tlb
  | .weir u => (s.weirs.get u).tlb
  | .slot i => (s.slots.get i).tlb

/-- Adds an entry, dropping the oldest past the buffer's size (R362; the ways of the second level are not told apart,
log 17). -/
def tlbPush (cap : Nat) (xs : List TlbEnt) (e : TlbEnt) : List TlbEnt :=
  let kept := xs.filter fun x => !(x.part == e.part && x.pasid == e.pasid && x.va == e.va)
  kept.drop (kept.length - (cap - 1)) ++ [e]

/-- The translation of one granule that an entry covers. -/
def TlbEnt.narrow (e : TlbEnt) (g : Nat) : TlbEnt :=
  if e.count = 1 then e
  else { e with va := BitVec.ofNat 48 g, pa := BitVec.ofNat 48 (e.pa.toNat + (g - e.va.toNat)), count := 1 }

/-- A translation enters the buffers of its agent; only the second level keeps an entry for a whole leaf (R362). -/
def fillTlb (t : TlbAt) (g : Nat) (e : TlbEnt) (s : State) : State :=
  match t with
  | .core q c =>
    (s.updCore q c fun x => { x with tlb := tlbPush 96 x.tlb (e.narrow g) }).updQuad q fun x =>
      { x with tlb := tlbPush 2048 x.tlb e }
  | .quad q => s.updQuad q fun x => { x with tlb := tlbPush 2048 x.tlb e }
  | .weir u => s.updHart (.weir u) fun x => { x with tlb := tlbPush 64 x.tlb (e.narrow g) }
  | .slot i => s.updSlot i fun x => { x with tlb := tlbPush 32 x.tlb (e.narrow g) }

/-- An entry serves an access: it covers the granule, allows it, and for a write its DIRTY is set (R359). -/
def tlbServes (sp : Space) (need : Access) (g : Nat) (e : TlbEnt) : Bool :=
  e.part == sp.part && e.pasid == sp.pasid && decide (e.va.toNat ≤ g) && decide (g < e.va.toNat + e.count) &&
    (match need with
     | .read => true
     | .write => e.write && e.dirty
     | .exec => e.exec)

def tlbFind (s : State) (t : TlbAt) (sp : Space) (need : Access) (g : Nat) : Option TlbEnt :=
  match t with
  | .core q _ => ((tlbOf s t).find? (tlbServes sp need g)).orElse fun _ => (tlbOf s (.quad q)).find? (tlbServes sp need g)
  | _ => (tlbOf s t).find? (tlbServes sp need g)

/-- The attributes of the leaf that translates `va`, as the buffers hold them (R361). -/
def leafAttr (s : State) (t : TlbAt) (sp : Space) (va : Word) : BitVec 6 :=
  match tlbFind s t sp .read (va.toNat / 65536) with
  | some e => e.attr
  | none => 0

/-- The agent whose unperformed stores come before a walk in its order: the running strand (R152). -/
def walkAgent (s : State) (t : TlbAt) : Option Agent :=
  match t, s.md.who with
  | .core q c, .strand q' c' k => if q' == q && c' == c then some (.strand q c k) else none
  | _, _ => none

/-- A translation found is kept in the buffers of its agent, unless it rests on a store that has not been performed: what only the
walking strand may see stays in no shared buffer, and none outlasts an aborted region (R149). -/
def keepFound (t : TlbAt) (sp : Space) (need : Access) (va : Word) (e : TlbEnt) (s : State) : State :=
  let g := va.toNat / 65536
  match walkAgent s t with
  | none => fillTlb t g e s
  | some a => if (heldStores s a).isEmpty || (walk none sp need va s).1 == .found e then fillTlb t g e s else s

/-- An acquire fence drops the core's clean copies of DEV words (R231, R384). -/
def dropClean (a : Agent) (s : State) : State :=
  match a with
  | .strand q c _ =>
    let part := (s.partOf a).toNat
    foldSectors (fun x t =>
      let l := lineOf t x
      putLine { l with l1 := l.l1.filter fun e => !(e.1 == q && e.2.1 == c && !e.2.2) } t)
      ((s.mm.lines.filter fun l => domain s part (64 * l.sector) == .dev).map fun l => l.sector) s
  | .hart .. | .weir _ | .cmd _ | .sec => s

/-- The walk of an agent that has left an absent wait has found a leaf: an acquire fence stands between the walk's reads and the access
(R384). -/
def fenceFound (t : TlbAt) (s : State) : State :=
  match walkAgent s t with
  | none => s
  | some a => if (s.ctx a).fence then (dropClean a s).updCtx a fun y => { y with fence := false } else s

/-- Translates the granule of `va`: the physical granule, or why not. `refused` is the granule and kind that the host
refused to this agent: it raises PERM of cause 2, as a bad descriptor does (R358, R364); a non-canonical address raises PERM of
cause 4 (R359, R365). -/
def translate (t : TlbAt) (refused : Option (BitVec 48 × Access)) (sp : Space) (need : Access) (va : Word) (s : State) :
    Except Stop (Nat × State) :=
  let g := va.toNat / 65536
  match tlbFind s t sp need g with
  | some e => .ok ((e.pa.toNat + (g - e.va.toNat)) * 65536 + va.toNat % 65536, s)
  | none =>
    match walk (walkAgent s t) sp need va s with
    | (.found e, s1) => .ok ((e.pa.toNat + (g - e.va.toNat)) * 65536 + va.toNat % 65536, fenceFound t (keepFound t sp need va e s1))
    | (.refuse, _) => perm 2 va
    | (.outside, _) => perm 4 va
    | (.absent ea, _) =>
      if refused == some (BitVec.ofNat 48 g, need) then perm 2 va else .error (.absent va need ea)
    | (.granule, _) =>
      if refused == some (BitVec.ofNat 48 g, need) then perm 2 va else .error (.granule va need)

/-- Discards translations: every one of a partition, or those of one granule, or the walk-cache entries only (R294,
R362). `pasid` none takes every address space of the partition. -/
def discard (part : BitVec 8) (pasid : Option (BitVec 20)) (g : Option Nat) (walkOnly : Bool) (s : State) : State :=
  let hit := fun (e : TlbEnt) => e.part == part && (match pasid with | some p => e.pasid == p | none => true) &&
    (match g with | some x => decide (e.va.toNat ≤ x) && decide (x < e.va.toNat + e.count) | none => true)
  let keep := fun (xs : List TlbEnt) => xs.filter fun e => !hit e
  let wk := s.xl.walk.filter fun e => !(e.part == part && (match pasid with | some p => e.pasid == p | none => true))
  let s1 := { s with xl := { s.xl with walk := wk } }
  if walkOnly then s1
  else { s1 with
    quads := s1.quads.each fun x => { x with tlb := keep x.tlb, cores := x.cores.each fun y => { y with tlb := keep y.tlb } }
    weirs := s1.weirs.each fun x => { x with tlb := keep x.tlb }
    slots := s1.slots.each fun x => { x with tlb := keep x.tlb } }

/-! ## Absent pages (R360, R364) -/

/-- The granule of an address. -/
def granuleOf (va : Word) : BitVec 48 := BitVec.ofNat 48 (va.toNat / 65536)

def setMonitor (m : Monitor) (s : State) : State :=
  if s.xl.monitors.contains m then s else { s with xl := { s.xl with monitors := s.xl.monitors ++ [m] } }

def clearMonitor (p : Monitor → Bool) (s : State) : State :=
  { s with xl := { s.xl with monitors := s.xl.monitors.filter fun m => !p m } }

/-- Arms the walk's monitor on the entry's sector and sends the page request, unless one is outstanding; a partition
has 64 groups, and a further request waits for a free one (R364). -/
def askPage (sp : Space) (va : Word) (kind : Access) (ea : Nat) (s : State) : State :=
  let g := granuleOf va
  let s1 := setMonitor { sector := ea / 64, who := .walk sp.part sp.pasid g } s
  let r : PageReq := { part := sp.part, pasid := sp.pasid, granule := g, kind := kind }
  if s1.xl.groups.contains r || s1.xl.groupWait.contains r then s1
  else if (s1.xl.groups.filter fun x => x.part == sp.part).length < 64 then
    { s1 with xl := { s1.xl with groups := s1.xl.groups ++ [r] } }
  else { s1 with xl := { s1.xl with groupWait := s1.xl.groupWait ++ [r] } }

/-- A GRANULE report: the bits that its walk set stay set (R359); it goes into the 32-entry queue and raises the host's GRANULE
interrupt, or waits for a place (R360). -/
def askGranule (by_ : Option Agent) (sp : Space) (va : Word) (kind : Access) (s : State) : State :=
  let s := (walk by_ sp kind va s).2
  let r : PageReq := { part := sp.part, pasid := sp.pasid, granule := granuleOf va, kind := kind }
  if s.xl.granq.contains r || s.xl.granWait.contains r then s
  else if s.xl.granq.length < 32 then { s with xl := { s.xl with granq := s.xl.granq ++ [r], granIrq := true } }
  else { s with xl := { s.xl with granWait := s.xl.granWait ++ [r] } }

/-! ## Access tables (R394) -/

/-- The targets that a request to an address meets (R394): a device-memory request meets its basin slice and the channel beside it
(R409), whose table the model consults whether or not a line is held (DEDUCED, log 53). Basin slices 0-15, channels 16-31, kick filter 32, engine window 33, command window 34,
host register window 35, host link 36. -/
def targetNos (s : State) (pa : Nat) : List Nat :=
  match target s pa with
  | .device => [home pa, 16 + home pa]
  | .host => [36]
  | .kick => [32]
  | .engWindow => [33]
  | .cmdWindow => [34]
  | .hostWindow => [35]

/-- The number of a master: quads 0-63, weir units 64-79, command complexes 80 and 81, security core 82, debug port 83,
host 84. -/
def masterNo : Agent → Nat
  | .strand q _ _ => q.val
  | .hart q _ => q.val
  | .weir u => 64 + u.val
  | .cmd x => 80 + x.val
  | .sec => 82

/-- The rights of R394. -/
inductive Right where
  | r | w | x | atomic | cfg
  deriving DecidableEq, Repr

def Right.bit : Right → Nat
  | .r => 0 | .w => 1 | .x => 2 | .atomic => 3 | .cfg => 4

/-- A partition's confidential flag: any of its quads has CONF set (R385). -/
def partConf (s : State) (p : Nat) : Bool :=
  s.quads.toList.any fun x => x.part.toNat == p && x.owner.toNat % 2 == 1 && x.conf

/-- The partition that a request acts for (R394): the asker's, or for a command core's own request that of the granule's owner; it
acts for none at a place that belongs to none. -/
def actsFor (s : State) (part : Nat) (command : Bool) (pa : Nat) : Option Nat :=
  if !command then some part
  else if target s pa == .device && ownV (ownerOf s pa) then some (ownPart (ownerOf s pa)) else none

/-- The kind of a request at an address (R394): a write to a register window is one of configuration (log 53). -/
def kindAt (s : State) (right : Right) (pa : Nat) : Right :=
  match target s pa, right with
  | .cmdWindow, .w | .hostWindow, .w => .cfg
  | _, _ => right

/-- A master's entry at one target names the partition and the kind. -/
def entryAllows (s : State) (t master : Nat) (part : Option Nat) (right : Right) : Bool :=
  match s.mg.tables.find? fun e => e.1 == t && e.2.1 == master with
  | none => false
  | some e => e.2.2.2.toNat / 2 ^ right.bit % 2 == 1 && part.all fun p => bitAt e.2.2.1 p

/-- Who may reach a place whatever the tables hold (R392, R394): a granule that its partition owns or shares, command cores alone
one that no partition owns; command cores the command window, and the debug port its register instances (R55, R332, R349); the
host the host window (R415). -/
def placeOpen (s : State) (master part : Nat) (command : Bool) (pa : Nat) : Bool :=
  let owner := ownerOf s pa
  match target s pa with
  | .device =>
    command || (ownV owner && (ownPart owner == part ||
      (ownShare owner && !partConf s (ownPart owner) && !partConf s part)))
  | .cmdWindow => command || (master == 83 && decide (Config.cmdWindow + 0x100000 ≤ pa))
  | .hostWindow => decide (83 ≤ master)
  | .host | .kick | .engWindow => true

/-- Whether a master's request for a partition is allowed at an address (R392, R394). The security core's entries are
always full. `command` says that a command core asks for itself; a fetch unit asks for its queue's partition (R342). -/
def allowed (s : State) (master part : Nat) (command : Bool) (right : Right) (pa : Nat) : Bool :=
  decide (master = 82) ||
    (placeOpen s master part command pa &&
      (targetNos s pa).all fun t => entryAllows s t master (actsFor s part command pa) (kindAt s right pa))

end Sys2Proof.Machine
end

