-- ==== Sys2Proof/Machine/Tiles.lean ====
section
/-! DEFINITION. Tiles: shape words, placement, tags, the tile table, the scoreboard, barriers (spec/04). -/

namespace Sys2Proof.Machine

/-! ## Shapes (R96 to R99) -/

def shRows (w : Word) : Nat := bits w 15 0
def shCols (w : Word) : Nat := bits w 27 16
def shType (w : Word) : Nat := bits w 32 28
def shPlanes (w : Word) : Bool := bitAt w 33
def shAcc (w : Word) : Bool := bitAt w 34
def shSparse (w : Word) : Nat := bits w 36 35

/-- Element bits by type code (R97); fx34 stands for the 36-bit entry. -/
def typeBits : Nat → Option Nat
  | 0 => some 8 | 1 => some 16 | 2 => some 32 | 3 => some 64 | 4 => some 8 | 5 => some 16 | 6 => some 32 | 7 => some 64
  | 8 => some 4 | 9 => some 2 | 10 => some 1 | 11 => some 8 | 12 => some 8 | 13 => some 4 | 14 => some 16 | 15 => some 16
  | 16 => some 32 | 17 => some 36 | 18 => some 16 | _ => none

def tyBits (t : Nat) : Nat := (typeBits t).getD 8

/-- Planes of a weight format (R73): e4m3 9, e2m1 5, s8 8, s4 4, s2 2, bin 1. -/
def planesOf : Nat → Option Nat
  | 11 => some 9 | 13 => some 5 | 0 => some 8 | 8 => some 4 | 9 => some 2 | 10 => some 1 | _ => none

/-- Kept rows of a group of 12 (R96). -/
def keptOf : Nat → Nat
  | 1 => 6 | 2 => 4 | 3 => 3 | _ => 12

/-- Bytes of a row of `cols` elements (R99, R105). -/
def rowBytes (cols b : Nat) : Nat := ceilDiv (cols * b) 8

/-- The row stride of a row-major palette tile (R99). -/
def rowStride (w : Word) : Nat := roundUp (rowBytes (shCols w) (tyBits (shType w))) 64

/-- Bytes a palette tile takes (R99). -/
def tileBytes (w : Word) : Nat :=
  if shPlanes w then
    let p := (planesOf (shType w)).getD 1
    let base := p * shRows w * 12
    let md := if shSparse w = 0 then 0 else shRows w / keptOf (shSparse w) * 144
    roundUp (base + md) 64
  else shRows w * rowStride w

/-- Granules or accumulator rows a tile takes (R99). -/
def tileUnits (w : Word) : Nat := if shAcc w then shRows w else tileBytes w / 64

/-- The checks of R98 but that of space; the part is a T2 part. -/
def shapeOk (w : Word) : Bool :=
  let t := shType w
  bits w 63 37 == 0 && decide (t ≤ 18) &&
  (if shAcc w then t == 17 && shCols w == 96 && decide (shRows w ≤ 512) && !shPlanes w else t != 17) &&
  (if shPlanes w then (planesOf t).isSome && shCols w == 96 else true) &&
  (if shSparse w = 0 then true else shPlanes w && shRows w % keptOf (shSparse w) == 0) &&
  (if Config.rev < 2 then decide (shSparse w < 2) else true)

/-! ## The tile table (R94, R95) -/

/-- The binding of a handle on a quad: table index and entry. An entry being freed is unbound (R272). -/
def Quad.find (x : Quad) (l : LaunchId) (h : Fin 64) : Option (Nat × Tile) :=
  x.tiles.find? fun e => e.2.launch == l && e.2.handle == h && !e.2.freeing

/-- The tile an entry and generation name, if it is still that tile. -/
def Quad.entry (x : Quad) (e : Nat) : Option Tile := lookupNat x.tiles e

/-- Handles h32-h63 are launch-wide (R94). -/
def launchWide (h : Fin 64) : Bool := decide (32 ≤ h.val)

/-- The quad that holds a launch-wide handle, by the launch's directory (R94). -/
def directory (s : State) (l : LaunchId) (h : Fin 64) : Option (Fin 64) :=
  (List.finRange 64).find? fun q => ((s.quads.get q).find l h).isSome

/-- The first gap of `n` units at or after `at_`, past the sorted blocks (R99). -/
def findGap (n limit : Nat) : List (Nat × Nat) → Nat → Option Nat
  | [], at_ => if at_ + n ≤ limit then some at_ else none
  | (b, len) :: t, at_ => if at_ + n ≤ b then some at_ else findGap n limit t (max at_ (b + len))

def insertBlock (b : Nat × Nat) : List (Nat × Nat) → List (Nat × Nat)
  | [] => [b]
  | x :: t => if b.1 ≤ x.1 then b :: x :: t else x :: insertBlock b t

/-- The blocks a quad's tiles hold at a level, sorted by place. -/
def Quad.blocks (x : Quad) (acc : Bool) : List (Nat × Nat) :=
  (x.tiles.filter fun e => shAcc e.2.shape == acc).foldr (fun e l => insertBlock (e.2.base, tileUnits e.2.shape) l) []

/-- Where a new tile fits: the lowest place (R99). -/
def Quad.place (x : Quad) (w : Word) : Option Nat :=
  findGap (tileUnits w) (if shAcc w then 512 else 32768) (x.blocks (shAcc w)) 0

/-- The free table entry of lowest index (R95). -/
def Quad.freeEntry (x : Quad) : Option Nat := (List.range 256).find? fun i => (lookupNat x.tiles i).isNone

/-- Tile generations in use (R102). -/
def Quad.liveGens (x : Quad) : List Gen := x.tiles.map fun e => e.2.gen

/-! ## Granules and rows (R100, R101, R81) -/

def blankGranule : Granule := { data := 0, tag := 0, scr := true }
def blankRow : AccRow := { data := Vector.replicate 96 0, tag := 0, sat := false, scr := true }

def Quad.granule (x : Quad) (g : Nat) : Granule := (lookupNat x.pal g).getD blankGranule
def Quad.accRow (x : Quad) (r : Nat) : AccRow := (lookupNat x.acc r).getD blankRow

def Quad.setGranule (x : Quad) (g : Nat) (v : Granule) : Quad := { x with pal := insertNat x.pal g v }
def Quad.setAccRow (x : Quad) (r : Nat) (v : AccRow) : Quad := { x with acc := insertNat x.acc r v }

/-- Bytes `[off, off + len)` of a granule. -/
def granuleBytes (d : BitVec 512) (off len : Nat) : List Byte := leBytes len (d.toNat / 2 ^ (8 * off))

/-- A granule's data with bytes replaced from `off`. -/
def patchGranule (d : BitVec 512) (off : Nat) (bs : List Byte) : BitVec 512 :=
  let n := bs.length
  let low := d.toNat % 2 ^ (8 * off)
  let high := d.toNat / 2 ^ (8 * (off + n)) * 2 ^ (8 * (off + n))
  BitVec.ofNat 512 (high + leNat bs * 2 ^ (8 * off) + low)

/-- Reads tile bytes granule by granule under gen_check of kind TILEGEN (R45, R101): a stale granule reads zero, or
raises TILEGEN when `strict`. -/
def readBytesFrom (x : Quad) (strict : Bool) (base : Nat) (gen : Gen) : Nat → Nat → Nat → Except Stop (List Byte)
  | 0, _, _ => .ok []
  | fuel + 1, off, len =>
    if len = 0 then .ok []
    else
      let n := min len (64 - off % 64)
      let gr := x.granule (base + off / 64)
      if gr.tag != gen && strict then tilegen
      else
        let here := if gr.tag == gen then granuleBytes gr.data (off % 64) n else List.replicate n 0
        match readBytesFrom x strict base gen fuel (off + n) (len - n) with
        | .ok rest => .ok (here ++ rest)
        | .error e => .error e

def readTile (x : Quad) (strict : Bool) (t : Tile) (off len : Nat) : Except Stop (List Byte) :=
  readBytesFrom x strict t.base t.gen (len / 64 + 2) off len

/-- tile_write on one granule (R101): a partial write of a stale granule zero-fills it first; any write retags it and
clears its SCRUBBED bit (R406). -/
def writeGranule (x : Quad) (gen : Gen) (g off : Nat) (bs : List Byte) : Quad :=
  let gr := x.granule g
  let d := if bs.length = 64 then (0 : BitVec 512) else if gr.tag == gen then gr.data else 0
  x.setGranule g { data := patchGranule d off bs, tag := gen, scr := false }

def writeBytesFrom (gen : Gen) (base : Nat) : Nat → Nat → List Byte → Quad → Quad
  | 0, _, _, x => x
  | fuel + 1, off, bs, x =>
    if bs.isEmpty then x
    else
      let n := 64 - off % 64
      writeBytesFrom gen base fuel (off + n) (bs.drop n) (writeGranule x gen (base + off / 64) (off % 64) (bs.take n))

/-- Writes bytes of a tile with its current generation. -/
def writeTile (t : Tile) (off : Nat) (bs : List Byte) (x : Quad) : Quad :=
  writeBytesFrom t.gen t.base (bs.length / 64 + 2) off bs x

/-- An engine's write: dropped, and counted for each granule, when the carried generation is no longer the tile's (R101). -/
def engineWrite (entry : Nat) (carried : Gen) (off : Nat) (bs : List Byte) (x : Quad) : Quad :=
  let dropped := { x with dropWrites := x.dropWrites + wd (sectors off bs.length).length }
  match x.entry entry with
  | some t => if t.gen == carried then writeTile t off bs x else dropped
  | none => dropped

/-- The start of a row of a row-major tile. -/
def rowOff (t : Tile) (r : Nat) : Nat := r * rowStride t.shape

/-- An element of a row (R67, R243): the bits of element `e` of width `b`. -/
def elemBits (row : List Byte) (b e : Nat) : Nat :=
  if b < 8 then fieldAt row (e * b / 8) 1 / 2 ^ (e * b % 8) % 2 ^ b else fieldAt row (e * b / 8) (b / 8)

/-- The value bits of an element's container: a bs12 container's [15:12] are ignored when read and written 0 (R70). -/
def elemMod (w : Word) : Nat := if shType w = 18 then 2 ^ 12 else 2 ^ tyBits (shType w)

/-- Reads one element of a row-major palette tile (R274). -/
def readElem (x : Quad) (strict : Bool) (t : Tile) (r e : Nat) : Except Stop Nat :=
  let b := tyBits (shType t.shape)
  match readTile x strict t (rowOff t r + e * b / 8) (max 1 (b / 8)) with
  | .ok bs => .ok ((if b < 8 then leNat bs / 2 ^ (e * b % 8) else leNat bs) % elemMod t.shape)
  | .error er => .error er

/-- Writes one element; a sub-byte element changes only its own bits (R274). -/
def writeElem (t : Tile) (r e v : Nat) (x : Quad) : Quad :=
  let b := tyBits (shType t.shape)
  let off := rowOff t r + e * b / 8
  if b < 8 then
    let old := match readTile x false t off 1 with | .ok bs => leNat bs | .error _ => 0
    let sh := 2 ^ (e * b % 8)
    let new := old - old / sh % 2 ^ b * sh + v % 2 ^ b * sh
    writeTile t off (leBytes 1 new) x
  else writeTile t off (leBytes (b / 8) (v % elemMod t.shape)) x

/-- The row of an accumulator tile as it reads: its entries, or zeros when stale (R81); no TILEGEN (log 19). -/
def readAccRow (x : Quad) (t : Tile) (r : Nat) : AccRow :=
  let row := x.accRow (t.base + r)
  if row.tag == t.gen then row else { blankRow with tag := t.gen }

/-- An entry with its residue checked (R85): DATAERR cause 2 on a mismatch. A stale row reads 0 unchecked (R81). -/
def accRead (row : AccRow) (c : Nat) : Except Stop Nat :=
  let e := row.data.toList.getD c 0
  if accOk e then .ok (e.toNat % 2 ^ 34) else dataerr 2

/-- Writes one entry of a row with its residue; a stale row is zero-filled first (R101), SAT cleared when asked. -/
def writeAccEntry (t : Tile) (r c v : Nat) (clearSat : Bool) (x : Quad) : Quad :=
  let row := readAccRow x t r
  x.setAccRow (t.base + r) { data := row.data.setIfInBounds c (accEntry v), tag := t.gen
                             sat := row.sat && !clearSat, scr := false }

/-! ## The scoreboard (R107 to R109) -/

/-- Two ranges overlap and one of the accesses writes. -/
def conflicts (lo hi : Nat) (write : Bool) (e : SbEnt) : Bool :=
  (write || e.write) && decide (e.lo ≤ hi) && decide (lo ≤ e.hi)

/-- Every earlier entry of the tile that conflicts has completed (R108). -/
def mayBegin (x : Quad) (tile : Nat) (gen : Gen) (lo hi : Nat) (write : Bool) : Bool :=
  !x.sb.any fun e => e.tile == tile && e.gen == gen && conflicts lo hi write e

/-- A write entry over a latched row makes the canvas reload before its next pass (R110). -/
def noteWrite (tile : Nat) (gen : Gen) (lo hi : Nat) (x : Quad) : Quad :=
  match x.canvas with
  | none => x
  | some c =>
    let hitW := c.decl.entry == tile && c.decl.tgen == gen && decide (c.rowLo ≤ hi) && decide (lo ≤ c.rowHi)
    let hitS := !c.decl.nosc && c.decl.scEntry == tile && c.decl.scGen == gen && decide (c.scLo ≤ hi) &&
      decide (lo ≤ c.scHi)
    if hitW || hitS then { x with canvas := some { c with stale := true } } else x

/-- Makes an entry (R107). -/
def makeEntry (tile : Nat) (gen : Gen) (lo hi : Nat) (write : Bool) (o : SbOwner) (x : Quad) : Quad :=
  let y := if write then noteWrite tile gen lo hi x else x
  { y with sb := y.sb ++ [{ id := y.sbNext, tile := tile, gen := gen, lo := lo, hi := hi, write := write, owner := o }]
           sbNext := y.sbNext + 1 }

/-- Room for `n` more entries (R109). -/
def sbRoom (x : Quad) (n : Nat) : Bool := decide (x.sb.length + n ≤ 64)

/-- An earlier entry of the same tile and generation that conflicts has not completed (R108); a free waits for every
earlier entry of the tile (R272). -/
def blocked (x : Quad) (e : SbEnt) : Bool :=
  x.sb.any fun d => decide (d.id < e.id) && d.tile == e.tile &&
    (e.owner == .free || (d.gen == e.gen && conflicts e.lo e.hi e.write d))

/-- Rows `[lo, hi]` of a tile zeroed and retagged (R274, R283); accumulator rows lose their SAT bit. -/
def zeroRows (t : Tile) (lo hi : Nat) (x : Quad) : Quad :=
  if shAcc t.shape then
    (List.range (hi + 1 - lo)).foldl (fun y i =>
      y.setAccRow (t.base + lo + i) { data := Vector.replicate 96 0, tag := t.gen, sat := false, scr := false }) x
  else
    let per := rowStride t.shape / 64
    (List.range ((hi + 1 - lo) * per)).foldl (fun y i =>
      y.setGranule (t.base + lo * per + i) { data := 0, tag := t.gen, scr := false }) x

/-- tile.st's write of one element (R274). -/
def putElem (t : Tile) (r col : Nat) (v : Word) (x : Quad) : Quad :=
  if shAcc t.shape then writeAccEntry t r col v.toNat true x else writeElem t r col v.toNat x

/-- A committed tile form at its turn: the free of a table entry and its space (R95, R272), a write, a zeroing (R274);
an entry of another owner is left to its command. -/
def runEntry (e : SbEnt) (x : Quad) : Quad :=
  let y := { x with sb := x.sb.filter fun d => d.id != e.id }
  match e.owner with
  | .easel _ | .request .. | .load .. => x
  | .free => { y with tiles := eraseNat y.tiles e.tile }
  | .put col v => match y.entry e.tile with
    | some t => putElem t e.lo col v y
    | none => y
  | .zero => match y.entry e.tile with
    | some t => zeroRows t e.lo e.hi y
    | none => y

/-- Every committed tile form whose turn has come, in the order of the entries. -/
def runEntries (x : Quad) : Quad := x.sb.foldl (fun y e => if blocked y e then y else runEntry e y) x

/-- Forms that wait for a grant. -/
def waitingForms (x : Core) : List DqEnt := x.dq.filter fun e => e.phase == .waiting

/-- No form of the quad waits in a dispatch queue. -/
def dqsEmpty (x : Quad) : Bool := x.cores.toList.all fun y => (waitingForms y).isEmpty

/-- A grant is asked for while forms wait. -/
def askGrant (q : Fin 64) (s : State) : State :=
  if dqsEmpty (s.quads.get q) then s else post (.easelGrant q) s

/-- Entries have left the board: committed tile forms whose turn has come act, and parked strands wake in the order in which they
parked, as far as there is room (R108, R109). -/
def boardFreed (q : Fin 64) (s : State) : State :=
  let s1 := s.updQuad q runEntries
  let room := 64 - (s1.quads.get q).sb.length
  askGrant q (wakeAll ((parkedFor s1 (fun w => w == .scoreboard) (strandsOf [q])).take room) s1)

/-- The entries of a slot's tile.ld that waits for its turn (R107). -/
def loadEntries (x : Quad) (c : Fin 4) (k : Fin 24) : List SbEnt := x.sb.filter fun e => e.owner == .load c k

/-- The entries of a slot's tile.ld leave (R107, R108). -/
def dropLoads (q : Fin 64) (c : Fin 4) (k : Fin 24) (s : State) : State :=
  if (loadEntries (s.quads.get q) c k).isEmpty then s
  else boardFreed q (s.updQuad q fun x => { x with sb := x.sb.filter fun e => e.owner != .load c k })

/-- Posts the completion of the entries that `p` picks. -/
def completeEntries (q : Fin 64) (p : SbEnt → Bool) (s : State) : State :=
  postAll (((s.quads.get q).sb.filter p).map fun e => Instr.scoreboardEntryComplete q e.id) s

/-! ## Generations and the scrub sweep (R102, R103) -/

/-- The new generation of a live tile in a sweep: its place among the live entries, from 1. -/
def sweepGen (live : List (Nat × Tile)) (e : Nat) : Gen := BitVec.ofNat 16 ((live.map Prod.fst).idxOf e + 1)

/-- The tile that holds a granule or row. -/
def holderOf (x : Quad) (acc : Bool) (g : Nat) : Option (Nat × Tile) :=
  x.tiles.find? fun e => shAcc e.2.shape == acc && decide (e.2.base ≤ g) && decide (g < e.2.base + tileUnits e.2.shape)

/-- Steps 3 and 5 of the sweep on the quad's own storage (R103). A WBIND or latched generation that matches no live entry has
no number to take and becomes 0, which matches none (DESIGN CHOICE, log 37). -/
def sweepQuad (x : Quad) : Quad :=
  let live := x.tiles
  let retag := fun (acc : Bool) (g : Nat) (tag : Gen) =>
    match holderOf x acc g with
    | some (i, t) => if tag == t.gen then sweepGen live i else (0 : Gen)
    | none => (0 : Gen)
  let gen' := fun (e : Nat) (g : Gen) =>
    match lookupNat x.tiles e with
    | some t => if t.gen == g then sweepGen live e else (0 : Gen)
    | none => (0 : Gen)
  { x with
    pal := x.pal.map fun (g, v) => (g, { v with tag := retag false g v.tag })
    acc := x.acc.map fun (g, v) => (g, { v with tag := retag true g v.tag })
    tiles := x.tiles.map fun (i, t) => (i, { t with gen := sweepGen live i })
    sb := x.sb.map fun e => { e with gen := gen' e.tile e.gen }
    canvas := x.canvas.map fun c => { c with decl := { c.decl with
      tgen := gen' c.decl.entry c.decl.tgen, scGen := gen' c.decl.scEntry c.decl.scGen } }
    cores := x.cores.each fun y => { y with wbind := { y.wbind with
      tgen := gen' y.wbind.entry y.wbind.tgen, scGen := gen' y.wbind.scEntry y.wbind.scGen } }
    qgen := BitVec.ofNat 16 live.length
    sweeping := false
    sweeps := x.sweeps + 1 }

/-- Step 4 of the sweep on the requests in flight for the quad (R103); a carried generation that matches no live entry becomes
0 (DESIGN CHOICE, log 37). -/
def sweepRequests (old : Quad) (q : Fin 64) (r : Request) : Request :=
  if r.home != q then r
  else
    let gen' := fun (e : Nat) (g : Gen) =>
      match lookupNat old.tiles e with
      | some t => if t.gen == g then sweepGen old.tiles e else (0 : Gen)
      | none => (0 : Gen)
    { r with tgen := gen' r.tentry r.tgen, agen := gen' r.aentry r.agen }

/-- The whole sweep of a quad (R103). -/
def sweep (q : Fin 64) (s : State) : State :=
  let old := s.quads.get q
  let fix := fun (h : Hart) => { h with queue := h.queue.map (sweepRequests old q) }
  let s1 := s.updQuad q fun x => let y := sweepQuad x; { y with harts := y.harts.each fix }
  { s1 with weirs := s1.weirs.each fix }

/-- A new tile generation for an operation that waits out a sweep when it needs one (R102, R103, R117). -/
def takeGen (q : Fin 64) (s : State) : Gen × State :=
  let x := s.quads.get q
  match nextGen x.liveGens 300 x.qgen.toNat with
  | some g => (g, s.updQuad q fun x => { x with qgen := g })
  | none =>
    let s1 := sweep q s
    let g := (nextGen (s1.quads.get q).liveGens 300 (s1.quads.get q).qgen.toNat).getD 1
    (g, s1.updQuad q fun x => { x with qgen := g })

/-- The byte ranges of rows `[lo, hi]` of a planes tile: those kept rows in every plane, and the metadata of their groups
(R73, R99, R276). -/
def planeRanges (w : Word) (lo hi : Nat) : List (Nat × Nat) :=
  let p := (planesOf (shType w)).getD 1
  let k := keptOf (shSparse w)
  ((List.range p).map fun i => (i * shRows w * 12 + lo * 12, i * shRows w * 12 + (hi + 1) * 12)) ++
    (if shSparse w = 0 then [] else [(p * shRows w * 12 + 144 * (lo / k), p * shRows w * 12 + 144 * (hi / k + 1))])

/-- Whether granule or accumulator row `g` of a tile holds something of rows `[lo, hi]`. -/
def liveGranule (t : Tile) (lo hi g : Nat) : Bool :=
  if shAcc t.shape then decide (lo ≤ g) && decide (g ≤ hi)
  else if shPlanes t.shape then (planeRanges t.shape lo hi).any fun r => decide (r.1 < 64 * (g + 1)) && decide (64 * g < r.2)
  else decide (lo * rowStride t.shape / 64 ≤ g) && decide (g < (hi + 1) * rowStride t.shape / 64)

/-- The generation bump of a tile at a cancellation (R117): granules of live row ranges that carried the old generation
take the new one; every other granule keeps its tag and so reads as zero. -/
def bumpTile (q : Fin 64) (e : Nat) (live : List (Nat × Nat)) (s : State) : State :=
  match (s.quads.get q).entry e with
  | none => s
  | some _ =>
    let r := takeGen q s
    match (r.2.quads.get q).entry e with
    | none => r.2
    | some t =>
      let inLive := fun (g : Nat) => live.any fun (lo, hi) => liveGranule t lo hi (g - t.base)
      let inTile := fun (g : Nat) => decide (t.base ≤ g) && decide (g < t.base + tileUnits t.shape)
      let fix := fun (g : Nat) (tag : Gen) => if inTile g && inLive g && tag == t.gen then r.1 else tag
      r.2.updQuad q fun x =>
        { x with
          tiles := insertNat x.tiles e { t with gen := r.1 }
          pal := if shAcc t.shape then x.pal else x.pal.map fun (g, v) => (g, { v with tag := fix g v.tag })
          acc := if shAcc t.shape then x.acc.map fun (g, v) => (g, { v with tag := fix g v.tag }) else x.acc }

/-! ## Barriers (R122) -/

def Quad.updBar (x : Quad) (b : Fin 16) (f : Barrier → Barrier) : Quad :=
  { x with bars := x.bars.set b.val (f (x.bars.get b)) b.isLt }

/-- Subtracts bytes from a request's barrier and wakes its waiters when none are pending (R122, R290). -/
def barrierSub (r : Request) (n : Nat) (s : State) : State :=
  if r.btag.toNat / 16 = 0 then s
  else
    let b : Fin 16 := Fin.ofNat 16 r.btag.toNat
    let s1 := s.updQuad r.home fun x => x.updBar b fun y => { y with pending := y.pending - BitVec.ofNat 36 n }
    if ((s1.quads.get r.home).bars.get b).pending == 0 then
      wakeQuad r.home (fun w => match w with | .barrier b' => b' == b | _ => false) s1
    else s1

end Sys2Proof.Machine
end

