-- ==== Sys2Proof/Machine/Halt.lean ====
section
/-! DEFINITION. The commit buffer (R170 to R172), stop records and the halt line (R366 to R370), the end and the
cancellation of engine requests (R116, R117), and killing strands and launches (R15, R372). -/

namespace Sys2Proof.Machine

/-! ## Register writes -/

/-- A named register written with the strand's generation (R44). -/
def Arch.setN (y : Arch) (i : Fin 16) (v : Word) (g : Gen) : Arch :=
  { y with n := y.n.set i.val { data := v, tag := g, scr := false } i.isLt }

/-- A push: the value becomes q1, every position grows one age older, the sixteenth is dropped (R46). -/
def Arch.push (y : Arch) (e : QEnt) : Arch :=
  { y with q := Vector.ofFn fun (k : Fin 16) => if k.val = 0 then e else y.q.toList.getD (k.val - 1) e }

/-- A long-latency result reaches its destination; a position dropped off the queue discards it (R47). -/
def Arch.fill (y : Arch) (d : PDst) (v : Word) (g : Gen) : Arch :=
  match d with
  | .n i => y.setN i v g
  | .q id => { y with q := y.q.each fun e => if e.resv == some id then { e with data := v, tag := g, scr := false } else e }
  | .none => y

/-! ## The commit buffer (R172) -/

/-- A held entry takes effect as its instruction commits: in a region it enters the region buffer (R225), behind the buffer of
a committed region it keeps its place (R226), else a store is performed. -/
def performHeld (a : Agent) (e : BufEnt) (s : State) : State :=
  if (s.ctx a).sp.inregion then s.updFlight a fun f => { f with rbuf := f.rbuf ++ [e] }
  else if !(s.ctx a).fl.drain.isEmpty then s.updFlight a fun f => { f with drain := f.drain ++ [e] }
  else match e with
    | .store v ps => storeAll v ps s
    | .spark _ | .send _ | .sendt _ => s

def performAll (a : Agent) : List BufEnt → State → State
  | [], s => s
  | e :: t, s => performAll a t (performHeld a e s)

/-- Commits the oldest uncommitted long-latency instruction: its result and flags are written, in the state and in the
later ones' checkpoints, and the stores that waited for it follow (R172). An easel form commits when it retires, not here. -/
def commitOne (a : Agent) (s : State) : State :=
  match (s.ctx a).fl.pend with
  | [] => s
  | p :: rest =>
    if p.form then s else
    let fix := fun (g : Gen) (x : Arch) => { (x.fill p.dst p.val g) with fflg := x.fflg ||| p.flags }
    let held := (s.ctx a).fl.wst.filter fun e => e.1 == p.id
    let s1 := s.updCtx a fun y =>
      { y with arch := fix y.gen y.arch
               fl := { y.fl with pend := rest.map fun r => { r with ckpt := fix y.gen r.ckpt }
                                 wst := y.fl.wst.filter fun e => e.1 != p.id } }
    performAll a (held.map fun e => e.2) s1

/-- The canvas or drain form at the head of a strand's uncommitted instructions has completed: it commits, and the stores that
waited for it follow (R172, R246, R267). -/
def commitForm (a : Agent) (s : State) : State :=
  match (s.ctx a).fl.pend with
  | [] => s
  | p :: rest =>
    if !p.form then s else
    let held := (s.ctx a).fl.wst.filter fun e => e.1 == p.id
    performAll a (held.map fun e => e.2) (s.updFlight a fun f => { f with pend := rest, wst := f.wst.filter fun e => e.1 != p.id })

def commitN (a : Agent) : Nat → State → State
  | 0, s => s
  | k + 1, s => commitN a k (commitOne a s)

/-- Commits everything outstanding. -/
def commitAll (a : Agent) (s : State) : State := commitN a (s.ctx a).fl.pend.length s

/-- How many of the oldest long-latency instructions have no open window left. -/
def dueCount (f : Flight) : Nat :=
  let openId := fun (i : Nat) => f.wins.any fun w => w.id == i && decide (0 < w.left)
  match ((List.range f.pend.length).filter fun k => match f.pend[k]? with
      | some p => !openId p.id
      | none => false).getLast? with
  | some k => k + 1
  | none => 0

/-- Commits what the next instruction may not overtake: the long-latency instructions whose windows are used up and
every one before them (R170, R172). -/
def commitDue (a : Agent) (s : State) : State := commitN a (dueCount (s.ctx a).fl) s

/-- Uncommitted long-latency instructions and their windows are cancelled, as at a trap: the state before the oldest
comes back (R367, R374), or that after an easel form, which stays with its sub-unit. -/
def cancelPending (a : Agent) (s : State) : State :=
  s.updCtx a fun y => match y.fl.pend with
    | [] => y
    | p :: _ => { y with arch := p.ckpt, fl := { y.fl with pend := if p.form then [p] else [], wins := p.wins, wst := [] } }

/-! ## Stop records (R369) -/

/-- The space an agent's virtual addresses belong to (R210, R357). Command cores and the security core have none. -/
def agentSpace (s : State) (a : Agent) : Option Space :=
  match a with
  | .strand .. => match s.launchRec a with
    | some l => spaceOf s l.queue
    | none => none
  | .hart .. | .weir _ => match s.hart a with
    | some h => match h.queue.head? with
      | some r => spaceOf s r.queue
      | none => none
    | none => none
  | .cmd _ | .sec => none

/-- The 32-bit word at a strand's PC if its granule translates, else 0; a 16-bit word in [15:0] (R369). -/
def wordAt (s : State) (a : Agent) (pc : Word) : Nat :=
  match agentSpace s a with
  | none => 0
  | some sp =>
    let half := fun (p : Word) => match walk none sp .exec p s with
      | (.found e, _) => readPhysN s ((e.pa.toNat + (p.toNat / 65536 - e.va.toNat)) * 65536 + p.toNat % 65536) 2
      | _ => 0
    let lo := half pc
    if lo % 2 = 0 then lo else lo + 65536 * half (pc + 2)

/-- A stop record before it is laid out. -/
structure StopRec where
  engine : Nat
  kind : Nat
  cause : Nat
  flags : Nat
  stid : Nat
  pc : Nat
  value : Nat
  launch : LaunchId
  overflow : Nat
  gen : Nat
  word : Nat
  engseq : Nat
  progress : Nat
  deriving DecidableEq, Repr

def StopRec.blank (engine : Nat) : StopRec :=
  { engine := engine, kind := 0, cause := 0, flags := 0, stid := 0, pc := 0, value := 0, launch := noLaunch
    overflow := 0, gen := 0, word := 0, engseq := 0, progress := 0 }

/-- The 64 bytes of a record (R369); `hid` hides the fields of a confidential partition without debug consent. -/
def StopRec.bytes (r : StopRec) (hid : Bool) (ctc rseq : Nat) : List Byte :=
  let h := fun (v : Nat) => if hid then 0 else v
  leBytes 1 r.engine ++ leBytes 1 r.kind ++ leBytes 1 r.cause ++ leBytes 1 (r.flags + if hid then 8 else 0) ++
    leBytes 4 r.stid ++ leBytes 8 (h r.pc) ++ leBytes 8 (h r.value) ++ leBytes 4 r.launch.lseq.toNat ++
    leBytes 1 r.launch.hwq.val ++ leBytes 1 r.overflow ++ leBytes 2 r.gen ++ leBytes 8 ctc ++ leBytes 4 (h r.word) ++
    leBytes 2 r.engseq ++ leBytes 2 0 ++ leBytes 8 (h r.progress) ++ leBytes 4 rseq ++ leBytes 4 0

/-- Writes a record at its position of the quad's stop area, when STOPBASE.V is 1, and counts it. -/
def putStopRecord (p : Fin 64) (q : Fin 64) (pos : Nat) (r : StopRec) (s : State) : State :=
  let x := s.quads.get q
  let bs := r.bytes (hidden x) s.ctc.toNat (s.parts.get p).rseq
  let s1 := if bitAt x.stopbase 0 && decide (pos < 16) then
      writePhys (.home p.val) (bits x.stopbase 51 10 * 1024 + 64 * pos) bs s else s
  s1.updPart p fun y => { y with rseq := y.rseq + 1, stopCount := y.stopCount + 1 }

/-- The PC of a strand as the instructions that have retired leave it: that of its oldest easel form that has not been granted,
if one waits (R246, R367). -/
def strandPc (s : State) (q : Fin 64) (c : Fin 4) (k : Fin 24) : Word :=
  match (s.core q c).dq.find? fun e => e.k == k && e.phase == .waiting with
  | some e => e.pc
  | none => (s.ctx (.strand q c k)).arch.pc

/-- The record of a core: the strand that runs there, and the fault when this core raised it; that of a core whose refused launch
has no strand (ZLA cause 2, R41) describes none. -/
def coreRecord (s : State) (q : Fin 64) (c : Fin 4) (fault : Option (Nat × Nat × Word)) (strand : Option (Fin 24)) : StopRec :=
  let f := fault.getD (0, 0, 0)
  let base := { StopRec.blank c.val with
    kind := f.1, cause := f.2.1, value := f.2.2.toNat, flags := if fault.isSome then 1 else 0
    progress := (s.core q c).trc.widx }
  match (if f.1 = 9 ∧ f.2.1 = 2 then none else strand) with
  | none => base
  | some k =>
    let a : Agent := .strand q c k
    let y := s.ctx a
    let pc := strandPc s q c k
    { base with
      flags := base.flags + 2, stid := (stidWord s (s.strandId q c k)).toNat, pc := pc.toNat
      launch := y.launch.getD noLaunch, gen := y.gen.toNat, word := wordAt s a pc }

/-- A record with the fault that its engine raised. -/
def StopRec.charge (r : StopRec) (fault : Option (Nat × Nat × Word)) : StopRec :=
  match fault with
  | none => r
  | some f => { r with kind := f.1, cause := f.2.1, value := f.2.2.toNat, flags := r.flags + 1 }

def requestRecord (s : State) (engine : Nat) (r : Request) (row : Nat) : StopRec :=
  { StopRec.blank engine with
    flags := 4, stid := (stidWord s r.stid).toNat, pc := r.record.toNat, launch := r.launch, gen := r.tgen.toNat
    engseq := r.eng.toNat * 2048 + r.seq.toNat, progress := row }

/-- The weir requests held for a quad of a partition, in order of kick. -/
def heldWeir (s : State) (p : Fin 64) (q : Fin 64) : List Request :=
  let all := s.weirs.toList.flatMap fun h => h.queue.filter fun r => r.home == q && r.part.toNat == p.val
  all.foldr (fun r l => l.filter (fun x => decide (x.order < r.order)) ++ [r] ++ l.filter fun x => decide (r.order < x.order)) []

/-- The records a weir unit writes for a partition's requests (R369); a fault is the head request's. -/
def weirRecords (p : Fin 64) (u : Fin 16) (fault : Option (Nat × Nat × Word)) : List Request → State → State
  | [], s => s
  | r :: t, s =>
    let pos := (heldWeir s p r.home).findIdx fun x => x.order == r.order
    let head := (s.weirs.get u).queue.head? == some r
    let rec_ := (requestRecord s 8 r (if head then (s.weirs.get u).row else 0)).charge (if head then fault else none)
    weirRecords p u fault t (if pos < 8 then putStopRecord p r.home (8 + pos) rec_ s else s)

/-- A hold is set on some quad of the partition (R368). -/
def held (s : State) (p : Fin 64) : Bool := s.quads.toList.any fun x => x.part.toNat == p.val && x.halt.hold

/-- The walk may start once every engine has stopped and no hold stands (R368, R371). -/
def askWalk (p : Fin 64) (s : State) : State :=
  let x := s.parts.get p
  if x.line && x.toStop.isEmpty && !x.faults.isEmpty && !x.walking && !held s p then
    post (.containmentWalk p) (s.updPart p fun y => { y with walking := true })
  else s

/-- An engine whose record is written has stopped (R367); whoever waits for the records is woken when the last engine has. -/
def leaveLine (p : Fin 64) (e : Engine) (s : State) : State :=
  let s1 := s.updPart p fun y => { y with toStop := y.toStop.filter fun x => x != e }
  let s2 := if (s1.parts.get p).toStop.isEmpty then
      wakeWhere (fun w => match w with | .stopRecords p' => p' == p | _ => false)
        ((List.finRange 2).map Agent.cmd ++ [.sec]) s1
    else s1
  askWalk p s2

/-- An engine stops for its partition's line (R367): its uncommitted work is cancelled and its record is written. `fault` is what
this engine raised. -/
def stopEngine (p : Fin 64) (e : Engine) (fault : Option (Nat × Nat × Word)) (s : State) : State :=
  if !(s.parts.get p).toStop.contains e then s
  else
    let s1 := match e with
      | .core q c =>
        let run := (s.core q c).run
        let s0 := match run with | some k => cancelPending (.strand q c k) s | none => s
        putStopRecord p q c.val (coreRecord s0 q c fault run) s0
      | .hart q h =>
        match ((s.quads.get q).harts.get h).queue.head? with
        | some r => putStopRecord p q (4 + h.val) ((requestRecord s (4 + h.val) r ((s.quads.get q).harts.get h).row).charge fault) s
        | none => putStopRecord p q (4 + h.val) ((StopRec.blank (4 + h.val)).charge fault) s
      | .easel q =>
        putStopRecord p q 6 { StopRec.blank 6 with overflow := min 255 ((heldWeir s p q).length - 8) } s
      | .weir u => weirRecords p u fault ((s.weirs.get u).queue.filter fun r => r.part.toNat == p.val) s
      | .distributor _ => s
    leaveLine p e s1

/-- Every core of a partition asked to select again (R18). -/
def selectAll : List (Fin 64 × Fin 4) → State → State
  | [], s => s
  | (q, c) :: t, s => selectAll t (askSelect q c s)

/-- The line falls (priv.halt with b = 0, R294): HALTED clears and every engine that was not killed resumes. In ERROR the
line is held raised (R388). -/
def releaseLine (p : Fin 64) (s : State) : State :=
  if (s.parts.get p).st == .error then s
  else
  let s1 := s.updPart p fun y => { y with line := false, walking := false, toStop := [] }
  let s2 := { s1 with quads := s1.quads.each fun x =>
    if x.part.toNat == p.val && x.owner.toNat % 2 == 1 then { x with halt := { x.halt with halted := false } } else x }
  selectAll ((s2.partQuads (BitVec.ofNat 8 p.val)).flatMap fun q => (List.finRange 4).map fun c => (q, c)) s2

/-- HALTCTL.HOLD := 1 on a quad: the line rises without a fault (R368). -/
def setHold (q : Fin 64) (s : State) : State :=
  raiseLine (pIdx (s.quads.get q).part) 0 (s.updQuad q fun x => { x with halt := { x.halt with hold := true } })

/-- HALTCTL.HOLD := 0: the partition resumes, or the faults recorded during the hold are walked (R368). -/
def clearHold (q : Fin 64) (s : State) : State :=
  let p := pIdx (s.quads.get q).part
  if !(s.quads.get q).halt.hold then s
  else
    let s1 := s.updQuad q fun x => { x with halt := { x.halt with hold := false } }
    if held s1 p then s1
    else if (s1.parts.get p).faults.isEmpty then releaseLine p s1 else askWalk p s1

/-- A fault with no faulting strand on a core or engine (R41 cause 2, R121): recorded, and the line raised. -/
def faultNoStrand (p : Fin 64) (kind cause : Nat) (l : LaunchId) (s : State) : State :=
  raiseLine p kind (recordFault p kind cause none (some l) s)

/-- The engine that a request's ENG names, as the halt line counts it (R118, R367). -/
def hartEngine : Agent → Option Engine
  | .hart q h => some (.hart q h)
  | .weir u => some (.weir u)
  | .strand .. | .cmd _ | .sec => none

/-- A fault of an engine hart's own, or of the request of a strand that has exited (R121, R269, R366): on record without a strand,
in the engine's stop record with its request (R369, R370). -/
def hartFault (a : Agent) (r : Request) (kind cause : Nat) (value : Word) (s : State) : State :=
  let p := pIdx r.part
  let s1 := raiseLine p kind (recordFault p kind cause none (some r.launch) s)
  match hartEngine a with
  | some e => stopEngine p e (some (kind, cause, value)) s1
  | none => s1

/-! ## Requests end (R116, R117, R121, R122) -/

/-- The agent that a request's ENG names (R118). -/
def engAgent (q : Fin 64) (eng : BitVec 5) : Agent :=
  if eng.toNat < 16 then .hart q (Fin.ofNat 2 eng.toNat) else .weir (Fin.ofNat 16 (eng.toNat - 16))

/-- The completion word (R116). -/
def completionWord (eng : BitVec 5) (seq : BitVec 11) (status : Nat) : Word :=
  wd (eng.toNat * 2 ^ 59 + seq.toNat * 2 ^ 48 + status * 2 ^ 40)

/-- The outstanding list after a completion word of a request arrives (R220). -/
def noteCompletion (eng : BitVec 5) (seq : BitVec 11) (st : Option ReqSt) (xs : List OutReq) : List OutReq :=
  match st with
  | none => xs.filter fun e => !(e.eng == eng && e.seq == seq)
  | some r => xs.map fun e => if e.eng == eng && e.seq == seq then { e with st := r } else e

/-- A failure of integrity, MEMERR of cause 2, moves a LOCKED or RUN partition to ERROR (R365, R388, R393). -/
def noteIntegrity (p : Fin 64) (kind cause : Nat) (s : State) : State :=
  if kind == 11 && cause == 2 then enterError p s else s

/-- A request has ended: it leaves the queue of its engine, its barrier loses the bytes never written, its scoreboard
entries complete, and its completion word reaches the strand's outstanding list; a fault of a strand that has exited
becomes a fault of the launch (R121), and one of integrity moves the partition to ERROR (R388). -/
def endRequest (r : Request) (st : Option ReqSt) (s : State) : State :=
  let a := engAgent r.home r.eng
  let s0 := match st with
    | some (.faulted k c v) =>
      noteIntegrity (pIdx r.part) k c (if s.alive r.stid then s else hartFault a r k c v s)
    | some .running | some .cancelled | none => s
  let s1 := s0.updHart a fun h =>
    let wasHead := match h.queue.head? with | some x => x.eng == r.eng && x.order == r.order | none => false
    let h1 := { h with queue := h.queue.filter fun x => x.order != r.order }
    if wasHead then { h1 with row := 0, holdAt := none, refused := none, gcm := none, ports := Init.ports } else h1
  let s2 := barrierSub r r.left s1
  let s3 := completeEntries r.home (fun e => e.owner == .request r.eng r.seq) s2
  let ag := agentOf r.stid
  let s4 := if s3.alive r.stid then
      let s' := s3.updCtx ag fun y => { y with outst := noteCompletion r.eng r.seq st y.outst }
      match (s'.ctx ag).why with
      | some (.waitp _) | some .outstanding => wake ag s'
      | _ => s'
    else s3
  let s5 := wakeAll ((parkedFor s4 (fun w => w == .engineQueue r.eng)
    (if r.eng.toNat < 16 then strandsOf [r.home] else allStrands)).take 1) s4
  post (.launchComplete r.launch) s5

/-- The tiles a request writes: CPY in, GATH, COLL and WEIR write the tile of h (R285 to R288). -/
def writesTile (r : Request) : Bool := r.kind == 0 || r.kind == 2 || r.kind == 4 || r.kind == 5

/-- Cancels one request (R117): the tile it writes takes a new generation, granules of live ranges retagged. -/
def cancelRequest (live : List (Nat × Nat)) (r : Request) (s : State) : State :=
  let cur := match (s.quads.get r.home).entry r.tentry with | some t => t.gen == r.tgen | none => false
  let s1 := if writesTile r && cur then bumpTile r.home r.tentry live s else s
  endRequest r (some .cancelled) s1

/-- Every request in the queues that `p` picks. -/
def requestsWhere (s : State) (p : Request → Bool) : List Request :=
  (s.quads.toList.flatMap fun x => x.harts.toList.flatMap fun h => h.queue.filter p) ++
    s.weirs.toList.flatMap fun h => h.queue.filter p

/-- A cancelled COLL takes every participant's request of the same launch and CID with it, queued ones too (R287). -/
def collPeers (s : State) (r : Request) : List Request :=
  if r.kind == 4 then
    requestsWhere s fun x => x.kind == 4 && x.launch == r.launch && x.order != r.order && x.cid == r.cid
  else []

def cancelAllReq (live : Request → List (Nat × Nat)) : List Request → State → State
  | [], s => s
  | r :: t, s => cancelAllReq live t (cancelRequest (live r) r s)

/-- Cancels the requests that `p` picks, with the participants of their collectives. -/
def cancelRequests (p : Request → Bool) (s : State) : State :=
  let rs := requestsWhere s p
  let peers := (rs.flatMap (collPeers s)).filter fun x => !rs.any fun r => r.order == x.order
  let uniq := peers.foldl (fun l x => if l.any (fun y => y.order == x.order) then l else l ++ [x]) []
  cancelAllReq (fun _ => []) (rs ++ uniq) s

/-! ## The buffer of a committed region (R226) -/

/-- The core whose L1 an agent's stores go through. -/
def l1Of : Agent → Option (Fin 64 × Fin 4)
  | .strand q c _ => some (q, c)
  | .hart .. | .weir _ | .cmd _ | .sec => none

/-- Sends a message at the head of a strand's drain, to be answered to the drain (R226). -/
def sendHeld (id : StrandId) (e : BufEnt) (s : State) : State :=
  match e with
  | .store .. => s
  | .spark m => sendCreation id.q { m with sender := .drain id } s
  | .sendt m => sendStamped id.q { m with sender := .drain id } s
  | .send m => sendDeposit id.q { m with sender := some (.drain id) } s

/-- Performs the stores at the head of the buffer in program order; a message at the head is sent once, and what stands behind
it waits until it has landed (R226). -/
def drainRun (a : Agent) : Nat → State → State
  | 0, s => s
  | n + 1, s => match (s.ctx a).fl.drain with
    | [] => s
    | .store v ps :: t => drainRun a n (storeAll v ps (s.updFlight a fun f => { f with drain := t }))
    | e :: _ => match a with
      | .strand q c k =>
        if (s.ctx a).fl.sent then s
        else sendHeld (s.strandId q c k) e (s.updFlight a fun f => { f with sent := true })
      | .hart .. | .weir _ | .cmd _ | .sec => s

/-- The buffer of a committed region drains as far as it can (R226). -/
def drainRegion (a : Agent) (s : State) : State := drainRun a (s.ctx a).fl.drain.length s

/-- The message at the head has landed, and the drain goes on (R226). -/
def drainNext (a : Agent) (s : State) : State :=
  drainRegion a (s.updFlight a fun f => { f with drain := f.drain.drop 1, sent := false })

/-- What comes after a committed region in program order waits for its buffer (R24, R226, R232). -/
def drained (a : Agent) (s : State) : Except Stop State :=
  let s1 := drainRegion a s
  if (s1.ctx a).fl.drain.isEmpty then .ok s1 else .error (.wait s1)

/-! ## Killing (R15, R372) -/

/-- The launch a message belongs to, and the strand that waits for its answer. -/
def msgLaunch : Instr → Option LaunchId
  | .creationMessage m | .stampedEvent m => some m.hdr.launch
  | .migrationImage m => some m.hdr.launch
  | .deposit m => some m.hdr.launch
  | _ => none

def msgSender : Instr → Option StrandId
  | .creationMessage m | .stampedEvent m => match m.sender with
    | .strand x | .drain x => some x
    | .distributor _ | .firmware => none
  | .migrationImage m => some m.source
  | _ => none

/-- The senders that `p` picks no longer wait in a core's refusal FIFO (R19), and their late messages are dropped. -/
def Core.unwait (x : Core) (p : Instr → Bool) : Core :=
  { x with fifo := x.fifo.map fun e => if p e.msg then { e with waiting := false } else e
           late := x.late.filter fun m => !p m }

/-- A message on its way as its receiver opens it (R391). -/
def openedMsg (s : State) (m : Instr) : Instr :=
  match headerOf m with
  | some h => cryptMsg (meshKey s (Fin.ofNat 64 h.dest)) m
  | none => m

/-- A refused message stands nowhere on its way: its sender's resend has not gone out, or has arrived. -/
def notOnItsWay (s : State) (m : Instr) : Bool :=
  !(s.md.inflight.any fun e => sameMsg m (openedMsg s e)) &&
    s.quads.toList.all fun x => !(x.held.any fun e => sameMsg m (openedMsg s e)) &&
      x.cores.toList.all fun y => !y.held.any (sameMsg m)

/-- The messages of waiting senders that `p` picks, over all cores; one whose resend is on its way is not with its sender. -/
def waitingMsgs (s : State) (p : Instr → Bool) : List Instr :=
  s.quads.toList.flatMap fun x => x.cores.toList.flatMap fun y =>
    ((y.fifo.filter fun e => e.waiting && p e.msg && notOnItsWay s e.msg).map fun e => e.msg) ++ y.late.filter p

def subInflights : List Instr → State → State
  | [], s => s
  | m :: t, s => subInflights t (match msgLaunch m with | some l => subInflight l s | none => s)

/-- No sender that `p` picks waits any longer; its message counts no more (R13, R19). -/
def dropWaiting (p : Instr → Bool) (s : State) : State :=
  let ms := waitingMsgs s p
  subInflights ms { s with quads := s.quads.each fun x => { x with cores := x.cores.each fun y => y.unwait p } }

/-- Kills a strand (R15, R17, R372): its uncommitted work and its region buffers, a draining one included (R227), are discarded,
its outstanding requests cancelled, its monitors and waiting messages dropped, its slot freed. R17's table has no row for a
MIGRATING strand that is killed, as R15 kills every strand of its level: it becomes FREE at once like any other, and its image
is dropped where it arrives (DESIGN CHOICE, log 38). -/
def killStrand (q : Fin 64) (c : Fin 4) (k : Fin 24) (s : State) : State :=
  let a : Agent := .strand q c k
  if (s.ctx a).st == .free then s
  else
    let id := s.strandId q c k
    let s2 := cancelRequests (fun r => r.stid == id) (cancelPending a s)
    let s3 := clearMonitor (fun m => m.who == .agent a) (dropLoads q c k s2)
    freeSlot q c k (dropWaiting (fun m => msgSender m == some id) s3)

def killStrands : List (Fin 64 × Fin 4 × Fin 24) → State → State
  | [], s => s
  | (q, c, k) :: t, s => killStrands t (killStrand q c k s)

/-- The slots whose strands belong to a launch. -/
def slotsOf (s : State) (l : LaunchId) : List (Fin 64 × Fin 4 × Fin 24) :=
  (List.finRange 64).flatMap fun q => (List.finRange 4).flatMap fun c =>
    ((List.finRange 24).filter fun k =>
      (s.ctx (.strand q c k)).launch == some l && (s.ctx (.strand q c k)).st != .free).map fun k => (q, c, k)

/-- The barriers of a launch are released (R290). -/
def releaseBarriers (l : LaunchId) (s : State) : State :=
  { s with quads := s.quads.each fun x =>
      { x with bars := x.bars.each fun b => if b.owner == some l then { b with owner := none } else b } }

/-- The waiting events of a launch are dropped, and count no more (R15, R31, R323). -/
def dropEvents (l : LaunchId) (s : State) : State :=
  let n := ((s.quads.toList.flatMap fun x => x.cores.toList.flatMap fun y => y.lt.store ++ y.lt.dispatched).filter
    fun e => e.launch == l).length
  let s := s.updLaunch l fun y => { y with inflight := y.inflight - n }
  { s with quads := s.quads.each fun x => { x with cores := x.cores.each fun y =>
      { y with lt := { y.lt with store := y.lt.store.filter fun e => e.launch != l
                                 dispatched := y.lt.dispatched.filter fun e => e.launch != l } } } }

/-- Cancels a launch (R15): from now on it takes no creation message, its strands are killed, their requests cancelled,
its barriers released. -/
def cancelLaunch (l : LaunchId) (s : State) : State :=
  match s.launch l with
  | none => s
  | some _ =>
    let s1 := s.updLaunch l fun y => { y with cancelled := true, todo := [] }
    let s2 := killStrands (slotsOf s1 l) s1
    let s3 := cancelRequests (fun r => r.launch == l) s2
    let s4 := dropWaiting (fun m => msgLaunch m == some l) s3
    post (.launchComplete l) (releaseBarriers l (dropEvents l s4))

def cancelLaunches : List LaunchId → State → State
  | [], s => s
  | l :: t, s => cancelLaunches t (cancelLaunch l s)

end Sys2Proof.Machine
end

