-- ==== Sys2Proof/Machine/Operands.lean ====
section
/-! DEFINITION. Operands (R44 to R47), lookahead windows (R169 to R173), the shape of every form, and what surrounds
every instruction's own effect: the checks before it and the advance after it. -/

namespace Sys2Proof.Machine

/-! ## Reading and writing register fields (R44, R45) -/

/-- gen_check with fault kind UNINIT (R45). -/
def genCheck (strict : Bool) (g : Gen) (v : Word) (t : Gen) : Except Stop Word :=
  if t == g then .ok v else if strict then uninit else .ok 0

/-- read_src (R44). -/
def readSrc (s : State) (a : Agent) (f : Src) : Except Stop Word :=
  let y := s.ctx a
  match f with
  | .n i => genCheck (s.strict a) y.gen (y.arch.n.get i).data (y.arch.n.get i).tag
  | .q i => genCheck (s.strict a) y.gen (y.arch.q.get i).data (y.arch.q.get i).tag

/-- write_dst on the register state (R44). -/
def Arch.write (y : Arch) (d : Dst) (v : Word) (g : Gen) : Arch :=
  match d with
  | .n i => y.setN i v g
  | .push => y.push { data := v, tag := g, scr := false, resv := none }
  | .drop => y

/-- write_dst (R44): a named register, a push, or nothing. -/
def writeDst (s : State) (a : Agent) (d : Dst) (v : Word) : State :=
  s.updCtx a fun y => { y with arch := y.arch.write d v y.gen }

def setPc (s : State) (a : Agent) (pc : Word) : State := s.updArch a fun y => { y with pc := pc }

/-- A long-latency instruction's result with its flags (R171, R172). Without a window it is written at once; with one,
its destination stays reserved until commit and the window opens. What a reserved queue position holds before its result comes the
spec does not say: data 0 under a dead tag, as an ordinary push with no value (DESIGN CHOICE, log 58). -/
def longResult (s : State) (a : Agent) (la : Nat) (d : Dst) (v : Word) (fl : BitVec 5) : State :=
  if la = 0 then
    (writeDst s a d v).updArch a fun y => { y with fflg := y.fflg ||| fl }
  else
    s.updCtx a fun y =>
      let id := y.fl.nextId
      let dst : PDst := match d with | .n i => .n i | .push => .q id | .drop => .none
      let arch := match d with
        | .push => y.arch.push { data := 0, tag := 0, scr := false, resv := some id }
        | .n _ | .drop => y.arch
      { y with
        arch := arch
        fl := { y.fl with
          pend := y.fl.pend ++ [{ id := id, dst := dst, val := v, flags := fl, ckpt := y.arch, wins := y.fl.wins, form := false }]
          wins := y.fl.wins ++ [{ id := id, left := la, dst := dst }], nextId := id + 1 } }

/-- A result that is written at once although a window opens behind it: an atomic's or an engine form's (R171, R173). -/
def windowResult (s : State) (a : Agent) (la : Nat) (d : Dst) (v : Word) : State :=
  if la = 0 then writeDst s a d v
  else
    s.updCtx a fun y =>
      let id := y.fl.nextId
      let dst : PDst := match d with | .n i => .n i | .push => .q id | .drop => .none
      let arch := match d with
        | .push => y.arch.push { data := v, tag := y.gen, scr := false, resv := some id }
        | .n _ | .drop => y.arch.write d v y.gen
      { y with arch := arch
               fl := { y.fl with wins := y.fl.wins ++ [{ id := id, left := la, dst := dst }], nextId := id + 1 } }

/-! ## The shape of every form (R157 to R161, R169, R175) -/

/-- What the checks before an instruction look at: its major (0x40 for an L16 word, 0x41 for an event), its length in
bytes, the registers it reads and writes, and its lookahead. -/
structure Shape where
  major : Nat
  len : Nat
  srcs : List Src
  dst : Option Dst
  la : Nat
  deriving DecidableEq, Repr

def Shape.plain (major len : Nat) (srcs : List Src) (dst : Option Dst) : Shape :=
  { major := major, len := len, srcs := srcs, dst := dst, la := 0 }

def Shape.long (major : Nat) (srcs : List Src) (dst : Option Dst) (la : Nat) : Shape :=
  { major := major, len := 4, srcs := srcs, dst := dst, la := la }

def shapeOf : Instr → Shape
  | .aluAdd d a b => .plain 0x00 4 [a, b] (some d)
  | .aluSub d a b => .plain 0x00 4 [a, b] (some d)
  | .aluAnd d a b => .plain 0x00 4 [a, b] (some d)
  | .aluOr d a b => .plain 0x00 4 [a, b] (some d)
  | .aluXor d a b => .plain 0x00 4 [a, b] (some d)
  | .aluSll d a b => .plain 0x00 4 [a, b] (some d)
  | .aluSrl d a b => .plain 0x00 4 [a, b] (some d)
  | .aluSra d a b => .plain 0x00 4 [a, b] (some d)
  | .aluSlt d a b => .plain 0x00 4 [a, b] (some d)
  | .aluSltu d a b => .plain 0x00 4 [a, b] (some d)
  | .aluMin d a b => .plain 0x00 4 [a, b] (some d)
  | .aluMax d a b => .plain 0x00 4 [a, b] (some d)
  | .aluMinu d a b => .plain 0x00 4 [a, b] (some d)
  | .aluMaxu d a b => .plain 0x00 4 [a, b] (some d)
  | .mulMul d a b la => .long 0x01 [a, b] (some d) la.val
  | .mulMulh d a b la => .long 0x01 [a, b] (some d) la.val
  | .mulMulhu d a b la => .long 0x01 [a, b] (some d) la.val
  | .mulDiv d a b la => .long 0x01 [a, b] (some d) la.val
  | .mulDivu d a b la => .long 0x01 [a, b] (some d) la.val
  | .mulRem d a b la => .long 0x01 [a, b] (some d) la.val
  | .mulRemu d a b la => .long 0x01 [a, b] (some d) la.val
  | .addi d a _ => .plain 0x02 4 [a] (some d)
  | .andi d a _ => .plain 0x03 4 [a] (some d)
  | .ori d a _ => .plain 0x04 4 [a] (some d)
  | .xori d a _ => .plain 0x05 4 [a] (some d)
  | .shiSll d a _ => .plain 0x06 4 [a] (some d)
  | .shiSrl d a _ => .plain 0x06 4 [a] (some d)
  | .shiSra d a _ => .plain 0x06 4 [a] (some d)
  | .cmpi _ d a _ => .plain 0x07 4 [a] (some d)
  | .lui d _ => .plain 0x08 4 [] (some d)
  | .auipc d _ => .plain 0x09 4 [] (some d)
  | .bitsExt d a _ _ => .plain 0x0A 4 [a] (some d)
  | .bitsExtu d a _ _ => .plain 0x0A 4 [a] (some d)
  | .bitsIns d a _ _ => .plain 0x0A 4 [.n d, a] (some (.n d))
  | .fpuAdd d a b => .plain 0x0B 4 [a, b] (some d)
  | .fpuSub d a b => .plain 0x0B 4 [a, b] (some d)
  | .fpuMul d a b => .plain 0x0B 4 [a, b] (some d)
  | .fpuMin d a b => .plain 0x0B 4 [a, b] (some d)
  | .fpuMax d a b => .plain 0x0B 4 [a, b] (some d)
  | .fpuCvts d a => .plain 0x0B 4 [a] (some d)
  | .fpuCvtf d a => .plain 0x0B 4 [a] (some d)
  | .fpuEq d a b => .plain 0x0B 4 [a, b] (some d)
  | .fpuLt d a b => .plain 0x0B 4 [a, b] (some d)
  | .fpuLe d a b => .plain 0x0B 4 [a, b] (some d)
  | .fplDiv d a b la => .long 0x0C [a, b] (some d) la.val
  | .fplSqrt d a la => .long 0x0C [a] (some d) la.val
  | .fplFma d a b la => .long 0x0C [.n d, a, b] (some (.n d)) la.val
  | .br _ a b _ => .plain 0x10 4 [a, b] none
  | .jalCall _ => .plain 0x11 4 [] (some (.n 14))
  | .jalJump _ => .plain 0x11 4 [] none
  | .jrJump a => .plain 0x12 4 [a] none
  | .jrCall a => .plain 0x12 4 [a] (some (.n 14))
  | .loopSet _ a _ => .plain 0x13 4 [.n a] none
  | .gets d _ => .plain 0x14 4 [] (some d)
  | .sets a _ => .plain 0x14 4 [a] none
  | .trap a _ => .plain 0x14 4 [a] none
  | .brk a _ => .plain 0x14 4 [a] none
  | .sysc a _ => .plain 0x14 4 [a] none
  | .yieldPt _ => .plain 0x15 4 [] none
  | .ld _ _ d base _ la => .long 0x18 [base] (some d) la.val
  | .st _ _ data base _ => .plain 0x19 4 [data, base] none
  | .amoAdd _ _ _ d a b la => .long 0x1A [.n a, b] (some d) la.val
  | .amoAnd _ _ _ d a b la => .long 0x1A [.n a, b] (some d) la.val
  | .amoOr _ _ _ d a b la => .long 0x1A [.n a, b] (some d) la.val
  | .amoXor _ _ _ d a b la => .long 0x1A [.n a, b] (some d) la.val
  | .amoMin _ _ _ d a b la => .long 0x1A [.n a, b] (some d) la.val
  | .amoMax _ _ _ d a b la => .long 0x1A [.n a, b] (some d) la.val
  | .amoMinu _ _ _ d a b la => .long 0x1A [.n a, b] (some d) la.val
  | .amoMaxu _ _ _ d a b la => .long 0x1A [.n a, b] (some d) la.val
  | .amoSwap _ _ _ d a b la => .long 0x1A [.n a, b] (some d) la.val
  | .amoCas _ _ _ d a b la => .long 0x1A [.n d, .n a, b] (some (.n d)) la.val
  | .waita d a b => .plain 0x1B 4 [a, b] (some d)
  | .waitp d a => .plain 0x1B 4 [a] (some d)
  | .park d a b => .plain 0x1B 4 [a, b] (some d)
  | .flushr a b => .plain 0x1D 4 [a, b] none
  | .invr a b => .plain 0x1D 4 [a, b] none
  | .pref a => .plain 0x1D 4 [a] none
  | .fence _ => .plain 0x1D 4 [] none
  | .spark a b => .plain 0x1E 4 [a, b, .q 2, .q 1, .q 0] none
  | .frame d a b => .plain 0x1E 4 [a, b] (some d)
  | .migrAddr d a => .plain 0x1E 4 [a] (some d)
  | .migrTile d a => .plain 0x1E 4 [a] (some d)
  | .send _ a b => .plain 0x1E 4 [a, b] none
  | .vtget d => .plain 0x1F 4 [] (some d)
  | .vtset d a => .plain 0x1F 4 [a] (some d)
  | .announce a => .plain 0x1F 4 [a] none
  | .sendt a b => .plain 0x1F 4 [a, b, .q 3, .q 2, .q 1, .q 0] none
  | .wAdd _ _ _ _ _ => .plain 0x20 4 [] none
  | .wSub _ _ _ _ _ => .plain 0x20 4 [] none
  | .wRsub _ _ _ _ _ => .plain 0x20 4 [] none
  | .wMul _ _ _ _ _ => .plain 0x20 4 [] none
  | .wMac _ _ _ _ _ => .plain 0x20 4 [] none
  | .wMin _ _ _ _ _ => .plain 0x20 4 [] none
  | .wMax _ _ _ _ _ => .plain 0x20 4 [] none
  | .wAnd _ _ _ _ _ => .plain 0x20 4 [] none
  | .wOr _ _ _ _ _ => .plain 0x20 4 [] none
  | .wXor _ _ _ _ _ => .plain 0x20 4 [] none
  | .wAndn _ _ _ _ _ => .plain 0x20 4 [] none
  | .wShl _ _ _ _ _ => .plain 0x20 4 [] none
  | .wShr _ _ _ _ _ => .plain 0x20 4 [] none
  | .wMov _ _ _ _ => .plain 0x20 4 [] none
  | .wAbs _ _ _ _ => .plain 0x20 4 [] none
  | .wNeg _ _ _ _ => .plain 0x20 4 [] none
  | .wFma _ _ _ _ _ _ => .plain 0x20 4 [] none
  | .wSel _ _ _ _ _ => .plain 0x20 4 [] none
  | .l16Add _ _ _ _ => .plain 0x40 2 [] none
  | .l16Sub _ _ _ _ => .plain 0x40 2 [] none
  | .l16Rsub _ _ _ _ => .plain 0x40 2 [] none
  | .l16Mul _ _ _ _ => .plain 0x40 2 [] none
  | .l16Mac _ _ _ _ => .plain 0x40 2 [] none
  | .l16Min _ _ _ _ => .plain 0x40 2 [] none
  | .l16Max _ _ _ _ => .plain 0x40 2 [] none
  | .l16And _ _ _ _ => .plain 0x40 2 [] none
  | .l16Or _ _ _ _ => .plain 0x40 2 [] none
  | .l16Xor _ _ _ _ => .plain 0x40 2 [] none
  | .l16Andn _ _ _ _ => .plain 0x40 2 [] none
  | .l16Shl _ _ _ _ => .plain 0x40 2 [] none
  | .l16Shr _ _ _ _ => .plain 0x40 2 [] none
  | .l16Mov _ _ _ _ => .plain 0x40 2 [] none
  | .l16Abs _ _ _ _ => .plain 0x40 2 [] none
  | .l16Neg _ _ _ _ => .plain 0x40 2 [] none
  | .wmathExp2 _ _ _ _ => .plain 0x21 4 [] none
  | .wmathLog2 _ _ _ _ => .plain 0x21 4 [] none
  | .wmathRecip _ _ _ _ => .plain 0x21 4 [] none
  | .wmathRsqrt _ _ _ _ => .plain 0x21 4 [] none
  | .wmathTanh _ _ _ _ => .plain 0x21 4 [] none
  | .wmathRsum _ _ _ _ => .plain 0x21 4 [] none
  | .wmathRmax _ _ _ _ => .plain 0x21 4 [] none
  | .wmathScan _ _ _ _ => .plain 0x21 4 [] none
  | .wmathPerm _ _ _ _ _ => .plain 0x21 4 [] none
  | .wmaskEq _ _ _ _ _ => .plain 0x22 4 [] none
  | .wmaskLt _ _ _ _ _ => .plain 0x22 4 [] none
  | .wmaskLe _ _ _ _ _ => .plain 0x22 4 [] none
  | .wmaskAnd _ _ _ _ => .plain 0x22 4 [] none
  | .wmaskOr _ _ _ _ => .plain 0x22 4 [] none
  | .wmaskXor _ _ _ _ => .plain 0x22 4 [] none
  | .wmoveBcast _ a _ => .plain 0x23 4 [a] none
  | .wmoveExt d a _ => .plain 0x23 4 [a] (some d)
  | .wmoveTrld _ a _ => .plain 0x23 4 [a] none
  | .wmoveTrst _ a _ => .plain 0x23 4 [a] none
  | .wmoveMpop _ d => .plain 0x23 4 [] (some d)
  | .wcvtUp _ _ _ _ _ => .plain 0x24 4 [] none
  | .wcvtDown _ _ _ _ _ => .plain 0x24 4 [] none
  | .wcvtDownsat _ _ _ _ _ => .plain 0x24 4 [] none
  | .wcvtToint _ _ _ _ _ => .plain 0x24 4 [] none
  | .wcvtFromint _ _ _ _ _ => .plain 0x24 4 [] none
  | .wsampTopk _ _ _ _ => .plain 0x25 4 [] none
  | .wsampCbg _ _ _ _ => .plain 0x25 4 [] none
  | .wsampDraw _ _ _ _ => .plain 0x25 4 [] none
  | .wsampPick _ _ _ _ => .plain 0x25 4 [] none
  | .talloc nw _ => .plain 0x28 4 [nw] none
  | .tfree _ => .plain 0x28 4 [] none
  | .tld nw _ _ la => .long 0x28 [nw] none la.val
  | .tst nw _ => .plain 0x28 4 [nw, .q 0] none
  | .tzero nw _ => .plain 0x28 4 [nw] none
  | .cload nw _ _ la => .long 0x29 [nw] none la.val
  | .cpass nw _ _ la => .long 0x29 [nw] none la.val
  | .cdrain nw _ _ la => .long 0x29 [nw] none la.val
  | .czero nw _ la => .long 0x29 [nw] none la.val
  | .canvasxLoad nw _ _ la => .long 0x32 [nw] none la.val
  | .canvasxPass nw _ _ la => .long 0x32 [nw] none la.val
  | .cpyIn d a _ la => .long 0x2A [a] (some d) la.val
  | .cpyOut d a _ la => .long 0x2A [a] (some d) la.val
  | .gath d a _ la => .long 0x2A [a] (some d) la.val
  | .scat d a _ la => .long 0x2A [a] (some d) la.val
  | .coll d a _ la => .long 0x2A [a] (some d) la.val
  | .weir d a _ la => .long 0x2A [a] (some d) la.val
  | .barm a _ => .plain 0x2B 4 [a] none
  | .barrClaim d a _ => .plain 0x2B 4 [a] (some d)
  | .bwait _ => .plain 0x2B 4 [] none
  | .engxDmard d a b => .plain 0x30 4 [a, b] (some d)
  | .engxDmawr d a b => .plain 0x30 4 [a, b] (some d)
  | .engxMbox a => .plain 0x30 4 [a] none
  | .engxGcmkey a => .plain 0x30 4 [a] none
  | .engxGcmenc d a b => .plain 0x30 4 [a, b] (some d)
  | .engxGcmdec d a b => .plain 0x30 4 [a, b] (some d)
  | .tlbinv a b => .plain 0x31 4 [a, b] none
  | .genscrub d a => .plain 0x31 4 [a] (some d)
  | .qown d a b => .plain 0x31 4 [a, b] (some d)
  | .halt a b => .plain 0x31 4 [a, b] none
  | .stoprec d a => .plain 0x31 4 [a] (some d)
  | .cctl a b => .plain 0x31 4 [a, b] none
  | .pset a b => .plain 0x31 4 [a, b] none
  | .jrRet => .plain 0x12 4 [.n 14] none
  | .rte => .plain 0x14 4 [] none
  | .region => .plain 0x1C 4 [] none
  | .commit => .plain 0x1C 4 [] none
  | .exit => .plain 0x1E 4 [] none
  | .engxKwait => .plain 0x30 4 [] none
  | .creationMessage _ => .plain 0x41 0 [] none
  | .contextScrubComplete _ _ => .plain 0x41 0 [] none
  | .contextFreeNotice _ _ => .plain 0x41 0 [] none
  | .resendTimeout _ _ => .plain 0x41 0 [] none
  | .refusalRelease _ _ => .plain 0x41 0 [] none
  | .refusedResend _ _ => .plain 0x41 0 [] none
  | .migrQuery _ _ => .plain 0x41 0 [] none
  | .migrQueryAnswer _ => .plain 0x41 0 [] none
  | .migrationImage _ => .plain 0x41 0 [] none
  | .targetAnswer _ _ => .plain 0x41 0 [] none
  | .deposit _ => .plain 0x41 0 [] none
  | .coreSelect _ _ => .plain 0x41 0 [] none
  | .clockAnnouncement _ _ _ _ => .plain 0x41 0 [] none
  | .nullEvent _ _ _ _ => .plain 0x41 0 [] none
  | .stampedEvent _ => .plain 0x41 0 [] none
  | .eventStart _ _ => .plain 0x41 0 [] none
  | .nullRound _ _ => .plain 0x41 0 [] none
  | .easelGrant _ => .plain 0x41 0 [] none
  | .easelSubunitComplete _ _ => .plain 0x41 0 [] none
  | .scoreboardEntryComplete _ _ => .plain 0x41 0 [] none
  | .tileScrubSweepComplete _ => .plain 0x41 0 [] none
  | .genscrubComplete _ => .plain 0x41 0 [] none
  | .collectiveMatch _ _ => .plain 0x41 0 [] none
  | .promiseDue _ => .plain 0x41 0 [] none
  | .monitorFire _ => .plain 0x41 0 [] none
  | .parkDeadline _ => .plain 0x41 0 [] none
  | .regionBufferDrain _ => .plain 0x41 0 [] none
  | .walkMonitorFire _ => .plain 0x41 0 [] none
  | .engineStop _ => .plain 0x41 0 [] none
  | .containmentWalk _ => .plain 0x41 0 [] none
  | .haltctlHoldSet _ => .plain 0x41 0 [] none
  | .haltctlHoldClear _ => .plain 0x41 0 [] none
  | .chlaWrite _ _ _ _ => .plain 0x41 0 [] none
  | .preemptionDeadline _ => .plain 0x41 0 [] none
  | .saveComplete _ => .plain 0x41 0 [] none
  | .restore _ => .plain 0x41 0 [] none
  | .debugResume _ => .plain 0x41 0 [] none
  | .kick _ _ => .plain 0x41 0 [] none
  | .cancelGraph _ => .plain 0x41 0 [] none
  | .cancelPhase _ => .plain 0x41 0 [] none
  | .cancelJob _ => .plain 0x41 0 [] none
  | .packetRead _ => .plain 0x41 0 [] none
  | .launchDistribution _ => .plain 0x41 0 [] none
  | .launchComplete _ => .plain 0x41 0 [] none
  | .ageingInterval _ => .plain 0x41 0 [] none
  | .quantumExpiry _ => .plain 0x41 0 [] none
  | .sctlMap _ _ => .plain 0x41 0 [] none
  | .sctlUnmap _ => .plain 0x41 0 [] none
  | .unmapComplete _ => .plain 0x41 0 [] none
  | .sctlReset _ => .plain 0x41 0 [] none
  | .queueResetComplete _ => .plain 0x41 0 [] none
  | .biascmdGo _ _ => .plain 0x41 0 [] none
  | .biasFlipComplete _ _ => .plain 0x41 0 [] none
  | .releaseSequenceComplete _ => .plain 0x41 0 [] none
  | .drowsyEntry _ => .plain 0x41 0 [] none
  | .drowsyWake _ => .plain 0x41 0 [] none
  | .longLatencyCompletion _ => .plain 0x41 0 [] none
  | .cacheMaintenanceComplete _ => .plain 0x41 0 [] none
  | .pageRequestResponse => .plain 0x41 0 [] none
  | .granq0Read => .plain 0x41 0 [] none
  | .granrespWalkAgain => .plain 0x41 0 [] none
  | .granrespRefuse => .plain 0x41 0 [] none
  | .atsInvalidation => .plain 0x41 0 [] none
  | .pktNop => .plain 0x41 0 [] none
  | .pktDispatch => .plain 0x41 0 [] none
  | .pktDelta => .plain 0x41 0 [] none
  | .pktIbcall => .plain 0x41 0 [] none
  | .pktPred => .plain 0x41 0 [] none
  | .pktLoop => .plain 0x41 0 [] none
  | .pktFfence => .plain 0x41 0 [] none
  | .pktSignal => .plain 0x41 0 [] none
  | .pktWaitmem => .plain 0x41 0 [] none
  | .levelGraph => .plain 0x41 0 [] none
  | .levelPhase => .plain 0x41 0 [] none
  | .levelJob => .plain 0x41 0 [] none
  | .levelCancel => .plain 0x41 0 [] none
  | .slotSelection => .plain 0x41 0 [] none
  | .hostCxlMemRequest => .plain 0x41 0 [] none
  | .hostSnoop => .plain 0x41 0 [] none
  | .lockInterface => .plain 0x41 0 [] none
  | .startInterface => .plain 0x41 0 [] none
  | .stopInterface => .plain 0x41 0 [] none
  | .ideIntegrityFailure => .plain 0x41 0 [] none
  | .getVersion => .plain 0x41 0 [] none
  | .getCapabilities => .plain 0x41 0 [] none
  | .negotiateAlgorithms => .plain 0x41 0 [] none
  | .getDigests => .plain 0x41 0 [] none
  | .getCertificate => .plain 0x41 0 [] none
  | .challenge => .plain 0x41 0 [] none
  | .getMeasurements => .plain 0x41 0 [] none
  | .keyExchange => .plain 0x41 0 [] none
  | .finish => .plain 0x41 0 [] none
  | .heartbeat => .plain 0x41 0 [] none
  | .keyUpdate => .plain 0x41 0 [] none
  | .endSession => .plain 0x41 0 [] none
  | .setCertificate => .plain 0x41 0 [] none
  | .certRewriteTimeout => .plain 0x41 0 [] none
  | .setCopyKey => .plain 0x41 0 [] none
  | .setDebugConsent => .plain 0x41 0 [] none
  | .stageUpdate => .plain 0x41 0 [] none
  | .activationRequest => .plain 0x41 0 [] none
  | .acknowledgeStaged => .plain 0x41 0 [] none
  | .liveUpdateTakeover => .plain 0x41 0 [] none
  | .standbyFailure => .plain 0x41 0 [] none
  | .coldReset => .plain 0x41 0 [] none
  | .warmReset => .plain 0x41 0 [] none
  | .linkReset => .plain 0x41 0 [] none
  | .clockStep => .plain 0x41 0 [] none
  | .evlogRead => .plain 0x41 0 [] none
  | .registerWrite => .plain 0x41 0 [] none
  | .commandComplexFailure => .plain 0x41 0 [] none
  | .ideKeyManagement => .plain 0x41 0 [] none

/-- The forms that close every open window (R170). -/
def closes (major : Nat) : Bool :=
  [0x10, 0x11, 0x12, 0x13, 0x14, 0x15, 0x1B, 0x1C, 0x1E, 0x1F, 0x2B, 0x31].contains major

/-- The forms held until earlier window instructions have committed (R173, R228): those that may park, and amo. -/
def holds (major : Nat) : Bool := [0x1A, 0x1D, 0x20, 0x21, 0x22, 0x23, 0x24, 0x25, 0x28, 0x29, 0x2A, 0x30, 0x32, 0x40].contains major

/-- The easel forms: lane words, canvas and canvasx (R123, R246, R267). -/
def isEasel (major : Nat) : Bool := [0x20, 0x21, 0x22, 0x23, 0x24, 0x25, 0x29, 0x32, 0x40].contains major

/-- The lane forms, which need the lease (R48). -/
def isLane (major : Nat) : Bool := [0x20, 0x21, 0x22, 0x23, 0x24, 0x25, 0x40].contains major

/-- What R176 raises for a major on a kind of core; `qown` says that the form is priv.qown. -/
def classStop (cls : CoreClass) (major : Nat) (qown : Bool) : Option Stop :=
  let l16 := major == 0x40
  match cls with
  | .strand => if major == 0x30 then some (.fault 1 0 0) else if major == 0x31 then some (.fault 7 3 0) else none
  | .hart =>
    if major == 0x31 then some (.fault 7 3 0)
    else if l16 || (decide (0x1E ≤ major) && decide (major ≤ 0x2B)) || major == 0x32 then some (.fault 1 0 0) else none
  | .command =>
    if l16 || (decide (0x1E ≤ major) && decide (major ≤ 0x30)) || major == 0x32 then some (.fault 1 0 0)
    else if qown then some (.fault 7 3 0) else none
  | .security =>
    if l16 || (decide (0x1E ≤ major) && decide (major ≤ 0x30)) || major == 0x32 then some (.fault 1 0 0) else none

def isQown : Instr → Bool
  | .qown .. => true
  | _ => false

/-- What raises ILLEGAL between REGION and COMMIT whatever its operands hold (R225); sys forms decide for themselves. -/
def regionForbids (i : Instr) : Bool :=
  let m := (shapeOf i).major
  [0x1A, 0x1B, 0x20, 0x21, 0x22, 0x23, 0x24, 0x25, 0x28, 0x29, 0x2A, 0x2B, 0x32, 0x40].contains m ||
  (match i with
   | .region | .frame .. | .migrAddr .. | .migrTile .. | .exit | .vtset .. | .announce _ | .flushr .. | .invr ..
   | .fence .full => true
   | _ => false)

/-! ## The next PC (R199) -/

/-- Loop k is active and the PC stands at its last instruction. The back-edge test reads the loop registers' raw data, with no
gen_check, also where sys.rte has made a loop active whose registers are dead (R199, R206; DESIGN CHOICE, log 57). -/
def Arch.atEnd (y : Arch) (k : Fin 2) : Bool :=
  y.act.toNat / 2 ^ k.val % 2 == 1 && (y.loops.toList.getD (4 + k.val) Init.reg).data == y.pc

/-- Whether the back-edge of loop k would branch: its count is above 1. -/
def Arch.loopsBack (y : Arch) (k : Fin 2) : Bool :=
  y.atEnd k && decide (1 < ((y.loops.toList.getD k.val Init.reg).data).toNat)

/-- A back-edge is taken at the PC, back to the body or falling through (R199). -/
def Arch.backEdge (y : Arch) : Bool := y.atEnd 1 || y.atEnd 0

def Arch.setLoop (y : Arch) (i : Nat) (v : Word) (g : Gen) : Arch :=
  { y with loops := y.loops.setIfInBounds i { data := v, tag := g, scr := false } }

/-- The back-edge of loop k: back to the body, or the loop ends. -/
def Arch.edge (y : Arch) (k : Fin 2) (g : Gen) : Arch :=
  if y.loopsBack k then
    { (y.setLoop k.val ((y.loops.toList.getD k.val Init.reg).data - 1) g) with pc := (y.loops.toList.getD (2 + k.val) Init.reg).data }
  else { (y.setLoop k.val 0 g) with act := y.act &&& ~~~ (BitVec.ofNat 2 (2 ^ k.val)) }

/-- The PC after an instruction that is not a taken branch or jump: the back-edge of R199, or the next word. -/
def Arch.advance (y : Arch) (len : Nat) (g : Gen) : Arch :=
  if y.loopsBack 1 then y.edge 1 g
  else
    let y1 := if y.atEnd 1 then y.edge 1 g else y
    if y1.loopsBack 0 then y1.edge 0 g
    else
      let y2 := if y1.atEnd 0 then y1.edge 0 g else y1
      { y2 with pc := y.pc + wd len }

/-- A taken branch or jump to `t`: an active loop whose body does not hold `t` loses its active bit (R51, R195, R197). -/
def Arch.jump (y : Arch) (t : Word) : Arch :=
  let inside := fun (k : Nat) =>
    decide ((y.loops.toList.getD (2 + k) Init.reg).data.toNat ≤ t.toNat) &&
      decide (t.toNat ≤ (y.loops.toList.getD (4 + k) Init.reg).data.toNat)
  let m : BitVec 2 := BitVec.ofNat 2 ((if inside 0 then 1 else 0) + (if inside 1 then 2 else 0))
  { y with act := y.act &&& m, pc := t }

/-! ## Windows (R170, R171) -/

/-- The instruction names a window owner's destination: a source field names the register or the reserved position, or
the destination names the same named register (R171). -/
def namesDst (y : Arch) (sh : Shape) (d : PDst) : Bool :=
  match d with
  | .none => false
  | .n r => sh.srcs.contains (.n r) || sh.dst == some (.n r)
  | .q id => sh.srcs.any fun f => match f with
    | .n _ => false
    | .q k => (y.q.get k).resv == some id

/-- One instruction of every open window is used up. -/
def tickWindows (a : Agent) (s : State) : State :=
  if (s.ctx a).fl.wins.isEmpty then s
  else s.updFlight a fun f =>
    { f with wins := (f.wins.map fun w => { w with left := w.left - 1 }) }

/-! ## Before an instruction -/

/-- What the checks before an instruction say: nothing issues, it stops there, or it goes on. -/
inductive Gate where
  | stall (s : State)
  | stop (e : Stop) (s : State)
  | go (s : State)
  deriving DecidableEq, Repr

/-- The strand's queue is being saved and its deadline has passed: nothing of it issues any more (R374). -/
def pastDeadline (s : State) (a : Agent) : Bool :=
  match (s.ctx a).launch with
  | some l => (s.slots.get l.hwq).st == .preempting && (s.slots.get l.hwq).deadline
  | none => false

/-- The agent can issue: a strand that its core runs, with no debug stop to take (R382) and no save's deadline past, a hart or a
core that is not parked; no engine that its halt line has stopped (R17, R367). -/
def mayIssue (s : State) (a : Agent) : Bool :=
  let y := s.ctx a
  match a with
  | .strand q c k =>
    (s.core q c).run == some k && y.st == .running && y.why != some .debug && !pastDeadline s a && !engineStopped s (pIdx (s.quads.get q).part) (.core q c)
  | .hart q h =>
    y.st == .running && !engineStopped s (pIdx (s.partOf a)) (.hart q h)
  | .weir u => y.st == .running && !engineStopped s (pIdx (s.partOf a)) (.weir u)
  | .cmd x => y.st == .running && (s.cmds.get x).fault == none && (s.cmds.get x).role != .off && (s.cmds.get x).role != .failed
  | .sec => y.st == .running && s.sec.fault == none

/-- A named source of a form that a form before it, issued but not granted, may still write (R44, R246). -/
def namesPending (sh : Shape) (es : List DqEnt) : Bool :=
  !sh.srcs.isEmpty && es.any fun e => e.phase == .waiting && (shapeOf e.ins).dst.isSome

/-- A form that stands in the window of the canvas or drain form that its strand has not committed, and does not close it or wait
behind it (R170, R172, R173, R246). -/
def inWindow (y : Ctx) (sh : Shape) : Bool :=
  match y.fl.pend with
  | [] => false
  | p :: _ => p.form && (y.fl.wins.any fun w => w.id == p.id && decide (0 < w.left)) && dueCount y.fl == 0 &&
      !closes sh.major && !holds sh.major && !y.arch.backEdge

/-- What a strand with easel forms that have not retired cannot issue yet: behind a lane form, anything but a further easel form
that reads nothing it has still to write; behind a canvas or drain form, anything outside its window (R123, R170, R246, R267);
in a single step, anything (R174). -/
def dispatchHolds (s : State) (a : Agent) (sh : Shape) : Bool :=
  match a with
  | .strand q c k =>
    let es := (s.core q c).dq.filter fun e => e.k == k
    let canvas := es.any fun e => !isLane (shapeOf e.ins).major
    let lane := es.any fun e => isLane (shapeOf e.ins).major
    !es.isEmpty && ((s.ctx a).sp.sstep || namesPending sh es ||
      (if isEasel sh.major then canvas else lane || !inWindow (s.ctx a) sh))
  | .hart .. | .weir _ | .cmd _ | .sec => false

/-- The agent has easel forms that have issued and not retired. -/
def ownForms (s : State) (a : Agent) : Bool :=
  match a with
  | .strand q c k => (s.core q c).dq.any fun e => e.k == k
  | .hart .. | .weir _ | .cmd _ | .sec => false

/-- A trigger on the PC with STOP set stops the strand before the instruction issues (R380). An instruction that issues again matches
no second time. -/
def pcTrigger (s : State) (a : Agent) : State × Bool :=
  match a with
  | .strand q c _ =>
    if noTriggers (s.core q c).trc || (s.ctx a).stepping then (s, false)
    else runTriggers q c 0 (s.ctx a).arch.pc 0 [0, 1, 2, 3] (s.updCtx a fun y => { y with stepping := true })
  | .hart .. | .weir _ | .cmd _ | .sec => (s, false)

/-- The refusal of the page whose absence aborted the strand's region: PERM at the instruction that needed it (R227). -/
def regionRefused (y : Ctx) : Option (Word × Word) := if y.refused.isSome then y.abortAt else none

/-- The checks before an instruction, in order: the agent may issue; a refusal that its region's abort has left (R227); the core
class (R176, R177); a debugger's trigger; the region table (R225); windows that close or are used up commit (R170, R172); LAVIOL (R171). -/
def gate (i : Instr) (a : Agent) (s : State) : Gate :=
  let sh := shapeOf i
  if !mayIssue s a || dispatchHolds s a sh then .stall s
  else match regionRefused (s.ctx a) with
  | some (pc, va) => .stop (.fault 7 2 va) (s.updCtx a fun y => { y with arch := { y.arch with pc := pc }, abortAt := none, refused := none })
  | none => match classStop (Agent.cls a) sh.major (isQown i) with
    | some e => .stop e s
    | none =>
      let t := pcTrigger s a
      if t.2 then .stop (.park .debug) t.1
      else
        let s1 := t.1
        if closes sh.major || (s1.arch a).backEdge then
          let s2 := if (s1.ctx a).fl.wins.isEmpty && (s1.ctx a).fl.pend.isEmpty then s1
            else (commitAll a s1).updFlight a fun f => { f with wins := [] }
          if (s2.ctx a).sp.inregion && regionForbids i then .stop (.fault 1 0 0) s2 else .go s2
        else
          let s2 := if (s1.ctx a).fl.wins.isEmpty && (s1.ctx a).fl.pend.isEmpty then s1
            else (if holds sh.major then commitAll a s1 else commitDue a s1).updFlight a fun f =>
              { f with wins := f.wins.filter fun w => decide (0 < w.left) }
          if (s2.ctx a).sp.inregion && regionForbids i then .stop (.fault 1 0 0) s2
          else if (s2.ctx a).fl.wins.any fun w => namesDst (s2.arch a) sh w.dst then .stop (.fault 2 0 0) s2
          else .go (tickWindows a s2)

/-! ## After an instruction -/

/-- What an instruction that has issued leaves behind: a refused page request and an answer used up (R364, R232), latched
operands, a displaced word executed (R381). -/
def used (a : Agent) (s : State) : State :=
  s.updCtx a fun y =>
    { y with refused := if y.sp.inregion then y.refused else none, stepping := false, answer := none, displaced := none
             waited := [], latch := none, abortAt := none }

/-- An armed single step ends as the instruction retires (R174, R382). -/
def endStep (a : Agent) (s : State) : State :=
  match a with
  | .strand .. =>
    if (s.ctx a).sp.sstep && (s.ctx a).st == .running then
      parkAgent a .debug ((commitAll a s).updSpec a fun p => { p with sstep := false })
    else s
  | .hart .. | .weir _ | .cmd _ | .sec => s

/-- What an instruction that retires leaves behind beside its effect. -/
def finish (a : Agent) (s : State) : State := endStep a (used a s)

/-- The PC moves on (R199); a back-edge closes every open window, with its trace record (R379). -/
def advance (i : Instr) (a : Agent) (s : State) : State :=
  let y := s.arch a
  let s1 := s.updCtx a fun x =>
    { x with arch := x.arch.advance (shapeOf i).len x.gen, fl := if y.backEdge then { x.fl with wins := [] } else x.fl }
  if y.loopsBack 1 || y.loopsBack 0 then traceIf a (fun t => t.branch) 1 (s1.arch a).pc.toNat s1 else s1

/-! ## When an instruction does not complete -/

/-- A region abort at an access to `va` (R227): the buffer is discarded, the checkpoint comes back, the PC is the region.begin;
the place of the access is kept for a refusal. -/
def abortRegion (a : Agent) (va : Word) (s : State) : State :=
  s.updCtx a fun y => match y.fl.ckpt with
    | none => y
    | some k => { y with arch := k, sp := { y.sp with inregion := false }, fl := { y.fl with ckpt := none, rbuf := [] }
                         abortAt := some (y.arch.pc, va), displaced := none, stepping := false }

/-- A fault that an engine hart's microcode meets in memory or translation is its request's; any other is the instruction's
(R269, R296). -/
def requestFault (kind cause : Nat) : Bool := kind == 11 || (kind == 7 && (cause == 1 || cause == 2 || cause == 4))

/-- What a context keeps of an instruction that faults: its region buffer is discarded, its windows close (log 32), and what it had
latched, waited on or displaced is gone (R227, R366, R381). -/
def Ctx.faulted (y : Ctx) : Ctx :=
  { y with fl := { y.fl with rbuf := [], wins := [] }, latch := none, waited := [], displaced := none, stepping := false }

/-- A program fault (R366) on a strand: the region buffer is discarded, the fault recorded, the line raised, the
faulting core stopped at once with its record; a trigger on the fault may stop the strand (R380), and a failure of integrity
moves its partition to ERROR (R388). On an engine hart's microcode it is the hart's own, or the running request
ends with STATUS 2 (R269); a command core or the security core stops with the fault on record (log 10). -/
def takeFault (a : Agent) (kind cause : Nat) (value : Word) (s : State) : State :=
  match a with
  | .strand q c k =>
    let s2 := traceIf a (fun t => t.faults) 6 kind (s.updCtx a Ctx.faulted)
    let t := if noTriggers (s2.core q c).trc then (s2, false) else runTriggers q c 3 (s2.ctx a).arch.pc kind [0, 1, 2, 3] s2
    let s3 := t.1
    let p := pIdx (s3.quads.get q).part
    let s4 := raiseLine p kind (recordFault p kind cause (some (s3.strandId q c k)) (s3.ctx a).launch s3)
    let s5 := noteIntegrity p kind cause (stopEngine p (.core q c) (some (kind, cause, value)) s4)
    if t.2 then parkAgent a .debug s5 else s5
  | .hart .. | .weir _ =>
    let s1 := s.updCtx a Ctx.faulted
    match (s.hart a) with
    | some h => match h.queue.head? with
      | some r =>
        if requestFault kind cause then endRequest r (some (.faulted kind cause value)) s1 else hartFault a r kind cause value s1
      | none => parkAgent a .request s1
    | none => s
  | .cmd x => { s with cmds := s.cmds.set x.val { s.cmds.get x with fault := some (kind, cause) } x.isLt }
  | .sec => { s with sec := { s.sec with fault := some (kind, cause) } }

/-- An agent waits for a page or for a GRANULE answer (R364): a region aborts first (R227), an engine's request is held
at its row (R115). -/
def waitPage (a : Agent) (va : Word) (kind : Access) (s : State) : State :=
  let g := granuleOf va
  match a with
  | .strand .. => parkAgent a (.page g kind) (abortRegion a va s)
  | .hart .. | .weir _ => parkAgent a (.page g kind) (s.updHart a fun h => { h with holdAt := some (g, kind) })
  | .cmd _ | .sec => s

/-- The windows as they stood before an instruction that is to issue again: it has used up none of them (R170). -/
def keepWindows (a : Agent) (s s1 : State) : State := s1.updFlight a fun f => { f with wins := (s.ctx a).fl.wins }

/-- What becomes of an instruction that did not complete; everything before it commits first (R171, R172). A form that traps
has closed every window (R170). -/
def stopped (a : Agent) (e : Stop) (s : State) : Host.Outcome State Fault Refusal :=
  let s0 := commitAll a s
  match e with
  | .fault k c v => .next (takeFault a k c v s0)
  | .faultIn k c v s1 => .next (takeFault a k c v s1)
  | .request k c v => .next (match (s0.hart a).bind fun h => h.queue.head? with
      | some r => endRequest r (some (.faulted k c v)) s0
      | none => takeFault a k c v s0)
  | .trap cause v ret =>
    let s1 := (enterTrap a cause v ret s0).updCtx a fun y =>
      { y with displaced := none, stepping := false, latch := none, waited := [], fl := { y.fl with wins := [] } }
    .next (if (s1.ctx a).sp.sstep && cause != 1 then
      parkAgent a .debug (s1.updSpec a fun p => { p with sstep := false }) else s1)
  | .park w => .next (parkAgent a w s0)
  | .hold w s1 => .next (parkAgent a w (keepWindows a s s1))
  | .absent va k ea => match agentSpace s0 a with
    | some sp => .next (waitPage a va k (askPage sp va k ea s0))
    | none => .next s0
  | .granule va k => match agentSpace s0 a with
    | some sp => .next (waitPage a va k (askGranule (some a) sp va k s0))
    | none => .next s0
  | .stall => .next s0
  | .wait s1 => .next (keepWindows a s s1)
  | .noAddress n => .fault (.noSuchAddress n)

/-- Whether a stop leaves the instruction waiting where it is. -/
def Stop.waits : Stop → Bool
  | .stall | .wait _ => true
  | .fault .. | .faultIn .. | .request .. | .trap .. | .park _ | .hold .. | .absent .. | .granule .. | .noAddress _ => false

/-- An instruction that cannot go on stops; behind easel forms of its strand that have not retired it waits for them first, since
everything before a stop has committed (R171, R172, R246). `s` is the state before it. -/
def stopBehind (a : Agent) (e : Stop) (s1 s : State) : Host.Outcome State Fault Refusal :=
  if ownForms s a && !e.waits then .next s else stopped a e s1

/-- An instruction whose effect `body` leaves the PC to R199. -/
def perform (i : Instr) (body : Agent → Act) (s : State) : Host.Outcome State Fault Refusal :=
  let a := s.md.who
  match gate i a s with
  | .stall s1 => .next s1
  | .stop e s1 => stopBehind a e s1 s
  | .go s1 => match body a s1 with
    | .ok s2 => .next (finish a (advance i a s2))
    | .error e => stopBehind a e (pcTrigger s a).1 s

/-- An instruction whose effect `body` sets the PC itself. -/
def performJump (i : Instr) (body : Agent → Act) (s : State) : Host.Outcome State Fault Refusal :=
  let a := s.md.who
  match gate i a s with
  | .stall s1 => .next s1
  | .stop e s1 => stopBehind a e s1 s
  | .go s1 => match body a s1 with
    | .ok s2 => .next (finish a s2)
    | .error e => stopBehind a e (pcTrigger s a).1 s

end Sys2Proof.Machine
end

