-- ==== Sys2Proof/Machine/Flags.lean ====
section
/-! DEFINITION. Every flag an instruction computes: the sticky flags NV, DZ, OF, UF, NX of FFLG (R59, R86, R193), the
rounding mode they are computed under, and the comparisons of R163. -/

namespace Sys2Proof.Machine

/-- Flags raised into FFLG; nothing but a SETS clears one (R59). -/
def raiseFlags (a : Agent) (fl : BitVec 5) (s : State) : State :=
  if fl == 0 then s else s.updArch a fun y => { y with fflg := y.fflg ||| fl }

/-- The rounding mode FRM.RM (R59). -/
def rmOf (s : State) (a : Agent) : RM := RM.ofBits (s.arch a).frm

/-- A condition of R163 on two words. -/
def condHolds (c : Cond) (x y : Word) : Bool :=
  match c with
  | .eq => x == y
  | .ne => x != y
  | .lt => x.slt y
  | .ge => !x.slt y
  | .ltu => x.ult y
  | .geu => !x.ult y

/-- The low 32 bits of a source, as an f32 encoding (R191). -/
def low32 (x : Word) : Nat := x.toNat % 2 ^ 32

/-- A two-operand f32 operation on exact values, rounded under FRM.RM, with its flags (R191). -/
def fpu2 (rm : RM) (f : Xr → Xr → Xr × Flags) (x y : Word) : Word × Flags :=
  let r := arith fF32 rm (f (fF32.val (low32 x)) (fF32.val (low32 y)))
  (wd r.1, r.2)

def fpuAddR (rm : RM) (x y : Word) : Word × Flags := fpu2 rm (addX rm) x y
def fpuSubR (rm : RM) (x y : Word) : Word × Flags := fpu2 rm (fun u v => addX rm u v.neg) x y
def fpuMulR (rm : RM) (x y : Word) : Word × Flags := fpu2 rm mulX x y
def fplDivR (rm : RM) (x y : Word) : Word × Flags := fpu2 rm divX x y

def fplSqrtR (rm : RM) (x : Word) : Word × Flags :=
  let r := arith fF32 rm (sqrtX (fF32.val (low32 x)))
  (wd r.1, r.2)

/-- z + x * y with one rounding (R194). -/
def fplFmaR (rm : RM) (z x y : Word) : Word × Flags :=
  let r := arith fF32 rm (fmaX rm (fF32.val (low32 z)) (fF32.val (low32 x)) (fF32.val (low32 y)))
  (wd r.1, r.2)

def fpuMinMaxR (max : Bool) (x y : Word) : Word × Flags :=
  let r := minMaxF fF32 max (low32 x) (low32 y)
  (wd r.1, r.2)

/-- cvts (R191, R192): saturating, 0 with NV for a NaN. -/
def fpuCvtsR (rm : RM) (x : Word) : Word × Flags :=
  let r := roundIntTy (-(2 ^ 31)) (2 ^ 31 - 1) rm (fF32.val (low32 x))
  (wd (wrap 64 r.1), r.2)

def fpuCvtfR (rm : RM) (x : Word) : Word × Flags :=
  let r := roundFmt fF32 false rm (Xr.ofInt (sInt 32 x.toNat))
  (wd r.1, r.2)

/-- A comparison's 0 or 1 with its flags (R192). -/
def fpuCmpR (f : Fmt → Nat → Nat → Bool × Flags) (x y : Word) : Word × Flags :=
  let r := f fF32 (low32 x) (low32 y)
  (wd r.1.toNat, r.2)

end Sys2Proof.Machine
end

