-- ==== Sys2Proof/Machine/Access.lean ====
section
/-! DEFINITION. Who reaches memory and what each access checks before any byte moves (R126, R127, R210, R394). -/

namespace Sys2Proof.Machine

/-- The source of a memory request: where its translations are held, the page the host has refused it, its address
space (none for an agent that addresses physical memory, R357), its master number, its partition, and whether it is a
command core asking for itself. -/
structure Requester where
  tlb : TlbAt
  refused : Option (BitVec 48 × Access)
  space : Option Space
  physical : Bool
  master : Nat
  part : Nat
  command : Bool
  deriving DecidableEq, Repr

/-- The requester that an executing agent is. -/
def requesterOf (s : State) (a : Agent) : Requester :=
  let base : Requester :=
    { tlb := .quad 0, refused := (s.ctx a).refused, space := agentSpace s a, physical := false, master := masterNo a
      part := (s.partOf a).toNat, command := false }
  match a with
  | .strand q c _ => { base with tlb := .core q c }
  | .hart q h => { base with tlb := .quad q, refused := ((s.quads.get q).harts.get h).refused }
  | .weir u => { base with tlb := .weir u, refused := (s.weirs.get u).refused }
  | .cmd _ => { base with physical := true, command := true }
  | .sec => { base with physical := true, command := true }

/-- The requester that a slot's fetch unit is (R342). -/
def slotRequester (s : State) (i : Fin 16) : Requester :=
  let x := s.slots.get i
  { tlb := .slot i, refused := x.refused, space := spaceOf s x.qid, physical := false, master := 80
    part := x.part.toNat, command := false }

/-- One piece translated: its physical address, or why not; a failed translation leaves the state as it was. -/
def xlatPiece (w : Requester) (need : Access) (va : Word) (s : State) : Except Stop Nat × State :=
  if w.physical then (if va.toNat < 2 ^ 52 then (.ok va.toNat, s) else (.error (.noAddress va.toNat), s))
  else match w.space with
    | none => (perm 4 va, s)
    | some sp => match translate w.tlb w.refused sp need va s with
      | .ok (pa, s1) => (.ok pa, s1)
      | .error e => (.error e, s)

def xlatPieces (w : Requester) (need : Access) (va : Word) : List (Nat × Nat) → State → List (Except Stop Nat) × State
  | [], s => ([], s)
  | (o, _) :: t, s =>
    let r := xlatPiece w need (va + wd o) s
    let rest := xlatPieces w need va t r.2
    (r.1 :: rest.1, rest.2)

def firstError : List (Except Stop Nat) → Except Stop (List Nat)
  | [] => .ok []
  | .error e :: _ => .error e
  | .ok p :: t => match firstError t with
    | .ok ps => .ok (p :: ps)
    | .error e => .error e

def okPas : List (Except Stop Nat) → List Nat
  | [] => []
  | .error _ :: t => okPas t
  | .ok p :: t => p :: okPas t

/-- The offsets and lengths of the pieces of an access (R126). -/
def splits (va : Word) (len : Nat) : List (Nat × Nat) :=
  (pieces (len / 32 + 2) va.toNat len).map fun p => (p.1 - va.toNat, p.2)

/-- An IO location of host memory, where an atomic raises PERM (R132). -/
def hostIo (s : State) (part pa : Nat) : Bool := target s pa == .host && domain s part pa == .io

/-- Every piece of an access at its physical address, in order, once every condition of R210 but alignment has been
met: the engine window, the access table, an atomic to an IO location of host memory, translation. -/
def resolve (w : Requester) (right : Right) (need : Access) (va : Word) (len : Nat) (s : State) :
    Except Stop (List (Nat × Nat) × State) :=
  let sp := splits va len
  let r := xlatPieces w need va sp s
  let pas := okPas r.1
  if pas.any fun p => target s p == .engWindow then perm 4 va
  else if pas.any fun p => !allowed s w.master w.part w.command right p then perm 1 va
  else if right == .atomic && pas.any fun p => hostIo s w.part p then perm 4 va
  else match firstError r.1 with
    | .error e => .error e
    | .ok ps => .ok (ps.zip (sp.map Prod.snd), r.2)

/-- The key under which a channel encrypts a sector (R393): that of key identifier 0, or the memory key of the partition that holds
the granule's KEYID. -/
def sectorKey (s : State) (x : Nat) : BitVec 256 :=
  match granuleKey (ownerOf s (64 * x)) with
  | 0 => s.mg.key0
  | k => ((s.parts.toList.find? fun p => p.keyid.toNat == k && p.memKey.isSome).bind fun p => p.memKey).getD 0

/-- A sector as its channel stores it (R393): AES-XTS-128, the data key in the low half of the key, the tweak the address [51:6]. -/
def sectorCipher (s : State) (x : Nat) : List Byte :=
  xtsSector ((sectorKey s x).toNat % 2 ^ 128) ((sectorKey s x).toNat / 2 ^ 128) x (readCells s.mm.arr (64 * x) 64)

/-- The integrity code that belongs to the stored sector (R393). -/
def sectorCode (s : State) (x : Nat) : BitVec 32 := Config.freeCode (sectorKey s x) (sectorCipher s x) (64 * x)

/-- A sector's data lie under another key than its granule's, or its ciphertext or code in the channel is not what was stored, so
that its integrity code fails (R393; log 54). -/
def foreignSector (s : State) (x : Nat) : Bool := (s.mm.foreign.any fun e => e.1 == x) || s.mm.altered.contains x

/-- A sector whose data failed, by an uncorrectable error or by its integrity code (R365, R393). -/
def badSector (s : State) (x : Nat) : Bool := s.mm.poison.contains x || foreignSector s x

/-- A sector whose data failed raises MEMERR at the read (R365). -/
def poisoned (s : State) (ps : List (Nat × Nat)) : Bool := ps.any fun p => (sectors p.1 p.2).any (badSector s)

/-- The CAUSE of that MEMERR: 2 when only the integrity code failed, else 1 (R365). -/
def memCause (s : State) (ps : List (Nat × Nat)) : Nat :=
  if ps.any fun p => (sectors p.1 p.2).any fun x => s.mm.poison.contains x then 1 else 2

/-- The pieces name ordinary memory, not a window. -/
def isMemory (s : State) (pa : Nat) : Bool :=
  match target s pa with
  | .device | .host => true
  | .kick | .cmdWindow | .hostWindow | .engWindow => false

/-- The bytes of the pieces, from memory. -/
def readPieces (s : State) (ps : List (Nat × Nat)) : List Byte := ps.flatMap fun p => readPhys s p.1 p.2

/-- Through which caches a requester's access to `va` goes, once it is translated (R361, R410). -/
def Requester.via (w : Requester) (l1 : Option (Fin 64 × Fin 4)) (va : Word) (s : State) : Via :=
  { l1 := l1, part := w.part, attr := match w.space with | some sp => leafAttr s w.tlb sp va | none => 0 }

/-- The bytes written over the pieces, in order. -/
def writePieces (v : Via) : List (Nat × Nat) → List Byte → State → State
  | [], _, s => s
  | (pa, n) :: t, bs, s =>
    writePieces v t (bs.drop n) (if isMemory s pa then writePhys v pa (bs.take n) s else s)

/-- The pieces with the bytes each takes, as a held store keeps them. -/
def withBytes : List (Nat × Nat) → List Byte → List (Nat × List Byte)
  | [], _ => []
  | (pa, n) :: t, bs => (pa, bs.take n) :: withBytes t (bs.drop n)

/-- A plain read by a requester, from memory (windows read 0 here). -/
def plainRead (w : Requester) (va : Word) (len : Nat) (s : State) : Except Stop (List Byte × State) := do
  let r ← resolve w .r .read va len s
  if poisoned r.2 r.1 then memerr (memCause r.2 r.1) va
  else .ok (readPieces r.2 r.1, r.2)

/-- A plain write by a requester, to memory. -/
def plainWrite (w : Requester) (l1 : Option (Fin 64 × Fin 4)) (va : Word) (bs : List Byte) (s : State) :
    Except Stop State := do
  let r ← resolve w .w .write va bs.length s
  .ok (writePieces (w.via l1 va r.2) r.1 bs r.2)

end Sys2Proof.Machine
end

