-- ==== Sys2Proof/Machine/Save.lean ====
section
/-! DEFINITION. Saved context: the save area's directory, strand images, core records and tile images, and what a
restore takes from them (R374 to R377). -/

namespace Sys2Proof.Machine

/-! ## Liveness records (R306, R207) -/

/-- The liveness records of a launch's image (log 11). -/
def liveRecords (s : State) (l : Launch) : List LiveRec :=
  match (s.parts.get (pIdx l.part)).live.find? fun e => e.1 == l.image with
  | some e => e.2
  | none => []

/-- The record a yield names; 0xFFF names none (R207). -/
def liveRecord (s : State) (l : Launch) (index : BitVec 12) : Option LiveRec :=
  if index.toNat = 4095 then none else (liveRecords s l)[index.toNat]?

/-! ## Strand images (R375, R376) -/

def bitList (n : Nat) (p : Nat → Bool) : Nat := (List.range n).foldl (fun v i => if p i then v + 2 ^ i else v) 0

def pad (n : Nat) (bs : List Byte) : List Byte := (bs ++ List.replicate (n - bs.length) 0).take n

/-- The image of a strand saved whole (`rec` none) or under a liveness record. Entries with stale tags are written as
zero and not marked present (R58, R375). -/
def strandImage (s : State) (q : Fin 64) (c : Fin 4) (k : Fin 24) (r : Option LiveRec) : List Byte :=
  let a : Agent := .strand q c k
  let y := s.ctx a
  let x := s.core q c
  let inRgn := y.sp.inregion
  let y' : Arch := if inRgn then y.fl.ckpt.getD y.arch else y.arch
  let g := y.gen
  let nOk := fun (i : Nat) => (y'.n.toList.getD i Init.reg).tag == g && (match r with | some v => v.nlive.toNat / 2 ^ i % 2 == 1 | none => true)
  let qOk := fun (i : Nat) => (y'.q.toList.getD i Init.qent).tag == g && (match r with | some v => decide (i < v.qdepth) | none => true)
  let lOk := fun (i : Nat) => (y'.loops.toList.getD i Init.reg).tag == g && (match r with | some v => v.loops.toNat / 2 ^ (i % 2) % 2 == 1 | none => true)
  let holds := x.holder == some k
  let vec := holds && (match r with | some v => v.wlive != 0 | none => true)
  let wOk := fun (i : Nat) => vec && (x.w.toList.getD i Init.vreg).tag == x.leaseGen &&
    (match r with | some v => v.wlive.toNat / 2 ^ i % 2 == 1 | none => true)
  let mOk := fun (i : Nat) => vec && decide (0 < i) && (x.m.toList.getD i Init.mreg).tag == x.leaseGen
  let keep := fun (ok : Nat → Bool) (xs : List Word) =>
    (List.range xs.length).flatMap fun i => leBytes 8 (if ok i then (xs.getD i 0).toNat else 0)
  let st := match y.st with | .pending => 1 | .parked => 4 | _ => 2
  let l := y.launch.getD noLaunch
  let flags := (if r.isNone then 1 else 0) + (if vec then 2 else 0) + (if y.sp.intrap then 4 else 0) + (if y.sp.sstep then 8 else 0)
  let outw := y.outst.flatMap fun e => match e.st with
    | .running => []
    | .cancelled => leBytes 8 (completionWord e.eng e.seq 1).toNat
    | .faulted .. => leBytes 8 (completionWord e.eng e.seq 2).toNat
  let head := leBytes 1 1 ++ leBytes 1 flags ++ leBytes 1 st ++ leBytes 1 k.val ++ leBytes 1 (s.logical q) ++
    leBytes 1 c.val ++ leBytes 2 g.toNat ++ leBytes 8 y'.pc.toNat ++ leBytes 4 l.lseq.toNat ++ leBytes 1 l.hwq.val ++
    leBytes 1 y.awaited ++ leBytes 2 (bitList 16 nOk) ++ leBytes 2 (bitList 16 qOk) ++ leBytes 1 (bitList 6 lOk) ++
    leBytes 1 y.sp.btag.toNat ++ leBytes 2 y'.deps.toNat ++ leBytes 1 (bitList 8 wOk) ++ leBytes 1 (bitList 8 mOk)
  let regs := keep nOk (y'.n.toList.map fun e => e.data) ++ keep qOk (y'.q.toList.map fun e => e.data) ++
    keep lOk (y'.loops.toList.map fun e => e.data)
  let spec := leBytes 8 y'.cmask.toNat ++ leBytes 8 (y'.act.toNat + 4 * y'.sact.toNat) ++ leBytes 1 y'.frm.toNat ++
    leBytes 1 y'.fflg.toNat ++ leBytes 1 y.sp.trapc.toNat ++ leBytes 5 0 ++ leBytes 8 y.sp.trappc.toNat ++
    leBytes 8 y.sp.trapv.toNat ++ leBytes 8 y.copy.entry.toNat ++ leBytes 8 y.copy.a0.toNat ++ leBytes 8 y.copy.a1.toNat ++
    leBytes 8 y.copy.a2.toNat ++ leBytes 8 y.copy.stamp.toNat ++ leBytes 16 0
  let img := pad 768 (head ++ regs ++ spec ++ pad 256 outw)
  if vec then
    let ws := (List.range 8).flatMap fun i =>
      (x.w.toList.getD i Init.vreg).data.toList.flatMap fun v => leBytes 4 (if wOk i then v.toNat else 0)
    let ms := [1, 2, 3, 4, 5, 6, 7].flatMap fun i => leBytes 12 (if mOk i then (x.m.toList.getD i Init.mreg).data.toNat else 0)
    img ++ pad 3200 (ws ++ ms)
  else img

/-! ## Core records (R376) -/

/-- Where an event stands among equal stamps at core `c` of logical quad `here` (R35): dispatched events by dispatch
order, then other cores' by quad, core and sequence number, then the core's own in send order. -/
def eventClass (here : Nat) (c : Fin 4) (e : Event) : Nat × Nat :=
  if bitAt e.order 63 then (0, bits e.order 54 0)
  else if bits e.order 62 57 = here ∧ bits e.order 56 55 = c.val then (2, bits e.order 54 0)
  else (1, bits e.order 62 0)

/-- The order of waiting events (R35). -/
def eventBefore (here : Nat) (c : Fin 4) (x y : Event) : Bool :=
  let cx := eventClass here c x
  let cy := eventClass here c y
  decide (x.stamp.toNat < y.stamp.toNat) ||
    (x.stamp == y.stamp && (decide (cx.1 < cy.1) || (cx.1 == cy.1 && decide (cx.2 < cy.2))))

def insertEvent (here : Nat) (c : Fin 4) (e : Event) : List Event → List Event
  | [] => [e]
  | x :: t => if eventBefore here c e x then e :: x :: t else x :: insertEvent here c e t

/-- The events that wait on a core, in their order (R35). -/
def waitingEvents (s : State) (q : Fin 64) (c : Fin 4) : List Event :=
  let x := s.core q c
  (x.lt.store ++ x.lt.dispatched).foldl (fun l e => insertEvent (s.logical q) c e l) []

def chanWord (o : Option OutCh) : Nat := match o with | some x => x.l.toNat | none => 0

/-- The record of a core: the local-time state of a launch of the queue, when the core serves one, and the binding. -/
def coreRecordBytes (s : State) (q : Fin 64) (c : Fin 4) (serves : Bool) : List Byte :=
  let x := s.core q c
  let ev := if serves then waitingEvents s q c else []
  let n := ev.length
  let len := 4096 + roundUp (48 * (n - 64)) 64
  let b := x.wbind
  let lt := if serves then
      leBytes 8 x.lt.vt.toNat ++ x.lt.a.toList.flatMap (fun v => leBytes 8 v.toNat) ++
        x.lt.b.toList.flatMap (fun v => leBytes 8 v.toNat) ++ x.lt.out.toList.flatMap (fun o => leBytes 4 (chanWord o)) ++
        x.lt.chla.toList.flatMap (fun o => leBytes 4 (match o with | some v => v.toNat | none => 0)) ++ leBytes 2 x.lt.nulls
    else leBytes 202 0
  let head := leBytes 1 (s.logical q) ++ leBytes 1 c.val ++ leBytes 2 n ++ leBytes 4 len
  let wb := leBytes 8 (b.handle.val + b.tgen.toNat * 64 + (if b.valid then 2 ^ 31 else 0))
  let decl := leBytes 8 (b.row0 + b.pln * 2 ^ 16 + (if b.smode then 2 ^ 20 else 0) + (if b.nosc then 2 ^ 21 else 0) +
    b.scHandle.val * 2 ^ 24 + b.scGen.toNat * 2 ^ 32)
  let evs := ev.flatMap fun e => leBytes 8 e.stamp.toNat ++ leBytes 8 e.entry.toNat ++ leBytes 8 e.a0.toNat ++
    leBytes 8 e.a1.toNat ++ leBytes 8 e.a2.toNat ++ leBytes 8 e.order.toNat
  pad len (pad 216 (head ++ lt) ++ wb ++ decl ++ leBytes 24 0 ++ evs)

/-! ## Tile images (R375, R376) -/

/-- A residue mismatch in the rows of a tile that a save reads (R85). -/
def rowsMismatch (x : Quad) (t : Tile) (lo hi : Nat) : Bool :=
  shAcc t.shape && (List.range (hi + 1 - lo)).any fun i => (readAccRow x t (lo + i)).data.toList.any fun e => !accOk e

/-- Rows [lo, hi] of a tile as they lie; accumulator rows as 96 entries of 8 bytes, with SAT in bit 63 (log 28). -/
def tileRows (x : Quad) (t : Tile) (lo hi : Nat) : List Byte :=
  if shAcc t.shape then
    (List.range (hi + 1 - lo)).flatMap fun i =>
      let r := readAccRow x t (lo + i)
      r.data.toList.flatMap fun e => leBytes 8 (e.toNat + if r.sat then 2 ^ 63 else 0)
  else if shPlanes t.shape then
    match readTile x false t 0 (tileBytes t.shape) with | .ok bs => bs | .error _ => []
  else
    match readTile x false t (lo * rowStride t.shape) ((hi + 1 - lo) * rowStride t.shape) with
    | .ok bs => bs
    | .error _ => []

def tileImage (s : State) (q : Fin 64) (t : Tile) (lo hi : Nat) : List Byte :=
  pad 32 (leBytes 1 (s.logical q) ++ leBytes 1 t.handle.val ++ leBytes 6 0 ++ leBytes 8 t.shape.toNat ++ leBytes 2 lo ++
    leBytes 2 hi) ++ tileRows (s.quads.get q) t lo hi

/-! ## Live ranges (R375) -/

/-- The quad and table entry of the tile bound to a handle as a strand of quad `q` names it (R94). -/
def boundAt (s : State) (q : Fin 64) (l : LaunchId) (h : Fin 64) : Option (Fin 64 × Nat) :=
  if launchWide h then (directory s l h).bind fun d => ((s.quads.get d).find l h).map fun e => (d, e.1)
  else ((s.quads.get q).find l h).map fun e => (q, e.1)

/-- The ranges of a record, by the tiles bound to their handles as the yield is taken (R306). A range then follows its
tile-table entry (DESIGN CHOICE, log 39). -/
def recordRanges (s : State) (q : Fin 64) (l : LaunchId) (r : LiveRec) : List (Fin 64 × Nat × Nat × Nat) :=
  r.ranges.filterMap fun e => (boundAt s q l e.1).map fun b => (b.1, b.2, e.2)

/-- The liveness record under which a slot's strand is saved: the one its yield named, else none (whole). -/
def saveRec (s : State) (a : Agent) : Option LiveRec :=
  match (s.ctx a).why, s.launchRec a with
  | some (.saving i _), some l => liveRecord s l i
  | _, _ => none

/-- The ranges of a strand that is saved under a record; none for one saved whole. -/
def savedRanges (s : State) (a : Agent) : Option (List (Fin 64 × Nat × Nat × Nat)) :=
  match (s.ctx a).why with
  | some (.saving i rs) => if i.toNat = 4095 then none else some rs
  | _ => none

/-- The strands of a queue's launches, by slot. -/
def queueSlots (s : State) (queue : Fin 4096) : List (Fin 64 × Fin 4 × Fin 24) :=
  (s.launches.filter fun l => l.queue == queue).flatMap fun l => slotsOf s l.id

/-- The launch of the slot that an image's LSEQ names. -/
def imageLaunch (s : State) (i : Fin 16) (lseq : Nat) : Option LaunchId :=
  ((s.launches.filter fun y => y.id.hwq == i && !y.cancelled).find? fun y => y.id.lseq.toNat % 2 ^ 32 == lseq).map
    fun y => y.id

/-- The strand images of a slot whose restore still waits (R377); those of a launch that is gone are not restored. -/
def waitingImages (s : State) (i : Fin 16) : List (List Byte) :=
  (s.slots.get i).restoring.filter fun b => (imageLaunch s i (fieldAt b 16 4)).isSome

/-- A strand of the launch waits in an image (R377). -/
def imageWaits (s : State) (l : LaunchId) : Bool :=
  (waitingImages s l.hwq).any fun b => imageLaunch s l.hwq (fieldAt b 16 4) == some l

/-- The live rows of a launch's tile (R375): all of them when a strand is saved whole or waits in an image, else the union of the
records' ranges. -/
def liveRanges (s : State) (q : Fin 64) (e : Nat) (t : Tile) : List (Nat × Nat) :=
  let saves := (slotsOf s t.launch).map fun (q, c, k) => savedRanges s (.strand q c k)
  let rows := shRows t.shape
  if saves.any Option.isNone || imageWaits s t.launch then [(0, rows - 1)]
  else saves.flatMap fun r => ((r.getD []).filter fun x => x.1 == q && x.2.1 == e && decide (x.2.2.1 < rows)).map fun x =>
    (x.2.2.1, min x.2.2.2 (rows - 1))

def overlaps (lo hi : Nat) (xs : List (Nat × Nat)) : Bool := xs.any fun r => decide (r.1 ≤ hi) && decide (lo ≤ r.2)

/-- A request that a save waits for: it writes memory, or its destination rows overlap a live range (R375). -/
def waitedFor (s : State) (r : Request) : Bool :=
  r.kind == 1 || r.kind == 3 ||
  (match (s.quads.get r.home).entry r.tentry with
   | some t =>
     let m := if r.kind == 5 then shRows t.shape else min r.rows (shRows t.shape)
     t.gen == r.tgen && overlaps 0 (m - 1) (liveRanges s r.home r.tentry t)
   | none => false)

/-- The live ranges a cancellation of a request keeps (R117). -/
def keptRanges (s : State) (r : Request) : List (Nat × Nat) :=
  match (s.quads.get r.home).entry r.tentry with
  | some t => liveRanges s r.home r.tentry t
  | none => []

/-! ## Restoring (R377) -/

def wordAtOff (bs : List Byte) (off : Nat) : Word := wd (fieldAt bs off 8)

/-- The strand an image describes, put into its slot; `kept` is what the image has no place for. A PARKED one issues its parking
instruction again from the start (R374). The PC and the loop addresses always have bit 0 clear (R154, R156). A strand that was
stopped for the debugger, or whose single step was complete when it was saved, comes back stopped (R382). -/
def restoreCtx (bs : List Byte) (l : LaunchId) (kept : Option Kept) (y0 : Ctx) : Ctx :=
  let g : Gen := BitVec.ofNat 16 (fieldAt bs 6 2)
  let flags := fieldAt bs 1 1
  let has := fun (off len i : Nat) => fieldAt bs off len / 2 ^ i % 2 == 1
  let reg := fun (ok : Bool) (off : Nat) (old : Reg) =>
    if ok then ({ data := wordAtOff bs off, tag := g, scr := false } : Reg) else { old with tag := 0 }
  let st : SlotSt := match fieldAt bs 2 1 with | 1 => .pending | 4 => .parked | _ => .ready
  let lcs := fieldAt bs 344 1
  let debug := match kept with | some x => x.debug | none => false
  let even := fun (r : Reg) => { r with data := r.data &&& ~~~1 }
  { y0 with
    st := st
    why := if debug then some .debug else if st == .parked then some .restored else none
    gen := g
    launch := some l
    awaited := fieldAt bs 21 1
    arch := { y0.arch with
      n := Vector.ofFn fun (i : Fin 16) => reg (has 22 2 i.val) (32 + 8 * i.val) (y0.arch.n.get i)
      q := Vector.ofFn fun (i : Fin 16) =>
        if has 24 2 i.val then { data := wordAtOff bs (160 + 8 * i.val), tag := g, scr := false, resv := none }
        else { y0.arch.q.get i with tag := 0, resv := none }
      loops := Vector.ofFn fun (i : Fin 6) =>
        let r := reg (has 26 1 i.val) (288 + 8 * i.val) (y0.arch.loops.get i)
        if i.val < 2 then r else even r
      act := BitVec.ofNat 2 lcs, sact := BitVec.ofNat 2 (lcs / 4)
      cmask := BitVec.ofNat 32 (fieldAt bs 336 4), frm := BitVec.ofNat 2 (fieldAt bs 352 1)
      fflg := BitVec.ofNat 5 (fieldAt bs 353 1), deps := BitVec.ofNat 16 (fieldAt bs 28 2), pc := wordAtOff bs 8 &&& ~~~1 }
    sp := { y0.sp with
      intrap := flags / 4 % 2 == 1, sstep := flags / 8 % 2 == 1 && !debug, inregion := false
      trapc := BitVec.ofNat 8 (fieldAt bs 354 1), trappc := wordAtOff bs 360, trapv := wordAtOff bs 368
      btag := BitVec.ofNat 5 (fieldAt bs 27 1) }
    fl := { Init.flight with drain := (kept.map fun x => x.drain).getD [] }
    outst := ((List.range 32).map fun i => wordAtOff bs (432 + 8 * i)).filterMap fun w =>
      if w == 0 then none
      else some { eng := BitVec.ofNat 5 (bits w 63 59), seq := BitVec.ofNat 11 (bits w 58 48)
                  st := if bits w 47 40 = 1 then .cancelled else
                    match kept.bind fun x => x.outst.find? fun o => o.eng.toNat == bits w 63 59 && o.seq.toNat == bits w 58 48 with
                    | some o => o.st
                    | none => .faulted 7 2 0 }
    copy := { Init.copy with entry := wordAtOff bs 376, a0 := wordAtOff bs 384, a1 := wordAtOff bs 392
                             a2 := wordAtOff bs 400, stamp := wordAtOff bs 408
                             timed := (match kept with | some x => x.copy.timed | none => false)
                             order := (match kept with | some x => x.copy.order | none => 0)
                             tries := (match kept with | some x => x.copy.tries | none => 0)
                             retriable := (match kept with | some x => x.copy.retriable | none => false) }
    refused := none, answer := kept.bind (fun x => x.answer), query := none, lastGen := none, displaced := kept.bind (fun x => x.displaced)
    stepping := false, waited := [], latch := kept.bind (fun x => x.latch), abortAt := none }

/-- The vector image of a strand whose image has VEC set, under a new lease (R377). -/
def restoreVec (bs : List Byte) (k : Fin 24) (x0 : Core) : Core :=
  let x := x0.grantLease k
  let has := fun (off i : Nat) => fieldAt bs off 1 / 2 ^ i % 2 == 1
  { x with
    w := Vector.ofFn fun (i : Fin 8) =>
      if has 30 i.val then
        { data := Vector.ofFn fun (j : Fin 96) => BitVec.ofNat 32 (fieldAt bs (768 + 384 * i.val + 4 * j.val) 4)
          tag := x.leaseGen, scr := false }
      else x.w.get i
    m := Vector.ofFn fun (i : Fin 8) =>
      if has 31 i.val then
        { data := BitVec.ofNat 96 (fieldAt bs (768 + 3072 + 12 * (i.val - 1)) 12), tag := x.leaseGen, scr := false }
      else x.m.get i }

/-- The channels of a launch at a core: its outputs, and which of its inputs are declared (R31, R307). -/
def coreChannels (s : State) (l : Launch) (q : Fin 64) (c : Fin 4) : Vector (Option OutCh) 8 × Vector (Option (BitVec 32)) 8 :=
  let here := s.logical q
  (Vector.ofFn fun (j : Fin 8) =>
      match l.chans.find? fun e => e.fq == here && e.fc == c && e.outch == j with
      | some e => (s.physical l.part e.tq).map fun p => { q := p, c := e.tc, ch := e.inch, l := e.l }
      | none => none,
    Vector.ofFn fun (j : Fin 8) => (l.chans.find? fun e => e.tq == here && e.tc == c && e.inch == j).map fun e => e.l)

/-- A core's local-time state and binding from its record (R377); the binding's generations wait for `rebindCore`. -/
def restoreCore (s : State) (bs : List Byte) (kept : Option KeptCore) (l : Option Launch) (q : Fin 64) (c : Fin 4) (x : Core) : Core :=
  let n := fieldAt bs 2 2
  let wb := wordAtOff bs 216
  let d := wordAtOff bs 224
  let x1 := { x with wbind := { x.wbind with
    valid := bitAt wb 31, launch := (match kept with | some k => k.launch | none => noLaunch)
    shape := (match kept with | some k => k.shape | none => 0)
    tgen := BitVec.ofNat 16 (bits wb 21 6), handle := Fin.ofNat 64 (bits wb 5 0)
    row0 := bits d 15 0, pln := bits d 19 16, smode := bitAt d 20, nosc := bitAt d 21
    scHandle := Fin.ofNat 64 (bits d 29 24), scGen := BitVec.ofNat 16 (bits d 47 32) } }
  match l with
  | none => x1
  | some l =>
    if !l.rec_.ltm then x1
    else
      let ch := coreChannels s l q c
      let mark := fun (i : Nat) => ((kept.map fun k => k.events).getD []).getD i (0, false)
      let evs : List Event := (List.range n).map fun i =>
        let o := 256 + 48 * i
        { stamp := wordAtOff bs o, entry := wordAtOff bs (o + 8), a0 := wordAtOff bs (o + 16), a1 := wordAtOff bs (o + 24)
          a2 := wordAtOff bs (o + 32), order := wordAtOff bs (o + 40), tries := (mark i).1, restarted := (mark i).2, launch := l.id }
      { x1 with lt := { x1.lt with
        launch := some l.id, vt := wordAtOff bs 8
        a := Vector.ofFn fun (i : Fin 8) => wordAtOff bs (16 + 8 * i.val)
        b := Vector.ofFn fun (i : Fin 8) => wordAtOff bs (80 + 8 * i.val)
        out := Vector.ofFn fun (i : Fin 8) => (ch.1.get i).map fun o => { o with l := BitVec.ofNat 32 (fieldAt bs (144 + 4 * i.val) 4) }
        chla := Vector.ofFn fun (i : Fin 8) => (ch.2.get i).map fun _ => BitVec.ofNat 32 (fieldAt bs (176 + 4 * i.val) 4)
        store := evs.filter fun e => !bitAt e.order 63
        dispatched := evs.filter fun e => bitAt e.order 63
        nulls := fieldAt bs 208 2, bRose := (match kept with | some k => k.rose | none => false)
        sendSeq := (match kept with | some k => k.sendSeq | none => 0) } }

/-- The rows of a tile image written into the tile (R377), accumulator entries with their residue (R85). -/
def writeRows (t : Tile) (lo hi : Nat) (bs : List Byte) (x : Quad) : Quad :=
  if shAcc t.shape then
    (List.range (hi + 1 - lo)).foldl (fun y i =>
      let v := fun (j : Nat) => fieldAt bs (768 * i + 8 * j) 8
      y.setAccRow (t.base + lo + i)
        { data := Vector.ofFn fun (j : Fin 96) => accEntry (v j.val), tag := t.gen, sat := v 0 / 2 ^ 63 == 1, scr := false }) x
  else writeTile t (if shPlanes t.shape then 0 else lo * rowStride t.shape) bs x

end Sys2Proof.Machine
end

