-- ==== Sys2Proof/Machine/Queue.lean ====
section
/-! DEFINITION. Queues, the kick filter, hardware queue slots, selection and pre-emption (spec/15, R324 to R355). -/

namespace Sys2Proof.Machine

/-! ## The kick filter table (R331) -/

def kftAddr (s : State) (q : Fin 4096) : Nat := bits s.cw.kftbase 51 17 * 131072 + 32 * q.val
def kftField (s : State) (q : Fin 4096) (off len : Nat) : Nat := readPhysN s (kftAddr s q + off) len
def kftValid (s : State) (q : Fin 4096) : Bool := kftField s q 20 1 % 2 == 1

def setKval (q : Fin 4096) (v : Nat) (s : State) : State := writePhys (.home 0) (kftAddr s q + 24) (leBytes 4 v) s

/-- KVAL := V unless V is behind it (R330). -/
def noteKval (q : Fin 4096) (v : BitVec 32) (s : State) : State :=
  let old := kftField s q 24 4
  if (v.toNat + 2 ^ 32 - old) % 2 ^ 32 < 2 ^ 31 then setKval q v.toNat s else s

def setPending (q : Fin 4096) (s : State) : State :=
  let i := q.val / 64
  { s with cw := { s.cw with kpend := s.cw.kpend.setIfInBounds i (s.cw.kpend.toList.getD i 0 ||| wd (2 ^ (q.val % 64))) } }

def clearPending (q : Fin 4096) (s : State) : State :=
  let i := q.val / 64
  { s with cw := { s.cw with kpend := s.cw.kpend.setIfInBounds i (s.cw.kpend.toList.getD i 0 &&& ~~~ wd (2 ^ (q.val % 64))) } }

def isPending (s : State) (q : Fin 4096) : Bool := bitAt (s.cw.kpend.toList.getD (q.val / 64) 0) (q.val % 64)

/-- The slot a queue is mapped to. -/
def slotOfQueue (s : State) (q : Fin 4096) : Option (Fin 16) :=
  (List.finRange 16).find? fun i => (s.slots.get i).st != .free && (s.slots.get i).qid == q

/-- The queue's launches that have not completed (R335). -/
def outstanding (s : State) (q : Fin 4096) : Bool := s.launches.any fun l => l.queue == q

/-! ## Frozen partitions (R388, R389) -/

/-- A LOCKED or RUN partition's configuration is frozen (R389). -/
def isFrozen (s : State) (p : Fin 64) : Bool := (s.parts.get p).st == .locked || (s.parts.get p).st == .run

/-- A refused configuration change: counted, reported as a TDISP error, and the partition in ERROR (R389). -/
def refuseConfig (p : Fin 64) (s : State) : State :=
  enterError p (s.updPart p fun x => { x with tdiErrors := x.tdiErrors + 1 })

/-- The entries of a table of `size`-byte entries at `base` that a run of bytes touches. -/
def touched (base size count pa len : Nat) : List Nat :=
  if len = 0 then []
  else (List.range count).filter fun i => decide (base + size * i < pa + len) && decide (pa < base + size * (i + 1))

/-- The partitions, before and after, of the entries that a write changes in a table of `count` entries of `size` bytes: their first
`conf` bytes are configuration, with the partition and the VALID bit at `part` and `valid`. -/
def changedEntries (s : State) (base size count conf part valid pa : Nat) (bs : List Byte) : List (Fin 64) :=
  if pa < base + size * count ∧ base < pa + bs.length then
    (touched base size count pa bs.length).flatMap fun i =>
      let old := readPhys s (base + size * i) size
      let new := (List.range size).map fun j =>
        let x := base + size * i + j
        if pa ≤ x ∧ x < pa + bs.length then bs.getD (x - pa) 0 else old.getD j 0
      if old.take conf == new.take conf then []
      else [old, new].filterMap fun e => if fieldAt e valid 1 % 2 = 1 then some (pIdx (BitVec.ofNat 8 (fieldAt e part 1))) else none
  else []

/-- The frozen partitions whose kick filter or address-space table entries a write would change (R389). KVAL is no configuration:
the kick filter writes it (R331). -/
def frozenEntries (s : State) (pa : Nat) (bs : List Byte) : List (Fin 64) :=
  (changedEntries s (bits s.cw.kftbase 51 17 * 131072) 32 4096 24 16 20 pa bs ++
    changedEntries s (bits s.cw.astbase 51 16 * 65536) 16 4096 16 12 13 pa bs).filter (isFrozen s)

/-! ## The slot's own writes (R325, R342, R343) -/

def HwSt.code : HwSt → Nat
  | .free => 0 | .idle => 1 | .runnable => 2 | .running => 3 | .waiting => 4 | .preempting => 5 | .unmapping => 6
  | .resetting => 7 | .error => 8

/-- STATUS of the QCB (R325). -/
def statusWord (x : HwSlot) : Nat :=
  x.st.code + (if x.q.pend then 16 else 0) + (if x.q.err != 0 then 32 else 0) + x.q.err.toNat * 256

/-- The ring index of the packet being processed, or of the IBCALL through which it was reached (R325). -/
def errIndex (q : QueueSt) : Nat := if q.ib.isEmpty then q.pos.toNat else (q.pos.toNat + 2 ^ 32 - 1) % 2 ^ 32

/-- The requester that the slot's own writes are; a refusal of theirs is kept apart from one of its reads (R342). -/
def slotWriter (s : State) (i : Fin 16) : Requester := { slotRequester s i with refused := (s.slots.get i).refusedW }

/-- The page of a write that does not complete is asked for; none when the write is refused. -/
def askWrite (i : Fin 16) (e : Stop) (s : State) : Option State :=
  let hold := fun (va : Word) (k : Access) (s : State) => s.updSlot i fun x => { x with holdWrite := some (granuleOf va, k) }
  match e, (slotWriter s i).space with
  | .absent va k ea, some sp => some (hold va k (askPage sp va k ea s))
  | .granule va k, some sp => some (hold va k (askGranule none sp va k s))
  | _, _ => none

/-- A write by the slot into process memory: held while its page is absent, and behind held ones; none when it is
refused (R342). -/
def rawPut (i : Fin 16) (va : Word) (bs : List Byte) (s : State) : Option State :=
  let hold := fun (s : State) => s.updSlot i fun x => { x with held := x.held ++ [(va, bs)] }
  let x := s.slots.get i
  if !x.held.isEmpty || x.holdWrite.isSome then some (hold s)
  else match plainWrite (slotWriter s i) none va bs s with
    | .ok s1 => some (if x.refusedW.isSome then s1.updSlot i fun x => { x with refusedW := none } else s1)
    | .error e => (askWrite i e s).map hold

/-- Raises an interrupt to the active command complex (R330, R343, R376). -/
def raiseIrq (s : State) : State := { s with cw := { s.cw with irq := true } }

/-- The slot is in ERROR with a code, STATUS and ERRIDX are written, and the command complex is interrupted (R343). -/
def enterFault (i : Fin 16) (code : Nat) (s : State) : State :=
  let s1 := (raiseIrq s).updSlot i fun x =>
    { x with q := { x.q with err := BitVec.ofNat 8 code }, waitSector := none, refusedW := none, st := .error, since := s.ctc }
  let x := s1.slots.get i
  let s2 := (rawPut i (x.q.qcb + wd 24) (leBytes 4 (statusWord x)) s1).getD s1
  post .slotSelection ((rawPut i (x.q.qcb + wd 28) (leBytes 4 (errIndex x.q)) s2).getD s2)

/-- A queue fault (R343): processing stops, ERR, ERRCODE and ERRIDX are set, the slot is in ERROR. -/
def queueFault (i : Fin 16) (code : Nat) (s : State) : State :=
  let x := s.slots.get i
  if x.st == .free || x.st == .resetting then s else enterFault i code s

/-- The slot's own write; a refused one is not performed and is a queue fault of code ACCESS (R342). -/
def slotPut (i : Fin 16) (va : Word) (bs : List Byte) (s : State) : State :=
  match rawPut i va bs s with
  | some s1 => s1
  | none => queueFault i 4 s

/-- A field of the QCB written by the slot. -/
def putQcb (i : Fin 16) (off len v : Nat) (s : State) : State :=
  slotPut i ((s.slots.get i).q.qcb + wd off) (leBytes len v) s

def putStatus (i : Fin 16) (s : State) : State := putQcb i 24 4 (statusWord (s.slots.get i)) s

/-- The slot enters a state (R350); STATUS is written through. -/
def setSlot (i : Fin 16) (st : HwSt) (s : State) : State :=
  putStatus i (s.updSlot i fun x => { x with st := st, since := s.ctc })

/-- The held writes performed in order once the page may be there (R342). -/
def flushHeld (i : Fin 16) : List (Word × List Byte) → State → State
  | [], s => s
  | (va, bs) :: t, s => flushHeld i t (slotPut i va bs s)

def retryHeld (i : Fin 16) (s : State) : State :=
  let h := (s.slots.get i).held
  flushHeld i h (s.updSlot i fun x => { x with held := [], holdWrite := none })

/-- Some of the slot's own writes are not performed yet (R342). -/
def HwSlot.writesHeld (x : HwSlot) : Bool := !x.held.isEmpty || x.holdWrite.isSome

/-! ## Granting quads (R351, R352) -/

/-- Two slots' masks overlap: they name a common quad of one partition. -/
def masksOverlap (x y : HwSlot) : Bool := x.part == y.part && (x.qmask &&& y.qmask) != 0

/-- A slot that selection keeps: running with its quantum not ended, or in ERROR while its launches run. -/
def keptSlot (s : State) (x : HwSlot) : Bool :=
  (x.st == .running && !x.ended) || (x.st == .error && outstanding s x.qid)

/-- Rank of a candidate: EPRIO, or PRIO when its quantum has ended. -/
def rank (x : HwSlot) : Nat := if x.ended then x.prio.toNat else x.eprio.toNat

/-- Descending rank, then longest waiting, then lower number (R351). -/
def before (s : State) (i j : Fin 16) : Bool :=
  let x := s.slots.get i
  let y := s.slots.get j
  if rank x = rank y then (if x.rsince = y.rsince then decide (i.val < j.val) else decide (x.rsince.toNat < y.rsince.toNat))
  else decide (rank y < rank x)

def insertRanked (s : State) (i : Fin 16) : List (Fin 16) → List (Fin 16)
  | [] => [i]
  | j :: t => if before s i j then i :: j :: t else j :: insertRanked s i t

/-- The slot is told to save its strands (R374); whether its quantum has ended decides from when it counts as RUNNABLE (R351). -/
def startPreempt (i : Fin 16) (s : State) : State :=
  post (.saveComplete i) (setSlot i .preempting (s.updSlot i fun x => { x with deadline := false, charged := [] }))

def grant (i : Fin 16) (s : State) : State :=
  let wasRunning := (s.slots.get i).st == .running
  let s1 := s.updSlot i fun x => { x with granted := s.ctc, ended := false, eprio := x.prio }
  let s2 := if wasRunning then s1 else setSlot i .running s1
  if (s2.slots.get i).saved then post (.restore i) s2 else s2

/-- Grants the candidates in rank order; `held` are the slots kept or granted so far. -/
def grantAll : List (Fin 16) → List (Fin 16) → State → State
  | [], _, s => s
  | i :: t, held, s =>
    if held.any fun j => masksOverlap (s.slots.get i) (s.slots.get j) then
      grantAll t held (if (s.slots.get i).st == .running then startPreempt i s else s)
    else grantAll t (i :: held) (grant i s)

/-- Selection (R351). -/
def select (s : State) : State :=
  let kept := (List.finRange 16).filter fun i => keptSlot s (s.slots.get i)
  let cands := (List.finRange 16).filter fun i =>
    let x := s.slots.get i
    x.st == .runnable || (x.st == .running && x.ended)
  grantAll (cands.foldr (insertRanked s) []) kept s

/-- Pre-empts the granted slots of lower PRIO whose masks overlap (R352). -/
def preemptLower (i : Fin 16) : List (Fin 16) → State → State
  | [], s => s
  | j :: t, s =>
    let x := s.slots.get i
    let y := s.slots.get j
    preemptLower i t (if i != j && y.st == .running && masksOverlap x y && decide (y.prio.toNat < x.prio.toNat)
      then startPreempt j s else s)

/-- A slot becomes RUNNABLE by a kick, a packet, a satisfied wait or a restore (R352). -/
def makeRunnable (i : Fin 16) (s : State) : State :=
  let s1 := setSlot i .runnable (s.updSlot i fun x => { x with eprio := x.prio, age := s.ctc, rsince := s.ctc, ended := false, waitSector := none })
  post .slotSelection (preemptLower i (List.finRange 16) s1)

/-- A packet is available: an indirect buffer is open, or the pointer is below KLIM and not at an empty entry (R329). -/
def QueueSt.available (q : QueueSt) : Bool := !q.ib.isEmpty || (q.pos != q.klim && !q.stuck)

/-- An IDLE slot with a packet becomes RUNNABLE (R350). -/
def wakeSlot (i : Fin 16) (s : State) : State :=
  let x := s.slots.get i
  if x.st == .idle && (x.q.available || x.q.pend) then
    makeRunnable i (s.updSlot i fun x => { x with q := { x.q with pend := false } }) else s

/-! ## Kicks (R328, R330) -/

/-- KLIM := V under R328; an empty entry is read again. -/
def applyKick (v : BitVec 32) (q : QueueSt) : QueueSt :=
  let a := (v - q.klim).toNat
  let b := (v - q.rptr).toNat
  { q with klim := if a ≤ b ∧ b ≤ q.rsize.toNat then v else q.klim, stuck := false }

/-- A live command complex runs firmware (R330). -/
def firmwareUp (s : State) : Bool := s.cmds.toList.any fun c => c.role == .active

/-- The queues whose pending bit is set, ascending. -/
def pendingQueues (s : State) : List (Fin 4096) := (List.finRange 4096).filter (isPending s)

/-- Among IDLE and WAITING slots, the one that has been in that state longest (R330). -/
def longestIdle (s : State) : Option (Fin 16) :=
  ((List.finRange 16).filter fun i => (s.slots.get i).st == .idle || (s.slots.get i).st == .waiting).foldl
    (fun b i => match b with
      | none => some i
      | some j => if (s.slots.get i).since.toNat < (s.slots.get j).since.toNat then some i else some j) none

/-- What firmware does about pending queues (R330): the lowest one is mapped into the FREE slot of lowest index, or an
IDLE or WAITING slot is unmapped first. -/
def serveKicks (s : State) : State :=
  if !firmwareUp s then s
  else match pendingQueues s with
    | [] => s
    | q :: _ =>
      let busy := s.md.inflight.any fun e => match e with | .sctlMap .. | .sctlUnmap _ => true | _ => false
      if busy then s
      else match (List.finRange 16).find? fun i => (s.slots.get i).st == .free with
        | some i => post (.sctlMap i q) s
        | none =>
          if s.slots.toList.any fun x => x.st == .unmapping then s
          else match longestIdle s with
            | some i => post (.sctlUnmap i) s
            | none => s

/-- A kick or a monitor wake that reaches a queue being unmapped sets PEND (R330, R353). -/
def setPend (i : Fin 16) (s : State) : State := putStatus i (s.updSlot i fun x => { x with q := { x.q with pend := true } })

/-- A kick of a queue (R330). -/
def kickOp (q : Fin 4096) (v : BitVec 32) (s : State) : State :=
  let drop := { s with cw := { s.cw with dropKicks := s.cw.dropKicks + 1 } }
  if !bitAt s.cw.kapbase 0 then drop
  else if !kftValid s q then drop
  else match slotOfQueue s q with
    | some i =>
      if (s.slots.get i).st == .unmapping then noteKval q v (setPend i s)
      else wakeSlot i (s.updSlot i fun x => { x with q := applyKick v x.q })
    | none => serveKicks (raiseIrq (setPending q (noteKval q v s)))

/-! ## Map, unmap, reset (R353, R354) -/

/-- The address of a ring entry (R324). -/
def ringEntry (base : Word) (size : Nat) (i : BitVec 32) : Word := base + wd (64 * (i.toNat % max 1 size))

/-- The queue state a QCB holds (R325), with the shadow registers of its save area. -/
def loadQueue (qcb : Word) (bs sh : List Byte) (graph phase : Nat) : QueueSt :=
  let f := fun (o n : Nat) => fieldAt bs o n
  let ib := ([0, 1, 2].map fun k => ({ next := wd (f (96 + 16 * k) 8), remain := BitVec.ofNat 32 (f (104 + 16 * k) 4) } : IbEnt)).filter
    fun e => e.remain != 0 || e.next != 0
  let rptr := BitVec.ofNat 32 (f 20 4)
  let start := wd (f 144 8)
  let pos := BitVec.ofNat 8 (f 157 1)
  let depth := if ringEntry (wd (f 0 8)) (f 8 4) rptr == start then 0
    else (ib.findIdx fun e => e.next == start + wd (64 * pos.toNat)) + 1
  let lp : LoopSt := { active := f 158 1 % 2 == 1, start := start, remain := BitVec.ofNat 32 (f 152 4)
                       span := BitVec.ofNat 8 (f 156 1), pos := pos, depth := depth }
  { Init.queue with
    qcb := qcb, rbase := wd (f 0 8), rsize := BitVec.ofNat 32 (f 8 4), crbase := wd (f 64 8), crsize := BitVec.ofNat 32 (f 72 4)
    shsave := wd (f 80 8), klim := BitVec.ofNat 32 (f 16 4), rptr := rptr
    pos := rptr + (if lp.active && depth == 0 then BitVec.ofNat 32 lp.pos.toNat else if ib.isEmpty then 0 else 1)
    err := BitVec.ofNat 8 (f 25 1), pend := f 24 1 / 16 % 2 == 1, lseq := wd (f 32 8), ldone := wd (f 40 8), gdone := wd (f 48 8), pdone := wd (f 56 8)
    ib := ib.reverse, loop := lp, job := BitVec.ofNat 8 (f 160 4), gpol := BitVec.ofNat 8 (f 164 1)
    ppol := BitVec.ofNat 8 (f 165 1), jpol := BitVec.ofNat 8 (f 166 1), skip := BitVec.ofNat 8 (f 167 1)
    sh := Vector.ofFn fun (k : Fin 32) => wd (fieldAt sh (8 * k.val) 8), graph := graph, phase := phase }

/-- The cancel marks of a queue that no slot holds. -/
def marksOf (s : State) (q : Fin 4096) : Option Marks := lookupNat s.cw.marks q.val

/-- A mapped queue takes its cancel marks back (R347). -/
def withMarks (s : State) (q : Fin 4096) (y : QueueSt) : QueueSt :=
  match marksOf s q with
  | none => y
  | some m => { y with cancelG := if m.graph then [y.graph] else [], cancelP := if m.phase then [y.phase] else []
                       jobCancelled := m.jobC }

/-- The cancel marks that a queue leaves its slot with. -/
def keepMarks (i : Fin 16) (s : State) : State :=
  let x := s.slots.get i
  let m : Marks := { part := x.part, job := x.q.job, graph := x.q.cancelG.contains x.q.graph
                     phase := x.q.cancelP.contains x.q.phase, jobC := x.q.jobCancelled }
  { s with cw := { s.cw with marks := insertNat s.cw.marks x.qid.val m } }

/-- A page that a slot's read waits for. -/
def slotAsk (i : Fin 16) (e : Stop) (s : State) : State :=
  match e, (slotRequester s i).space with
  | .absent va k ea, some sp => (askPage sp va k ea s).updSlot i fun x => { x with holdFetch := some (granuleOf va, k) }
  | .granule va k, some sp => (askGranule none sp va k s).updSlot i fun x => { x with holdFetch := some (granuleOf va, k) }
  | _, _ => s

/-- A queue whose QCB or save area cannot be read: the slot is in ERROR with code ACCESS. -/
def mapFault (i : Fin 16) (qcb : Word) (s : State) : State :=
  raiseIrq (s.updSlot i fun x => { x with st := .error, refused := none, q := { Init.queue with qcb := qcb, err := 4 } })

/-- A slot into which a queue is mapped: nothing of an earlier queue is left. -/
def HwSlot.cleared (x : HwSlot) : HwSlot :=
  { x with ended := false, saved := false, kept := [], holdFetch := none, holdWrite := none, refusedW := none, held := []
           waitSector := none }

/-- A slot with the values that firmware writes for a queue: those of its kick filter entry (R331, R353). -/
def HwSlot.named (s : State) (q : Fin 4096) (x : HwSlot) : HwSlot :=
  { x with qid := q, qmask := wd (kftField s q 8 8), part := BitVec.ofNat 8 (kftField s q 16 1)
           prio := BitVec.ofNat 3 (kftField s q 17 1), eprio := BitVec.ofNat 3 (kftField s q 17 1)
           quantum := BitVec.ofNat 16 (kftField s q 18 2), en := true, refused := none }

/-- The map of a queue into a FREE slot whose SCTL and SQMASK stand (R353): the QCB's fields and the shadow registers are
loaded, KVAL is applied as a kick, the pending bit cleared, IDLE entered. A page that is absent is asked for and the map tried
again. -/
def loadSlot (i : Fin 16) (q : Fin 4096) (s : State) : State :=
  let qcb := wd (kftField s q 0 8)
  let s1 := s.updSlot i HwSlot.cleared
  let s0 := clearPending q s1
  match plainRead (slotRequester s1 i) qcb 256 s1 with
  | .error (.absent va k ea) => slotAsk i (.absent va k ea) s1
  | .error (.granule va k) => slotAsk i (.granule va k) s1
  | .error _ => mapFault i qcb s0
  | .ok (bs, s2) =>
    let sh := wd (fieldAt bs 80 8)
    let n := fresh s2
    let m := fresh n.2
    let install := fun (shb : List Byte) (s : State) =>
      let s3 := (clearPending q s).updSlot i fun x =>
        { x with refused := none
                 q := withMarks s q (applyKick (BitVec.ofNat 32 (kftField s q 24 4)) (loadQueue qcb bs shb n.1 m.1)) }
      wakeSlot i (setSlot i .idle s3)
    if sh == 0 then install [] m.2
    else match plainRead (slotRequester m.2 i) sh 256 m.2 with
      | .ok (shb, s3) => install shb s3
      | .error (.absent va k ea) => slotAsk i (.absent va k ea) m.2
      | .error (.granule va k) => slotAsk i (.granule va k) m.2
      | .error _ => queueFault i 4 (install [] m.2)

/-- Maps a queue into a FREE slot (R353): with EN already written, by the values that SCTL and SQMASK hold (R349); else by
firmware, which writes them from the kick filter table. -/
def mapSlot (i : Fin 16) (q : Fin 4096) (s : State) : State :=
  let x := s.slots.get i
  if x.st != .free || (slotOfQueue s q).isSome then s
  else if x.en && x.qid == q then loadSlot i q s
  else if !kftValid s q then s
  else loadSlot i q (s.updSlot i (HwSlot.named s q))

/-- An unmap begins (R353): processing stops at a packet boundary, KVAL := KLIM, and a granted slot lets its quads go (R351). Its
monitor stays, so that a wake sets PEND. -/
def startUnmap (i : Fin 16) (s : State) : State :=
  let x := s.slots.get i
  if x.st == .free || x.st == .unmapping then s
  else
    let s1 := (setKval x.qid x.q.klim.toNat s).updSlot i fun x => { x with en := false, waitSector := none, holdFetch := none }
    post .slotSelection (post (.unmapComplete i) (setSlot i .unmapping s1))

/-- The fetch state as the QCB holds it (R325, R353). -/
def qcbBytes (q : QueueSt) : List (Nat × List Byte) :=
  let e := fun (k : Nat) => match q.ib.reverse[k]? with
    | some v => leBytes 8 v.next.toNat ++ leBytes 4 v.remain.toNat ++ leBytes 4 0
    | none => leBytes 16 0
  [(16, leBytes 4 q.klim.toNat ++ leBytes 4 q.rptr.toNat),
   (96, e 0 ++ e 1 ++ e 2 ++ leBytes 8 q.loop.start.toNat ++ leBytes 4 q.loop.remain.toNat ++ leBytes 1 q.loop.span.toNat ++
     leBytes 1 q.loop.pos.toNat ++ leBytes 1 q.loop.active.toNat ++ leBytes 1 0 ++ leBytes 4 q.job.toNat ++ leBytes 1 q.gpol.toNat ++
     leBytes 1 q.ppol.toNat ++ leBytes 1 q.jpol.toNat ++ leBytes 1 q.skip.toNat)]

/-- Fields stored one after the other; a refused one is a queue fault, and the rest are not stored. -/
def putAll (i : Fin 16) (base : Word) : List (Nat × List Byte) → State → State
  | [], s => s
  | (o, bs) :: t, s => if (s.slots.get i).st == .error then s else putAll i base t (slotPut i (base + wd o) bs s)

/-- An unmap ends (R353) once no launch is outstanding: shadow and fetch state stored, PEND read last and passed to the
pending bitmap, the slot FREE. A refused store is a queue fault, and the slot is in ERROR (R343). -/
def finishUnmap (i : Fin 16) (s : State) : State :=
  let x := s.slots.get i
  if x.st != .unmapping || outstanding s x.qid || x.writesHeld then s
  else
    let q := x.q
    let s1 := putAll i q.qcb (qcbBytes q) s
    let s2 := if q.shsave == 0 then s1 else putAll i q.shsave [(0, q.sh.toList.flatMap fun v => leBytes 8 v.toNat)] s1
    if (s2.slots.get i).writesHeld || (s2.slots.get i).st == .error then s2
    else
      let s3 := if q.pend then setPending x.qid s2 else s2
      let s4 := putQcb i 24 4 (if q.err != 0 then 32 + q.err.toNat * 256 else 0) s3
      if (s4.slots.get i).st == .error then s4 else
      let s5 := (keepMarks i (clearMonitor (fun m => m.who == .slot i) s4)).updSlot i fun x =>
        { x with st := .free, en := false, q := Init.queue, since := s.ctc, refused := none, refusedW := none }
      serveKicks (post .slotSelection s5)

/-- The launches of a queue. -/
def queueLaunches (s : State) (q : Fin 4096) : List LaunchId := (s.launches.filter fun l => l.queue == q).map fun l => l.id

/-- A slot's saved context is given up: what waited in it counts no more. -/
def forgetSaved (i : Fin 16) (s : State) : State :=
  let x := s.slots.get i
  let s1 := s.updSlot i fun x => { x with saved := false, kept := [], keptTiles := [], keptCores := [], restoring := [] }
  if !x.saved then s1
  else
    { s1 with launches := s1.launches.map fun l => if l.queue == x.qid then { l with inflight := 0 } else l }

/-- A reset begins (R354): fetch stops and every level of the queue is cancelled; the slot's held writes stay (R342). -/
def startReset (i : Fin 16) (s : State) : State :=
  let x := s.slots.get i
  if x.st == .free || x.st == .resetting then s
  else
    let s1 := setSlot i .resetting (clearMonitor (fun m => m.who == .slot i) (forgetSaved i s))
    let s2 := s1.updSlot i fun x => { x with holdFetch := none, refused := none, waitSector := none, ended := false }
    post .slotSelection (post (.queueResetComplete i) (cancelLaunches (queueLaunches s2 x.qid) s2))

/-- A reset ends (R354) once the queue's strands are dead, its launches complete and the slot's writes performed. -/
def finishReset (i : Fin 16) (s : State) : State :=
  let x := s.slots.get i
  if x.st != .resetting || outstanding s x.qid || x.writesHeld then s
  else
    let s1 := s.updSlot i fun x =>
      { x with q := { x.q with klim := x.q.rptr, pos := x.q.rptr, ib := [], skip := 0, err := 0, pend := false, stuck := false
                               ahead := [], half := none, gpol := 2, ppol := 2, jpol := 2, job := 0, cancelG := []
                               cancelP := [], jobCancelled := false, loop := Init.queue.loop } }
    serveKicks (post .slotSelection (setSlot i .idle s1))

/-! ## Levels (R15, R346, R347) -/

/-- The launches of the current graph, phase or job instance of a queue. -/
def levelLaunches (s : State) (i : Fin 16) (kind : Nat) : List LaunchId :=
  let x := s.slots.get i
  let here := s.launches.filter fun l => l.queue == x.qid
  (if kind = 1 then here.filter fun l => l.graph == x.q.graph
   else if kind = 2 then here.filter fun l => l.phase == x.q.phase
   else s.launches.filter fun l => l.part == x.part && l.job == x.q.job.toNat).map fun l => l.id

/-- A job that no level has named yet. -/
def JobEnt.blank (job : Nat) : JobEnt := { job := job, outst := 0, done := 0, cancelled := false, faulted := false, pol := 2 }

/-- An entry of a partition's job table (R348), in the memory where firmware holds it; until it has placed a table, the model's
own list stands for it (log 42). -/
def jobEnt (s : State) (p : Fin 64) (job : Nat) : JobEnt :=
  let base := (s.parts.get p).jobBase.toNat
  if base = 0 then ((s.parts.get p).jobs.find? fun e => e.job == job).getD (.blank job)
  else
    let f := fun (o n : Nat) => readPhysN s (base + 32 * job + o) n
    { job := job, outst := f 0 8, done := f 8 8, cancelled := f 16 1 % 2 == 1, faulted := f 16 1 / 2 % 2 == 1
      pol := BitVec.ofNat 8 (f 17 1) }

/-- Updates an entry of a partition's job table (R348). -/
def setJob (p : Fin 64) (job : Nat) (f : JobEnt → JobEnt) (s : State) : State :=
  let e := f (jobEnt s p job)
  let base := (s.parts.get p).jobBase.toNat
  if base = 0 then s.updPart p fun y => { y with jobs := (y.jobs.filter fun x => x.job != job) ++ [e] }
  else writePhys (.home p.val) (base + 32 * job)
    (leBytes 8 e.outst ++ leBytes 8 e.done ++ leBytes 1 (e.cancelled.toNat + 2 * e.faulted.toNat) ++ leBytes 1 e.pol.toNat ++
      leBytes 14 0) s

/-- The queues of a partition that no slot has ever held: their JOBID is still 0 (R325). -/
def freshQueues (s : State) (part : BitVec 8) : List (Fin 4096) :=
  (List.finRange 4096).filter fun q => kftValid s q && BitVec.ofNat 8 (kftField s q 16 1) == part &&
    (marksOf s q).isNone && (slotOfQueue s q).isNone

/-- A cancelled job is marked in every queue of the partition that has it current (R347). -/
def markJob (part job : BitVec 8) (s : State) : State :=
  let new := if job == 0 then freshQueues s part else []
  let m : Marks := { part := part, job := 0, graph := false, phase := false, jobC := false }
  let s := { s with cw := { s.cw with marks := new.foldl (fun (ms : List (Nat × Marks)) (q : Fin 4096) => insertNat ms q.val m) s.cw.marks } }
  { s with
    slots := s.slots.each fun y =>
      if y.st != .free && y.part == part && y.q.job == job then { y with q := { y.q with jobCancelled := true } } else y
    cw := { s.cw with marks := s.cw.marks.map fun e =>
      if e.2.part == part && e.2.job == job then (e.1, { e.2 with jobC := true }) else e } }

/-- A cancel of the queue's current level (R347): launches in flight now, and those dispatched into it until it
closes. A job is cancelled in every queue of the partition that has it current. -/
def cancelLevel (i : Fin 16) (kind : Nat) (s : State) : State :=
  let x := s.slots.get i
  let ls := levelLaunches s i kind
  let s1 := match kind with
    | 1 => s.updSlot i fun x => { x with q := { x.q with cancelG := x.q.cancelG ++ [x.q.graph] } }
    | 2 => s.updSlot i fun x => { x with q := { x.q with cancelP := x.q.cancelP ++ [x.q.phase] } }
    | _ =>
      let s0 := setJob (pIdx x.part) x.q.job.toNat (fun e => { e with cancelled := true }) s
      markJob x.part x.q.job s0
  cancelLaunches ls s1

/-- A CANCEL store for a queue that no slot holds (R347): it has no launch in flight, and its level is marked. -/
def cancelUnmapped (q : Fin 4096) (kind : Nat) (s : State) : State :=
  let old := (marksOf s q).getD
    { part := BitVec.ofNat 8 (kftField s q 16 1), job := 0, graph := false, phase := false, jobC := false }
  let put := fun (m : Marks) (s : State) => { s with cw := { s.cw with marks := insertNat s.cw.marks q.val m } }
  match kind with
  | 1 => put { old with graph := true } s
  | 2 => put { old with phase := true } s
  | _ =>
    let p := pIdx old.part
    let ls := (s.launches.filter fun l => l.part == old.part && l.job == old.job.toNat).map fun l => l.id
    let s1 := setJob p old.job.toNat (fun e => { e with cancelled := true }) (put { old with jobC := true } s)
    cancelLaunches ls (markJob old.part old.job s1)

end Sys2Proof.Machine
end

