-- ==== Sys2Proof/Machine/Sysreg.lean ====
section
/-! DEFINITION. The special registers (spec/02, R53 to R60; spec/17, R368, R369, R378, R380; spec/19, R385). -/

namespace Sys2Proof.Machine

/-! ## What each register reads (R54, R56 to R59) -/

/-- STAT (R56). -/
def statWord (s : State) (a : Agent) : Word :=
  let y := s.ctx a
  let lease := match a with
    | .strand q c k => (s.core q c).holder == some k
    | .hart .. | .weir _ | .cmd _ | .sec => false
  wd ((s.strict a).toNat + 2 * (s.ltm a).toNat + 4 * y.sp.intrap.toNat + 8 * lease.toNat + 16 * y.sp.inregion.toNat +
    32 * y.sp.sstep.toNat)

/-- LNCH (R59); on an engine hart, which the spec gives none, the launch of its head request (DESIGN CHOICE, log 30). -/
def lnchWord (s : State) (a : Agent) : Word :=
  match s.launchOf a with
  | some l => wd (l.hwq.val * 2 ^ 32 + l.lseq.toNat % 2 ^ 32)
  | none => 0

/-- STID (R59); an agent that is no strand reads 0 (log 30). -/
def stidReg (s : State) (a : Agent) : Word :=
  match a with
  | .strand q c k => stidWord s (s.strandId q c k)
  | .hart .. | .weir _ | .cmd _ | .sec => 0

/-- The quad whose number QUAD reads (R59); a copy hart's own, which the spec does not state (DESIGN CHOICE, log 30). -/
def agentQuad : Agent → Option (Fin 64)
  | .strand q _ _ => some q
  | .hart q _ => some q
  | .weir _ | .cmd _ | .sec => none

/-- WBIND (R59). -/
def wbindWord (b : WBind) : Word := wd (b.handle.val + b.tgen.toNat * 64 + if b.valid then 2 ^ 31 else 0)

/-- NETCAP (R59). -/
def netcapWord (s : State) (a : Agent) : Word :=
  wd (32 + 64 * 2 ^ 8 + (s.partQuads (s.partOf a)).length * 2 ^ 16 + 16 * 2 ^ 24)

/-- A register of the strand, its core, its quad, its partition or the chip, below 0x100 (R54). None is unassigned. -/
def lowReg (s : State) (a : Agent) (num : Nat) : Option (Except Stop Word) :=
  let y := s.ctx a
  let loop := fun (i : Nat) =>
    let r := y.arch.loops.toList.getD i Init.reg
    genCheck (s.strict a) y.gen r.data r.tag
  match num with
  | 0x000 => some (.ok (statWord s a))
  | 0x001 => some (.ok (wd y.arch.cmask.toNat))
  | 0x002 => some (.ok (wd y.gen.toNat))
  | 0x003 => some (.ok (stidReg s a))
  | 0x004 => some (.ok (lnchWord s a))
  | 0x005 => some (.ok (match a with | .strand _ c _ => wd c.val | .hart .. | .weir _ | .cmd _ | .sec => 0))
  | 0x006 => some (.ok (match agentQuad a with | some q => wd (s.logical q) | none => 0))
  | 0x007 => some (.ok s.ctc)
  | 0x008 => some (.ok (match a with
      | .strand q c _ => if s.ltm a then (s.core q c).lt.vt else 0
      | .hart .. | .weir _ | .cmd _ | .sec => 0))
  | 0x010 => some (.ok (wd y.sp.trapc.toNat))
  | 0x011 => some (.ok y.sp.trappc)
  | 0x012 => some (.ok y.sp.trapv)
  | 0x013 => some (.ok (s.traph a))
  | 0x018 => some (.ok (wd y.arch.frm.toNat))
  | 0x019 => some (.ok (wd y.arch.fflg.toNat))
  | 0x020 => some (.ok (match a with
      | .strand q c _ => wbindWord (s.core q c).wbind
      | .hart .. | .weir _ | .cmd _ | .sec => 0))
  | 0x021 => some (.ok (wd (y.arch.act.toNat + 4 * y.arch.sact.toNat)))
  | 0x022 => some (loop 0)
  | 0x023 => some (loop 1)
  | 0x024 => some (loop 2)
  | 0x025 => some (loop 3)
  | 0x026 => some (loop 4)
  | 0x027 => some (loop 5)
  | 0x030 => some (.ok (netcapWord s a))
  | 0x031 => some (.ok (wd Config.rev))
  | _ => none

/-- HALTCTL (R368). -/
def haltctlWord (x : Quad) : Word :=
  wd (x.halt.halted.toNat + 2 * x.halt.hold.toNat + 4 * (x.halt.debug).toNat + (if x.owner.toNat / 4 % 2 = 1 then 8 else 0) +
    x.halt.nfault.toNat * 2 ^ 8 + x.halt.hcause.toNat * 2 ^ 24)

/-- TRCCTL (R378). -/
def trcctlWord (t : Trace) : Word :=
  wd (t.en.toNat + 2 * t.branch.toNat + 4 * t.mask.toNat + 8 * t.mem.toNat + 16 * t.faults.toNat + 32 * t.switch.toNat +
    64 * t.full.toNat + 128 * t.frozen.toNat + 256 * t.wrap.toNat + t.postleft * 2 ^ 24 + t.widx * 2 ^ 32)

/-- CHLAk (R40). -/
def chlaWord (v : Option (BitVec 32)) : Word := match v with | some l => wd (l.toNat + 2 ^ 32) | none => 0

/-- A quad- or core-scoped register from 0x100, at its instance (R54). -/
def instReg (s : State) (q : Fin 64) (c : Fin 4) (num : Nat) : Option Word :=
  let x := s.quads.get q
  let y := x.cores.get c
  match num with
  | 0x100 => some (wd x.part.toNat)
  | 0x101 => some (wd x.owner.toNat)
  | 0x102 => some (wd x.qgen.toNat)
  | 0x103 => some (wd y.cgen.toNat)
  | 0x104 => some (haltctlWord x)
  | 0x105 => some x.stopbase
  | 0x106 => some (trcctlWord y.trc)
  | _ =>
    if 0x110 ≤ num ∧ num ≤ 0x117 then some (y.trc.trig.toList.getD (num - 0x110) 0)
    else if 0x140 ≤ num ∧ num ≤ 0x147 then some (chlaWord (y.lt.chla.toList.getD (num - 0x140) none))
    else none

/-- The registers of core scope from 0x100 (R54). -/
def coreScoped (num : Nat) : Bool :=
  num == 0x103 || num == 0x106 || (decide (0x110 ≤ num) && decide (num ≤ 0x117)) || (decide (0x140 ≤ num) && decide (num ≤ 0x147))

/-! ## Writes -/

/-- CHLAk := L at the receiving core and at the sending core's output channel (R40); ignored while V = 0. -/
def writeChla (q : Fin 64) (c : Fin 4) (ch : Fin 8) (v : Word) (s : State) : State :=
  if ((s.core q c).lt.chla.get ch).isNone then s
  else
    let l : BitVec 32 := BitVec.ofNat 32 v.toNat
    let s1 := s.updCore q c fun x => { x with lt := { x.lt with chla := x.lt.chla.set ch.val (some l) ch.isLt } }
    let lid := (s1.core q c).lt.launch
    { s1 with quads := s1.quads.each fun x => { x with cores := x.cores.each fun y =>
        if y.lt.launch == lid then
          { y with lt := { y.lt with out := y.lt.out.each fun o => o.map fun e =>
            if e.q == q && e.c == c && e.ch == ch then { e with l := l } else e } }
        else y } }

/-- TRCCTL := v (R378): the RW fields, FROZEN cleared by a 1, and FULL as WRAP and the records written make it. -/
def writeTrcctl (v : Word) (t : Trace) : Trace :=
  { t with
    en := bitAt v 0, branch := bitAt v 1, mask := bitAt v 2, mem := bitAt v 3, faults := bitAt v 4, switch := bitAt v 5
    wrap := bitAt v 8, frozen := t.frozen && !bitAt v 7, full := !bitAt v 8 && decide (512 ≤ t.recs.length) }

/-- The writable bits of TCTL (R380): POST, STOP, FREEZE, RANGE, FKIND, KIND, EN. -/
def tctlMask : Word := 0xFFFF_FF07

/-- A counter write in debug mode; 0 stores 1 (R60, R102). -/
def countWrite (v : Word) : Gen := let g := BitVec.ofNat 16 v.toNat; if g == 0 then 1 else g

/-- OWNER's fields without its reserved bits (R385). -/
def ownerMask : BitVec 32 := 0xFFFF_3F07

/-- The frozen partitions whose quad set, OWNER or PARTID a change of a quad's registers would change (R389): the one that holds the
quad before, and the one that would hold it. -/
def ownFrozen (s : State) (q : Fin 64) (part : BitVec 8) (owner : BitVec 32) : List (Fin 64) :=
  let x := s.quads.get q
  if x.part == part && x.owner == owner then []
  else ((if x.owner.toNat % 2 = 1 then [pIdx x.part] else []) ++
    if owner.toNat % 2 = 1 && x.part != part then [pIdx part]
    else if owner.toNat % 2 = 1 && x.owner.toNat % 2 = 0 then [pIdx part] else []).filter (isFrozen s)

/-- The security core's write of PARTID or OWNER: refused when it would change a frozen partition (R389). -/
def writeOwn (q : Fin 64) (part : BitVec 8) (owner : BitVec 32) (s : State) : State :=
  match ownFrozen s q part owner with
  | [] => s.updQuad q fun x => { x with part := part, owner := owner }
  | p :: t => (p :: t).foldl (fun s p => refuseConfig p s) s

/-- A write of a quad- or core-scoped register by a master (R4, R54): SC fields take the security core's writes only,
CGEN and QGEN a command core's in debug mode (R60, R102), CHLAk a command core's (R40). A PARTID above 63 is stored modulo 64
(DESIGN CHOICE, log 43). -/
def writeInst (by_ : Master) (q : Fin 64) (c : Fin 4) (num : Nat) (v : Word) (s : State) : State :=
  let x := s.quads.get q
  if !x.enabled then s
  else match num with
    | 0x100 =>
      if by_ != .sec then s else writeOwn q (BitVec.ofNat 8 (v.toNat % 64)) x.owner s
    | 0x101 =>
      if by_ != .sec then s else writeOwn q x.part (BitVec.ofNat 32 v.toNat &&& ownerMask) s
    | 0x102 => if x.halt.debug && by_ == .cmd then s.updQuad q fun x => { x with qgen := countWrite v } else s
    | 0x103 => if x.halt.debug && by_ == .cmd then s.updCore q c fun x => { x with cgen := countWrite v, cgenFresh := false } else s
    | 0x104 =>
      let s1 := s.updQuad q fun x => { x with halt := { x.halt with debug := bitAt v 2 } }
      if bitAt v 1 then (if x.halt.hold then s1 else setHold q s1) else clearHold q s1
    | 0x105 => s.updQuad q fun x => { x with stopbase := v &&& 0x000F_FFFF_FFFF_FC01 }
    | 0x106 => s.updCore q c fun x => { x with trc := writeTrcctl v x.trc }
    | _ =>
      if 0x110 ≤ num ∧ num ≤ 0x117 then
        s.updCore q c fun x => { x with trc := { x.trc with
          trig := x.trc.trig.setIfInBounds (num - 0x110) (if (num - 0x110) % 2 = 1 then v &&& tctlMask else v) } }
      else if 0x140 ≤ num ∧ num ≤ 0x147 ∧ by_ = .cmd then writeChla q c (Fin.ofNat 8 (num - 0x140)) v s
      else s

/-- SETS LCS (R200): SACT as given; ACT[k] is set only when lc_k, ls_k and le_k carry the strand's generation. -/
def writeLcs (g : Gen) (v : Word) (y : Arch) : Arch :=
  let cur := fun (k : Nat) => [k, 2 + k, 4 + k].all fun i => (y.loops.toList.getD i Init.reg).tag == g
  { y with act := BitVec.ofNat 2 ((if bitAt v 0 && cur 0 then 1 else 0) + if bitAt v 1 && cur 1 then 2 else 0)
           sact := BitVec.ofNat 2 (bits v 3 2) }

/-- A write of a register below 0x100; read-only ones ignore it (R4, R54). -/
def writeLow (a : Agent) (num : Nat) (v : Word) (s : State) : State :=
  let loop := fun (i : Nat) (v : Word) => s.updCtx a fun y => { y with arch := y.arch.setLoop i v y.gen }
  let even := v &&& ~~~ (1 : Word)
  match num with
  | 0x001 => s.updArch a fun y => { y with cmask := BitVec.ofNat 32 v.toNat }
  | 0x010 => s.updSpec a fun y => { y with trapc := BitVec.ofNat 8 v.toNat }
  | 0x011 => s.updSpec a fun y => { y with trappc := v }
  | 0x012 => s.updSpec a fun y => { y with trapv := v }
  | 0x018 => s.updArch a fun y => { y with frm := BitVec.ofNat 2 v.toNat }
  | 0x019 => s.updArch a fun y => { y with fflg := BitVec.ofNat 5 v.toNat }
  | 0x021 => s.updCtx a fun y => { y with arch := writeLcs y.gen v y.arch }
  | 0x022 => loop 0 v
  | 0x023 => loop 1 v
  | 0x024 => loop 2 even
  | 0x025 => loop 3 even
  | 0x026 => loop 4 even
  | 0x027 => loop 5 even
  | _ => s

/-! ## GETS and SETS (R53, R55, R201) -/

/-- A core that reaches the registers from 0x100, with its CSEL (R55). -/
def cselOf (s : State) (a : Agent) : Option (BitVec 16) :=
  match a with
  | .cmd x => some (s.cmds.get x).csel
  | .sec => some s.sec.csel
  | .strand .. | .hart .. | .weir _ => none

def cselQuad (v : BitVec 16) : Fin 64 := Fin.ofNat 64 v.toNat
def cselCore (v : BitVec 16) : Fin 4 := Fin.ofNat 4 (v.toNat / 256)
def cselV (v : BitVec 16) : Bool := v.toNat / 2 ^ 15 == 1

/-- The value of a special register for an agent, or what its read raises (R53, R201). -/
def readReg (s : State) (a : Agent) (num : Nat) : Except Stop Word :=
  if num < 0x100 then (match lowReg s a num with | some r => r | none => illegal)
  else match cselOf s a with
    | none => perm 3 0
    | some sel =>
      if num = 0x120 then .ok (wd sel.toNat)
      else if (instReg s (cselQuad sel) (cselCore sel) num).isNone || !cselV sel then illegal
      else if !(s.quads.get (cselQuad sel)).enabled then .ok 0
      else .ok ((instReg s (cselQuad sel) (cselCore sel) num).getD 0)

def setCsel (a : Agent) (v : Word) (s : State) : State :=
  let w : BitVec 16 := BitVec.ofNat 16 v.toNat &&& 0x833F
  match a with
  | .cmd x => { s with cmds := s.cmds.set x.val { s.cmds.get x with csel := w } x.isLt }
  | .sec => { s with sec := { s.sec with csel := w } }
  | .strand .. | .hart .. | .weir _ => s

def masterOf : Agent → Master
  | .sec => .sec
  | .cmd _ => .cmd
  | .strand .. | .hart .. | .weir _ => .agent

/-- The registers a region may set (R225): FRM, FFLG, CMASK, LCS and LC0 to LE1. -/
def regionSets (num : Nat) : Bool := num == 0x018 || num == 0x019 || num == 0x001 || (decide (0x021 ≤ num) && decide (num ≤ 0x027))

/-- SETS (R53, R55, R201); between REGION and COMMIT only the registers of R225. -/
def writeReg (a : Agent) (num : Nat) (v : Word) (s : State) : Except Stop State :=
  if num < 0x100 then
    if (lowReg s a num).isNone then illegal
    else if (s.ctx a).sp.inregion && !regionSets num then illegal
    else .ok (writeLow a num v s)
  else match cselOf s a with
    | none => perm 3 0
    | some sel =>
      if (s.ctx a).sp.inregion then illegal
      else if num = 0x120 then .ok (setCsel a v s)
      else if (instReg s (cselQuad sel) (cselCore sel) num).isNone || !cselV sel then illegal
      else .ok (writeInst (masterOf a) (cselQuad sel) (cselCore sel) num v s)

end Sys2Proof.Machine
end

