-- ==== Sys2Proof/Machine/Regs.lean ====
section
/-! DEFINITION. The device's IO windows: kick pages, the command window and the host register window (R327, R332, R349,
R358, R360, R373, R413, R415, R55). Registers are 8 bytes wide; a store of another size is ignored (log 8). -/

namespace Sys2Proof.Machine

/-! ## What the registers read -/

/-- SCTL (R349). -/
def sctlWord (x : HwSlot) : Word :=
  wd (x.en.toNat + x.prio.toNat * 4 + x.eprio.toNat * 256 + x.st.code * 2 ^ 16 + x.part.toNat * 2 ^ 28 +
    x.quantum.toNat * 2 ^ 36 + x.qid.val * 2 ^ 52)

/-- BIASCMD (R413). -/
def biascmdWord (c : CmdWin) : Word :=
  wd (c.biasTarget.toNat * 2 + c.biasBusy.toNat * 4 + c.biasAuto.toNat * 8 + c.biasGran.toNat * 2 ^ 16)

/-- QSTATE (R327). -/
def qstateWord (s : State) (q : Fin 4096) : Word :=
  match slotOfQueue s q with
  | some i =>
    let x := s.slots.get i
    wd (x.st.code + 16 * (x.q.pend || isPending s q).toNat + if x.q.err != 0 then 32 else 0)
  | none => wd (16 * (isPending s q).toNat)

/-- PFD2 with BAD (R358). -/
def pfd2Word (p : Part) : Word := p.pfd2 ||| if pfdBad p then wd (2 ^ 63) else 0

/-- A special register's place in the command window (R55): quad, core, number. -/
def windowReg (off : Nat) : Option (Fin 64 × Fin 4 × Nat) :=
  if off < 0x10_0000 then none
  else
    let o := off - 0x10_0000
    let q : Fin 64 := Fin.ofNat 64 (o / 0x2000)
    let r := o % 0x2000
    if 64 * 0x2000 ≤ o then none
    else if r < 0x800 then (if coreScoped (0x100 + r / 8) then none else some (q, 0, 0x100 + r / 8))
    else if r < 0x1800 then
      let c : Fin 4 := Fin.ofNat 4 ((r - 0x800) / 0x400)
      let n := 0x100 + (r - 0x800) % 0x400 / 8
      if coreScoped n then some (q, c, n) else none
    else none

/-- The register at an 8-byte place of the command window, when there is one. -/
def cmdReg (s : State) (off : Nat) : Option Word :=
  if 0x1000 ≤ off ∧ off < 0x1400 then
    let x := s.slots.get (Fin.ofNat 16 ((off - 0x1000) / 0x40))
    match (off - 0x1000) % 0x40 with
    | 0 => some (sctlWord x)
    | 8 => some x.qmask
    | 16 => some x.ssave
    | _ => none
  else if off = 0x1400 then some (wd s.cw.ageint.toNat)
  else if off = 0x1408 then some (wd s.cw.pdeadline.toNat)
  else if off = 0x1480 then some (biascmdWord s.cw)
  else if off = 0x1500 then some s.cw.kapbase
  else if off = 0x1508 then some s.cw.kftbase
  else if off = 0x1510 then some s.cw.astbase
  else if off = 0x1518 then some s.cw.btbase
  else if 0x1600 ≤ off ∧ off < 0x1800 then some (s.cw.kpend.toList.getD ((off - 0x1600) / 8) 0)
  else if 0x2000 ≤ off ∧ off < 0x2800 then
    let p := s.parts.get (Fin.ofNat 64 ((off - 0x2000) / 0x20))
    match (off - 0x2000) % 0x20 with
    | 0 => some p.pfd0
    | 8 => some p.pfd1
    | 16 => some (pfd2Word p)
    | _ => none
  else match windowReg off with
    | some (q, c, n) => if (s.quads.get q).enabled then instReg s q c n else (instReg s q c n).map fun _ => 0
    | none => none

/-- The quads that QENABLE shows (R415). -/
def qenableWord (s : State) : Word := wd (bitList 64 fun i => ((s.quads.toList.getD i Init.quad).enabled))

/-- An event-log entry as EVLOG shows it (R415). -/
def evlogWord (e : EvEnt) : Word :=
  wd (e.ctc.toNat * 2 ^ 32 + 2 ^ 31 + e.inj.toNat * 2 ^ 30 + e.block.toNat * 2 ^ 22 + e.pcol.toNat * 2 ^ 15 +
    e.lcol.toNat * 2 ^ 8 + e.quad.toNat)

/-- GRANQ1.KIND (R360). -/
def accessBit : Access → Nat
  | .read => 1 | .write => 2 | .exec => 4

/-- A counter word of a quad (R415). -/
def counterWord (x : Quad) (k : Nat) : Word :=
  match k with
  | 0 => x.retired
  | 1 => x.sweeps
  | 2 => x.dropWrites
  | 3 => x.dropMsgs
  | _ =>
    let y := x.cores.toList.getD (k - 4) Init.core
    wd (y.scrubs.toNat * 2 ^ 32 + y.dropped.toNat)

/-- The register at an 8-byte place of the host register window, when there is one. -/
def hostReg (s : State) (off : Nat) : Option Word :=
  if off = 0 then
    some (wd (popCount 64 (qenableWord s).toNat + Config.rev * 2 ^ 24 + 16 * 2 ^ 32 + Config.memGB * 2 ^ 40))
  else if off = 8 then some (qenableWord s)
  else if off = 0x10 then some (wd (s.mg.bootStage % 16 + s.mg.bootDetail % 16 * 16 + s.mg.bootErr % 256 * 256))
  else if off = 0x3000 then
    some (match s.xl.granq with
      | r :: _ => wd (r.part.toNat + 2 ^ 15 + r.granule.toNat * 2 ^ 16)
      | [] => 0)
  else if off = 0x3008 then
    some (match s.xl.granq with
      | r :: _ => wd (r.pasid.toNat + accessBit r.kind * 2 ^ 20)
      | [] => 0)
  else if off = 0x3010 then some 0
  else if off = 0x3100 then some (match s.mg.evlog with | e :: _ => evlogWord e | [] => 0)
  else if 0x3200 ≤ off ∧ off < 0x3200 + 0x40 * 64 then
    some (counterWord (s.quads.get (Fin.ofNat 64 ((off - 0x3200) / 0x40))) ((off - 0x3200) % 0x40 / 8))
  else none

/-- The 8 bytes at an aligned place of a window. A place that the spec gives no register reads an unknown value outside
the kick pages (log 8). -/
def ioWord (s : State) (pa : Nat) : Word :=
  let unknown := wd (leNat ((List.range 8).map fun i => Config.freeIo (pa + i)))
  match target s pa with
  | .kick =>
    let p := kickPlace s pa
    if p.2 = 0x10 then qstateWord s p.1 else 0
  | .cmdWindow => (cmdReg s (pa - Config.cmdWindow)).getD unknown
  | .hostWindow => (hostReg s (pa - Config.hostWindow)).getD unknown
  | .engWindow => unknown
  | .device | .host => 0

/-- Bytes read from a window. -/
def ioBytes (s : State) (pa len : Nat) : List Byte :=
  (List.range len).map fun i =>
    let a := pa + i
    BitVec.ofNat 8 ((ioWord s (a - a % 8)).toNat / 2 ^ (8 * (a % 8)))

/-! ## What a read does -/

/-- A read of GRANQ0 removes the head report (R360); a waiting report takes its place. The host has taken notice of the GRANULE
interrupt. -/
def popGranq (s : State) : State :=
  match s.xl.granq with
  | [] => s
  | r0 :: t =>
    let out := s.xl.granOut ++ [r0]
    match s.xl.granWait with
    | [] => { s with xl := { s.xl with granq := t, granOut := out, granIrq := false } }
    | r :: w => { s with xl := { s.xl with granq := t ++ [r], granWait := w, granOut := out, granIrq := true } }

/-- A read of EVLOG removes the entry it shows (R415). -/
def popEvlog (s : State) : State := { s with mg := { s.mg with evlog := s.mg.evlog.drop 1 } }

/-- The effect of a read that covers a register's 8 bytes. -/
def ioReadEffect (pa : Nat) (s : State) : State :=
  match target s pa with
  | .hostWindow =>
    if pa = Config.hostWindow + 0x3000 then popGranq s
    else if pa = Config.hostWindow + 0x3100 then popEvlog s else s
  | .device | .host | .kick | .cmdWindow | .engWindow => s

/-! ## What a write does -/

/-- An answer to a GRANULE report (R360): every agent parked on the granule walks again, or is refused (R364). -/
def pageWaiters (s : State) (part : BitVec 8) (pasid : Option (BitVec 20)) (g : BitVec 48) (kind : Option Access) : List Agent :=
  (allStrands ++ otherAgents).filter fun a =>
    (s.ctx a).st == .parked &&
    (match (s.ctx a).why, agentSpace s a with
     | some (.page g' k), some sp =>
       g' == g && sp.part == part && (match pasid with | some p => p == sp.pasid | none => true) &&
         (match kind with | some k' => k == k' | none => true)
     | _, _ => false)

/-- An agent is refused the page it waits for, and issues again (R364). -/
def refuseAgent (s : State) (a : Agent) : State :=
  match (s.ctx a).why with
  | some (.page g k) =>
    let s1 := s.updCtx a fun y => { y with refused := some (g, k) }
    wake a (match a with
      | .hart .. | .weir _ => s1.updHart a fun h => { h with refused := some (g, k), holdAt := none }
      | .strand .. | .cmd _ | .sec => s1)
  | _ => s

/-- An agent leaves its wait and walks again; the walk that finds a leaf places an acquire fence before the access (R384). -/
def retryAgent (s : State) (a : Agent) : State :=
  wake a (match a with
    | .hart .. | .weir _ => s.updHart a fun h => { h with holdAt := none }
    | .strand .. => s.updCtx a fun y => { y with abortAt := none, fence := true }
    | .cmd _ | .sec => s.updCtx a fun y => { y with abortAt := none })

/-- A held granule is one that an answer names. -/
def answers (g : BitVec 48) (kind : Option Access) (x : Option (BitVec 48 × Access)) : Bool :=
  match x with
  | some (g', k') => g' == g && (match kind with | some k => k == k' | none => true)
  | none => false

/-- The slots of a partition that hold a read or a write on a granule. -/
def heldSlots (s : State) (part : BitVec 8) (pasid : Option (BitVec 20)) (g : BitVec 48) (kind : Option Access) : List (Fin 16) :=
  (List.finRange 16).filter fun i =>
    let x := s.slots.get i
    (answers g kind x.holdFetch || answers g kind x.holdWrite) &&
      (match (slotRequester s i).space with
       | some sp => sp.part == part && (match pasid with | some p => p == sp.pasid | none => true)
       | none => false)

/-- What waits on a slot's reads or writes goes on. -/
def slotGoes (i : Fin 16) (s : State) : State :=
  let x := s.slots.get i
  let s1 := if x.writesHeld then s else postAll ((queueLaunches s x.qid).map Instr.launchComplete) s
  match x.st with
  | .unmapping => post (.unmapComplete i) s1
  | .resetting => post (.queueResetComplete i) s1
  | .free => post (.sctlMap i x.qid) s1
  | .preempting => post (.saveComplete i) s1
  | .running => if x.saved then post (.restore i) s1 else s1
  | .waiting => match x.waitSector with
    | some sec => post (.monitorFire sec) (setMonitor { sector := sec, who := .slot i } s1)
    | none => s1
  | .idle | .runnable | .error => s1

/-- The held read of a slot is tried again or refused, and so are its held writes (R342). -/
def answerSlot (refuse : Bool) (g : BitVec 48) (kind : Option Access) (s : State) (i : Fin 16) : State :=
  let x := s.slots.get i
  let s1 := if answers g kind x.holdFetch then
      s.updSlot i fun x => { x with refused := if refuse then x.holdFetch else none, holdFetch := none } else s
  let s2 := if answers g kind x.holdWrite then
      retryHeld i (s1.updSlot i fun x => { x with refusedW := if refuse then x.holdWrite else none }) else s1
  slotGoes i s2

/-- The waiters on a granule walk again or are refused. -/
def answerPage (refuse : Bool) (part : BitVec 8) (pasid : Option (BitVec 20)) (g : BitVec 48) (kind : Option Access) (s : State) : State :=
  let as_ := pageWaiters s part pasid g kind
  let ss := heldSlots s part pasid g kind
  ss.foldl (answerSlot refuse g kind) (as_.foldl (if refuse then refuseAgent else retryAgent) s)

/-- An answer to the reports of a granule (R360): ignored when none names it. -/
def granAnswer (refuse : Bool) (part : BitVec 8) (g : BitVec 48) (s : State) : State :=
  let here := fun (r : PageReq) => r.part == part && r.granule == g
  if (s.xl.granq ++ s.xl.granOut).any here then
    answerPage refuse part none g none
      { s with xl := { s.xl with granOut := s.xl.granOut.filter fun r => !here r } }
  else s

/-- The stream of what the host sends is bound to the partition's TDI, in RUN, and carries the protocol (R395): one of the link's two
streams of that protocol, or for CXL.io a selective one. -/
def boundStream (s : State) (p : Fin 64) (proto : Proto) : Bool :=
  let x := s.md.req.stream
  (s.parts.get p).st == .run && (match x with | .link l out => l == proto && !out | .sel _ => proto == .io) &&
    s.mg.ide.any fun e => e.1 == x && e.2.2.contains p

/-- A partition takes what the host sends it: a confidential one through a bound stream alone (R395). -/
def hostAccepted (s : State) (p : Fin 64) (proto : Proto) : Bool := !partConf s p.val || boundStream s p proto

/-- A write of GRANRESP (R360). -/
def granResponse (v : Word) (s : State) : State :=
  granAnswer (bitAt v 8) (BitVec.ofNat 8 (bits v 7 0)) (BitVec.ofNat 48 (bits v 63 16)) s

/-- A write of SCTL (R349): every RW field takes what is written; then RESET starts a reset, or EN a map or an unmap. With RESET
written, EN does neither; QID and PART of a mapped slot count from then on for whatever reads them (DESIGN CHOICE, log 41). -/
def writeSctl (i : Fin 16) (v : Word) (s : State) : State :=
  let x := s.slots.get i
  let q : Fin 4096 := Fin.ofNat 4096 (bits v 63 52)
  let s1 := s.updSlot i fun y =>
    { y with qid := q, quantum := BitVec.ofNat 16 (bits v 51 36), part := BitVec.ofNat 8 (bits v 35 28)
             prio := BitVec.ofNat 3 (bits v 4 2), en := bitAt v 0 }
  if bitAt v 1 then post (.sctlReset i) s1
  else if x.st == .free then (if bitAt v 0 then post (.sctlMap i q) s1 else s1)
  else if bitAt v 0 then s1 else post (.sctlUnmap i) s1

/-- A granule of the HDM range. -/
def inHdm (s : State) (g : Nat) : Bool := target s (65536 * g) == .device

/-- The byte of the bias table that holds a granule's bit, and the bit (R332). -/
def biasPlace (s : State) (g : Nat) : Nat × Nat :=
  let n := g - s.mm.hdmBase / 65536
  (bits s.cw.btbase 51 18 * 262144 + n / 8, n % 8)

/-- The granule is in host bias (R411). -/
def hostBias (s : State) (g : Nat) : Bool :=
  let p := biasPlace s g
  readPhysN s p.1 1 / 2 ^ p.2 % 2 == 1

/-- A GO of BIASCMD (R413): ignored while BUSY; outside the HDM range, or already in TARGET, it leaves BUSY clear; else a flip is in
progress until it completes. -/
def biasGo (g : BitVec 36) (host : Bool) (s : State) : State :=
  if s.cw.biasBusy || !inHdm s g.toNat || hostBias s g.toNat == host then s
  else post (.biasFlipComplete g host) { s with cw := { s.cw with biasBusy := true } }

/-- A write of BIASCMD (R413). -/
def writeBias (v : Word) (s : State) : State :=
  let g : BitVec 36 := BitVec.ofNat 36 (bits v 51 16)
  let s1 := { s with cw := { s.cw with biasGran := g, biasTarget := bitAt v 1, biasAuto := bitAt v 3 } }
  if bitAt v 0 then biasGo g (bitAt v 1) s1 else s1

/-- The writable bits of PFD0 to PFD2 (R358): all but bit 63 of PFD0 and the top bit of each of its level descriptors. -/
def pfd0Mask : Word := 0x77FF_7FF7_FF7F_F7FF
def pfd1Mask : Word := 0x0000_1FFF_FFFF_FFFF
def pfd2Mask : Word := 0x0FFF

/-- A store of 8 bytes to a place of the command window by a master. Below 0x10_0000 only command cores reach it (R332, R349, R358,
R373, R413). The debug port writes an instance from there up (R55) while HALTCTL.DEBUG of its quad is set. -/
def writeCmd (by_ : Master) (off : Nat) (v : Word) (s : State) : State :=
  if off < 0x100000 ∧ by_ ≠ .cmd then s
  else if 0x1000 ≤ off ∧ off < 0x1400 then
    let i : Fin 16 := Fin.ofNat 16 ((off - 0x1000) / 0x40)
    match (off - 0x1000) % 0x40 with
    | 0 => writeSctl i v s
    | 8 => s.updSlot i fun x => { x with qmask := v }
    | 16 => s.updSlot i fun x => { x with ssave := v &&& 0x000F_FFFF_FFFF_03F1 }
    | _ => s
  else if off = 0x1400 then { s with cw := { s.cw with ageint := BitVec.ofNat 32 v.toNat } }
  else if off = 0x1408 then { s with cw := { s.cw with pdeadline := BitVec.ofNat 32 v.toNat } }
  else if off = 0x1480 then writeBias v s
  else if off = 0x1500 then { s with cw := { s.cw with kapbase := v &&& 0x000F_FFFF_FF00_0001 } }
  else if off = 0x1508 then { s with cw := { s.cw with kftbase := v &&& 0x000F_FFFF_FFFE_0000 } }
  else if off = 0x1510 then { s with cw := { s.cw with astbase := v &&& 0x000F_FFFF_FFFF_0000 } }
  else if off = 0x1518 then { s with cw := { s.cw with btbase := v &&& 0x000F_FFFF_FFFC_0000 } }
  else if 0x1600 ≤ off ∧ off < 0x1800 then
    let i := (off - 0x1600) / 8
    { s with cw := { s.cw with kpend := s.cw.kpend.setIfInBounds i (s.cw.kpend.toList.getD i 0 &&& ~~~ v) } }
  else if 0x2000 ≤ off ∧ off < 0x2800 then
    let p : Fin 64 := Fin.ofNat 64 ((off - 0x2000) / 0x20)
    match (off - 0x2000) % 0x20 with
      | 0 => s.updPart p fun x => { x with pfd0 := v &&& pfd0Mask }
      | 8 => s.updPart p fun x => { x with pfd1 := v &&& pfd1Mask }
      | 16 => s.updPart p fun x => { x with pfd2 := v &&& pfd2Mask }
      | _ => s
  else match windowReg off with
    | some (q, c, n) =>
      if by_ == .debug then
        if (s.quads.get q).halt.debug then writeInst .debug q c n v s
        else if n = 0x104 && s.mg.allowDebug then
          s.updQuad q fun x => { x with halt := { x.halt with debug := bitAt v 2 } }
        else s
      else writeInst by_ q c n v s
    | none => s

/-- A store of 8 bytes to a place of the host register window (R360, R415). -/
def writeHost (off : Nat) (v : Word) (s : State) : State := if off = 0x3010 then granResponse v s else s

/-- A store to a window: KICK takes 4 bytes, every other register 8; another size or a misaligned store is ignored
(R327, R55). -/
def ioWrite (by_ : Master) (pa : Nat) (bs : List Byte) (s : State) : State :=
  let v := wd (leNat bs)
  match target s pa with
  | .kick => kickStore pa bs s
  | .cmdWindow =>
    if pa % 8 = 0 ∧ bs.length = 8 then writeCmd by_ (pa - Config.cmdWindow) v s else s
  | .hostWindow => if pa % 8 = 0 ∧ bs.length = 8 then writeHost (pa - Config.hostWindow) v s else s
  | .device | .host | .engWindow => s

/-! ## Bytes at a physical address, window or memory -/

def loadPiece (s : State) (pa n : Nat) : List Byte := if isMemory s pa then readPhys s pa n else ioBytes s pa n

def loadPieces (s : State) (ps : List (Nat × Nat)) : List Byte := ps.flatMap fun p => loadPiece s p.1 p.2

/-- The effects of reading the pieces: read effects of registers, and the sectors an L1 takes. -/
def loadEffects (v : Via) : List (Nat × Nat) → State → State
  | [], s => s
  | (pa, n) :: t, s =>
    loadEffects v t (if isMemory s pa then foldSectors (lineRead v) (sectors pa n) s
      else if n = 8 ∧ pa % 8 = 0 then ioReadEffect pa s else s)

/-- A byte store at a physical address: memory, or a window register. A write of the security core or a command core that would change a
table entry of a frozen partition has no effect, and is reported (R389). -/
def storePiece (by_ : Master) (v : Via) (pa : Nat) (bs : List Byte) (s : State) : State :=
  if isMemory s pa then
    match (if by_ == .sec || by_ == .cmd then frozenEntries s pa bs else []) with
    | [] => writePhys v pa bs s
    | p :: t => (p :: t).foldl (fun s p => refuseConfig p s) s
  else ioWrite by_ pa bs s

def storeEach (by_ : Master) (v : Via) : List (Nat × List Byte) → State → State
  | [], s => s
  | (pa, bs) :: t, s => storeEach by_ v t (storePiece by_ v pa bs s)

/-- The pieces of a store, in order. A store that reaches a window in more than one piece is misaligned there, and those pieces
are ignored (R327, R55). -/
def storePieces (by_ : Master) (v : Via) (ps : List (Nat × List Byte)) (s : State) : State :=
  storeEach by_ v (if ps.length = 1 then ps else ps.filter fun p => isMemory s p.1) s

end Sys2Proof.Machine
end

