-- ==== Sys2Proof/Machine/Promise.lean ====
section
/-! DEFINITION. Promise words and their DUE (spec/04, R118 to R121). -/

namespace Sys2Proof.Machine

/-- The promise word (R118). -/
def promiseWord (eng : BitVec 5) (seq : BitVec 11) (due : Nat) : Word :=
  wd (eng.toNat * 2 ^ 59 + seq.toNat * 2 ^ 48 + due % 2 ^ 48)

/-- A DUE has passed: (CTC - DUE) mod 2^48 is below 2^47 (R118). -/
def duePassed (s : State) (due : Nat) : Bool := decide ((s.ctc.toNat % 2 ^ 48 + 2 ^ 48 - due % 2 ^ 48) % 2 ^ 48 < 2 ^ 47)

/-- floor(k * f) with f the arithmetic clock in GHz, held in tenths (R119). -/
def perTick (s : State) (k : Nat) : Nat := max 1 (k * s.clock / 10)

/-- DUE of a request of `bytes` bytes (a weir request of `work` = N x K products) counted from `base` (R119). -/
def dueFrom (s : State) (eng : BitVec 5) (base bytes work : Nat) : Nat :=
  if eng.toNat < 16 then base + 300 + ceilDiv bytes (perTick s 32)
  else base + 500 + max (ceilDiv bytes 43) (ceilDiv work (perTick s 64))

/-- The request that an engine and a sequence number name in a strand's list. -/
def findRequest (s : State) (id : StrandId) (eng : BitVec 5) (seq : BitVec 11) : Option Request :=
  match s.hart (engAgent id.q eng) with
  | some h => h.queue.find? fun r => r.stid == id && r.seq == seq
  | none => none

/-- What of a total is left after `row` of `rows` rows. -/
def remaining (total row rows : Nat) : Nat := ceilDiv (total * (rows - row)) (max 1 rows)

/-- TRAPV of LATE (R120): a promise of the same request whose DUE counts the remaining bytes from now, or CTC + 50,000
for one held on a translation fault. -/
def lateWord (s : State) (id : StrandId) (eng : BitVec 5) (seq : BitVec 11) : Word :=
  match findRequest s id eng seq, s.hart (engAgent id.q eng) with
  | some r, some h =>
    let head := match h.queue.head? with | some x => x.order == r.order | none => false
    if head && h.holdAt.isSome then promiseWord eng seq (s.ctc.toNat + 50000)
    else
      let row := if head then h.row else 0
      promiseWord eng seq (dueFrom s eng s.ctc.toNat (remaining r.bytes row r.rows) (remaining r.work row r.rows))
  | _, _ => promiseWord eng seq (dueFrom s eng s.ctc.toNat 0 0)

/-- The identity of the strand an agent is. -/
def ownId (s : State) (a : Agent) : StrandId :=
  match a with
  | .strand q c k => s.strandId q c k
  | .hart .. | .weir _ | .cmd _ | .sec => { q := 0, c := 0, k := 0, gen := 0 }

end Sys2Proof.Machine
end

