-- ==== Sys2Proof/Machine/MemInstr.lean ====
section
/-! DEFINITION. Loads, stores, atomics, waits, regions and cache control: majors 0x18 to 0x1D (spec/08, R210 to R231). -/

namespace Sys2Proof.Machine

/-! ## Shared operations -/

def ldBytes : LdSize → Nat
  | .s8 | .z8 => 1
  | .s16 | .z16 => 2
  | .s32 | .z32 => 4
  | .d64 => 8

def ldSigned : LdSize → Bool
  | .s8 | .s16 | .s32 => true
  | .z8 | .z16 | .z32 | .d64 => false

def stBytes : StSize → Nat
  | .b1 => 1 | .b2 => 2 | .b4 => 4 | .b8 => 8

/-- The value of a load (R211): sext or zext of the bytes read. -/
def ldValue (sz : LdSize) (bs : List Byte) : Word :=
  if ldSigned sz then sext (8 * ldBytes sz) (leNat bs) else wd (leNat bs)

/-- base + sext(off7) * size, modulo 2^64 (R211, R213). -/
def memAddr (base : Word) (off : BitVec 7) (size : Nat) : Word := base + sext 7 off.toNat * wd size

/-- The locations are IO for the agent (R130). -/
def anyIo (s : State) (w : Requester) (ps : List (Nat × Nat)) : Bool := ps.any fun p => domain s w.part p.1 == .io

/-- The bytes an agent loads from the pieces: its own held stores over what memory holds (R212, R225, R226). -/
def ownBytes (s : State) (a : Agent) (ps : List (Nat × Nat)) : List Byte :=
  let h := heldStores s a
  ps.flatMap fun p => overlay h p.1 (loadPiece s p.1 p.2)

/-- Every access of the agent before this one is performed: its windows commit, and the buffer of a committed region drains
(R144, R145). In an open region the buffer waits for its COMMIT, in the window of a canvas or drain form for the form's. -/
def settled (a : Agent) (s : State) : Except Stop State :=
  if (s.ctx a).sp.inregion then .ok s
  else if ((commitAll a s).ctx a).fl.pend.isEmpty then drained a (commitAll a s) else .error .stall

/-- What a form reads when it first issues, and keeps while it waits (R218, R223, R232). -/
def operands (a : Agent) (xs : List Src) (s : State) : Except Stop (List Word) :=
  match (s.ctx a).latch with
  | some ws => .ok ws
  | none => xs.mapM (readSrc s a)

/-- The agent parks with its operands latched. -/
def parkWith (a : Agent) (ws : List Word) (w : Why) (s : State) : Stop := .hold w (s.updCtx a fun y => { y with latch := some ws })

/-- Trace and triggers on a load (1) or store (2) address (R379, R380): a trigger that stops takes effect when the access
retires, as a single step does. -/
def traceAccess (a : Agent) (kind : Nat) (va : Word) (s : State) : State :=
  match a with
  | .strand q c _ =>
    let s1 := traceIf a (fun t => t.mem) (kind + 2) va.toNat s
    if noTriggers (s1.core q c).trc then s1
    else
      let r := runTriggers q c kind va 0 [0, 1, 2, 3] s1
      if r.2 then r.1.updSpec a fun p => { p with sstep := true } else r.1
  | .hart .. | .weir _ | .cmd _ | .sec => s

/-- A load's value and the state after its read (R210, R211). -/
def loadValue (sz : LdSize) (acq : Bool) (a : Agent) (va : Word) (s : State) : Except Stop (Word × State) := do
  let n := ldBytes sz
  check (!acq || va.toNat % n == 0) (alignF va)
  let w := requesterOf s a
  let r ← resolve w .r .read va n s
  check (!((r.2.ctx a).sp.inregion && anyIo r.2 w r.1)) (perm 4 va)
  check (!poisoned r.2 r.1) (memerr (memCause r.2 r.1) va)
  let t ← if acq || anyIo r.2 w r.1 then settled a r.2 else .ok r.2
  .ok (ldValue sz (ownBytes t a r.1), traceAccess a 1 va (loadEffects (w.via (l1Of a) va t) r.1 t))

/-- A store: held while the strand has uncommitted instructions or an open region, else performed, behind the buffer of a
committed region (R214, R172, R225, R226). -/
def putStore (a : Agent) (v : Via) (ps : List (Nat × List Byte)) (s : State) : Except Stop State :=
  let f := (s.ctx a).fl
  if (s.ctx a).sp.inregion && decide (64 ≤ f.rbuf.length + f.wst.length) then regovf
  else match f.pend.getLast? with
    | some p =>
      if ps.all fun x => isMemory s x.1 || (s.ctx a).sp.inregion then
        .ok (s.updFlight a fun f => { f with wst := f.wst ++ [(p.id, .store v ps)] })
      else do
        let t ← settled a s
        .ok (storePieces (masterOf a) v ps t)
    | none =>
      if (s.ctx a).sp.inregion then .ok (s.updFlight a fun f => { f with rbuf := f.rbuf ++ [.store v ps] })
      else do
        let t ← drained a s
        .ok (storePieces (masterOf a) v ps t)

/-! ## ld, st (R211 to R214) -/

/-- ld (R211, R212). -/
def execLd (sz : LdSize) (acq : Bool) (d : Dst) (base : Src) (off : BitVec 7) (la : Fin 16) (s : State) :
    Host.Outcome State Fault Refusal :=
  perform (.ld sz acq d base off la) (fun ag s => do
    let b ← readSrc s ag base
    let r ← loadValue sz acq ag (memAddr b off (ldBytes sz)) s
    .ok (longResult r.2 ag la.val d r.1 0)) s

/-- st (R213, R214). -/
def execSt (sz : StSize) (rel : Bool) (data base : Src) (off : BitVec 7) (s : State) : Host.Outcome State Fault Refusal :=
  perform (.st sz rel data base off) (fun ag s => do
    let b ← readSrc s ag base
    let y ← readSrc s ag data
    let n := stBytes sz
    let va := memAddr b off n
    check (!rel || va.toNat % n == 0) (alignF va)
    let w := requesterOf s ag
    let r ← resolve w .w .write va n s
    putStore ag (w.via (l1Of ag) va r.2) (withBytes r.1 (leBytes n y.toNat)) (traceAccess ag 2 va r.2)) s

/-! ## amo (R215, R216) -/

/-- Bytes of an atomic. -/
def amoBytes (wide : Bool) : Nat := if wide then 8 else 4

/-- The place of an atomic (R210): aligned, translated for a write, in memory. On a kick page or a register window it raises PERM
cause 4, as on IO in host memory; the spec names no outcome there (DESIGN CHOICE, log 45). -/
def amoPlace (wide : Bool) (a : Agent) (va : Word) (s : State) : Except Stop (Nat × State) := do
  let n := amoBytes wide
  check (va.toNat % n == 0) (alignF va)
  let r ← resolve (requesterOf s a) .atomic .write va n s
  check (r.1.all fun p => isMemory s p.1) (perm 4 va)
  check (!poisoned r.2 r.1) (memerr (memCause r.2 r.1) va)
  .ok (((r.1.head?.map fun p => p.1).getD 0), r.2)

/-- One indivisible read and write at the home slice (R215), with the leaf's cache level (R361): the old value, and the state with
`f old` in its place. -/
def amoAt (wide : Bool) (f : Nat → Nat) (a : Agent) (va : Word) (s : State) : Except Stop (Nat × State) := do
  let n := amoBytes wide
  let t ← drained a s
  let p ← amoPlace wide a va t
  let old := readPhysN p.2 p.1 n
  .ok (old, traceAccess a 1 va (writePhys ((requesterOf s a).via none va p.2) p.1 (leBytes n (f old)) p.2))

/-- Every atomic but cas. -/
def amoForm (wide : Bool) (d : Dst) (a : Fin 16) (b : Src) (la : Fin 16) (f : Nat → Nat → Nat → Nat) (ag : Agent) : Act := fun s => do
  let va ← readSrc s ag (.n a)
  let y ← readSrc s ag b
  let k := 8 * amoBytes wide
  let r ← amoAt wide (fun old => f k old (y.toNat % 2 ^ k)) ag va s
  .ok (windowResult r.2 ag la.val d (wd r.1))

/-- The smaller or larger of two values of `k` bits, signed (R215). -/
def amoMinS (k x y : Nat) : Nat := if sInt k x < sInt k y then x else y
def amoMaxS (k x y : Nat) : Nat := if sInt k x < sInt k y then y else x

/-- amo.add (R215). -/
def execAmoAdd (wide acq rel : Bool) (d : Dst) (a : Fin 16) (b : Src) (la : Fin 16) (s : State) : Host.Outcome State Fault Refusal :=
  perform (.amoAdd wide acq rel d a b la) (amoForm wide d a b la (fun k x y => (x + y) % 2 ^ k)) s

/-- amo.and (R215). -/
def execAmoAnd (wide acq rel : Bool) (d : Dst) (a : Fin 16) (b : Src) (la : Fin 16) (s : State) : Host.Outcome State Fault Refusal :=
  perform (.amoAnd wide acq rel d a b la) (amoForm wide d a b la (fun _ x y => x &&& y)) s

/-- amo.or (R215). -/
def execAmoOr (wide acq rel : Bool) (d : Dst) (a : Fin 16) (b : Src) (la : Fin 16) (s : State) : Host.Outcome State Fault Refusal :=
  perform (.amoOr wide acq rel d a b la) (amoForm wide d a b la (fun _ x y => x ||| y)) s

/-- amo.xor (R215). -/
def execAmoXor (wide acq rel : Bool) (d : Dst) (a : Fin 16) (b : Src) (la : Fin 16) (s : State) : Host.Outcome State Fault Refusal :=
  perform (.amoXor wide acq rel d a b la) (amoForm wide d a b la (fun _ x y => x ^^^ y)) s

/-- amo.min (R215). -/
def execAmoMin (wide acq rel : Bool) (d : Dst) (a : Fin 16) (b : Src) (la : Fin 16) (s : State) : Host.Outcome State Fault Refusal :=
  perform (.amoMin wide acq rel d a b la) (amoForm wide d a b la (amoMinS)) s

/-- amo.max (R215). -/
def execAmoMax (wide acq rel : Bool) (d : Dst) (a : Fin 16) (b : Src) (la : Fin 16) (s : State) : Host.Outcome State Fault Refusal :=
  perform (.amoMax wide acq rel d a b la) (amoForm wide d a b la (amoMaxS)) s

/-- amo.minu (R215). -/
def execAmoMinu (wide acq rel : Bool) (d : Dst) (a : Fin 16) (b : Src) (la : Fin 16) (s : State) : Host.Outcome State Fault Refusal :=
  perform (.amoMinu wide acq rel d a b la) (amoForm wide d a b la (fun _ x y => min x y)) s

/-- amo.maxu (R215). -/
def execAmoMaxu (wide acq rel : Bool) (d : Dst) (a : Fin 16) (b : Src) (la : Fin 16) (s : State) : Host.Outcome State Fault Refusal :=
  perform (.amoMaxu wide acq rel d a b la) (amoForm wide d a b la (fun _ x y => max x y)) s

/-- amo.swap (R215). -/
def execAmoSwap (wide acq rel : Bool) (d : Dst) (a : Fin 16) (b : Src) (la : Fin 16) (s : State) : Host.Outcome State Fault Refusal :=
  perform (.amoSwap wide acq rel d a b la) (amoForm wide d a b la (fun _ _ y => y)) s

/-- amo.cas (R215): written only when the old value is the expected one, which dst holds; a failed one only reads. -/
def execAmoCas (wide acq rel : Bool) (d : Fin 16) (a : Fin 16) (b : Src) (la : Fin 16) (s : State) : Host.Outcome State Fault Refusal :=
  perform (.amoCas wide acq rel d a b la) (fun ag s => do
    let va ← readSrc s ag (.n a)
    let y ← readSrc s ag b
    let e ← readSrc s ag (.n d)
    let n := amoBytes wide
    let k := 8 * n
    let t ← drained ag s
    let p ← amoPlace wide ag va t
    let old := readPhysN p.2 p.1 n
    let v := (requesterOf s ag).via none va p.2
    let s1 := if old = e.toNat % 2 ^ k then writePhys v p.1 (leBytes n (y.toNat % 2 ^ k)) p.2 else loadEffects v [(p.1, n)] p.2
    .ok (windowResult (traceAccess ag 1 va s1) ag la.val (.n d) (wd old))) s

/-! ## wait (R217 to R223) -/

/-- wait.a (R218, R219): an acquire read with a monitor armed, behind every earlier access of the agent (R144); it parks until the
monitor fires. The address and the expected value are read once. -/
def execWaita (d : Dst) (a b : Src) (s : State) : Host.Outcome State Fault Refusal :=
  perform (.waita d a b) (fun ag s => do
    let ws ← operands ag [a, b] s
    let va := ws.getD 0 0
    check (va.toNat % 8 == 0) (alignF va)
    let w := requesterOf s ag
    let r ← resolve w .r .read va 8 s
    check (!anyIo r.2 w r.1) (perm 4 va)
    check (!poisoned r.2 r.1) (memerr (memCause r.2 r.1) va)
    let t ← settled ag r.2
    let v := wd (leNat (ownBytes t ag r.1))
    let s1 := clearMonitor (fun m => m.who == .agent ag) (traceAccess ag 1 va (loadEffects (w.via (l1Of ag) va t) r.1 t))
    if v != ws.getD 1 0 then .ok (writeDst s1 ag d v)
    else
      let sector := ((r.1.head?.map fun p => p.1).getD 0) / 64
      .error (parkWith ag ws (.waita sector) (setMonitor { sector := sector, who := .agent ag } s1))) s

/-- A promise names an engine that can exist (R118, R220). -/
def promiseEngOk (p : Word) : Bool := bits p 63 59 = 0 || bits p 63 59 = 1 || decide (16 ≤ bits p 63 59)

/-- LATE is raised at a passed promise: there is a handler and none runs (R120, R204, R205). -/
def lateAllowed (s : State) (a : Agent) : Bool := !(s.ctx a).sp.intrap && s.traph a != 0

/-- wait.p (R220, R221, R120): a request whose cancellation or fault it observes leaves the outstanding list. -/
def execWaitp (d : Dst) (a : Src) (s : State) : Host.Outcome State Fault Refusal :=
  perform (.waitp d a) (fun ag s => do
    let ws ← operands ag [a] s
    let p := ws.getD 0 0
    check (promiseEngOk p) illegal
    let eng : BitVec 5 := BitVec.ofNat 5 (bits p 63 59)
    let seq : BitVec 11 := BitVec.ofNat 11 (bits p 58 48)
    match (s.ctx ag).outst.find? fun e => e.eng == eng && e.seq == seq with
    | none => .ok (writeDst s ag d (completionWord eng seq 0))
    | some e =>
      let off := s.updCtx ag fun y => { y with outst := y.outst.filter fun x => !(x.eng == eng && x.seq == seq) }
      match e.st with
      | .cancelled => .ok (writeDst off ag d (completionWord eng seq 1))
      | .faulted k c v => .error (.faultIn k c v off)
      | .running =>
        if duePassed s (bits p 47 0) && lateAllowed s ag then
          .error (.trap 1 (lateWord s (ownId s ag) eng seq) (s.arch ag).pc)
        else .error (parkWith ag ws (.waitp (BitVec.ofNat 48 (bits p 47 0))) s)) s

/-- wait.park (R222, R223). -/
def execPark (d : Dst) (a b : Src) (s : State) : Host.Outcome State Fault Refusal :=
  perform (.park d a b) (fun ag s => do
    let ws ← operands ag [a, b] s
    let m := ws.getD 0 0
    let t := ws.getD 1 0
    check (m.toNat < 2 ^ 16) illegal
    let mask : BitVec 16 := BitVec.ofNat 16 m.toNat
    let x := (s.arch ag).deps &&& mask
    if mask == 0 && t == 0 then .ok (writeDst s ag d 0)
    else if x != 0 || (t != 0 && !s.ctc.ult t) then
      .ok (writeDst (s.updArch ag fun y => { y with deps := y.deps &&& ~~~ mask }) ag d (wd x.toNat))
    else .error (parkWith ag ws (.deposit t) s)) s

/-! ## region (R224 to R227) -/

/-- region.begin (R224): waits for an earlier region's buffer, then takes the checkpoint. -/
def execRegion (s : State) : Host.Outcome State Fault Refusal :=
  perform .region (fun ag s => do
    let t ← drained ag s
    .ok (t.updCtx ag fun y =>
      { y with sp := { y.sp with inregion := true }, fl := { y.fl with ckpt := some y.arch, rbuf := [] } })) s

/-- region.commit (R226). -/
def execCommit (s : State) : Host.Outcome State Fault Refusal :=
  perform .commit (fun ag s =>
    if !(s.ctx ag).sp.inregion then illegal
    else .ok (post (.regionBufferDrain ag) (s.updCtx ag fun y =>
      { y with sp := { y.sp with inregion := false }
               fl := { y.fl with ckpt := none, drain := y.fl.drain ++ y.fl.rbuf, rbuf := [] } }))) s

/-! ## cache (R228 to R231) -/

/-- The end of a range of cache maintenance (R229): at most 2^64 - 1. -/
def rangeEnd (a l : Word) : Nat := min (a.toNat + l.toNat) (2 ^ 64 - 1)

/-- The sectors of the caches that hold a piece of the range within one granule, when the granule is mapped for the agent;
an unmapped or denied granule, and an IO one, is skipped (R229). -/
def heldSectors (s : State) (w : Requester) (va : Word) (len : Nat) : List Nat :=
  match xlatPiece w .read va s with
  | (.ok pa, _) =>
    if allowed s w.master w.part w.command .r pa && isMemory s pa then
      (s.mm.lines.filter fun l => decide (pa / 64 ≤ l.sector) && decide (l.sector ≤ (pa + len - 1) / 64)).map fun l => l.sector
    else []
  | (.error _, _) => []

/-- Works through a range granule by granule (R229). A granule that the access table denies is passed over like an unmapped one,
as nothing of the range faults; the spec does not name that case (DESIGN CHOICE, log 45). -/
def maintain (f : Nat → State → State) (w : Requester) (stop : Nat) : Nat → Nat → State → State
  | 0, _, s => s
  | fuel + 1, at_, s =>
    if stop ≤ at_ then s
    else
      let next := (at_ / 65536 + 1) * 65536
      let len := min stop next - at_
      maintain f w stop fuel next (foldSectors f (heldSectors s w (wd at_) len) s)

/-- A maintenance form (R229, R230): the effect, then the strand parks until CACHE_MAINTENANCE_COMPLETE. -/
def maintainForm (a b : Src) (f : Agent → Nat → State → State) (ag : Agent) : Act := fun s => do
  let base ← readSrc s ag a
  let len ← readSrc s ag b
  if len == 0 || (s.ctx ag).answer.isSome then .ok s
  else
    let stop := rangeEnd base len
    let t ← drained ag s
    let s1 := maintain (f ag) (requesterOf s ag) stop (len.toNat / 65536 + 2) base.toNat t
    .error (.hold .flush (post (.cacheMaintenanceComplete ag) s1))

/-- cache.flushr (R229). -/
def execFlushr (a b : Src) (s : State) : Host.Outcome State Fault Refusal :=
  perform (.flushr a b) (maintainForm a b fun _ => flushSector) s

/-- cache.invr (R230): the core's own copies. -/
def execInvr (a b : Src) (s : State) : Host.Outcome State Fault Refusal :=
  perform (.invr a b) (maintainForm a b fun ag => match ag with
    | .strand q c _ => dropL1 fun q' c' => q' == q && c' == c
    | .hart .. | .weir _ | .cmd _ | .sec => fun _ s => s) s

/-- cache.pref (R230): the sector into the core's L1; never a fault. -/
def execPref (a : Src) (s : State) : Host.Outcome State Fault Refusal :=
  perform (.pref a) (fun ag s => do
    let va ← readSrc s ag a
    let w := requesterOf s ag
    match xlatPiece w .read va s with
    | (.ok pa, s1) =>
      if allowed s1 w.master w.part w.command .r pa && domain s1 w.part pa != .io then .ok (lineRead (w.via (l1Of ag) va s1) (pa / 64) s1)
      else .ok s
    | (.error _, _) => .ok s) s

/-- cache.fence (R231): the model performs a strand's accesses in program order but for the buffer of a committed region (log 5),
which a release or full fence waits for; an acquire or full fence drops the copies that the core does not own. -/
def execFence (kind : FenceKind) (s : State) : Host.Outcome State Fault Refusal :=
  perform (.fence kind) (fun ag s => do
    let t ← if kind = .acq then .ok s else drained ag s
    .ok (if kind = .rel then t else dropClean ag t)) s

end Sys2Proof.Machine
end

