-- ==== Sys2Proof/Machine/Easel.lean ====
section
/-! DEFINITION. Issue, grant and completion of the easel forms: lanes, canvas and drain (R123, R246, R267). A form takes
its whole effect when its sub-unit is granted to it (log 6). -/

namespace Sys2Proof.Machine

/-- A scoreboard range that a form takes (R107), or, with `entry` false, only waits for (R78). -/
structure Claim where
  tile : Nat
  gen : Gen
  lo : Nat
  hi : Nat
  write : Bool
  entry : Bool := true
  deriving DecidableEq, Repr

/-- The handles of a form with the tiles they named when it issued (R268). -/
abbrev Handles := List (Fin 64 × Nat × Tile)

/-- An easel form: its sub-unit, the named sources it reads at issue, the handles it resolves there, the ranges it claims, and
its effect on those operands and tiles. -/
structure EForm where
  unit : SubUnit
  srcs : List Src
  handles : List Word → List (Fin 64) := fun _ => []
  claims : List Word → Handles → Agent → State → List Claim
  effect : List Word → Handles → Agent → Act

/-- The named-register sources of a form, read in order (R44, R246). -/
def readAll (s : State) (a : Agent) : List Src → Except Stop (List Word)
  | [] => .ok []
  | f :: fs => do
    let v ← readSrc s a f
    let vs ← readAll s a fs
    .ok (v :: vs)

/-! ## Handles (R94, R268) -/

def quadOf (s : State) : Agent → Quad
  | .strand q _ _ | .hart q _ => s.quads.get q
  | .weir _ | .cmd _ | .sec => Init.quad

def updQuadOf (a : Agent) (f : Quad → Quad) (s : State) : State :=
  match a with
  | .strand q _ _ | .hart q _ => s.updQuad q f
  | .weir _ | .cmd _ | .sec => s

/-- A handle of the agent's launch on its quad (R94, R268). -/
def handleOf (s : State) (a : Agent) (h : Nat) : Option (Nat × Tile) :=
  match s.launchOf a with
  | some l => (quadOf s a).find l (Fin.ofNat 64 h)
  | none => none

/-- The tiles of a form's handles as it issues; one that is not bound has none (R268). -/
def resolveHandles (s : State) (a : Agent) (hs : List (Fin 64)) : Handles :=
  hs.filterMap fun h => (handleOf s a h.val).map fun p => (h, p)

/-- The tile an issued form knows still stands in its entry; a scrub sweep or a bump may have changed its generation. -/
def standing (x : Quad) (e : Nat) (t : Tile) : Option Tile :=
  match x.entry e with
  | some u => if u.serial == t.serial then some u else none
  | none => none

/-- The tile of a handle of an issued form: the tile that it named at the issue. One freed since is known by what it was, so its
granules read as stale (R45, R101; DESIGN CHOICE, log 46). -/
def heldTile (ts : Handles) (a : Agent) (s : State) (h : Nat) : Except Stop (Nat × Tile) :=
  match ts.find? fun p => p.1.val == h with
  | some (_, e, t) => .ok (e, (standing (quadOf s a) e t).getD t)
  | none => shape

/-- A write to a tile of an issued form; one that the tile's free has overtaken is dropped (R101; DESIGN CHOICE, log 46). -/
def writeHeld (a : Agent) (p : Nat × Tile) (f : Quad → Quad) (s : State) : State :=
  if (standing (quadOf s a) p.1 p.2).isSome then updQuadOf a f s else s

/-! ## The grant (R108, R109, R123) -/

/-- Every range may begin and the scoreboard has room (R108, R109). -/
def claimsBegin (x : Quad) (cs : List Claim) : Bool := cs.all fun c => mayBegin x c.tile c.gen c.lo c.hi c.write

/-- The entries a form makes. -/
def entryCount (cs : List Claim) : Nat := (cs.filter fun c => c.entry).length

/-- A form's sub-unit can take it, the easel has not stopped, and its ranges may begin (R123, R367). -/
def grantable (q : Fin 64) (f : EForm) (ops : List Word) (ts : Handles) (a : Agent) (s : State) : Bool :=
  let x := s.quads.get q
  let cs := f.claims ops ts a s
  !x.sweeping && !x.busy.contains f.unit && !engineStopped s (pIdx x.part) (.easel q) && claimsBegin x cs && sbRoom x (entryCount cs)

/-- The entries of a list of claims, in their order. -/
def makeEntries (o : SbOwner) : List Claim → Quad → Quad
  | [], x => x
  | c :: cs, x => makeEntries o cs (if c.entry then makeEntry c.tile c.gen c.lo c.hi c.write o x else x)

/-- A grant: the entries are made, the effect is taken, the sub-unit is busy until its completion (R123). -/
def grantForm (q : Fin 64) (c : Fin 4) (f : EForm) (ops : List Word) (ts : Handles) (a : Agent) (s : State) : Except Stop State := do
  let s1 ← f.effect ops ts a s
  .ok (post (.easelSubunitComplete q f.unit) (s1.updQuad q fun x =>
    makeEntries (.easel f.unit) (f.claims ops ts a s) { x with rr := c + 1, busy := x.busy ++ [f.unit] }))

/-! ## The issue (R123, R246, R267) -/

/-- The strand of a lane form takes the lease when it is free (R48); none says that another strand holds it. -/
def takeLease (q : Fin 64) (c : Fin 4) (k : Fin 24) (lane : Bool) (s : State) : Option State :=
  if !lane then some s
  else match (s.core q c).holder with
    | none => some (s.updCore q c fun x => x.grantLease k)
    | some j => if j == k then some s else none

/-- The strand waits for the lease behind those that already wait (R48). -/
def awaitLease (q : Fin 64) (c : Fin 4) (k : Fin 24) (s : State) : State :=
  s.updCore q c fun x => { x with lwait := (x.lwait.filter fun j => j != k) ++ [k] }

/-- The entry of a form that issues: what it has read, and what a trap brings back. -/
def dqEntry (k : Fin 24) (i : Instr) (ops : List Word) (ts : Handles) (y : Ctx) (ph : DqPhase) : DqEnt :=
  { k := k, ins := i, ops := ops, tiles := ts, loops := y.arch.loops, act := y.arch.act, pc := y.arch.pc, wins := y.fl.wins
    waited := [], phase := ph }

/-- A canvas or drain form with a nonzero la stands uncommitted until it retires, and its window opens (R169, R170, R246); a
back-edge taken at the form closes it at once. -/
def openForm (i : Instr) (a : Agent) (edge : Bool) (s : State) : State :=
  let la := (shapeOf i).la
  if la = 0 || edge then s
  else s.updCtx a fun y =>
    let id := y.fl.nextId
    let ws := y.fl.wins ++ [{ id := id, left := la, dst := .none }]
    { y with fl := { y.fl with
      pend := y.fl.pend ++ [{ id := id, dst := .none, val := 0, flags := 0, ckpt := y.arch, wins := ws, form := true }]
      wins := ws, nextId := id + 1 } }

/-- The form has issued: its entry stands in its core's queue, and the strand goes on (R123, R246). -/
def issueForm (q : Fin 64) (c : Fin 4) (e : DqEnt) (s : State) : State :=
  let a : Agent := .strand q c e.k
  used a (openForm e.ins a (s.arch a).backEdge (advance e.ins a (s.updCore q c fun x => { x with dq := x.dq ++ [e] })))

/-- A form whose operands are read: it is granted in the same moment when it can be, and waits in its core's queue otherwise; with
the scoreboard full its strand parks (R109, R123). `s1` is the state before it, `s2` the state with its lease. -/
def placeForm (i : Instr) (f : EForm) (q : Fin 64) (c : Fin 4) (k : Fin 24) (ops : List Word) (s s2 : State) :
    Host.Outcome State Fault Refusal :=
  let a : Agent := .strand q c k
  let x := s2.quads.get q
  let ts := resolveHandles s2 a (f.handles ops)
  if 16 ≤ (waitingForms (s2.core q c)).length then .next s
  else if dqsEmpty x && grantable q f ops ts a s2 then
    match grantForm q c f ops ts a s2 with
    | .ok s3 => .next (issueForm q c (dqEntry k i ops ts (s.ctx a) .granted) s3)
    | .error e => stopBehind a e (pcTrigger s a).1 s
  else if !x.sweeping && !sbRoom x (entryCount (f.claims ops ts a s2)) then stopBehind a (.park .scoreboard) (pcTrigger s a).1 s
  else .next (post (.easelGrant q) (issueForm q c (dqEntry k i ops ts (s.ctx a) .waiting) s2))

/-- An easel form issues: it takes its lease, reads its named sources and resolves its handles (R48, R246, R268). -/
def performEasel (i : Instr) (f : EForm) (s : State) : Host.Outcome State Fault Refusal :=
  let a := s.md.who
  match a with
  | .strand q c k =>
    match gate i a s with
    | .stall s1 => .next s1
    | .stop e s1 => stopBehind a e s1 s
    | .go s1 => match takeLease q c k (isLane (shapeOf i).major) s1 with
      | none => stopBehind a (.hold .lease (awaitLease q c k (commitAll a (pcTrigger s a).1))) s s
      | some s2 => match readAll s2 a f.srcs with
        | .error e => stopBehind a e (pcTrigger s a).1 s
        | .ok ops => placeForm i f q c k ops s s2
  | .hart .. | .weir _ | .cmd _ | .sec =>
    match gate i a s with
    | .stall s1 => .next s1
    | .stop e s1 => stopped a e s1
    | .go s1 => .next s1

/-! ## Faults of the requests that an instruction waits on (R121) -/

/-- An entry holds back a claim (R108). -/
def holdsBack (d : SbEnt) (c : Claim) : Bool := d.tile == c.tile && d.gen == c.gen && conflicts c.lo c.hi c.write d

/-- A request of the strand's own that the instruction has waited on has faulted: the fault is delivered here, once (R121). -/
def waitedFault (waited : List (BitVec 5 × BitVec 11)) (y : Ctx) : Option (OutReq × Nat × Nat × Word) :=
  y.outst.findSome? fun e => match e.st with
    | .faulted k c v => if waited.contains (e.eng, e.seq) then some (e, k, c, v) else none
    | .running | .cancelled => none

/-- A form that has waited on requests observes those that were cancelled: they leave the outstanding list (R220). -/
def dropCancelled (a : Agent) (waited : List (BitVec 5 × BitVec 11)) (s : State) : State :=
  s.updCtx a fun y => { y with outst := y.outst.filter fun e => !(e.st == .cancelled && waited.contains (e.eng, e.seq)) }

/-- The request leaves the outstanding list as its fault is delivered (R121). -/
def deliverFault (a : Agent) (e : OutReq) (s : State) : State := s.updCtx a fun y => { y with outst := y.outst.filter fun d => d != e }

end Sys2Proof.Machine
end

