-- ==== Sys2Proof/Machine/Lanes.lean ====
section
/-! DEFINITION. Lane operations: majors 0x20 to 0x25 and the L16 words (spec/09, R243 to R266). -/

namespace Sys2Proof.Machine

/-! ## Reading and writing vector registers and masks (R243 to R245, R49, R50) -/

/-- The 96 lanes of a vector register. -/
abbrev Lanes := Vector (BitVec 32) 96

def laneCore (s : State) : Agent → Core
  | .strand q c _ => s.core q c
  | .hart .. | .weir _ | .cmd _ | .sec => Init.core

/-- read_w (R244). -/
def readW (s : State) (a : Agent) (x : Fin 8) : Except Stop Lanes :=
  let y := laneCore s a
  let r := y.w.get x
  if r.tag == y.leaseGen then .ok r.data
  else if s.strict a then uninit else .ok (Vector.replicate 96 0)

/-- read_m (R244): m0 is all ones. -/
def readM (s : State) (a : Agent) (k : Fin 8) : Except Stop (BitVec 96) :=
  if k == 0 then .ok (BitVec.allOnes 96)
  else
    let y := laneCore s a
    let r := y.m.get k
    if r.tag == y.leaseGen then .ok r.data
    else if s.strict a then uninit else .ok 0

/-- A field the form reads, or zeros where it reads none. -/
def readWOpt (s : State) (a : Agent) : Option (Fin 8) → Except Stop Lanes
  | some x => readW s a x
  | none => .ok (Vector.replicate 96 0)

def updLaneCore (a : Agent) (f : Core → Core) (s : State) : State :=
  match a with
  | .strand q c _ => s.updCore q c f
  | .hart .. | .weir _ | .cmd _ | .sec => s

/-- write_w (R49): a stale register is zero-filled first, the lanes of the mask are written, the tag becomes current. -/
def writeW (a : Agent) (d : Fin 8) (M : BitVec 96) (v : Lanes) (s : State) : State :=
  updLaneCore a (fun y =>
    let r := y.w.get d
    let old := if r.tag == y.leaseGen then r.data else Vector.replicate 96 0
    let data := Vector.ofFn fun (i : Fin 96) => if M.getLsbD i.val then v.get i else old.get i
    { y with w := y.w.set d.val { data := data, tag := y.leaseGen, scr := false } d.isLt }) s

/-- The payload of a mask write's trace record (R379): the mask, its set bits, and the lowest set bit, 96 for none. -/
def maskRecord (d : Fin 8) (v : BitVec 96) : Nat :=
  let on := (List.range 96).filter fun i => v.getLsbD i
  d.val + on.length * 256 + on.headD 96 * 65536

/-- A mask written whole (R245) and recorded where the core traces mask writes (R378); m0 discards (R50). -/
def writeM (a : Agent) (d : Fin 8) (v : BitVec 96) (s : State) : State :=
  if d == 0 then s
  else traceIf a (fun t => t.mask) 2 (maskRecord d v)
    (updLaneCore a (fun y => { y with m := y.m.set d.val { data := v, tag := y.leaseGen, scr := false } d.isLt }) s)

/-- The active lanes, in ascending order. -/
def active (M : BitVec 96) : List (Fin 96) := (List.finRange 96).filter fun i => M.getLsbD i.val

/-- A form without named sources and without tile ranges. -/
def plainForm (f : Agent → Act) : EForm :=
  { unit := .lanes, srcs := [], claims := fun _ _ _ _ => [], effect := fun _ _ => f }

/-! ## Elements (R67, R243) -/

/-- The bits of a type (R168). -/
def tyWidth : LaneTy → Nat
  | .f32 | .s32 | .z32 => 32
  | .bf16 | .s16 | .z16 | .f16 => 16
  | .s8 | .z8 | .e4m3 | .e5m2 => 8
  | .e2m1 | .s4 => 4
  | .bs12 => 12

/-- The floating-point format of a type; bs12 is a scale (R70) and has its own conversions. -/
def tyFmt : LaneTy → Option Fmt
  | .f32 => some fF32
  | .bf16 => some fBf16
  | .f16 => some fF16
  | .e4m3 => some fE4m3
  | .e5m2 => some fE5m2
  | .e2m1 => some fE2m1
  | .s32 | .s16 | .z32 | .z16 | .s8 | .z8 | .s4 | .bs12 => none

def tySigned : LaneTy → Bool
  | .s32 | .s16 | .s8 | .s4 => true
  | .f32 | .bf16 | .z32 | .z16 | .z8 | .f16 | .e4m3 | .e5m2 | .e2m1 | .bs12 => false

/-- Two elements to a lane (R243). -/
def packed16 (ty : LaneTy) : Bool := tyWidth ty == 16

/-- The integer value of an element. -/
def intVal (ty : LaneTy) (x : Nat) : Int := if tySigned ty then sInt (tyWidth ty) x else (x % 2 ^ tyWidth ty : Nat)

/-- An element function of three operands under the rounding mode, with its flags. -/
abbrev ElemFn := RM → Nat → Nat → Nat → Nat × Flags

/-- An element function on every element of a lane (R243). -/
def onLane (ty : LaneTy) (f : ElemFn) (rm : RM) (x y z : BitVec 32) : BitVec 32 × Flags :=
  if packed16 ty then
    let lo := f rm (x.toNat % 65536) (y.toNat % 65536) (z.toNat % 65536)
    let hi := f rm (x.toNat / 65536) (y.toNat / 65536) (z.toNat / 65536)
    (BitVec.ofNat 32 (lo.1 % 65536 + hi.1 % 65536 * 65536), lo.2 ||| hi.2)
  else
    let r := f rm x.toNat y.toNat z.toNat
    (BitVec.ofNat 32 r.1, r.2)

/-- lane_op (R245) under a rounding mode: `x`, `y`, `z` are the fields read, if any. -/
def laneOp (ty : LaneTy) (rmf : State → Agent → RM) (m d : Fin 8) (x y z : Option (Fin 8)) (f : ElemFn) (a : Agent)
    (s : State) : Except Stop State := do
  let M ← readM s a m
  let u ← readWOpt s a x
  let v ← readWOpt s a y
  let w ← readWOpt s a z
  let out := fun (i : Fin 96) => onLane ty f (rmf s a) (u.get i) (v.get i) (w.get i)
  let fl := (active M).foldl (fun l i => l ||| (out i).2) 0
  .ok (raiseFlags a fl (writeW a d M (Vector.ofFn fun i => (out i).1) s))

/-! ## Arithmetic (R250, R251) -/

/-- A float operation on exact values, or the integer one modulo 2^n. -/
def elemArith (ty : LaneTy) (g : RM → Xr → Xr → Xr → Xr × Flags) (k : Int → Int → Int → Int) : ElemFn :=
  fun rm x y z => match tyFmt ty with
    | some f => arith f rm (g rm (f.val x) (f.val y) (f.val z))
    | none => (wrap (tyWidth ty) (k (intVal ty x) (intVal ty y) (intVal ty z)), 0)

def elemAdd (ty : LaneTy) : ElemFn := elemArith ty (fun rm x y _ => addX rm x y) (fun x y _ => x + y)
def elemSub (ty : LaneTy) : ElemFn := elemArith ty (fun rm x y _ => addX rm x y.neg) (fun x y _ => x - y)
def elemRsub (ty : LaneTy) : ElemFn := elemArith ty (fun rm x y _ => addX rm y x.neg) (fun x y _ => y - x)
def elemMul (ty : LaneTy) : ElemFn := elemArith ty (fun _ x y _ => mulX x y) (fun x y _ => x * y)
/-- z + x * y with one rounding. -/
def elemFma (ty : LaneTy) : ElemFn := elemArith ty (fun rm x y z => fmaX rm z x y) (fun x y z => z + x * y)

def elemMinMax (max : Bool) (ty : LaneTy) : ElemFn := fun _ x y _ =>
  match tyFmt ty with
  | some f => minMaxF f max x y
  | none => (if decide (intVal ty x < intVal ty y) == max then y else x, 0)

def elemBits2 (g : Nat → Nat → Nat) : ElemFn := fun _ x y _ => (g x y, 0)
def elemAnd : ElemFn := elemBits2 (· &&& ·)
def elemOr : ElemFn := elemBits2 (· ||| ·)
def elemXor : ElemFn := elemBits2 (· ^^^ ·)
def elemAndn (ty : LaneTy) : ElemFn := elemBits2 fun x y => x &&& (2 ^ tyWidth ty - 1 - y % 2 ^ tyWidth ty)
def elemShl (ty : LaneTy) : ElemFn := elemBits2 fun x y => x * 2 ^ (y % tyWidth ty) % 2 ^ tyWidth ty
def elemShr (ty : LaneTy) : ElemFn := elemBits2 fun x y => wrap (tyWidth ty) (intVal ty x / 2 ^ (y % tyWidth ty))
def elemMov : ElemFn := elemBits2 fun _ y => y

/-- abs and neg of the second operand (R251). -/
def elemSign (neg : Bool) (ty : LaneTy) : ElemFn := fun _ _ y _ =>
  match tyFmt ty with
  | some f =>
    let top := 2 ^ (f.eb + f.fb)
    if (f.val y).isNan then (f.nanBits, if (f.val y).isSig then flNV else 0)
    else (if neg && !f.signOf y then y % top + top else y % top, 0)
  | none => (wrap (tyWidth ty) (if neg then -intVal ty y else ((intVal ty y).natAbs : Int)), 0)

/-- w.sel (R250): m[i] ? a : b in every lane. -/
def selForm (m d x y : Fin 8) (a : Agent) (s : State) : Except Stop State := do
  let M ← readM s a m
  let u ← readW s a x
  let v ← readW s a y
  .ok (writeW a d (BitVec.allOnes 96) (Vector.ofFn fun i => if M.getLsbD i.val then u.get i else v.get i) s)

/-! ## Functions, reductions, permutes (R253 to R256) -/

def rneAlways (_ : State) (_ : Agent) : RM := .rne

/-- exp2, log2, recip, rsqrt, tanh of the second operand under RNE (R253). -/
def elemFn (ty : LaneTy) (g : Xr → Xr × Flags) : ElemFn := fun rm _ y _ =>
  let f := (tyFmt ty).getD fF32
  arith f rm (g (f.val y))

/-- The elements of a lane, lowest index first (R243). -/
def laneElems (ty : LaneTy) (x : BitVec 32) : List Nat :=
  if packed16 ty then [x.toNat % 65536, x.toNat / 65536] else [x.toNat]

/-- The elements of the active lanes, in index order. -/
def activeElems (ty : LaneTy) (M : BitVec 96) (v : Lanes) : List Nat :=
  (active M).flatMap fun i => laneElems ty (v.get i)

/-- A lane with one value in every element. -/
def fillLane (ty : LaneTy) (r : Nat) : BitVec 32 :=
  BitVec.ofNat 32 (if packed16 ty then r % 65536 + r % 65536 * 65536 else r)

/-- The exact sum of finite terms as a signed ratio; every denominator is a power of two. -/
def sumFin : List Xr → Int × Nat
  | [] => (0, 1)
  | .fin s n d :: t =>
    let r := sumFin t
    if d ≤ r.2 then (sgn s n * (r.2 / d : Nat) + r.1, r.2) else (sgn s n + r.1 * (d / r.2 : Nat), d)
  | .nan _ :: t | .inf _ :: t => sumFin t

def anyInf (neg : Bool) (xs : List Xr) : Bool := xs.any fun x => match x with | .inf s => s == neg | _ => false

/-- The exact sum of R254. -/
def sumX (rm : RM) (xs : List Xr) : Xr × Flags :=
  if xs.any Xr.isNan then (.nan false, if xs.any Xr.isSig then flNV else 0)
  else if anyInf false xs && anyInf true xs then (.nan false, flNV)
  else if anyInf false xs then (.inf false, 0)
  else if anyInf true xs then (.inf true, 0)
  else
    let r := sumFin xs
    if r.1 = 0 then
      let allNeg := !xs.isEmpty && xs.all Xr.isNeg
      let both := xs.any Xr.isNeg && xs.any fun x => !x.isNeg
      (.fin (allNeg || (rm == .rdn && both)) 0 1, 0)
    else (.fin (decide (r.1 < 0)) r.1.natAbs r.2, 0)

/-- rsum of a list of elements (R254). -/
def rsumOf (ty : LaneTy) (rm : RM) (xs : List Nat) : Nat × Flags :=
  match tyFmt ty with
  | some f => arith f rm (sumX rm (xs.map f.val))
  | none => (wrap (tyWidth ty) (sumInt (xs.map (intVal ty))), 0)

/-- rmax of a list of elements (R254). -/
def rmaxOf (ty : LaneTy) (xs : List Nat) : Nat × Flags :=
  match tyFmt ty with
  | some f =>
    let fl := if xs.any fun x => (f.val x).isSig then flNV else 0
    match xs.filter fun x => !(f.val x).isNan with
    | [] => (if xs.isEmpty then f.infBits true else f.nanBits, fl)
    | x :: t => (t.foldl (fun b y => (minMaxF f true b y).1) x, fl)
  | none => match xs with
    | [] => (if tySigned ty then 2 ^ (tyWidth ty - 1) else 0, 0)
    | x :: t => (t.foldl (fun b y => if intVal ty b < intVal ty y then y else b) x, 0)

/-- A reduction written into every element of wd (R254). -/
def reduceForm (ty : LaneTy) (m d y : Fin 8) (g : RM → List Nat → Nat × Flags) (a : Agent) (s : State) :
    Except Stop State := do
  let M ← readM s a m
  let v ← readW s a y
  let r := g (rmOf s a) (activeElems ty M v)
  .ok (raiseFlags a r.2 (writeW a d (BitVec.allOnes 96) (Vector.replicate 96 (fillLane ty r.1)) s))

/-- scan (R255): each active element takes the rsum of the active elements up to it. -/
def scanForm (ty : LaneTy) (m d y : Fin 8) (a : Agent) (s : State) : Except Stop State := do
  let M ← readM s a m
  let v ← readW s a y
  let rm := rmOf s a
  let upTo := fun (i : Fin 96) (e : Nat) =>
    activeElems ty (M &&& BitVec.ofNat 96 (2 ^ i.val - 1)) v ++ (laneElems ty (v.get i)).take (e + 1)
  let out := fun (i : Fin 96) =>
    let lo := rsumOf ty rm (upTo i 0)
    if packed16 ty then
      let hi := rsumOf ty rm (upTo i 1)
      (BitVec.ofNat 32 (lo.1 % 65536 + hi.1 % 65536 * 65536), lo.2 ||| hi.2)
    else (BitVec.ofNat 32 lo.1, lo.2)
  let fl := (active M).foldl (fun l i => l ||| (out i).2) 0
  .ok (raiseFlags a fl (writeW a d M (Vector.ofFn fun i => (out i).1) s))

/-- perm (R256). -/
def permForm (m d x y : Fin 8) (a : Agent) (s : State) : Except Stop State := do
  let M ← readM s a m
  let u ← readW s a x
  let v ← readW s a y
  .ok (writeW a d M (Vector.ofFn fun i => u.toList.getD (v.get i).toNat 0) s)

/-! ## Masks (R257) -/

/-- A compare into mask d. -/
def cmpForm (ty : LaneTy) (m d x y : Fin 8) (g : Fmt → Nat → Nat → Bool × Flags) (k : Int → Int → Bool) (a : Agent)
    (s : State) : Except Stop State := do
  let M ← readM s a m
  let u ← readW s a x
  let v ← readW s a y
  let out := fun (i : Fin 96) => match tyFmt ty with
    | some f => g f (u.get i).toNat (v.get i).toNat
    | none => (k (intVal ty (u.get i).toNat) (intVal ty (v.get i).toNat), 0)
  let hits := (active M).filter fun i => (out i).1
  let fl := (active M).foldl (fun l i => l ||| (out i).2) 0
  .ok (raiseFlags a fl (writeM a d (BitVec.ofNat 96 (hits.foldl (fun n i => n + 2 ^ i.val) 0)) s))

/-- A mask operation. -/
def maskForm (m d x y : Fin 8) (g : BitVec 96 → BitVec 96 → BitVec 96) (a : Agent) (s : State) : Except Stop State := do
  let M ← readM s a m
  let u ← readM s a x
  let v ← readM s a y
  .ok (writeM a d (M &&& g u v) s)

/-! ## Moves and tile rows (R258 to R261) -/

def opAt (ops : List Word) (k : Nat) : Word := ops.getD k 0

def bcastForm (m : Fin 8) (f : Src) (b : Fin 8) : EForm :=
  { unit := .lanes, srcs := [f], claims := fun _ _ _ _ => []
    effect := fun ops _ a s => do
      let M ← readM s a m
      .ok (writeW a b M (Vector.replicate 96 (BitVec.ofNat 32 (opAt ops 0).toNat)) s) }

def extForm (d : Dst) (f : Src) (b : Fin 8) : EForm :=
  { unit := .lanes, srcs := [f], claims := fun _ _ _ _ => []
    effect := fun ops _ a s => do
      let v ← readW s a b
      .ok (writeDst s a d (wd (v.toList.getD (opAt ops 0).toNat 0).toNat)) }

/-- The count of a mask and 256 times its lowest lane (R258). -/
def mpopWord (M : BitVec 96) : Word := wd (popCount 96 M.toNat + 256 * lowestSet 96 M.toNat)

def mpopForm (m : Fin 8) (d : Dst) (a : Agent) (s : State) : Except Stop State := do
  let M ← readM s a m
  .ok (writeDst s a d (mpopWord M))

def rowOfWord (w : Word) : Nat := bits w 63 32
def chunkOf (w : Word) : Nat := bits w 31 16
def spreadOf (w : Word) : Bool := bitAt w 7

/-- The row word of a lane transfer checked (R259): the tile it names. -/
def rowTile (ts : Handles) (s : State) (a : Agent) (w : Word) : Except Stop (Nat × Tile) :=
  match heldTile ts a s (bits w 5 0) with
  | .error er => .error er
  | .ok (e, t) =>
    let bad := bits w 15 8 != 0 || bitAt w 6 || shPlanes t.shape || decide (shRows t.shape ≤ rowOfWord w) ||
      (if shAcc t.shape then spreadOf w || chunkOf w != 0
       else if spreadOf w then decide (32 < tyBits (shType t.shape)) || decide (shCols t.shape ≤ 96 * chunkOf w)
       else decide (rowBytes (shCols t.shape) (tyBits (shType t.shape)) ≤ 384 * chunkOf w))
    if bad then shape else .ok (e, t)

/-- The handle of a row word (R259). -/
def rowHandles (ops : List Word) : List (Fin 64) := [Fin.ofNat 64 (bits (opAt ops 0) 5 0)]

/-- The scoreboard range of a lane transfer (R259). -/
def rowClaims (write : Bool) (ops : List Word) (ts : Handles) (a : Agent) (s : State) : List Claim :=
  let w := opAt ops 0
  match rowTile ts s a w with
  | .ok (e, t) => [{ tile := e, gen := t.gen, lo := rowOfWord w, hi := rowOfWord w, write := write }]
  | .error _ => []

/-- An accumulator value as CDRAIN converts it to f32 (R82). -/
def accToF32 (v : Nat) : Nat := (roundFmt fF32 false .rne (fFx34.val v)).1

/-- What lane `i` takes from a tile row (R260). -/
def rowLane (s : State) (a : Agent) (t : Tile) (w : Word) (i : Fin 96) : Except Stop (BitVec 32) :=
  let x := quadOf s a
  let r := rowOfWord w
  let b := tyBits (shType t.shape)
  if shAcc t.shape then
    match accRead (readAccRow x t r) i.val with
    | .ok v => .ok (BitVec.ofNat 32 (accToF32 v))
    | .error e => .error e
  else if spreadOf w then
    let e := 96 * chunkOf w + i.val
    if shCols t.shape ≤ e then .ok 0
    else match readElem x (s.strict a) t r e with
      | .ok v => .ok (BitVec.ofNat 32 v)
      | .error er => .error er
  else
    let off := 384 * chunkOf w + 4 * i.val
    let n := min 4 (rowBytes (shCols t.shape) b - off)
    match readTile x (s.strict a) t (rowOff t r + off) n with
    | .ok bs => .ok (BitVec.ofNat 32 (leNat bs))
    | .error e => .error e

/-- The active lanes of a row, each read under its checks. -/
def rowLanes (s : State) (a : Agent) (t : Tile) (w : Word) : List (Fin 96) → Except Stop (List (Nat × BitVec 32))
  | [] => .ok []
  | i :: is => do
    let v ← rowLane s a t w i
    let vs ← rowLanes s a t w is
    .ok ((i.val, v) :: vs)

def trldForm (m : Fin 8) (f : Src) (b : Fin 8) : EForm :=
  { unit := .lanes, srcs := [f], handles := rowHandles, claims := rowClaims false
    effect := fun ops ts a s => do
      let w := opAt ops 0
      let M ← readM s a m
      let p ← rowTile ts s a w
      let vs ← rowLanes s a p.2 w (active M)
      .ok (writeW a b M (Vector.ofFn fun i => (lookupNat vs i.val).getD 0) s) }

/-- Lane `i` written into a tile row (R261). -/
def putRowLane (t : Tile) (w : Word) (v : BitVec 32) (i : Nat) (x : Quad) : Quad :=
  let r := rowOfWord w
  if shAcc t.shape then writeAccEntry t r i (roundFmt fFx34 false .rne (fF32.val v.toNat)).1 true x
  else if spreadOf w then
    let e := 96 * chunkOf w + i
    if shCols t.shape ≤ e then x else writeElem t r e v.toNat x
  else
    let off := 384 * chunkOf w + 4 * i
    writeTile t (rowOff t r + off)
      (leBytes (min 4 (rowBytes (shCols t.shape) (tyBits (shType t.shape)) - off)) v.toNat) x

def trstForm (m : Fin 8) (f : Src) (b : Fin 8) : EForm :=
  { unit := .lanes, srcs := [f], handles := rowHandles, claims := rowClaims true
    effect := fun ops ts a s => do
      let w := opAt ops 0
      let M ← readM s a m
      let v ← readW s a b
      let p ← rowTile ts s a w
      .ok (writeHeld a p (fun x => (active M).foldl (fun y i => putRowLane p.2 w (v.get i) i.val y) x) s) }

/-! ## Conversions (R262) -/

/-- The exact value of a source in lane form. -/
def cvtVal (ty : LaneTy) (x : Nat) : Xr :=
  let n := x % 2 ^ tyWidth ty
  if ty = .bs12 then bs12Val n
  else match tyFmt ty with
    | some f => f.val n
    | none => .ofInt (intVal ty n)

/-- The destination's encoding of a rounded product. -/
def cvtTo (ty : LaneTy) (sat : Bool) (rm : RM) (v : Xr) : Nat × Flags :=
  if ty = .bs12 then roundBs12 rm v
  else match tyFmt ty with
    | some f => roundFmt f sat rm v
    | none =>
      let n := tyWidth ty
      let r := if tySigned ty then roundIntTy (-(2 ^ (n - 1))) (2 ^ (n - 1) - 1) rm v else roundIntTy 0 (2 ^ n - 1) rm v
      (wrap n r.1, r.2)

/-- A conversion of a lane under its f32 scale: the product of `src` and the scale, rounded once to `dst` (R72). The NaN operand
of a NaN scale, a bs12 NaN source or an infinity times zero raises only what forming it raised. -/
def cvtElem (src dst : LaneTy) (sat : Bool) : ElemFn := fun rm x y _ =>
  let v := cvtVal src x
  let sc := fF32.val y
  let p := mulX v sc
  let r := cvtTo dst sat rm p.1
  let operand := p.1.isNan && (sc.isNan || src == .bs12 || !v.isNan)
  (r.1, if operand then p.2 else p.2 ||| r.2)

/-- A conversion form; every lane holds one element (R243). -/
def cvtForm (src dst : LaneTy) (sat : Bool) (m d x y : Fin 8) : Agent → Act :=
  laneOp .f32 rmOf m d (some x) (some y) none (cvtElem src dst sat)

/-! ## Sampling (R263 to R265) -/

/-- The rank of candidate `i` among the candidates (R263): those before it hold a greater score, or an equal one in a
lower lane. -/
def rankOf (v : Lanes) (cand : List (Fin 96)) (i : Fin 96) : Nat :=
  let key := fun (j : Fin 96) => fF32.val (v.get j).toNat
  let less := fun (x y : Xr) => decide (cmpX x y < 0) || (cmpX x y == 0 && x.isNeg && !y.isNeg)
  (cand.filter fun j => less (key i) (key j) || (!less (key j) (key i) && decide (j.val < i.val))).length

def topkForm (m d x y : Fin 8) (a : Agent) (s : State) : Except Stop State := do
  let M ← readM s a m
  let u ← readW s a x
  let v ← readW s a y
  let k := min 96 (v.get 0).toNat
  let cand := (active M).filter fun i => !(fF32.val (u.get i).toNat).isNan
  let out := fun (i : Fin 96) =>
    if cand.contains i && decide (rankOf u cand i < k) then BitVec.ofNat 32 (rankOf u cand i) else BitVec.allOnes 32
  .ok (writeW a d (BitVec.allOnes 96) (Vector.ofFn out) s)

/-- Lanes 1 and 0 as a 64-bit word (R264). -/
def pairWord (v : Lanes) : Word := wd ((v.get 0).toNat + (v.get 1).toNat * 2 ^ 32)

def cbgForm (draw : Bool) (m d x y : Fin 8) (a : Agent) (s : State) : Except Stop State := do
  let M ← readM s a m
  let u ← readW s a x
  let v ← readW s a y
  let out := fun (i : Fin 96) =>
    let g := cbg4 (pairWord u) (pairWord v) i.val
    if draw then BitVec.ofNat 32 (uniformF32 g) else g
  .ok (writeW a d M (Vector.ofFn out) s)

/-- wt of R265 and whether it raises NV: a NaN or a negative nonzero weight counts as 0. -/
def pickWeight (b : Nat) : Xr × Bool :=
  match fF32.val b with
  | .nan _ => (.fin false 0 1, true)
  | .inf s => if s then (.fin false 0 1, true) else (.inf false, false)
  | .fin s n d => if n = 0 then (.fin false 0 1, false) else if s then (.fin false 0 1, true) else (.fin false n d, false)

/-- `p > u * t` on exact ratios. -/
def exceeds (p t : Int × Nat) (un ud : Nat) : Bool :=
  decide ((un : Int) * t.1 * (p.2 : Int) < p.1 * (ud : Int) * (t.2 : Int))

/-- The lowest active lane whose prefix sum exceeds u * T. -/
def pickScan (wt : Fin 96 → Xr) (t : Int × Nat) (un ud : Nat) : List (Fin 96) → List (Fin 96) → Nat
  | _, [] => 0xFFFFFFFF
  | seen, i :: is =>
    if exceeds (sumFin ((seen ++ [i]).map wt)) t un ud then i.val else pickScan wt t un ud (seen ++ [i]) is

/-- The index that pick draws (R265). -/
def pickIndex (acts : List (Fin 96)) (wt : Fin 96 → Xr) (u : Xr) : Nat :=
  match acts with
  | [] => 0xFFFFFFFF
  | first :: _ => match acts.find? fun i => wt i == .inf false with
    | some i => i.val
    | none =>
      let t := sumFin (acts.map wt)
      if t.1 = 0 then first.val
      else
        let highest := ((acts.filter fun i => !(wt i).isZero).getLast?.getD first).val
        match u with
        | .nan _ => pickScan wt t 0 1 [] acts
        | .inf s => if s then pickScan wt t 0 1 [] acts else highest
        | .fin s n d =>
          if s then pickScan wt t 0 1 [] acts else if d ≤ n then highest else pickScan wt t n d [] acts

def pickForm (m d x y : Fin 8) (a : Agent) (s : State) : Except Stop State := do
  let M ← readM s a m
  let u ← readW s a x
  let v ← readW s a y
  let w := fun (i : Fin 96) => pickWeight (u.get i).toNat
  let r := pickIndex (active M) (fun i => (w i).1) (fF32.val (v.get 0).toNat)
  let fl := if (active M).any fun i => (w i).2 then flNV else 0
  .ok (raiseFlags a fl (writeW a d (BitVec.allOnes 96) (Vector.replicate 96 (BitVec.ofNat 32 r)) s))

/-! ## The forms -/

def l16Lane : L16Ty → LaneTy
  | .f32 => .f32 | .bf16 => .bf16 | .s32 => .s32 | .s16 => .s16

/-- The W32 word of an L16 word (R158); any other instruction is itself. -/
def w32Of : Instr → Instr
  | .l16Add ty m d x => .wAdd (l16Lane ty) m d d x
  | .l16Sub ty m d x => .wSub (l16Lane ty) m d d x
  | .l16Rsub ty m d x => .wRsub (l16Lane ty) m d d x
  | .l16Mul ty m d x => .wMul (l16Lane ty) m d d x
  | .l16Mac ty m d x => .wMac (l16Lane ty) m d x 7
  | .l16Min ty m d x => .wMin (l16Lane ty) m d d x
  | .l16Max ty m d x => .wMax (l16Lane ty) m d d x
  | .l16And ty m d x => .wAnd (l16Lane ty) m d d x
  | .l16Or ty m d x => .wOr (l16Lane ty) m d d x
  | .l16Xor ty m d x => .wXor (l16Lane ty) m d d x
  | .l16Andn ty m d x => .wAndn (l16Lane ty) m d d x
  | .l16Shl ty m d x => .wShl (l16Lane ty) m d d x
  | .l16Shr ty m d x => .wShr (l16Lane ty) m d d x
  | .l16Mov ty m d x => .wMov (l16Lane ty) m d x
  | .l16Abs ty m d x => .wAbs (l16Lane ty) m d x
  | .l16Neg ty m d x => .wNeg (l16Lane ty) m d x
  | i => i

/-- No easel form. -/
def noForm : EForm := plainForm fun _ _ => illegal

/-- What each lane form reads, claims and does. -/
def laneForm : Instr → EForm
  | .wAdd ty m d x y => plainForm (laneOp ty rmOf m d (some x) (some y) none (elemAdd ty))
  | .wSub ty m d x y => plainForm (laneOp ty rmOf m d (some x) (some y) none (elemSub ty))
  | .wRsub ty m d x y => plainForm (laneOp ty rmOf m d (some x) (some y) none (elemRsub ty))
  | .wMul ty m d x y => plainForm (laneOp ty rmOf m d (some x) (some y) none (elemMul ty))
  | .wMac ty m d x y => plainForm (laneOp ty rmOf m d (some x) (some y) (some d) (elemFma ty))
  | .wMin ty m d x y => plainForm (laneOp ty rmOf m d (some x) (some y) none (elemMinMax false ty))
  | .wMax ty m d x y => plainForm (laneOp ty rmOf m d (some x) (some y) none (elemMinMax true ty))
  | .wAnd ty m d x y => plainForm (laneOp ty rmOf m d (some x) (some y) none (elemAnd))
  | .wOr ty m d x y => plainForm (laneOp ty rmOf m d (some x) (some y) none (elemOr))
  | .wXor ty m d x y => plainForm (laneOp ty rmOf m d (some x) (some y) none (elemXor))
  | .wAndn ty m d x y => plainForm (laneOp ty rmOf m d (some x) (some y) none (elemAndn ty))
  | .wShl ty m d x y => plainForm (laneOp ty rmOf m d (some x) (some y) none (elemShl ty))
  | .wShr ty m d x y => plainForm (laneOp ty rmOf m d (some x) (some y) none (elemShr ty))
  | .wMov ty m d y => plainForm (laneOp ty rmOf m d none (some y) none (elemMov))
  | .wAbs ty m d y => plainForm (laneOp ty rmOf m d none (some y) none (elemSign false ty))
  | .wNeg ty m d y => plainForm (laneOp ty rmOf m d none (some y) none (elemSign true ty))
  | .wFma ty m d x y z => plainForm (laneOp ty rmOf m d (some x) (some y) (some z) (elemFma ty))
  | .wSel _ m d x y => plainForm (selForm m d x y)
  | .wmathExp2 ty m d y => plainForm (laneOp ty rneAlways m d none (some y) none (elemFn ty exp2X))
  | .wmathLog2 ty m d y => plainForm (laneOp ty rneAlways m d none (some y) none (elemFn ty log2X))
  | .wmathRecip ty m d y => plainForm (laneOp ty rneAlways m d none (some y) none (elemFn ty recipX))
  | .wmathRsqrt ty m d y => plainForm (laneOp ty rneAlways m d none (some y) none (elemFn ty rsqrtX))
  | .wmathTanh ty m d y => plainForm (laneOp ty rneAlways m d none (some y) none (elemFn ty tanhX))
  | .wmathRsum ty m d y => plainForm (reduceForm ty m d y (rsumOf ty))
  | .wmathRmax ty m d y => plainForm (reduceForm ty m d y (fun _ => rmaxOf ty))
  | .wmathScan ty m d y => plainForm (scanForm ty m d y)
  | .wmathPerm _ m d x y => plainForm (permForm m d x y)
  | .wmaskEq ty m d x y => plainForm (cmpForm ty m d x y eqF fun x y => x == y)
  | .wmaskLt ty m d x y => plainForm (cmpForm ty m d x y ltF fun x y => decide (x < y))
  | .wmaskLe ty m d x y => plainForm (cmpForm ty m d x y leF fun x y => decide (x ≤ y))
  | .wmaskAnd m d x y => plainForm (maskForm m d x y (· &&& ·))
  | .wmaskOr m d x y => plainForm (maskForm m d x y (· ||| ·))
  | .wmaskXor m d x y => plainForm (maskForm m d x y (· ^^^ ·))
  | .wmoveBcast m f b => bcastForm m f b
  | .wmoveExt d f b => extForm d f b
  | .wmoveTrld m f b => trldForm m f b
  | .wmoveTrst m f b => trstForm m f b
  | .wmoveMpop m d => plainForm (mpopForm m d)
  | .wcvtUp ty m d x y => plainForm (cvtForm ty .f32 false m d x y)
  | .wcvtDown ty m d x y => plainForm (cvtForm .f32 ty false m d x y)
  | .wcvtDownsat ty m d x y => plainForm (cvtForm .f32 ty true m d x y)
  | .wcvtToint ty m d x y => plainForm (cvtForm .f32 ty true m d x y)
  | .wcvtFromint ty m d x y => plainForm (cvtForm ty .f32 false m d x y)
  | .wsampTopk m d x y => plainForm (topkForm m d x y)
  | .wsampCbg m d x y => plainForm (cbgForm false m d x y)
  | .wsampDraw m d x y => plainForm (cbgForm true m d x y)
  | .wsampPick m d x y => plainForm (pickForm m d x y)
  | _ => noForm

/-- w.add (R250, R251). -/
def execWAdd (ty : LaneTy) (m d x y : Fin 8) (s : State) : Host.Outcome State Fault Refusal :=
  performEasel (.wAdd ty m d x y) (laneForm (.wAdd ty m d x y)) s

/-- w.sub (R250, R251). -/
def execWSub (ty : LaneTy) (m d x y : Fin 8) (s : State) : Host.Outcome State Fault Refusal :=
  performEasel (.wSub ty m d x y) (laneForm (.wSub ty m d x y)) s

/-- w.rsub (R250, R251). -/
def execWRsub (ty : LaneTy) (m d x y : Fin 8) (s : State) : Host.Outcome State Fault Refusal :=
  performEasel (.wRsub ty m d x y) (laneForm (.wRsub ty m d x y)) s

/-- w.mul (R250, R251). -/
def execWMul (ty : LaneTy) (m d x y : Fin 8) (s : State) : Host.Outcome State Fault Refusal :=
  performEasel (.wMul ty m d x y) (laneForm (.wMul ty m d x y)) s

/-- w.mac (R250, R251). -/
def execWMac (ty : LaneTy) (m d x y : Fin 8) (s : State) : Host.Outcome State Fault Refusal :=
  performEasel (.wMac ty m d x y) (laneForm (.wMac ty m d x y)) s

/-- w.min (R250, R251). -/
def execWMin (ty : LaneTy) (m d x y : Fin 8) (s : State) : Host.Outcome State Fault Refusal :=
  performEasel (.wMin ty m d x y) (laneForm (.wMin ty m d x y)) s

/-- w.max (R250, R251). -/
def execWMax (ty : LaneTy) (m d x y : Fin 8) (s : State) : Host.Outcome State Fault Refusal :=
  performEasel (.wMax ty m d x y) (laneForm (.wMax ty m d x y)) s

/-- w.and (R250, R251). -/
def execWAnd (ty : LaneTy) (m d x y : Fin 8) (s : State) : Host.Outcome State Fault Refusal :=
  performEasel (.wAnd ty m d x y) (laneForm (.wAnd ty m d x y)) s

/-- w.or (R250, R251). -/
def execWOr (ty : LaneTy) (m d x y : Fin 8) (s : State) : Host.Outcome State Fault Refusal :=
  performEasel (.wOr ty m d x y) (laneForm (.wOr ty m d x y)) s

/-- w.xor (R250, R251). -/
def execWXor (ty : LaneTy) (m d x y : Fin 8) (s : State) : Host.Outcome State Fault Refusal :=
  performEasel (.wXor ty m d x y) (laneForm (.wXor ty m d x y)) s

/-- w.andn (R250, R251). -/
def execWAndn (ty : LaneTy) (m d x y : Fin 8) (s : State) : Host.Outcome State Fault Refusal :=
  performEasel (.wAndn ty m d x y) (laneForm (.wAndn ty m d x y)) s

/-- w.shl (R250, R251). -/
def execWShl (ty : LaneTy) (m d x y : Fin 8) (s : State) : Host.Outcome State Fault Refusal :=
  performEasel (.wShl ty m d x y) (laneForm (.wShl ty m d x y)) s

/-- w.shr (R250, R251). -/
def execWShr (ty : LaneTy) (m d x y : Fin 8) (s : State) : Host.Outcome State Fault Refusal :=
  performEasel (.wShr ty m d x y) (laneForm (.wShr ty m d x y)) s

/-- w.mov (R250, R251). -/
def execWMov (ty : LaneTy) (m d y : Fin 8) (s : State) : Host.Outcome State Fault Refusal :=
  performEasel (.wMov ty m d y) (laneForm (.wMov ty m d y)) s

/-- w.abs (R250, R251). -/
def execWAbs (ty : LaneTy) (m d y : Fin 8) (s : State) : Host.Outcome State Fault Refusal :=
  performEasel (.wAbs ty m d y) (laneForm (.wAbs ty m d y)) s

/-- w.neg (R250, R251). -/
def execWNeg (ty : LaneTy) (m d y : Fin 8) (s : State) : Host.Outcome State Fault Refusal :=
  performEasel (.wNeg ty m d y) (laneForm (.wNeg ty m d y)) s

/-- w.fma (R250). -/
def execWFma (ty : LaneTy) (m d x y z : Fin 8) (s : State) : Host.Outcome State Fault Refusal :=
  performEasel (.wFma ty m d x y z) (laneForm (.wFma ty m d x y z)) s

/-- w.sel (R250). -/
def execWSel (ty : LaneTy) (m d x y : Fin 8) (s : State) : Host.Outcome State Fault Refusal :=
  performEasel (.wSel ty m d x y) (laneForm (.wSel ty m d x y)) s

/-- The L16 word of w.add (R158, R252). -/
def execL16Add (ty : L16Ty) (m d x : Fin 8) (s : State) : Host.Outcome State Fault Refusal :=
  performEasel (.l16Add ty m d x) (laneForm (w32Of (.l16Add ty m d x))) s

/-- The L16 word of w.sub (R158, R252). -/
def execL16Sub (ty : L16Ty) (m d x : Fin 8) (s : State) : Host.Outcome State Fault Refusal :=
  performEasel (.l16Sub ty m d x) (laneForm (w32Of (.l16Sub ty m d x))) s

/-- The L16 word of w.rsub (R158, R252). -/
def execL16Rsub (ty : L16Ty) (m d x : Fin 8) (s : State) : Host.Outcome State Fault Refusal :=
  performEasel (.l16Rsub ty m d x) (laneForm (w32Of (.l16Rsub ty m d x))) s

/-- The L16 word of w.mul (R158, R252). -/
def execL16Mul (ty : L16Ty) (m d x : Fin 8) (s : State) : Host.Outcome State Fault Refusal :=
  performEasel (.l16Mul ty m d x) (laneForm (w32Of (.l16Mul ty m d x))) s

/-- The L16 word of w.mac (R158, R252). -/
def execL16Mac (ty : L16Ty) (m d x : Fin 8) (s : State) : Host.Outcome State Fault Refusal :=
  performEasel (.l16Mac ty m d x) (laneForm (w32Of (.l16Mac ty m d x))) s

/-- The L16 word of w.min (R158, R252). -/
def execL16Min (ty : L16Ty) (m d x : Fin 8) (s : State) : Host.Outcome State Fault Refusal :=
  performEasel (.l16Min ty m d x) (laneForm (w32Of (.l16Min ty m d x))) s

/-- The L16 word of w.max (R158, R252). -/
def execL16Max (ty : L16Ty) (m d x : Fin 8) (s : State) : Host.Outcome State Fault Refusal :=
  performEasel (.l16Max ty m d x) (laneForm (w32Of (.l16Max ty m d x))) s

/-- The L16 word of w.and (R158, R252). -/
def execL16And (ty : L16Ty) (m d x : Fin 8) (s : State) : Host.Outcome State Fault Refusal :=
  performEasel (.l16And ty m d x) (laneForm (w32Of (.l16And ty m d x))) s

/-- The L16 word of w.or (R158, R252). -/
def execL16Or (ty : L16Ty) (m d x : Fin 8) (s : State) : Host.Outcome State Fault Refusal :=
  performEasel (.l16Or ty m d x) (laneForm (w32Of (.l16Or ty m d x))) s

/-- The L16 word of w.xor (R158, R252). -/
def execL16Xor (ty : L16Ty) (m d x : Fin 8) (s : State) : Host.Outcome State Fault Refusal :=
  performEasel (.l16Xor ty m d x) (laneForm (w32Of (.l16Xor ty m d x))) s

/-- The L16 word of w.andn (R158, R252). -/
def execL16Andn (ty : L16Ty) (m d x : Fin 8) (s : State) : Host.Outcome State Fault Refusal :=
  performEasel (.l16Andn ty m d x) (laneForm (w32Of (.l16Andn ty m d x))) s

/-- The L16 word of w.shl (R158, R252). -/
def execL16Shl (ty : L16Ty) (m d x : Fin 8) (s : State) : Host.Outcome State Fault Refusal :=
  performEasel (.l16Shl ty m d x) (laneForm (w32Of (.l16Shl ty m d x))) s

/-- The L16 word of w.shr (R158, R252). -/
def execL16Shr (ty : L16Ty) (m d x : Fin 8) (s : State) : Host.Outcome State Fault Refusal :=
  performEasel (.l16Shr ty m d x) (laneForm (w32Of (.l16Shr ty m d x))) s

/-- The L16 word of w.mov (R158, R252). -/
def execL16Mov (ty : L16Ty) (m d x : Fin 8) (s : State) : Host.Outcome State Fault Refusal :=
  performEasel (.l16Mov ty m d x) (laneForm (w32Of (.l16Mov ty m d x))) s

/-- The L16 word of w.abs (R158, R252). -/
def execL16Abs (ty : L16Ty) (m d x : Fin 8) (s : State) : Host.Outcome State Fault Refusal :=
  performEasel (.l16Abs ty m d x) (laneForm (w32Of (.l16Abs ty m d x))) s

/-- The L16 word of w.neg (R158, R252). -/
def execL16Neg (ty : L16Ty) (m d x : Fin 8) (s : State) : Host.Outcome State Fault Refusal :=
  performEasel (.l16Neg ty m d x) (laneForm (w32Of (.l16Neg ty m d x))) s

/-- wmath.exp2 (R253). -/
def execWmathExp2 (ty : LaneTy) (m d y : Fin 8) (s : State) : Host.Outcome State Fault Refusal :=
  performEasel (.wmathExp2 ty m d y) (laneForm (.wmathExp2 ty m d y)) s

/-- wmath.log2 (R253). -/
def execWmathLog2 (ty : LaneTy) (m d y : Fin 8) (s : State) : Host.Outcome State Fault Refusal :=
  performEasel (.wmathLog2 ty m d y) (laneForm (.wmathLog2 ty m d y)) s

/-- wmath.recip (R253). -/
def execWmathRecip (ty : LaneTy) (m d y : Fin 8) (s : State) : Host.Outcome State Fault Refusal :=
  performEasel (.wmathRecip ty m d y) (laneForm (.wmathRecip ty m d y)) s

/-- wmath.rsqrt (R253). -/
def execWmathRsqrt (ty : LaneTy) (m d y : Fin 8) (s : State) : Host.Outcome State Fault Refusal :=
  performEasel (.wmathRsqrt ty m d y) (laneForm (.wmathRsqrt ty m d y)) s

/-- wmath.tanh (R253). -/
def execWmathTanh (ty : LaneTy) (m d y : Fin 8) (s : State) : Host.Outcome State Fault Refusal :=
  performEasel (.wmathTanh ty m d y) (laneForm (.wmathTanh ty m d y)) s

/-- wmath.rsum (R254). -/
def execWmathRsum (ty : LaneTy) (m d y : Fin 8) (s : State) : Host.Outcome State Fault Refusal :=
  performEasel (.wmathRsum ty m d y) (laneForm (.wmathRsum ty m d y)) s

/-- wmath.rmax (R254). -/
def execWmathRmax (ty : LaneTy) (m d y : Fin 8) (s : State) : Host.Outcome State Fault Refusal :=
  performEasel (.wmathRmax ty m d y) (laneForm (.wmathRmax ty m d y)) s

/-- wmath.scan (R255). -/
def execWmathScan (ty : LaneTy) (m d y : Fin 8) (s : State) : Host.Outcome State Fault Refusal :=
  performEasel (.wmathScan ty m d y) (laneForm (.wmathScan ty m d y)) s

/-- wmath.perm (R256). -/
def execWmathPerm (ty : LaneTy) (m d x y : Fin 8) (s : State) : Host.Outcome State Fault Refusal :=
  performEasel (.wmathPerm ty m d x y) (laneForm (.wmathPerm ty m d x y)) s

/-- wmask.eq (R257). -/
def execWmaskEq (ty : LaneTy) (m d x y : Fin 8) (s : State) : Host.Outcome State Fault Refusal :=
  performEasel (.wmaskEq ty m d x y) (laneForm (.wmaskEq ty m d x y)) s

/-- wmask.lt (R257). -/
def execWmaskLt (ty : LaneTy) (m d x y : Fin 8) (s : State) : Host.Outcome State Fault Refusal :=
  performEasel (.wmaskLt ty m d x y) (laneForm (.wmaskLt ty m d x y)) s

/-- wmask.le (R257). -/
def execWmaskLe (ty : LaneTy) (m d x y : Fin 8) (s : State) : Host.Outcome State Fault Refusal :=
  performEasel (.wmaskLe ty m d x y) (laneForm (.wmaskLe ty m d x y)) s

/-- wmask.and (R257). -/
def execWmaskAnd (m d x y : Fin 8) (s : State) : Host.Outcome State Fault Refusal :=
  performEasel (.wmaskAnd m d x y) (laneForm (.wmaskAnd m d x y)) s

/-- wmask.or (R257). -/
def execWmaskOr (m d x y : Fin 8) (s : State) : Host.Outcome State Fault Refusal :=
  performEasel (.wmaskOr m d x y) (laneForm (.wmaskOr m d x y)) s

/-- wmask.xor (R257). -/
def execWmaskXor (m d x y : Fin 8) (s : State) : Host.Outcome State Fault Refusal :=
  performEasel (.wmaskXor m d x y) (laneForm (.wmaskXor m d x y)) s

/-- wmove.bcast (R258). -/
def execWmoveBcast (m : Fin 8) (f : Src) (b : Fin 8) (s : State) : Host.Outcome State Fault Refusal :=
  performEasel (.wmoveBcast m f b) (laneForm (.wmoveBcast m f b)) s

/-- wmove.ext (R258). -/
def execWmoveExt (d : Dst) (f : Src) (b : Fin 8) (s : State) : Host.Outcome State Fault Refusal :=
  performEasel (.wmoveExt d f b) (laneForm (.wmoveExt d f b)) s

/-- wmove.trld (R259, R260). -/
def execWmoveTrld (m : Fin 8) (f : Src) (b : Fin 8) (s : State) : Host.Outcome State Fault Refusal :=
  performEasel (.wmoveTrld m f b) (laneForm (.wmoveTrld m f b)) s

/-- wmove.trst (R259, R261). -/
def execWmoveTrst (m : Fin 8) (f : Src) (b : Fin 8) (s : State) : Host.Outcome State Fault Refusal :=
  performEasel (.wmoveTrst m f b) (laneForm (.wmoveTrst m f b)) s

/-- wmove.mpop (R258). -/
def execWmoveMpop (m : Fin 8) (d : Dst) (s : State) : Host.Outcome State Fault Refusal :=
  performEasel (.wmoveMpop m d) (laneForm (.wmoveMpop m d)) s

/-- wcvt.up (R262). -/
def execWcvtUp (ty : LaneTy) (m d x y : Fin 8) (s : State) : Host.Outcome State Fault Refusal :=
  performEasel (.wcvtUp ty m d x y) (laneForm (.wcvtUp ty m d x y)) s

/-- wcvt.down (R262). -/
def execWcvtDown (ty : LaneTy) (m d x y : Fin 8) (s : State) : Host.Outcome State Fault Refusal :=
  performEasel (.wcvtDown ty m d x y) (laneForm (.wcvtDown ty m d x y)) s

/-- wcvt.downsat (R262). -/
def execWcvtDownsat (ty : LaneTy) (m d x y : Fin 8) (s : State) : Host.Outcome State Fault Refusal :=
  performEasel (.wcvtDownsat ty m d x y) (laneForm (.wcvtDownsat ty m d x y)) s

/-- wcvt.toint (R262). -/
def execWcvtToint (ty : LaneTy) (m d x y : Fin 8) (s : State) : Host.Outcome State Fault Refusal :=
  performEasel (.wcvtToint ty m d x y) (laneForm (.wcvtToint ty m d x y)) s

/-- wcvt.fromint (R262). -/
def execWcvtFromint (ty : LaneTy) (m d x y : Fin 8) (s : State) : Host.Outcome State Fault Refusal :=
  performEasel (.wcvtFromint ty m d x y) (laneForm (.wcvtFromint ty m d x y)) s

/-- wsamp.topk (R263). -/
def execWsampTopk (m d x y : Fin 8) (s : State) : Host.Outcome State Fault Refusal :=
  performEasel (.wsampTopk m d x y) (laneForm (.wsampTopk m d x y)) s

/-- wsamp.cbg (R264). -/
def execWsampCbg (m d x y : Fin 8) (s : State) : Host.Outcome State Fault Refusal :=
  performEasel (.wsampCbg m d x y) (laneForm (.wsampCbg m d x y)) s

/-- wsamp.draw (R264). -/
def execWsampDraw (m d x y : Fin 8) (s : State) : Host.Outcome State Fault Refusal :=
  performEasel (.wsampDraw m d x y) (laneForm (.wsampDraw m d x y)) s

/-- wsamp.pick (R265). -/
def execWsampPick (m d x y : Fin 8) (s : State) : Host.Outcome State Fault Refusal :=
  performEasel (.wsampPick m d x y) (laneForm (.wsampPick m d x y)) s

end Sys2Proof.Machine
end

