-- ==== Sys2Proof/Machine/Tile.lean ====
section
/-! DEFINITION. The core tile forms: TALLOC, TFREE, TLD, TST, TZERO (spec/10, R271 to R274). -/

namespace Sys2Proof.Machine

/-- A tile of a launch allocated on a quad (R95, R98, R99, R102): the entry of lowest index, the lowest place, the next
generation. A generation that would pass 0xFFFF runs the scrub sweep first (R103). -/
def allocTile (q : Fin 64) (l : LaunchId) (h : Fin 64) (w : Word) (s : State) : Except Stop State :=
  let x := s.quads.get q
  if !shapeOk w || (x.find l h).isSome then shape
  else if shRows w = 0 || shCols w = 0 then .ok s
  else if launchWide h && (directory s l h).isSome then shape
  else if 64 ≤ (x.tiles.filter fun e => e.2.launch == l).length then shape
  else match x.freeEntry, x.place w with
    | some e, some base =>
      let r := takeGen q s
      .ok (r.2.updQuad q fun y =>
        { y with
          tiles := insertNat y.tiles e
            { launch := l, handle := h, shape := w, base := base, gen := r.1, freeing := false, serial := y.sbNext }
          sbNext := y.sbNext + 1 })
    | _, _ => shape

/-- QGEN cannot advance without a sweep (R102, R103). -/
def needsSweep (x : Quad) : Bool := (nextGen x.liveGens 300 x.qgen.toNat).isNone

/-- A quad starts its scrub sweep (R103). -/
def startSweep (q : Fin 64) (s : State) : State :=
  if (s.quads.get q).sweeping then s
  else post (.tileScrubSweepComplete q) (s.updQuad q fun x => { x with sweeping := true })

/-- During a scrub sweep a tile form stalls; it neither parks nor faults (R103). -/
def awaitSweep (x : Quad) : Except Stop Unit := check (!x.sweeping) (.error .stall)

/-- TALLOC's effect (R271); it does not retire during a sweep, and starts the one it needs. -/
def bodyTalloc (nw : Src) (h : Fin 64) (a : Agent) (s : State) : Except Stop State := do
  awaitSweep (quadOf s a)
  let w ← readSrc s a nw
  match a, s.launchOf a with
  | .strand q _ _, some l => do
    let s' ← allocTile q l h w s
    if shRows w != 0 && shCols w != 0 && needsSweep (s.quads.get q) then .error (.wait (startSweep q s))
    else .ok s'
  | _, _ => illegal

/-- tile.alloc (R271). -/
def execTalloc (nw : Src) (h : Fin 64) (s : State) : Host.Outcome State Fault Refusal :=
  perform (.talloc nw h) (bodyTalloc nw h) s

/-- A full scoreboard parks the form (R109). -/
def needEntries (x : Quad) (n : Nat) : Except Stop Unit := check (sbRoom x n) (.error (.park .scoreboard))

/-- A form that commits at issue: its entry is made, and its write performed when its turn comes (R267). -/
def commitEntry (q : Fin 64) (e : Nat) (gen : Gen) (lo hi : Nat) (o : SbOwner) (s : State) : State :=
  s.updQuad q fun x => runEntries (makeEntry e gen lo hi true o x)

/-- TFREE's effect (R272). -/
def bodyTfree (h : Fin 64) (a : Agent) (s : State) : Except Stop State := do
  awaitSweep (quadOf s a)
  match a, s.launchOf a with
  | .strand q _ _, some l =>
    match (s.quads.get q).find l h with
    | none => if launchWide h && (directory s l h).isSome then shape else .ok s
    | some (e, t) => do
      needEntries (s.quads.get q) 1
      let s1 := s.updQuad q fun x => { x with tiles := insertNat x.tiles e { t with freeing := true } }
      .ok (commitEntry q e t.gen 0 (shRows t.shape - 1) .free s1)
  | _, _ => illegal

/-- tile.free (R272). -/
def execTfree (h : Fin 64) (s : State) : Host.Outcome State Fault Refusal := perform (.tfree h) (bodyTfree h) s

/-- A bound handle of the issuing quad (R268). -/
def boundTile (s : State) (a : Agent) (h : Fin 64) : Except Stop (Nat × Tile) :=
  match handleOf s a h.val with
  | some p => .ok p
  | none => shape

/-- The element word (R273): DROW, ROW, COL, TOTILE. -/
def ewRow (w : Word) : Nat := bits w 47 32
def ewCol (w : Word) : Nat := bits w 31 16
def ewDrow (w : Word) : Nat := bits w 63 48

/-- The checks of R273 that every element word passes. -/
def elementOk (t : Tile) (w : Word) : Bool :=
  bits w 15 1 == 0 && !shPlanes t.shape && decide (ewRow w < shRows t.shape) && decide (ewCol w < shCols t.shape)

/-- The value tile.ld returns (R274). -/
def elementValue (x : Quad) (strict : Bool) (t : Tile) (w : Word) : Except Stop Word :=
  if shAcc t.shape then
    let row := readAccRow x t (ewRow w)
    match accRead row (ewCol w) with
    | .ok v => .ok (wd (v + if row.sat then 2 ^ 63 else 0))
    | .error e => .error e
  else
    match readElem x strict t (ewRow w) (ewCol w) with
    | .ok v =>
      let ty := shType t.shape
      .ok (if ty ≤ 3 || ty == 8 || ty == 9 then sext (tyBits ty) v else wd v)
    | .error e => .error e

/-- No entry of another command before them holds the entries of a tile.ld back (R108). -/
def loadBegins (x : Quad) (c : Fin 4) (k : Fin 24) : Bool :=
  let y := { x with sb := x.sb.filter fun e => e.owner != .load c k }
  (loadEntries x c k).all fun e => !blocked y e

/-- A row or an element that tile.ld reads, with the row it copies to (R273). -/
structure LoadOps where
  src : Nat × Tile
  dst : Option (Nat × Tile)
  word : Word

/-- The checks of an element word (R273) on the tiles of its handles. -/
def loadOk (p : LoadOps) (hb : Fin 64) : Bool :=
  let w := p.word
  let t := p.src.2
  elementOk t w && match p.dst with
    | none => ewDrow w == 0 && hb == 0
    | some (_, t2) => !shPlanes t2.shape && decide (ewDrow w < shRows t2.shape) && !shAcc t.shape && !shAcc t2.shape &&
      shType t.shape == shType t2.shape && shCols t.shape == shCols t2.shape

/-- The tiles of a tile.ld, resolved at its issue and checked (R268, R273). -/
def loadOps (ha hb : Fin 64) (w : Word) (a : Agent) (s : State) : Except Stop LoadOps := do
  let src ← boundTile s a ha
  let dst ← if bitAt w 0 then (do let t ← boundTile s a hb; .ok (some t)) else .ok none
  let p : LoadOps := { src := src, dst := dst, word := w }
  check (loadOk p hb) shape
  .ok p

/-- Its ranges: the row read, then the row written (R107). -/
def loadClaims (p : LoadOps) : List Claim :=
  { tile := p.src.1, gen := p.src.2.gen, lo := ewRow p.word, hi := ewRow p.word, write := false } ::
    (match p.dst with
      | some (e, t) => [{ tile := e, gen := t.gen, lo := ewDrow p.word, hi := ewDrow p.word, write := true }]
      | none => [])

/-- The tiles of a tile.ld that has waited, by its entries: a tile stands while it has entries (R272). -/
def waitedOps (x : Quad) (w : Word) (es : List SbEnt) : Except Stop LoadOps :=
  let at_ := fun (e : SbEnt) => (x.entry e.tile).map fun t => (e.tile, t)
  match es with
  | e :: rest => match at_ e with
    | some p => .ok { src := p, dst := rest.head?.bind at_, word := w }
    | none => shape
  | [] => shape

/-- What tile.ld does at its turn (R274): the element's value, or the row copied. -/
def loadEffect (q : Fin 64) (p : LoadOps) (la : Nat) (a : Agent) (s : State) : Except Stop State :=
  let x := s.quads.get q
  let w := p.word
  let t := p.src.2
  match p.dst with
  | none => do
    let v ← elementValue x (s.strict a) t w
    .ok (longResult s a la .push v 0)
  | some (e2, t2) => do
    let bs ← readTile x (s.strict a) t (rowOff t (ewRow w)) (rowBytes (shCols t.shape) (tyBits (shType t.shape)))
    .ok (windowResult (s.updQuad q fun y =>
      noteWrite e2 t2.gen (ewDrow w) (ewDrow w) (writeTile t2 (rowOff t2 (ewDrow w)) bs y)) a la .drop 0)

/-- TLD's effect (R274). It makes its entries at issue; behind an earlier access the strand waits with its entries in the board
until it is their turn (R107, R108). -/
def bodyTld (nw : Src) (ha hb : Fin 64) (la : Nat) (a : Agent) (s : State) : Except Stop State :=
  match a with
  | .strand q c k =>
    let x := s.quads.get q
    match loadEntries x c k with
    | [] => do
      awaitSweep x
      let w ← readSrc s a nw
      let p ← loadOps ha hb w a s
      let cs := loadClaims p
      needEntries x cs.length
      if claimsBegin x cs then loadEffect q p la a s
      else .error (.wait ((s.updQuad q (makeEntries (.load c k) cs)).updCtx a fun y => { y with latch := some [w] }))
    | es =>
      match waitedFault (s.ctx a).waited (s.ctx a) with
      | some (r, kd, cs, v) => .error (.faultIn kd cs v (dropLoads q c k (deliverFault a r s)))
      | none =>
        if !loadBegins x c k then .error .stall
        else do
          let ws ← operands a [nw] s
          let p ← waitedOps x (ws.getD 0 0) es
          match loadEffect q p la a s with
          | .ok s1 => .ok (dropLoads q c k (dropCancelled a (s.ctx a).waited s1))
          | .error (.fault kd cs v) => .error (.faultIn kd cs v (dropLoads q c k s))
          | .error e => .error e
  | .hart .. | .weir _ | .cmd _ | .sec => illegal

/-- tile.ld (R274). -/
def execTld (nw : Src) (ha hb : Fin 64) (la : Fin 16) (s : State) : Host.Outcome State Fault Refusal :=
  perform (.tld nw ha hb la) (bodyTld nw ha hb la.val) s

/-- TST's effect (R274): the element takes q1. -/
def bodyTst (nw : Src) (h : Fin 64) (a : Agent) (s : State) : Except Stop State := do
  awaitSweep (quadOf s a)
  let w ← readSrc s a nw
  let v ← readSrc s a (.q 0)
  let (e, t) ← boundTile s a h
  match a with
  | .strand q _ _ =>
    check (elementOk t w && ewDrow w == 0 && !bitAt w 0) shape
    needEntries (s.quads.get q) 1
    .ok (commitEntry q e t.gen (ewRow w) (ewRow w) (.put (ewCol w) v) s)
  | .hart .. | .weir _ | .cmd _ | .sec => illegal

/-- tile.st (R274). -/
def execTst (nw : Src) (h : Fin 64) (s : State) : Host.Outcome State Fault Refusal := perform (.tst nw h) (bodyTst nw h) s

/-- TZERO's effect (R273, R274). -/
def bodyTzero (nw : Src) (h : Fin 64) (a : Agent) (s : State) : Except Stop State := do
  awaitSweep (quadOf s a)
  let w ← readSrc s a nw
  let (e, t) ← boundTile s a h
  match a with
  | .strand q _ _ =>
    let r := bits w 47 32
    let n := bits w 15 0
    check (bits w 63 48 == 0 && bits w 31 16 == 0 && !shPlanes t.shape && decide (r < shRows t.shape) &&
      decide (r + n ≤ shRows t.shape)) shape
    if n = 0 then .ok s
    else
      needEntries (s.quads.get q) 1
      .ok (commitEntry q e t.gen r (r + n - 1) .zero s)
  | .hart .. | .weir _ | .cmd _ | .sec => illegal

/-- tile.zero (R274). -/
def execTzero (nw : Src) (h : Fin 64) (s : State) : Host.Outcome State Fault Refusal :=
  perform (.tzero nw h) (bodyTzero nw h) s

end Sys2Proof.Machine
end

