-- ==== Sys2Proof/Machine/Canvas.lean ====
section
/-! DEFINITION. The canvas and the drain: CLOAD, CPASS, CDRAIN, CZERO (spec/10, R275 to R283; spec/03, R73 to R85). -/

namespace Sys2Proof.Machine

/-! ## Weights (R73, R74, R275, R276) -/

/-- Significand planes of a float weight format; 0 for the integer formats and bin. -/
def fullPlanes : Nat → Nat
  | 11 => 4 | 13 => 2 | _ => 0

def intWeights (fmt : Nat) : Bool := fullPlanes fmt == 0

/-- The declared significand planes of a binding. -/
def declPlanes (fmt pln : Nat) : Nat := if pln = 0 then fullPlanes fmt else pln

/-- Kept rows of the window (R275). -/
def winRows (w : Word) (row0 : Nat) : Nat := min 96 (shRows w - row0)

/-- Dense positions of the window, and its blocks of 48 (R275). -/
def winDense (w : Word) (row0 : Nat) : Nat := winRows w row0 * 12 / keptOf (shSparse w)
def winBlocks (w : Word) (row0 : Nat) : Nat := ceilDiv (winDense w row0) 48
def winD0 (w : Word) (row0 : Nat) : Nat := row0 * 12 / keptOf (shSparse w)

/-- The window's planes, each 96 bits a kept row, and its metadata, 1,152 bits a group; a plane that is not declared is
not read and holds 0. -/
structure Window where
  planes : List Nat
  masks : Nat
  deriving DecidableEq, Repr

/-- Planes that a declaration of `n` significand planes reads (R74). -/
def planeRead (fmt n p : Nat) : Bool := intWeights fmt || decide (p < n) || decide (fullPlanes fmt ≤ p)

def readPlanes (x : Quad) (strict : Bool) (t : Tile) (row0 n : Nat) : List Nat → Except Stop (List Nat)
  | [] => .ok []
  | p :: ps => do
    let bs ← if planeRead (shType t.shape) n p then
        readTile x strict t (p * shRows t.shape * 12 + row0 * 12) (winRows t.shape row0 * 12)
      else .ok []
    let rest ← readPlanes x strict t row0 n ps
    .ok (leNat bs :: rest)

/-- The window of a weight tile under gen_check (R277). -/
def readWindow (x : Quad) (strict : Bool) (t : Tile) (row0 n : Nat) : Except Stop Window := do
  let p := (planesOf (shType t.shape)).getD 1
  let planes ← readPlanes x strict t row0 n (List.range p)
  let k := keptOf (shSparse t.shape)
  let bs ← if shSparse t.shape = 0 then .ok []
    else readTile x strict t (p * shRows t.shape * 12 + 144 * (row0 / k)) (144 * (winRows t.shape row0 / k))
  .ok { planes := planes, masks := leNat bs }

def natBit (n k : Nat) : Bool := n / 2 ^ k % 2 == 1

/-- Bits of planes [p, p + n) at a place, most significant first. -/
def planeField (ps : List Nat) (p n k : Nat) : Nat :=
  (List.range n).foldl (fun v i => 2 * v + (natBit (ps.getD (p + i) 0) k).toNat) 0

/-- The latched weight of kept row `k` of the window in column `c` (R73, R74). -/
def keptWeight (fmt n : Nat) (ps : List Nat) (k c : Nat) : Xr :=
  let at_ := k * 96 + c
  match fmt with
  | 11 => latchFloat 7 4 n (natBit (ps.getD 8 0) at_) (planeField ps 4 4 at_) (planeField ps 0 4 at_) (planeField ps 4 4 at_ == 15)
  | 13 => latchFloat 1 2 n (natBit (ps.getD 4 0) at_) (planeField ps 2 2 at_) (planeField ps 0 2 at_) false
  | 10 => .ofInt (if natBit (ps.getD 0 0) at_ then -1 else 1)
  | _ => .ofInt (sInt (tyBits fmt) (planeField ps 0 (tyBits fmt) at_))

/-- Dense position `d` of a group is kept in column `c` (R276). -/
def keptBit (m g d c : Nat) : Bool := natBit m (g * 1152 + 96 * d + c)

/-- The weight of column `c` at dense position `d` of the window; positions past it or not kept carry 0 (R275, R276). -/
def denseWeight (sh : Word) (row0 n : Nat) (w : Window) (d c : Nat) : Xr :=
  if winDense sh row0 ≤ d then .ofInt 0
  else if shSparse sh = 0 then keptWeight (shType sh) n w.planes d c
  else
    let k := keptOf (shSparse sh)
    let g := d / 12
    let t := ((List.range (d % 12)).filter fun j => keptBit w.masks g j c).length
    if keptBit w.masks g (d % 12) c && decide (t < k) then keptWeight (shType sh) n w.planes (g * k + t) c else .ofInt 0

/-- Every group of the window keeps exactly N positions in every column (R276). -/
def metaOk (sh : Word) (row0 : Nat) (w : Window) : Bool :=
  let k := keptOf (shSparse sh)
  shSparse sh == 0 || (List.range (winRows sh row0 / k)).all fun g => (List.range 96).all fun c =>
    ((List.range 12).filter fun j => keptBit w.masks g j c).length == k

/-! ## CLOAD (R275 to R278) -/

/-- The planes declaration of a format word is legal for the format and form (R277). -/
def plnOk (ext : Bool) (fmt pln : Nat) : Bool :=
  if intWeights fmt then pln == 0 || some pln == planesOf fmt
  else if ext then decide (pln ≤ fullPlanes fmt) else pln == 0 || pln + 1 == fullPlanes fmt

/-- The scale rows a window reads: row 0 in tile mode, the rows of its blocks in block mode (R277). -/
def scaleRows (sh : Word) (row0 : Nat) (smode : Bool) : Nat × Nat :=
  if smode then (winD0 sh row0 / 48, winD0 sh row0 / 48 + winBlocks sh row0 - 1) else (0, 0)

/-- The scale tile matches the window (R277). -/
def scaleOk (sh : Word) (row0 : Nat) (smode : Bool) (t : Tile) : Bool :=
  !shAcc t.shape && !shPlanes t.shape &&
  (if smode then shType t.shape == 18 && shCols t.shape == 96 && decide ((scaleRows sh row0 true).2 < shRows t.shape)
   else shType t.shape == 16 && decide (row0 / 96 < shCols t.shape))

/-- The operands of a CLOAD checked (R277), but for its metadata: the binding it makes. -/
def loadBinding (ext : Bool) (ha hb : Fin 64) (w : Word) (ts : Handles) (a : Agent) (s : State) : Except Stop WBind := do
  let (e, t) ← heldTile ts a s ha.val
  let fmt := shType t.shape
  let row0 := bits w 15 0
  let pln := bits w 19 16
  let scaled := !intWeights fmt && !bitAt w 21
  check (bits w 63 22 == 0 && shPlanes t.shape && !shAcc t.shape && row0 % 96 == 0 && decide (row0 < shRows t.shape) &&
    plnOk ext fmt pln && (ext || decide (shSparse t.shape < 2)) && (scaled || hb == 0)) shape
  let base : WBind :=
    { valid := true, launch := t.launch, shape := t.shape, tgen := t.gen, handle := ha, entry := e, row0 := row0, pln := pln
      smode := bitAt w 20, nosc := bitAt w 21, scEntry := 0, scGen := 0, scHandle := 0 }
  if scaled then
    let (e2, t2) ← heldTile ts a s hb.val
    check (scaleOk t.shape row0 (bitAt w 20) t2) shape
    .ok { base with scEntry := e2, scGen := t2.gen, scHandle := hb }
  else .ok base

/-- Whether a binding has a scale tile. -/
def WBind.scaled (b : WBind) : Bool := !intWeights (shType b.shape) && !b.nosc

/-- The ranges of the weight window and its scales (R278). -/
def bindClaims (entry : Bool) (b : WBind) : List Claim :=
  let sc := scaleRows b.shape b.row0 b.smode
  { tile := b.entry, gen := b.tgen, lo := b.row0, hi := b.row0 + winRows b.shape b.row0 - 1, write := false, entry := entry } ::
    (if b.scaled then [{ tile := b.scEntry, gen := b.scGen, lo := sc.1, hi := sc.2, write := false, entry := entry }] else [])

/-- The tile of an entry and generation, when it still stands (R111). -/
def boundEntry (x : Quad) (e : Nat) (g : Gen) : Option Tile :=
  match x.entry e with
  | some t => if t.gen == g then some t else none
  | none => none

/-- The scales of a window as the canvas latches them: one of tile mode, or 96 for each block (R277, R111). -/
def readScales (x : Quad) (strict : Bool) (b : WBind) : Except Stop (List Nat) :=
  if !b.scaled then .ok []
  else match boundEntry x b.scEntry b.scGen with
    | none => if strict then tilegen else .ok []
    | some t =>
      if b.smode then do
        let sc := scaleRows b.shape b.row0 true
        let bs ← readTile x strict t (rowOff t sc.1) ((sc.2 + 1 - sc.1) * 192)
        .ok ((List.range ((sc.2 + 1 - sc.1) * 96)).map fun i => fieldAt bs (2 * i) 2)
      else do
        let v ← readElem x strict t 0 (b.row0 / 96)
        .ok [v]

/-- The tile of a binding: its handle still bound, to the tile of the binding's generation (R111). -/
def bindingTile (x : Quad) (b : WBind) : Option Tile :=
  match x.find b.launch b.handle with
  | some (e, t) => if e == b.entry && t.gen == b.tgen then some t else none
  | none => none

/-- The planes of a binding that is no longer bound: they read as stale granules do (R45, R111). -/
def staleWindow (strict : Bool) : Except Stop Window := if strict then tilegen else .ok { planes := [], masks := 0 }

/-- The window of a binding under gen_check. -/
def bindingWindow (x : Quad) (strict : Bool) (b : WBind) : Except Stop Window :=
  match bindingTile x b with
  | some t => readWindow x strict t b.row0 (declPlanes (shType b.shape) b.pln)
  | none => staleWindow strict

/-- What a load or a reload latches: the window and its scales under gen_check (R110, R111). -/
def latch (x : Quad) (strict : Bool) (b : WBind) : Except Stop (Window × List Nat) := do
  let w ← bindingWindow x strict b
  let sc ← readScales x strict b
  .ok (w, sc)

/-- What a pass multiplies by: what it reloads, or what the canvas has latched; the weights of a binding that is bound no longer
read as stale with or without a reload (R110, R111). -/
def passWeights (x : Quad) (strict reload : Bool) (b : WBind) : Except Stop (Window × List Nat) :=
  match reload, x.canvas with
  | false, some c => do
    let w ← if (bindingTile x b).isSome then .ok { planes := c.planes, masks := c.masks } else staleWindow strict
    .ok (w, c.scales)
  | _, _ => latch x strict b

/-- The canvas with a binding and what it latches. -/
def canvasOf (b : WBind) (l : Window × List Nat) : Canvas :=
  let sc := scaleRows b.shape b.row0 b.smode
  { decl := b, rowLo := b.row0, rowHi := b.row0 + winRows b.shape b.row0 - 1, scLo := sc.1, scHi := sc.2, stale := false
    planes := l.1.planes, masks := l.1.masks, scales := l.2 }

def loadForm (ext : Bool) (nw : Src) (ha hb : Fin 64) : EForm :=
  { unit := .canvas, srcs := [nw], handles := fun _ => [ha, hb]
    claims := fun ops ts a s => match loadBinding ext ha hb (opAt ops 0) ts a s with
      | .ok b => bindClaims true b
      | .error _ => []
    effect := fun ops ts a s => do
      let b ← loadBinding ext ha hb (opAt ops 0) ts a s
      let l ← latch (quadOf s a) (s.strict a) b
      check (metaOk b.shape b.row0 l.1) shape
      let s1 := updLaneCore a (fun y => { y with wbind := b }) s
      .ok (updQuadOf a (fun x => { x with canvas := some (canvasOf b l) }) s1) }

/-! ## CPASS (R279 to R281) -/

/-- The fields of a window word (R279). -/
def pwRows (w : Word) : Nat := bits w 25 16
def pwAcc (w : Word) : Nat := bits w 34 26
def pwRow (w : Word) : Nat := bits w 15 0
def pwK (w : Word) : Nat := bits w 50 35
def pwTy (w : Word) : Nat := bits w 55 51

/-- A pass with its operands: the activation, accumulator and scale tiles with their entries, and the core's binding. -/
structure PassOps where
  act : Nat × Tile
  acc : Nat × Tile
  scale : Option (Nat × Tile)
  bind : WBind

def PassOps.intMode (p : PassOps) : Bool := shType p.act.2.shape == 0 && intWeights (shType p.bind.shape)
def PassOps.blocks (p : PassOps) : Nat := winBlocks p.bind.shape p.bind.row0

/-- The activation scale tile of a float pass (R280). -/
def passScale (ts : Handles) (a : Agent) (s : State) (w : Word) (nblk : Nat) (intMode : Bool) : Except Stop (Option (Nat × Tile)) :=
  if intMode then .ok none
  else if bitAt w 62 then (do check (bits w 61 56 == 0) shape; .ok none)
  else do
    let (e, t) ← heldTile ts a s (bits w 61 56)
    check (!shAcc t.shape && !shPlanes t.shape && shType t.shape == 16 && decide (pwRow w + pwRows w ≤ shRows t.shape) &&
      decide ((pwK w + 48 * (nblk - 1)) / 96 < shCols t.shape)) shape
    .ok (some (e, t))

/-- The checks of R280. -/
def passOps (ext : Bool) (ha hb : Fin 64) (w : Word) (ts : Handles) (a : Agent) (s : State) : Except Stop PassOps := do
  let b := (laneCore s a).wbind
  let (e, t) ← heldTile ts a s ha.val
  let (e2, t2) ← heldTile ts a s hb.val
  let ty := pwTy w
  check (!bitAt w 63 && decide (pwRows w ≤ 512) && pwK w % 48 == 0 && (ty == 0 || ty == 11 || ty == 12 || ty == 14) &&
    !shAcc t.shape && !shPlanes t.shape && shType t.shape == ty && decide (pwRow w + pwRows w ≤ shRows t.shape) &&
    shAcc t2.shape && decide (pwAcc w + pwRows w ≤ shRows t2.shape) && b.valid && (ext || decide (shSparse b.shape < 2))) shape
  let sc ← passScale ts a s w (winBlocks b.shape b.row0) (ty == 0 && intWeights (shType b.shape))
  .ok { act := (e, t), acc := (e2, t2), scale := sc, bind := b }

/-- The canvas must reload before the pass (R110). -/
def mustReload (x : Quad) (b : WBind) : Bool :=
  match x.canvas with
  | none => true
  | some c => c.decl != b || c.stale

/-- The ranges of a pass (R281); one that reloads also waits for the writes before it to its window and scales (R78). -/
def passClaims (ext : Bool) (ha hb : Fin 64) (ops : List Word) (ts : Handles) (a : Agent) (s : State) : List Claim :=
  let w := opAt ops 0
  match passOps ext ha hb w ts a s with
  | .error _ => []
  | .ok p =>
    if pwRows w = 0 then []
    else
      let rows := fun (t : Nat × Tile) (lo : Nat) (wr : Bool) =>
        ({ tile := t.1, gen := t.2.gen, lo := lo, hi := lo + pwRows w - 1, write := wr } : Claim)
      rows p.act (pwRow w) false :: (match p.scale with | some t => [rows t (pwRow w) false] | none => []) ++
        [rows p.acc (pwAcc w) true] ++ (if mustReload (quadOf s a) p.bind then bindClaims false p.bind else [])

/-- The activations a row brings to the blocks: element k of the row, 0 past its columns (R281). -/
def actRow (x : Quad) (strict : Bool) (t : Tile) (r k0 n : Nat) : Except Stop (List Xr) := do
  let b := tyBits (shType t.shape) / 8
  let here := min n (shCols t.shape - k0)
  let bs ← readTile x strict t (rowOff t r + k0 * b) (here * b)
  .ok ((List.range n).map fun i =>
    if i < here then activation (shType t.shape) (fieldAt bs (i * b) b) else .ofInt 0)

/-- The activation scales of a row's blocks (R281). -/
def actScales (x : Quad) (strict : Bool) (t : Tile) (r k0 : Nat) : List Nat → Except Stop (List Xr)
  | [] => .ok []
  | j :: js => do
    let v ← readElem x strict t r ((k0 + 48 * j) / 96)
    let vs ← actScales x strict t r k0 js
    .ok (fF32.val v :: vs)

/-- The weight scale of a block and column (R281). No rule gives one to the integer weights of a float-mode pass: their hb is not
read and NOSC is ignored (R277); it is 1.0, as with NOSC (DESIGN CHOICE, log 47). -/
def wScale (b : WBind) (sc : List Nat) (j c : Nat) : Xr :=
  if !b.scaled then .fin false 1 1
  else if b.smode then bs12Val (sc.getD (j * 96 + c) 0) else fF32.val (sc.getD 0 0)

def xrInt : Xr → Int
  | .fin s n _ => sgn s n
  | .nan _ | .inf _ => 0

/-- The exact integer sum of a block (R80). -/
def intBlock : List Xr → List Xr → Int
  | x :: xs, y :: ys => xrInt x * xrInt y + intBlock xs ys
  | _, _ => 0

/-- The blocks of one accumulator entry, in increasing order (R281): the new value, and whether it clamped. -/
def passEntry (p : PassOps) (sc : List Nat) (weights : Nat → List Xr) (acts : List Xr) (as_ : List Xr) (c : Nat) :
    List Nat → Nat × Bool → Nat × Bool
  | [], r => r
  | j :: js, r =>
    let a := (acts.drop (48 * j)).take 48
    let w := weights j
    let r1 := if p.intMode then
        let v := clamp34 (sInt 34 r.1 + intBlock a w)
        (v.1, r.2 || v.2)
      else (promote r.1 (blockSum a w) (as_.getD j (.fin false 1 1)) (wScale p.bind sc j c), r.2)
    passEntry p sc weights acts as_ c js r1

/-- One row of a pass: the accumulator row it leaves (R81, R85, R281). -/
def passRow (x : Quad) (strict : Bool) (p : PassOps) (cols : List (List (List Xr))) (sc : List Nat) (w : Word) (r : Nat) :
    Except Stop AccRow := do
  let n := p.blocks
  let acts ← actRow x strict p.act.2 (pwRow w + r) (pwK w) (48 * n)
  let as_ ← match p.scale with
    | some t => actScales x strict t.2 (pwRow w + r) (pwK w) (List.range n)
    | none => .ok []
  let old := readAccRow x p.acc.2 (pwAcc w + r)
  let vals ← (List.range 96).mapM fun c => do
    let v ← accRead old c
    .ok (passEntry p sc (fun j => (cols.getD c []).getD j []) acts as_ c (List.range n) (v, false))
  .ok { data := Vector.ofFn fun (c : Fin 96) => accEntry ((vals.getD c.val (0, false)).1)
        tag := p.acc.2.gen, sat := old.sat || vals.any fun v => v.2, scr := false }

/-- The rows of a pass, all read before any is written (R78). -/
def passRows (x : Quad) (strict : Bool) (p : PassOps) (cols : List (List (List Xr))) (sc : List Nat) (w : Word) :
    List Nat → Except Stop (List (Nat × AccRow))
  | [] => .ok []
  | r :: rs => do
    let v ← passRow x strict p cols sc w r
    let vs ← passRows x strict p cols sc w rs
    .ok ((p.acc.2.base + pwAcc w + r, v) :: vs)

/-- The weights of every column, block by block. -/
def columnWeights (b : WBind) (l : Window) : List (List (List Xr)) :=
  (List.range 96).map fun c => (List.range (winBlocks b.shape b.row0)).map fun j =>
    (List.range 48).map fun i => denseWeight b.shape b.row0 (declPlanes (shType b.shape) b.pln) l (48 * j + i) c

/-- The injector strikes in this pass (R383). -/
def injected (x : Quad) (nblk : Nat) : Bool :=
  x.inj.toNat % 2 == 1 && decide (x.inj.toNat / 256 < nblk) && decide (x.inj.toNat / 2 % 128 < 96)

/-- A column retires to the lowest unused spare, with its event and count (R84). -/
def retireColumn (q : Fin 64) (s : State) : State :=
  let x := s.quads.get q
  let lc := x.inj.toNat / 2 % 128
  let ev : EvEnt :=
    { ctc := BitVec.ofNat 32 s.ctc.toNat, inj := true, block := BitVec.ofNat 8 (x.inj.toNat / 256)
      pcol := BitVec.ofNat 7 (96 + x.spares), lcol := BitVec.ofNat 7 lc, quad := BitVec.ofNat 6 q.val }
  let log := s.mg.evlog ++ [ev]
  { s.updQuad q fun y =>
      { y with colmap := insertNat y.colmap lc (96 + y.spares), spares := y.spares + 1, retired := y.retired + 1
               inj := y.inj &&& 0xFFFE } with
    mg := { s.mg with evlog := log.drop (log.length - 64) } }

/-- A pass (R281). -/
def passEffect (ext : Bool) (ha hb : Fin 64) (ops : List Word) (ts : Handles) (a : Agent) (s : State) : Except Stop State := do
  let w := opAt ops 0
  let p ← passOps ext ha hb w ts a s
  if pwRows w = 0 then .ok s
  else
    match a with
    | .strand q _ _ =>
      let x := s.quads.get q
      let reload := mustReload x p.bind
      let l ← passWeights x (s.strict a) reload p.bind
      let rows ← passRows x (s.strict a) p (columnWeights p.bind l.1) l.2 w (List.range (pwRows w))
      let hit := injected x p.blocks
      if hit && decide (2 ≤ x.spares) then .error (.faultIn 10 1 0 (s.updQuad q fun y => { y with inj := y.inj &&& 0xFFFE }))
      else
        let s1 := if hit then retireColumn q s else s
        let s2 := s1.updQuad q fun y => { y with canvas := if reload then some (canvasOf p.bind l) else y.canvas }
        .ok (writeHeld a p.acc (fun y => { y with acc := rows.foldl (fun m e => insertNat m e.1 e.2) y.acc }) s2)
    | .hart .. | .weir _ | .cmd _ | .sec => illegal

/-- The handles of a pass: those of its word, and the scale tile's unless NOSC is set (R279, R280). -/
def passHandles (ha hb : Fin 64) (ops : List Word) : List (Fin 64) := [ha, hb, Fin.ofNat 64 (bits (opAt ops 0) 61 56)]

def passForm (ext : Bool) (nw : Src) (ha hb : Fin 64) : EForm :=
  { unit := .canvas, srcs := [nw], handles := passHandles ha hb, claims := passClaims ext ha hb, effect := passEffect ext ha hb }

/-! ## CDRAIN and CZERO (R282, R283) -/

def dwRow (w : Word) : Nat := bits w 18 10
def dwRows (w : Word) : Nat := bits w 9 0
def dwKind (w : Word) : Nat := bits w 21 19

/-- The destination type of a drain kind (R282). -/
def drainType : Nat → Option Nat
  | 0 => some 16 | 1 => some 14 | 2 => some 11 | 3 => some 2 | 4 => some 0 | 5 => some 2 | 6 => some 0 | _ => none

/-- The checks of a drain word or a row word on the accumulator tile (R282). -/
def drainSource (ha : Fin 64) (w : Word) (ts : Handles) (a : Agent) (s : State) : Except Stop (Nat × Tile) := do
  let (e, t) ← heldTile ts a s ha.val
  check (bits w 23 22 == 0 && decide (dwRows w ≤ 512) && shAcc t.shape && decide (dwRow w + dwRows w ≤ shRows t.shape)) shape
  .ok (e, t)

def drainOps (ha hb : Fin 64) (w : Word) (ts : Handles) (a : Agent) (s : State) : Except Stop ((Nat × Tile) × (Nat × Tile)) := do
  let src ← drainSource ha w ts a s
  let (e, t) ← heldTile ts a s hb.val
  check (some (shType t.shape) == drainType (dwKind w) && !shAcc t.shape && !shPlanes t.shape && shCols t.shape == 96 &&
    decide (dwRow w + dwRows w ≤ shRows t.shape)) shape
  .ok (src, (e, t))

def drainClaims (ha hb : Fin 64) (ops : List Word) (ts : Handles) (a : Agent) (s : State) : List Claim :=
  let w := opAt ops 0
  match drainOps ha hb w ts a s with
  | .error _ => []
  | .ok p =>
    if dwRows w = 0 then []
    else [{ tile := p.1.1, gen := p.1.2.gen, lo := dwRow w, hi := dwRow w + dwRows w - 1, write := false },
          { tile := p.2.1, gen := p.2.2.gen, lo := dwRow w, hi := dwRow w + dwRows w - 1, write := true }]

/-- An entry converted (R82). -/
def drainValue (w : Word) (v : Nat) : Nat :=
  let rs := fF32.val (bits w 63 32)
  let zp := sInt 8 (bits w 31 24)
  let s32 := fun (x : Xr) => wrap 32 (drainInt (-(2 ^ 31)) (2 ^ 31 - 1) x rs zp)
  let s8 := fun (x : Xr) => wrap 8 (drainInt (-128) 127 x rs zp)
  match dwKind w with
  | 0 => (roundFmt fF32 false .rne (fFx34.val v)).1
  | 1 => (roundFmt fBf16 false .rne (fFx34.val v)).1
  | 2 => (roundFmt fE4m3 true .rne (fFx34.val v)).1
  | 3 => s32 (fFx34.val v)
  | 4 => s8 (fFx34.val v)
  | 5 => s32 (.ofInt (sInt 34 v))
  | _ => s8 (.ofInt (sInt 34 v))

/-- The bytes of drained rows, every residue checked before anything is written (R283). -/
def drainRows (x : Quad) (src dst : Tile) (w : Word) : List Nat → Except Stop (List (Nat × List Byte))
  | [] => .ok []
  | r :: rs => do
    let row := readAccRow x src (dwRow w + r)
    let n := tyBits (shType dst.shape) / 8
    let vals ← (List.range 96).mapM fun c => accRead row c
    let rest ← drainRows x src dst w rs
    .ok ((rowOff dst (dwRow w + r), vals.flatMap fun v => leBytes n (drainValue w v)) :: rest)

def drainEffect (ha hb : Fin 64) (ops : List Word) (ts : Handles) (a : Agent) (s : State) : Except Stop State := do
  let w := opAt ops 0
  let p ← drainOps ha hb w ts a s
  let x := quadOf s a
  let rs := List.range (dwRows w)
  let rows ← drainRows x p.1.2 p.2.2 w rs
  let sat := (dwKind w == 5 || dwKind w == 6) && rs.any fun r => (readAccRow x p.1.2 (dwRow w + r)).sat
  let s1 := writeHeld a p.2 (fun y => rows.foldl (fun z e => writeTile p.2.2 e.1 e.2 z) y) s
  .ok (raiseFlags a (if sat then flOF else 0) s1)

def drainForm (nw : Src) (ha hb : Fin 64) : EForm :=
  { unit := .drain, srcs := [nw], handles := fun _ => [ha, hb], claims := drainClaims ha hb, effect := drainEffect ha hb }

def czeroForm (nw : Src) (ha : Fin 64) : EForm :=
  { unit := .drain, srcs := [nw], handles := fun _ => [ha]
    claims := fun ops ts a s =>
      let w := opAt ops 0
      match drainSource ha w ts a s with
      | .ok (e, t) => if dwRows w = 0 || bits w 63 19 != 0 then [] else
          [{ tile := e, gen := t.gen, lo := dwRow w, hi := dwRow w + dwRows w - 1, write := true }]
      | .error _ => []
    effect := fun ops ts a s => do
      let w := opAt ops 0
      let (e, t) ← drainSource ha w ts a s
      check (bits w 63 19 == 0) shape
      .ok (if dwRows w = 0 then s else writeHeld a (e, t) (zeroRows t (dwRow w) (dwRow w + dwRows w - 1)) s) }

/-! ## The forms -/

/-- What each canvas form reads, claims and does. -/
def canvasForm : Instr → EForm
  | .cload nw ha hb _ => loadForm false nw ha hb
  | .cpass nw ha hb _ => passForm false nw ha hb
  | .cdrain nw ha hb _ => drainForm nw ha hb
  | .czero nw ha _ => czeroForm nw ha
  | .canvasxLoad nw ha hb _ => loadForm true nw ha hb
  | .canvasxPass nw ha hb _ => passForm true nw ha hb
  | _ => noForm

/-- What an easel form reads, claims and does. -/
def easelForm (i : Instr) : EForm := if isLane (shapeOf i).major then laneForm (w32Of i) else canvasForm i

/-- canvas.load (R275 to R278). -/
def execCload (nw : Src) (ha hb : Fin 64) (la : Fin 16) (s : State) : Host.Outcome State Fault Refusal :=
  performEasel (.cload nw ha hb la) (canvasForm (.cload nw ha hb la)) s

/-- canvas.pass (R279 to R281). -/
def execCpass (nw : Src) (ha hb : Fin 64) (la : Fin 16) (s : State) : Host.Outcome State Fault Refusal :=
  performEasel (.cpass nw ha hb la) (canvasForm (.cpass nw ha hb la)) s

/-- canvas.drain (R282, R283). -/
def execCdrain (nw : Src) (ha hb : Fin 64) (la : Fin 16) (s : State) : Host.Outcome State Fault Refusal :=
  performEasel (.cdrain nw ha hb la) (canvasForm (.cdrain nw ha hb la)) s

/-- canvas.zero (R282, R283). -/
def execCzero (nw : Src) (ha : Fin 64) (la : Fin 16) (s : State) : Host.Outcome State Fault Refusal :=
  performEasel (.czero nw ha la) (canvasForm (.czero nw ha la)) s

/-- canvasx.load (R277). -/
def execCanvasxLoad (nw : Src) (ha hb : Fin 64) (la : Fin 16) (s : State) : Host.Outcome State Fault Refusal :=
  performEasel (.canvasxLoad nw ha hb la) (canvasForm (.canvasxLoad nw ha hb la)) s

/-- canvasx.pass (R281). -/
def execCanvasxPass (nw : Src) (ha hb : Fin 64) (la : Fin 16) (s : State) : Host.Outcome State Fault Refusal :=
  performEasel (.canvasxPass nw ha hb la) (canvasForm (.canvasxPass nw ha hb la)) s

end Sys2Proof.Machine
end

