-- ==== Sys2Proof/Machine/Control.lean ====
section
/-! DEFINITION. Branches, jumps, calls, loops, special registers, traps and yield points: majors 0x10 to 0x15
(spec/07, R195 to R209). -/

namespace Sys2Proof.Machine

/-! ## Shared operations -/

/-- A taken branch or jump, with its trace record (R51, R379). -/
def jumpTo (a : Agent) (t : Word) (s : State) : State :=
  traceIf a (fun t => t.branch) 1 t.toNat (s.updArch a fun y => y.jump t)

/-- A CALL or RET moves the PC and leaves the loops alone (R197). -/
def moveTo (a : Agent) (t : Word) (s : State) : State := traceIf a (fun t => t.branch) 1 t.toNat (setPc s a t)

/-- mark_queue_dead and mark_named_dead (R58, R196). -/
def Arch.markQueue (y : Arch) : Arch :=
  { y with q := Vector.ofFn fun (k : Fin 16) =>
      if y.cmask.toNat / 2 ^ (16 + k.val) % 2 = 1 then { y.q.get k with tag := 0 } else y.q.get k }

def Arch.markNamed (y : Arch) : Arch :=
  { y with n := Vector.ofFn fun (k : Fin 16) =>
      if y.cmask.toNat / 2 ^ k.val % 2 = 1 then (y.n.get k).dead else y.n.get k }

/-- A CALL's link and dead marks (R196). -/
def link (a : Agent) (s : State) : State :=
  s.updCtx a fun y => { y with arch := (y.arch.setN 14 (y.arch.pc + 4) y.gen).markQueue }

/-- check_target (R196): an odd target raises ALIGN with the address as VALUE. -/
def checkTarget (t : Word) : Except Stop Unit := check (t.toNat % 2 == 0) (alignF t)

/-- A halfword fetched at `pc` (R154, R155). -/
def fetchHalf (a : Agent) (pc : Word) (s : State) : Except Stop (Nat × State) := do
  let r ← resolve (requesterOf s a) .x .exec pc 2 s
  if poisoned r.2 r.1 then memerr (memCause r.2 r.1) pc
  else .ok (leNat (readPieces r.2 r.1), r.2)

/-- The jzdb breakpoint table of the agent's partition holds the PC (R381). -/
def atBreakpoint (s : State) (a : Agent) : Bool :=
  match a with
  | .strand q .. => (s.parts.get (pIdx (s.quads.get q).part)).bps.any fun e => e.1 == (s.arch a).pc
  | .hart .. | .weir _ | .cmd _ | .sec => false

/-- The stop at an armed breakpoint (R381): the word that it displaced executes when jzdb resumes the strand. -/
def breakpointStop (ag : Agent) (s : State) : Stop :=
  match ag with
  | .strand q .. =>
    let e := (s.parts.get (pIdx (s.quads.get q).part)).bps.find? fun e => e.1 == (s.arch ag).pc
    .hold .debug ((commitAll ag s).updCtx ag fun y => { y with displaced := e.map fun e => e.2 })
  | .hart .. | .weir _ | .cmd _ | .sec => .stall

/-- No recoverable trap can be taken: a handler runs already, there is none, or a region is open (R204, R205, R225). -/
def noTrap (s : State) (a : Agent) : Bool :=
  (s.ctx a).sp.intrap || s.traph a == 0 || (s.ctx a).sp.inregion

/-! ## br, jal, jr (R195, R196) -/

/-- br (R195). -/
def execBr (c : Cond) (a b : Src) (off : BitVec 12) (s : State) : Host.Outcome State Fault Refusal :=
  performJump (.br c a b off) (fun ag s => do
    let x ← readSrc s ag a
    let y ← readSrc s ag b
    if condHolds c x y then .ok (jumpTo ag ((s.arch ag).pc + 2 * sext 12 off.toNat) s)
    else .ok (advance (.br c a b off) ag s)) s

/-- jal n14 (R196): a CALL. -/
def execJalCall (off : BitVec 20) (s : State) : Host.Outcome State Fault Refusal :=
  performJump (.jalCall off) (fun ag s =>
    .ok (moveTo ag ((s.arch ag).pc + 2 * sext 20 off.toNat) (link ag s))) s

/-- jal drop (R196, R197): a jump. -/
def execJalJump (off : BitVec 20) (s : State) : Host.Outcome State Fault Refusal :=
  performJump (.jalJump off) (fun ag s => .ok (jumpTo ag ((s.arch ag).pc + 2 * sext 20 off.toNat) s)) s

/-- jr.jump (R196, R197). -/
def execJrJump (a : Src) (s : State) : Host.Outcome State Fault Refusal :=
  performJump (.jrJump a) (fun ag s => do
    let t ← readSrc s ag a
    checkTarget t
    .ok (jumpTo ag t s)) s

/-- jr.call (R196): the target is read before the link is written. -/
def execJrCall (a : Src) (s : State) : Host.Outcome State Fault Refusal :=
  performJump (.jrCall a) (fun ag s => do
    let t ← readSrc s ag a
    checkTarget t
    .ok (moveTo ag t (link ag s))) s

/-- jr.ret (R196, R58). -/
def execJrRet (s : State) : Host.Outcome State Fault Refusal :=
  performJump .jrRet (fun ag s => do
    let t ← readSrc s ag (.n 14)
    checkTarget t
    .ok (moveTo ag t (s.updArch ag fun y => y.markQueue.markNamed))) s

/-! ## loop (R198) -/

/-- A halfword of code as the agent fetches its instructions: a hart from its partition's microcode, from address 0 (log 16). -/
def codeHalf (a : Agent) (pc : Word) (s : State) : Except Stop (Nat × State) :=
  match a with
  | .hart .. | .weir _ => .ok (leNat (readCells (s.parts.get (pIdx (s.partOf a))).ucode pc.toNat 2), s)
  | .strand .. | .cmd _ | .sec => fetchHalf a pc s

/-- The retire of a loop with count 0: past the word at le_k, unless the back-edge of another active loop goes back (R199). -/
def skipLoop (ag : Agent) (k : Fin 2) (f : Ctx → Arch) (past : Word) (s : State) : State :=
  let bit : BitVec 2 := BitVec.ofNat 2 (2 ^ k.val)
  s.updCtx ag fun y =>
    let z : Arch := { f y with act := y.arch.act &&& ~~~ bit }
    let t := z.advance 4 y.gen
    { y with arch := if z.loopsBack 1 || z.loopsBack 0 then t else { t with pc := past } }

/-- loop (R198): the loop registers take the strand's generation; a count of 0 skips the body, past the word at le_k. -/
def execLoopSet (k : Fin 2) (a : Fin 16) (stop : BitVec 15) (s : State) : Host.Outcome State Fault Refusal :=
  performJump (.loopSet k a stop) (fun ag s => do
    let c ← readSrc s ag (.n a)
    let pc := (s.arch ag).pc
    let le := pc + 2 * wd stop.toNat
    let set := fun (y : Ctx) =>
      ((y.arch.setLoop (2 + k.val) (pc + 4) y.gen).setLoop (4 + k.val) le y.gen).setLoop k.val c y.gen
    let bit : BitVec 2 := BitVec.ofNat 2 (2 ^ k.val)
    if c == 0 then
      let r ← codeHalf ag le s
      let len := if r.1 % 2 = 0 then 2 else 4
      .ok (skipLoop ag k set (le + len) r.2)
    else
      .ok (advance (.loopSet k a stop) ag (s.updCtx ag fun y => { y with arch := { set y with act := y.arch.act ||| bit } }))) s

/-! ## sys (R201 to R206) -/

/-- sys.gets (R201): the register's value, as it stands when the form issues. -/
def execGets (d : Dst) (num : BitVec 12) (s : State) : Host.Outcome State Fault Refusal :=
  perform (.gets d num) (fun ag s => do
    let v ← readReg s ag num.toNat
    .ok (writeDst s ag d v)) s

/-- sys.sets (R201, R202): takes effect for the next instruction; the PC moves on first, so that a loop register it
writes does not decide this retire. The source is read first: a dead one in a strict launch raises UNINIT before a bad or privileged
number raises its fault; the spec gives no order (DESIGN CHOICE, log 57). -/
def execSets (a : Src) (num : BitVec 12) (s : State) : Host.Outcome State Fault Refusal :=
  performJump (.sets a num) (fun ag s => do
    let v ← readSrc s ag a
    let s1 ← writeReg ag num.toNat v s
    let pc := ((advance (.sets a num) ag s).arch ag).pc
    let edge := (s.arch ag).backEdge || (s.arch ag).atEnd 0 || (s.arch ag).atEnd 1
    if edge then writeReg ag num.toNat v (advance (.sets a num) ag s)
    else .ok (setPc s1 ag pc)) s

/-- sys.trap (R203 to R205, R381): the trap is taken when the operand is not 0. With operand 0 it retires with no effect, on an
armed breakpoint too (DESIGN CHOICE, log 44). -/
def execTrap (a : Src) (code : BitVec 12) (s : State) : Host.Outcome State Fault Refusal :=
  perform (.trap a code) (fun ag s => do
    let x ← readSrc s ag a
    if x == 0 then .ok s
    else if noTrap s ag then illegal
    else if atBreakpoint s ag && (s.ctx ag).displaced.isNone then .error (breakpointStop ag s)
    else .error (.trap 2 x (s.arch ag).pc)) s

/-- sys.rte (R206). One that stands at the last instruction of a loop which is active in the handler takes no back-edge: it sets the PC
itself, and the spec does not name the case (DESIGN CHOICE, log 57). -/
def execRte (s : State) : Host.Outcome State Fault Refusal :=
  performJump .rte (fun ag s => returnFromTrap ag s) s

/-- sys.brk (R203 to R205, R225, R381): a stop for jzdb at an armed breakpoint, else the trap BRK. -/
def execBrk (a : Src) (code : BitVec 12) (s : State) : Host.Outcome State Fault Refusal :=
  perform (.brk a code) (fun ag s => do
    let x ← readSrc s ag a
    if atBreakpoint s ag && (s.ctx ag).displaced.isNone then .error (breakpointStop ag s)
    else if noTrap s ag then illegal
    else .error (.trap 2 x (s.arch ag).pc)) s

/-- sys.sysc (R203 to R205). -/
def execSysc (a : Src) (code : BitVec 12) (s : State) : Host.Outcome State Fault Refusal :=
  perform (.sysc a code) (fun ag s => do
    let x ← readSrc s ag a
    if noTrap s ag then illegal
    else .error (.trap 3 x ((s.arch ag).pc + 4))) s

/-! ## yield (R22, R207) -/

/-- The pre-emption of the strand's queue is pending (R207, R374). -/
def preemptedSlot (s : State) (a : Agent) : Option (Fin 16) :=
  match s.launchOf a with
  | some l => if (s.slots.get l.hwq).st == .preempting then some l.hwq else none
  | none => none

/-- The strand goes to the tail of the ready list for `w` (R17, R22); a single step ends when it next runs (R382). -/
def yieldTo (q : Fin 64) (c : Fin 4) (k : Fin 24) (w : Option Why) (s : State) : State :=
  let a : Agent := .strand q c k
  let why := if (s.ctx a).sp.sstep && w.isNone then some Why.debug else w
  let s1 := s.updCtx a fun y => { y with st := .ready, why := why, sp := { y.sp with sstep := y.sp.sstep && w.isSome } }
  leaveCore q c k (s1.updCore q c fun x => { x with ready := x.ready ++ [k] })

/-- The tile ranges that a yield's record names (R306). -/
def yieldRanges (s : State) (q : Fin 64) (l : Option Launch) (index : BitVec 12) : List (Fin 64 × Nat × Nat × Nat) :=
  match l with
  | some l => match liveRecord s l index with
    | some r => recordRanges s q l.id r
    | none => []
  | none => []

/-- yield (R207): retires into the save of a pending pre-emption, is taken under R22, or retires not taken. An agent with no
launch has no liveness record, so that every index but 0xFFF is ILLEGAL there (DESIGN CHOICE, log 44). -/
def execYieldPt (index : BitVec 12) (s : State) : Host.Outcome State Fault Refusal :=
  perform (.yieldPt index) (fun ag s =>
    let l := s.launchRec ag
    let recs := match l with | some l => liveRecords s l | none => []
    if index.toNat ≠ 4095 ∧ recs.length ≤ index.toNat then illegal
    else if (s.ctx ag).sp.inregion then .ok s
    else match ag with
      | .strand q c k =>
        match preemptedSlot s ag with
        | some i => .ok (post (.saveComplete i) (yieldTo q c k (some (.saving index (yieldRanges s q l index))) s))
        | none =>
          if 40960 ≤ (s.core q c).quantum ∧ !(s.core q c).ready.isEmpty then
            let dead := match l.bind fun l => liveRecord s l index with
              | some r => r.wlive == 0
              | none => false
            .ok (yieldTo q c k none (if dead && (s.core q c).holder == some k then releaseLease q c s else s))
          else .ok s
      | .hart .. | .weir _ | .cmd _ | .sec => .ok s) s

end Sys2Proof.Machine
end

