-- ==== Sys2Proof/Machine/EvEasel.lean ====
section
/-! DEFINITION. The easel's events: grant, sub-unit completion, scoreboard completion, scrub sweep, GENSCRUB completion
(R103, R108, R109, R123, R295). -/

namespace Sys2Proof.Machine

/-- The queues in the order of the round robin (R123). -/
def grantOrder (x : Quad) : List (Fin 4) := [x.rr, x.rr + 1, x.rr + 2, x.rr + 3]

/-- The head of a core's queue: its first form that waits for a grant. -/
def headForm (x : Core) : Option DqEnt := (waitingForms x).head?

/-- A queue's head is eligible: it can be granted, or a request that it waited on has faulted (R121, R123). -/
def eligible (q : Fin 64) (c : Fin 4) (s : State) : Option DqEnt :=
  match headForm (s.core q c) with
  | none => none
  | some e =>
    let a : Agent := .strand q c e.k
    let fault := (waitedFault e.waited (s.ctx a)).isSome && !engineStopped s (pIdx (s.quads.get q).part) (.easel q)
    if fault || grantable q (easelForm e.ins) e.ops e.tiles a s then some e else none

/-- The first waiting form of a queue is granted. -/
def grantFirst : List DqEnt → List DqEnt
  | [] => []
  | e :: t => if e.phase == .waiting then { e with phase := .granted } :: t else e :: grantFirst t

/-- The registers as they stand when the instructions in a form's window have had no effect (R172). -/
def Ctx.behindForm (y : Ctx) : Arch :=
  match y.fl.pend with
  | [] => y.arch
  | p :: _ => if p.form then p.ckpt else y.arch

/-- An issued form that is to have no effect: the registers its issue changed come back, and what its window holds is cancelled
(R172, R246, R268). -/
def undoForm (e : DqEnt) (y : Ctx) : Ctx :=
  { y with arch := { y.behindForm with loops := e.loops, act := e.act, pc := e.pc }
           fl := { y.fl with pend := [], wst := [], wins := e.wins } }

/-- What a form that has been granted has written in its strand's registers stands before the window of a later one, and its flags
before its own (R172, R246): a lane form's registers, a canvas or drain form's flags. -/
def refreshForm (lane : Bool) (flags : BitVec 5) (y : Ctx) : Ctx :=
  { y with fl := { y.fl with pend := y.fl.pend.map fun p =>
      if !p.form then p else if lane then { p with ckpt := y.arch } else { p with ckpt := { p.ckpt with fflg := p.ckpt.fflg ||| flags } } } }

/-- The waiting forms of a slot leave its core's queue with no effect, and the strand stands where the first of them issued. -/
def recallForms (q : Fin 64) (c : Fin 4) (k : Fin 24) (s : State) : State :=
  match (waitingForms (s.core q c)).find? fun e => e.k == k with
  | none => s
  | some e =>
    (s.updCore q c fun x => { x with dq := x.dq.filter fun d => !(d.k == k && d.phase == .waiting) }).updCtx (.strand q c k) (undoForm e)

/-- A form that traps at its grant: precisely, with the forms queued behind it discarded (R123, R246). -/
def trapForm (q : Fin 64) (c : Fin 4) (k : Fin 24) (f : Stop) (s : State) : Host.Outcome State Fault Refusal :=
  match f with
  | .faultIn kd cs v s1 => stopped (.strand q c k) (.faultIn kd cs v (recallForms q c k s1)) s
  | f => stopped (.strand q c k) f (recallForms q c k s)

/-- The flags that a form raises at its grant. -/
def formFlags (e : DqEnt) (a : Agent) (s : State) : BitVec 5 :=
  match (easelForm e.ins).effect e.ops e.tiles a (s.updArch a fun y => { y with fflg := 0 }) with
  | .ok t => (t.arch a).fflg
  | .error _ => 0

/-- EASEL_GRANT (R123): the first eligible head in the round robin is granted, or takes its trap. -/
def execEaselGrant (q : Fin 64) (s : State) : Host.Outcome State Fault Refusal :=
  match (grantOrder (s.quads.get q)).findSome? fun c => (eligible q c s).map fun e => (c, e) with
  | none => .next s
  | some (c, e) =>
    let a : Agent := .strand q c e.k
    match waitedFault e.waited (s.ctx a) with
    | some (r, kd, cs, v) => trapForm q c e.k (.fault kd cs v) (deliverFault a r s)
    | none => match grantForm q c (easelForm e.ins) e.ops e.tiles a s with
      | .ok s2 =>
        let s3 := dropCancelled a e.waited (s2.updCtx a fun y => refreshForm (isLane (shapeOf e.ins).major) (formFlags e a s) y)
        .next (askGrant q (s3.updCore q c fun x => { x with dq := grantFirst x.dq }))
      | .error f => trapForm q c e.k f s

/-- A form granted on a sub-unit has completed. -/
def formDone (u : SubUnit) (e : DqEnt) : DqEnt :=
  if e.phase == .granted && (easelForm e.ins).unit == u then { e with phase := .done } else e

/-- A form has retired: a canvas or drain form commits (R267), and the single step of a strand none of whose forms is left ends (R174,
R246). -/
def endForms (q : Fin 64) (c : Fin 4) : List DqEnt → State → State
  | [], s => s
  | e :: t, s =>
    let a : Agent := .strand q c e.k
    let s1 := if isLane (shapeOf e.ins).major then s else commitForm a s
    endForms q c t (if (s1.core q c).dq.any fun d => d.k == e.k then s1 else endStep a s1)

/-- The completed forms at the head of a core's queue retire, in its program order (R123, R246). -/
def retireForms (q : Fin 64) (c : Fin 4) (s : State) : State :=
  let ds := (s.core q c).dq
  endForms q c (ds.takeWhile fun e => e.phase == .done)
    (s.updCore q c fun x => { x with dq := ds.dropWhile fun e => e.phase == .done })

def retireCores (q : Fin 64) : List (Fin 4) → State → State
  | [], s => s
  | c :: cs, s => retireCores q cs (retireForms q c s)

/-- EASEL_SUBUNIT_COMPLETE (R123): the sub-unit is free again, its instruction retires in its turn, and its entries complete. -/
def execEaselSubunitComplete (q : Fin 64) (u : SubUnit) (s : State) : Host.Outcome State Fault Refusal :=
  if !(s.quads.get q).busy.contains u then .next s
  else
    let s1 := s.updQuad q fun x =>
      { x with busy := x.busy.filter fun v => v != u
               cores := x.cores.each fun y => { y with dq := y.dq.map (formDone u) } }
    .next (askGrant q (completeEntries q (fun e => e.owner == .easel u) (retireCores q (List.finRange 4) s1)))

/-- The command that made an entry has ended. -/
def entryDone (s : State) (q : Fin 64) (e : SbEnt) : Bool :=
  match e.owner with
  | .easel u => !(s.quads.get q).busy.contains u
  | .request g n => (requestsWhere s fun r => r.home == q && r.eng == g && r.seq == n).isEmpty
  | .load .. | .free | .put .. | .zero => false

/-- An issued form waits on a request whose entry holds one of its ranges back (R121). -/
def markForm (q : Fin 64) (c : Fin 4) (d : SbEnt) (r : BitVec 5 × BitVec 11) (s : State) (e : DqEnt) : DqEnt :=
  if e.phase == .waiting && (((easelForm e.ins).claims e.ops e.tiles (.strand q c e.k) s).any fun cl => holdsBack d cl) then
    { e with waited := e.waited ++ [r] }
  else e

/-- The slots whose tile.ld waits on an entry (R121). -/
def loadsBehind (x : Quad) (d : SbEnt) : List (Fin 4 × Fin 24) :=
  x.sb.filterMap fun e => match e.owner with
    | .load c k => if blocked { x with sb := [d] } e then some (c, k) else none
    | .easel _ | .request .. | .free | .put .. | .zero => none

def markLoads (q : Fin 64) (r : BitVec 5 × BitVec 11) : List (Fin 4 × Fin 24) → State → State
  | [], s => s
  | (c, k) :: t, s => markLoads q r t (s.updCtx (.strand q c k) fun y => { y with waited := y.waited ++ [r] })

/-- Everything that waits on a request's entry keeps the request's name as the entry leaves: a fault of the request is delivered
there (R121). tile.st, tile.zero, tile.free and the eng forms have committed at their issue (R267), so that a fault of a request
that their entries wait on is delivered not at them but at WAITP, MIGR or exit; R121 does not name the case (DESIGN CHOICE,
log 57). -/
def markWaiters (q : Fin 64) (d : SbEnt) (s : State) : State :=
  match d.owner with
  | .request g n =>
    let s1 := s.updQuad q fun x => { x with cores := Vector.ofFn fun c =>
      let y := x.cores.get c
      { y with dq := y.dq.map (markForm q c d (g, n) s) } }
    markLoads q (g, n) (loadsBehind (s.quads.get q) d) s1
  | .easel _ | .load .. | .free | .put .. | .zero => s

/-- SCOREBOARD_ENTRY_COMPLETE (R108, R109): the entry leaves, committed tile forms whose turn has come act, and parked
strands wake in the order in which they parked, as far as there is room. -/
def execScoreboardEntryComplete (q : Fin 64) (n : Nat) (s : State) : Host.Outcome State Fault Refusal :=
  match (s.quads.get q).sb.find? fun e => e.id == n with
  | none => .next s
  | some e =>
    if !entryDone s q e then .next s
    else .next (boardFreed q ((markWaiters q e s).updQuad q fun x => { x with sb := x.sb.filter fun d => d.id != n }))

/-- TILE_SCRUB_SWEEP_COMPLETE (R103). -/
def execTileScrubSweepComplete (q : Fin 64) (s : State) : Host.Outcome State Fault Refusal :=
  if (s.quads.get q).sweeping then .next (askGrant q (sweep q s)) else .next s

/-! ## GENSCRUB (R295, R406) -/

/-- Every tag of a context cleared and every SCRUBBED bit set (R406); the slot keeps no generation. -/
def scrubCtx (y : Ctx) : Ctx :=
  { Init.ctx with
    arch := { Init.arch with n := y.arch.n.each fun r => { r with tag := 0, scr := true }
                             q := y.arch.q.each fun r => { r with tag := 0, scr := true, resv := none }
                             loops := y.arch.loops.each fun r => { r with tag := 0, scr := true } } }

def scrubCore (x : Core) : Core :=
  { x with
    ctxs := x.ctxs.each scrubCtx
    w := x.w.each fun r => { r with tag := 0, scr := true }
    m := x.m.each fun r => { r with tag := 0, scr := true }
    leaseCtr := 0, leaseGen := 0, holder := none, lwait := [], cgen := 1, cgenFresh := false, ready := [], run := none
    fifo := [], late := [], dq := [], wbind := Init.wbind, lt := Init.ltime, trc := Init.trace }

/-- A copy hart keeps nothing that was written before the scrub: its staging, its key and its register tags go. -/
def scrubHart (h : Hart) : Hart :=
  { h with staging := Init.hart.staging, gcm := none, ports := Init.ports
           ctx := { h.ctx with arch := h.ctx.arch.clearTags } }

/-- The state that the scrub leaves (R295): every tag 0, QGEN and CGEN 1, bindings invalid, barriers free; the column map
and the counters are kept. -/
def scrubQuad (x : Quad) : Quad :=
  { x with
    cores := x.cores.each scrubCore, harts := x.harts.each scrubHart, qgen := 1, tiles := []
    pal := x.pal.map fun (g, v) => (g, { v with tag := 0, scr := true })
    acc := x.acc.map fun (r, v) => (r, { v with tag := 0, scr := true })
    sb := [], canvas := none, rr := 0, busy := [], bars := Vector.replicate 16 { owner := none, pending := 0 } }

/-- The scrub has run, and the messages that waited are taken against the scrubbed state (R295). -/
def endScrub (q : Fin 64) (s : State) : State :=
  let h := (s.quads.get q).held
  postFront h (s.updQuad q fun x => { x with scrubbing := false, held := [] })

/-- The agent whose GENSCRUB or QOWN of a quad waits. -/
def scrubber (q : Fin 64) (s : State) : Option Agent :=
  [Agent.cmd 0, .cmd 1, .sec].find? fun a => (s.ctx a).st == .parked && (s.ctx a).why == some (.scrub q)

/-- GENSCRUB_COMPLETE (R295): the scrub has run its cycles; the form that waits for it goes on and retires. -/
def execGenscrubComplete (q : Fin 64) (s : State) : Host.Outcome State Fault Refusal :=
  if !(s.quads.get q).scrubbing then .next s
  else
    let s1 := s.updQuad q scrubQuad
    match scrubber q s with
    | some a => .next (wake a (s1.updCtx a fun y => { y with answer := some .landed }))
    | none => .next (endScrub q s1)

end Sys2Proof.Machine
end

