-- ==== Sys2Proof/Machine/Engine.lean ====
section
/-! DEFINITION. The eng forms: what a core does to kick an engine request (spec/10, R284 to R289, R421; spec/04, R113,
R114, R118, R119, R122). -/

namespace Sys2Proof.Machine

/-- A memory shape record (R105) or, of the same 32 bytes, a collective record (R287). -/
abbrev Rec := List Byte

def Rec.base (r : Rec) : Nat := fieldAt r 0 8
def Rec.rows (r : Rec) : Nat := fieldAt r 8 4
def Rec.cols (r : Rec) : Nat := fieldAt r 12 4
def Rec.stride (r : Rec) : Nat := fieldAt r 16 8
def Rec.ty (r : Rec) : Nat := fieldAt r 24 1
def Rec.flags (r : Rec) : Nat := fieldAt r 25 1
def Rec.nonce (r : Rec) : Nat := fieldAt r 26 6
def Rec.next (r : Rec) : Bool := r.flags % 2 == 1
def Rec.seal (r : Rec) : Bool := r.flags / 2 % 2 == 1
def Rec.kslot (r : Rec) : Nat := r.flags / 4

/-- A type code that a record may name (R106). -/
def recTypeOk (t : Nat) : Bool := decide (t ≤ 18) && t != 17

/-- The row length (R105). -/
def Rec.rowLen (r : Rec) : Nat := rowBytes r.cols (tyBits r.ty)

/-- Rows and columns a copy sees in a tile: a planes tile takes part as its byte image of 12-byte rows (R285). -/
def copyRows (w : Word) : Nat :=
  if shPlanes w then
    (planesOf (shType w)).getD 1 * shRows w + (if shSparse w = 0 then 0 else shRows w / keptOf (shSparse w) * 12)
  else shRows w

def copyCols (w : Word) : Nat := if shPlanes w then 96 else shCols w

/-- Two records when the form reads two (R421). -/
def recsLen (kind : Nat) : Nat := if kind = 2 || kind = 3 || kind = 5 then 64 else 32

/-- The rows of a request (R284): the lesser of the ROWS word and the tile's rows; for WEIR the activation rows. -/
def reqRows (kind rows : Nat) (t act : Word) : Nat :=
  if kind = 5 then shRows act else min rows (if kind ≤ 1 then copyRows t else shRows t)

/-! ## The checks of an engine on its records (R105, R106, R285 to R288) -/

/-- The first rows of R106's table: the TYPE, the alignment, and the bits that are reserved or that `flagsOk` judges. -/
def recHead (r : Rec) (flagsOk : Bool) : Except Stop Unit := do
  let ty := r.ty % 32
  check (recTypeOk ty) shape
  let el := max 1 (tyBits ty / 8)
  check (r.base % el == 0 && r.stride % el == 0) (alignF (wd r.base))
  check (r.ty == ty && flagsOk && (r.seal || (r.kslot == 0 && r.nonce == 0))) shape

/-- A record of no rows or no columns (R106). -/
def recEmpty (r : Rec) : Bool := r.rows == 0 || r.cols == 0

/-- The extent rows of R106's table. `slack` is what a row holds past its bytes. -/
def recBody (r : Rec) (writes : Bool) (slack : Nat) : Except Stop Unit := do
  check (!writes || decide (r.rowLen ≤ r.stride)) shape
  check (decide (r.base + (r.rows - 1) * r.stride + r.rowLen + slack ≤ 2 ^ 64)) shape

/-- The tile a record is checked against; a request that touches rows has it, by its entries. -/
def needTile (t : Option Word) : Except Stop Word :=
  match t with
  | some w => .ok w
  | none => shape

/-- A copy's record against its tile (R106, R285, R396); true when the request is empty. -/
def copyOk (kind : Nat) (conf : Bool) (c : Rec) (tile : Option Word) : Except Stop Bool := do
  let sealed := kind == 0 && c.seal && conf
  recHead c (!c.seal || sealed)
  if recEmpty c then .ok true
  else
    recBody c (kind == 1) (if sealed then 16 else 0)
    let t ← needTile tile
    check (!shAcc t && (if shPlanes t then c.ty == 10 && c.cols == 96 else c.ty == shType t) && decide (c.rows ≤ copyRows t) &&
      decide (c.cols ≤ copyCols t)) shape
    check (!sealed || (decide (1 ≤ c.rowLen) && decide (c.rowLen ≤ 4080) && decide (c.rowLen + 16 ≤ c.stride) &&
      c.stride % 16 == 0 && decide (c.rows ≤ 65536))) shape
    .ok false

/-- An index record and a table record against the tile (R286). -/
def indexOk (kind : Nat) (ix tb : Rec) (tile : Option Word) : Except Stop Bool := do
  recHead ix (!ix.next && !ix.seal)
  recHead tb (!tb.next && !tb.seal)
  if recEmpty ix || recEmpty tb then .ok true
  else
    recBody ix false 0
    recBody tb (kind == 3) 0
    check (ix.ty == 6 && ix.cols == 1) shape
    let t ← needTile tile
    check (!shAcc t && !shPlanes t && tb.ty == shType t && decide (ix.rows ≤ shRows t) && decide (tb.cols ≤ shCols t)) shape
    .ok false

/-- A weight record's scale record (R105, R288). -/
def scaleRecOk (w sc : Rec) : Except Stop Unit := do
  check (w.next) shape
  recHead sc (!sc.next && !sc.seal)
  check (sc.ty == 18 && sc.rows == w.rows && sc.cols == ceilDiv w.cols 48) shape

/-- A weight record against the two tiles, but for its scales (R288). -/
def weightRecOk (w : Rec) (t act : Word) : Except Stop Unit := do
  recBody w false 0
  check ((w.ty == 13 || w.ty == 8 || w.ty == 11) && decide (w.cols ≤ shCols act) && decide (w.rows ≤ shCols t)) shape

/-- The activation and result tiles of a weir request (R288). -/
def weirTilesOk (t act : Word) : Bool :=
  let ty := shType act
  !shAcc act && !shPlanes act && (ty == 14 || ty == 11 || ty == 16) && decide (1 ≤ shRows act) && decide (shRows act ≤ 8) &&
    !shAcc t && !shPlanes t && shType t == 16 && decide (shRows act ≤ shRows t)

/-- A weight record and its scale record against the tiles (R288). -/
def weirOk (w sc : Rec) (tile act : Option Word) : Except Stop Bool := do
  recHead w (!w.seal)
  scaleRecOk w sc
  if recEmpty w || recEmpty sc then .ok true
  else
    recBody sc false 0
    let t ← needTile tile
    let b ← needTile act
    weightRecOk w t b
    check (weirTilesOk t b) shape
    .ok false

def Rec.qmask (r : Rec) : Word := wd (fieldAt r 0 8)
def Rec.op (r : Rec) : Nat := fieldAt r 12 1
def Rec.root (r : Rec) : Nat := fieldAt r 13 1
def Rec.cid (r : Rec) : Word := wd (fieldAt r 16 8)

/-- A collective record's rows and reserved fields (R106, R287). -/
def collRecOk (c : Rec) (t : Word) : Bool :=
  fieldAt c 14 2 == 0 && fieldAt c 24 8 == 0 && decide (c.rows ≤ shRows t)

/-- What the engine will find in the records as they were read at issue: whether the request is empty, or that it is refused. -/
def recsOk (kind : Nat) (conf : Bool) (rs : Rec) (t act : Word) : Except Stop Bool :=
  let one : Rec := rs.take 32
  let two : Rec := rs.drop 32
  match kind with
  | 0 | 1 => copyOk kind conf one (some t)
  | 2 | 3 => indexOk kind one two (some t)
  | 4 => if collRecOk rs t then .ok (Rec.rows rs == 0) else shape
  | _ => weirOk one two (some t) (some act)

def accepted {α : Type} (e : Except Stop α) : Bool := match e with | .ok _ => true | .error _ => false

/-- RECORD is where a record may stand (R106); WEIR's is by construction (R288). -/
def recordAligned (kind : Nat) (record : Word) : Bool := kind == 5 || record.toNat % 32 == 0

/-- A request that completes at once with no access (R106): its promise is the CTC at the kick. -/
def emptyRecs (kind : Nat) (conf : Bool) (record : Word) (rs : Rec) (t act : Word) : Bool :=
  match recsOk kind conf rs t act with
  | .ok e => e && recordAligned kind record
  | .error _ => false

/-- R106 refuses no field of a shape record but, perhaps, its ROWS and COLS against a tile. -/
def recFieldsOk (r : Rec) (writes : Bool) : Bool := accepted (recHead r true) && accepted (recBody r writes 0)

/-- The bytes that DUE counts (R421): a term counts nothing when R106 refuses one of its own values. What other rules find wrong with
a record leaves the terms as they are. -/
def dueBytes (kind m : Nat) (rs : Rec) (t act : Word) : Nat :=
  let one : Rec := rs.take 32
  let two : Rec := rs.drop 32
  let counted := fun (ok : Bool) (n : Nat) => if ok then n else 0
  match kind with
  | 0 | 1 =>
    counted (recFieldsOk one (kind == 1) && (shPlanes t || one.ty == shType t) && decide (one.rows ≤ copyRows t) &&
        decide (one.cols ≤ copyCols t))
      (m * rowBytes (min one.cols (copyCols t)) (tyBits one.ty))
  | 2 | 3 =>
    counted (recFieldsOk one false && recFieldsOk two (kind == 3) && decide (one.rows ≤ shRows t) && decide (two.cols ≤ shCols t))
      (m * two.rowLen)
  | 4 => counted (collRecOk rs t) (m * rowBytes (shCols t) (tyBits (shType t)))
  | _ =>
    let kOk := decide (one.cols ≤ shCols act)
    let nk := decide (one.rows ≤ shCols t) && kOk
    counted (recFieldsOk one false && nk) (one.rows * rowBytes one.cols (tyBits one.ty)) +
      counted (accepted (scaleRecOk one two) && accepted (recBody two false 0) && nk) (one.rows * ceilDiv one.cols 48 * 2) +
      counted kOk (shRows act * rowBytes one.cols (tyBits (shType act)))

/-- The destination bytes a tag counts (R289): m rows of the clipped columns. -/
def destBytes (kind m : Nat) (rs : Rec) (t : Word) : Nat :=
  let one : Rec := rs.take 32
  let two : Rec := rs.drop 32
  match kind with
  | 0 | 1 => if recTypeOk one.ty then m * rowBytes (min one.cols (copyCols t)) (tyBits one.ty) else 0
  | 2 | 3 => if recTypeOk two.ty then m * rowBytes (min two.cols (shCols t)) (tyBits two.ty) else 0
  | _ => 0

/-- The copy hart with fewer queued requests, hart 0 on a tie (R114). -/
def pickHart (x : Quad) : Fin 2 := if (x.harts.get 1).queue.length < (x.harts.get 0).queue.length then 1 else 0

/-- The weir unit of a weir request (R114, R421): the channel that homes BASE, or RECORD's own address for a BASE that is
refused, IO or in no memory; an absent page parks the form. -/
def pickWeir (w : Requester) (base : Word) (recPa : Nat) (s : State) : Except Stop (Fin 16 × State) :=
  let own : Fin 16 := Fin.ofNat 16 (home recPa)
  match resolve w .r .read base 1 s with
  | .ok (p :: _, s1) => .ok (if isMemory s1 p.1 && domain s1 w.part p.1 != .io then Fin.ofNat 16 (home p.1) else own, s1)
  | .ok ([], s1) => .ok (own, s1)
  | .error (.absent va k e) => .error (.absent va k e)
  | .error (.granule va k) => .error (.granule va k)
  | .error _ => .ok (own, s)

/-- The records of an eng form, by plain loads (R421): their bytes, the first byte's physical address, the state. -/
def readRecs (kind : Nat) (a : Agent) (va : Word) (s : State) : Except Stop (Rec × Nat × State) := do
  let w := requesterOf s a
  let r ← resolve w .r .read va 32 s
  let r2 ← if recsLen kind = 64 then resolve w .r .read (va + 32) 32 r.2 else .ok ([], r.2)
  let ps := r.1 ++ r2.1
  check (!poisoned r2.2 ps) (memerr (memCause r2.2 ps) va)
  .ok (ownBytes r2.2 a ps, (ps.head?.map fun p => p.1).getD 0, loadEffects (w.via (l1Of a) va r2.2) ps r2.2)

/-- The scoreboard ranges of a request (R284, R287): none when no row takes part. A copy of a planes tile covers its kept rows 0 to
ROWS - 1, whichever image rows it moves (R317). -/
def reqClaims (kind m : Nat) (t act : Nat × Tile) : List Claim :=
  if m = 0 then []
  else
    let one := fun (p : Nat × Tile) (w : Bool) =>
      let rows := if kind ≤ 1 && shPlanes p.2.shape then shRows p.2.shape else min m (shRows p.2.shape)
      ({ tile := p.1, gen := p.2.gen, lo := 0, hi := rows - 1, write := w } : Claim)
    match kind with
    | 1 | 3 => [one t false]
    | 5 => [one act false, one t true]
    | _ => [one t true]

/-- max(CTC, P) of R119. -/
def dueBase (s : State) (p : Word) : Nat := max s.ctc.toNat p.toNat

/-- The barrier tag at a kick (R289): the barrier, when the slot has a tag and the kind takes one. -/
def tagOf (kind : Nat) (btag : BitVec 5) : Option (Fin 16) :=
  if btag.toNat / 16 = 1 && decide (kind ≤ 3) then some (Fin.ofNat 16 btag.toNat) else none

/-- The tests of R284 before a kick: the scoreboard, the engine's queue, the outstanding list. -/
def kickTests (q : Fin 64) (n : Nat) (eng : Agent) (engNo : BitVec 5) (a : Agent) (s : State) : Except Stop Unit := do
  needEntries (s.quads.get q) n
  let len := match s.hart eng with | some h => h.queue.length | none => 0
  check (decide (len < if engNo.toNat < 16 then 16 else 32)) (.error (.park (.engineQueue engNo)))
  check (decide ((s.ctx a).outst.length < 32)) (.error (.park .outstanding))

/-- Steps 4 and 5 of R284, taken together with the entries: the tag is applied, the request queued, the promise made. -/
def kick (kind : Nat) (q : Fin 64) (a : Agent) (l : Launch) (record : Word) (rs : Rec) (t act : Nat × Tile)
    (engNo : BitVec 5) (s : State) : Except Stop (Word × State) := do
  let eng := engAgent q engNo
  let m := reqRows kind (Rec.rows rs) t.2.shape act.2.shape
  let cs := reqClaims kind m t act
  kickTests q cs.length eng engNo a s
  let btag := (s.ctx a).sp.btag
  let dest := match tagOf kind btag with | some _ => destBytes kind m rs t.2.shape | none => 0
  let s1 ← match tagOf kind btag with
    | none => .ok s
    | some b =>
      let bar := (s.quads.get q).bars.get b
      if bar.owner != some l.id then perm 3 0
      else if 2 ^ 36 ≤ bar.pending.toNat + dest then regovf
      else .ok (s.updQuad q fun x => x.updBar b fun y => { y with pending := y.pending + BitVec.ofNat 36 dest })
  match s1.hart eng with
  | none => illegal
  | some h =>
    let conf := (s.quads.get q).conf
    let bytes := dueBytes kind m rs t.2.shape act.2.shape
    let work := if kind = 5 then Rec.rows rs * Rec.cols rs else 0
    let due := if emptyRecs kind conf record rs t.2.shape act.2.shape then s1.ctc.toNat else dueFrom s1 engNo (dueBase s1 h.lastDue) bytes work
    let n := fresh s1
    let r : Request :=
      { record := record, rows := Rec.rows rs, kind := kind, tentry := t.1, tgen := t.2.gen
        aentry := if kind = 5 then act.1 else 0, agen := if kind = 5 then act.2.gen else 0
        btag := if (tagOf kind btag).isSome then btag else 0
        stid := ownId s1 a, home := q, launch := l.id, part := l.part, queue := l.queue, strict := l.rec_.strict
        eng := engNo, seq := h.nextSeq, bytes := bytes, work := work, left := dest, recs := [], cid := if kind = 4 then Rec.cid rs else 0, order := n.1 }
    let s2 := n.2.updQuad q fun x => makeEntries (.request engNo h.nextSeq) cs x
    let s3 := s2.updHart eng fun h =>
      { h with queue := h.queue ++ [r], nextSeq := h.nextSeq + 1, lastDue := wd due }
    let s4 := s3.updCtx a fun y => { y with outst := y.outst ++ [{ eng := engNo, seq := r.seq, st := .running }] }
    .ok (promiseWord engNo r.seq due, if (s4.ctx eng).why == some .request then wake eng s4 else s4)

/-- An eng form (R284): handles, records, the engine, the kick, the promise. It stalls in a scrub sweep (R103). -/
def bodyEng (kind : Nat) (d : Dst) (src : Src) (h : Fin 64) (la : Nat) (a : Agent) (s : State) : Except Stop State := do
  awaitSweep (quadOf s a)
  let v ← readSrc s a src
  match a, s.launchRec a with
  | .strand q _ _, some l =>
    let t ← boundTile s a h
    let act ← if kind = 5 then boundTile s a (Fin.ofNat 64 (bits v 5 0)) else .ok t
    check (!(kind == 4 && launchWide h)) shape
    let at_ : Word := if kind = 5 then v &&& ~~~ (0x3F : Word) else v &&& ~~~ (0x1F : Word)
    let s0 ← drained a s
    let r ← readRecs kind a at_ s0
    let (engNo, s1) ← if kind = 5 then do
        let u ← pickWeir (requesterOf r.2.2 a) (wd (Rec.base r.1)) r.2.1 r.2.2
        .ok (BitVec.ofNat 5 (16 + u.1.val), u.2)
      else .ok (BitVec.ofNat 5 (pickHart (r.2.2.quads.get q)).val, r.2.2)
    let k ← kick kind q a l (if kind = 5 then at_ else v) r.1 t act engNo s1
    .ok (windowResult k.2 a la d k.1)
  | _, _ => illegal

/-- eng.cpyin (R285). -/
def execCpyIn (d : Dst) (a : Src) (h : Fin 64) (la : Fin 16) (s : State) : Host.Outcome State Fault Refusal :=
  perform (.cpyIn d a h la) (bodyEng 0 d a h la.val) s

/-- eng.cpyout (R285). -/
def execCpyOut (d : Dst) (a : Src) (h : Fin 64) (la : Fin 16) (s : State) : Host.Outcome State Fault Refusal :=
  perform (.cpyOut d a h la) (bodyEng 1 d a h la.val) s

/-- eng.gath (R286). -/
def execGath (d : Dst) (a : Src) (h : Fin 64) (la : Fin 16) (s : State) : Host.Outcome State Fault Refusal :=
  perform (.gath d a h la) (bodyEng 2 d a h la.val) s

/-- eng.scat (R286). -/
def execScat (d : Dst) (a : Src) (h : Fin 64) (la : Fin 16) (s : State) : Host.Outcome State Fault Refusal :=
  perform (.scat d a h la) (bodyEng 3 d a h la.val) s

/-- eng.coll (R287). -/
def execColl (d : Dst) (a : Src) (h : Fin 64) (la : Fin 16) (s : State) : Host.Outcome State Fault Refusal :=
  perform (.coll d a h la) (bodyEng 4 d a h la.val) s

/-- eng.weir (R288). -/
def execWeir (d : Dst) (a : Src) (h : Fin 64) (la : Fin 16) (s : State) : Host.Outcome State Fault Refusal :=
  perform (.weir d a h la) (bodyEng 5 d a h la.val) s

/-! ## Barriers (R289, R290) -/

/-- The barrier is owned by the agent's launch. -/
def ownsBar (s : State) (a : Agent) (b : Fin 16) : Bool :=
  match s.launchOf a with
  | some l => ((quadOf s a).bars.get b).owner == some l
  | none => false

/-- barr.arm (R290). -/
def execBarm (src : Src) (b : Fin 16) (s : State) : Host.Outcome State Fault Refusal :=
  perform (.barm src b) (fun a s => do
    let v ← readSrc s a src
    if v == 0 then .ok (s.updSpec a fun p => { p with btag := 0 })
    else if ownsBar s a b then .ok (s.updSpec a fun p => { p with btag := BitVec.ofNat 5 (16 + b.val) })
    else perm 3 0) s

/-- barr.claim (R290). -/
def execBarrClaim (d : Dst) (src : Src) (b : Fin 16) (s : State) : Host.Outcome State Fault Refusal :=
  perform (.barrClaim d src b) (fun a s => do
    let v ← readSrc s a src
    let bar := (quadOf s a).bars.get b
    let own := fun (o : Option LaunchId) (s : State) => updQuadOf a (fun x => x.updBar b fun y => { y with owner := o }) s
    if v != 0 then
      match bar.owner with
      | none => .ok (writeDst (own (s.launchOf a) s) a d 1)
      | some _ => .ok (writeDst s a d (if ownsBar s a b then 1 else 0))
    else if !ownsBar s a b then .ok (writeDst s a d 0)
    else if bar.pending != 0 then .ok (writeDst s a d 2)
    else .ok (writeDst (own none s) a d 1)) s

/-- barr.wait (R290). -/
def execBwait (b : Fin 16) (s : State) : Host.Outcome State Fault Refusal :=
  perform (.bwait b) (fun a s =>
    if !ownsBar s a b then perm 3 0
    else if ((quadOf s a).bars.get b).pending == 0 then .ok s
    else .error (.park (.barrier b))) s

end Sys2Proof.Machine
end

