-- ==== Sys2Proof/Machine/EngRun.lean ====
section
/-! DEFINITION. What an engine does with the request at the head of its queue, one record read or one row at a time
(spec/04, R106, R112 to R117; spec/10, R285 to R288; spec/19, R396). -/

namespace Sys2Proof.Machine

/-- The engine that an agent is. -/
def engineNo : Agent → Option Engine
  | .hart q h => some (.hart q h)
  | .weir u => some (.weir u)
  | .strand .. | .cmd _ | .sec => none

/-- Every entry of a request may begin (R108). -/
def requestBegins (x : Quad) (r : Request) : Bool :=
  x.sb.all fun e => !(e.owner == .request r.eng r.seq) || !blocked x e

/-- The request that an engine may work on now: at the head, not held on a translation, the engine not stopped, its tiles
not in a sweep (R103, R114, R115, R367). -/
def workable (s : State) (a : Agent) : Option Request :=
  match s.hart a, engineNo a with
  | some h, some e => match h.queue.head? with
    | some r =>
      let x := s.quads.get r.home
      if engineStopped s (pIdx r.part) e || h.holdAt.isSome || x.sweeping || !requestBegins x r then none else some r
    | none => none
  | _, _ => none

/-- The head request with a change. -/
def updHead (a : Agent) (f : Request → Request) (s : State) : State :=
  s.updHart a fun h => { h with queue := match h.queue with | [] => [] | r :: t => f r :: t }

/-- The tile a request names, when it is still there. -/
def reqTile (s : State) (r : Request) : Except Stop Tile :=
  match (s.quads.get r.home).entry r.tentry with
  | some t => .ok t
  | none => shape

/-- A tile read under the carried generation (R101). -/
def tread (s : State) (r : Request) (entry : Nat) (gen : Gen) (off n : Nat) : Except Stop (List Byte) :=
  let x := s.quads.get r.home
  match boundEntry x entry gen with
  | some t => readTile x r.strict t off n
  | none => if r.strict then tilegen else .ok (List.replicate n 0)

/-- A tile write under the carried generation (R101). -/
def twrite (r : Request) (off : Nat) (bs : List Byte) (s : State) : State :=
  s.updQuad r.home (engineWrite r.tentry r.tgen off bs)

/-- Memory read and written by the hart's ordinary loads and stores (R112). -/
def hartRead (a : Agent) (va : Word) (n : Nat) (s : State) : Except Stop (List Byte × State) := do
  let w := requesterOf s a
  let r ← resolve w .r .read va n s
  check (!poisoned r.2 r.1) (memerr (memCause r.2 r.1) va)
  .ok (loadPieces r.2 r.1, loadEffects (w.via none va r.2) r.1 r.2)

def hartWrite (a : Agent) (va : Word) (bs : List Byte) (s : State) : Except Stop State := do
  let w := requesterOf s a
  let r ← resolve w .w .write va bs.length s
  .ok (storePieces (masterOf a) (w.via none va r.2) (withBytes r.1 bs) r.2)

/-- A row of `n` bits, its last byte's bits past them taken from `pad`. -/
def padRow (n pad : Nat) (bs : List Byte) : List Byte :=
  let k := n % 8
  if k = 0 then bs
  else bs.take (bs.length - 1) ++ leBytes 1 (pad / 2 ^ k * 2 ^ k + leNat (bs.drop (bs.length - 1)) % 2 ^ k)

/-- A tile row of `n` bits written; the columns past them keep what they hold (R106, R285). -/
def twriteCols (r : Request) (off n : Nat) (bs : List Byte) (s : State) : State :=
  let x := s.quads.get r.home
  let old := match boundEntry x r.tentry r.tgen with
    | some t => (match readTile x false t (off + bs.length - 1) 1 with | .ok b => leNat b | .error _ => 0)
    | none => 0
  twrite r off (padRow n old bs) s

/-- A row of `n` bits stored; the bits of its last byte past them are free (log 48). -/
def storeCols (a : Agent) (va : Word) (n : Nat) (bs : List Byte) (s : State) : Except Stop State :=
  if n % 8 = 0 then hartWrite a va bs s
  else
    let f := fresh s
    hartWrite a va (padRow n (Config.freePad f.1).toNat bs) f.2
/-! ## The records (R105, R106) -/

/-- The ROWS word replaced by the one the request carries (R284). -/
def withRows (rows : Nat) (r : Rec) : Rec := patchBytes r 8 (leBytes 4 rows)

/-- The shape of the tile in an entry. -/
def entryShape (s : State) (r : Request) (e : Nat) : Option Word := ((s.quads.get r.home).entry e).map fun t => t.shape

/-- A copy's record against its tile, and the grant of a sealed copy's key slot (R285, R396). -/
def checkCopy (s : State) (r : Request) (c : Rec) : Except Stop Bool := do
  let empty ← copyOk r.kind (s.quads.get r.home).conf c (entryShape s r r.tentry)
  check (empty || !c.seal || (s.mg.slots.get (Fin.ofNat 64 c.kslot)).grant == some (pIdx r.part)) (perm 3 0)
  .ok empty

/-! ## Collectives (R287) -/

/-- A collective record against its tile and launch (R106, R287). SUM and MAX take f32 and s32; BCAST takes any tile. -/
def checkColl (s : State) (r : Request) (c : Rec) : Except Stop Unit := do
  let t ← reqTile s r
  let mask := match s.launch r.launch with | some l => l.qmask | none => 0
  check (collRecOk (withRows r.rows c) t.shape && decide (c.op ≤ 2) && c.qmask &&& ~~~ mask == 0 &&
    maskHas c.qmask (s.logical r.home) && (c.op == 0 || shType t.shape == 16 || shType t.shape == 2)) shape

/-- An earlier collective of the same CID is open on the quad (R287). -/
def collOpen (s : State) (r : Request) (c : Rec) : Bool :=
  !(requestsWhere s fun x => x.kind == 4 && x.home == r.home && x.launch == r.launch && decide (x.order < r.order) &&
    x.cid == c.cid).isEmpty

/-- The CID has been refused to this participant (R287). -/
def collBad (s : State) (r : Request) (c : Rec) : Bool :=
  match s.launch r.launch with
  | some l => l.badColl.any fun e => e.1 == c.cid && e.2.contains (s.logical r.home)
  | none => false

/-- The participants' requests that have opened, by ascending logical quad. -/
def participants (s : State) (l : LaunchId) (cid : Word) : List Request :=
  let rs := requestsWhere s fun x => x.kind == 4 && x.launch == l && !x.recs.isEmpty && Rec.cid x.recs == cid
  (List.range 64).filterMap fun n => rs.find? fun r => s.logical r.home == n

/-- Every quad of the mask has opened its request, and each can go on (R287). -/
def collReady (s : State) (l : LaunchId) (cid : Word) : Bool :=
  let ps := participants s l cid
  match ps with
  | [] => false
  | p :: _ =>
    (List.range 64).all (fun n => !maskHas (Rec.qmask p.recs) n || ps.any fun r => s.logical r.home == n) &&
      ps.all fun r => match workable s (engAgent r.home r.eng) with
        | some x => x.order == r.order
        | none => false

/-- A collective that a participant finds malformed faults in every participant: the open ones now, the others when they
open (R287). -/
def refuseColl (l : LaunchId) (c : Rec) (rs : List Request) (s : State) : State :=
  let done := rs.map fun r => s.logical r.home
  let left := (List.range 64).filter fun n => maskHas c.qmask n && !done.contains n
  let s1 := s.updLaunch l fun y =>
    let was := (y.badColl.find? fun e => e.1 == c.cid).map fun e => e.2
    let now := match was with | some w => w.filter fun n => !done.contains n | none => left
    let rest := y.badColl.filter fun e => e.1 != c.cid
    { y with badColl := if now.isEmpty then rest else rest ++ [(c.cid, now)] }
  rs.foldl (fun s r => endRequest r (some (.faulted 6 0 0)) s) s1

/-- SUM and MAX of two elements of a type (R287, R86). -/
def foldElem (op ty x y : Nat) : Nat :=
  if ty = 16 then
    if op = 1 then (arith fF32 .rne (addX .rne (fF32.val x) (fF32.val y))).1 else (minMaxF fF32 true x y).1
  else if op = 1 then (x + y) % 2 ^ 32
  else if sInt 32 x < sInt 32 y then y else x

def foldBytes (op ty n : Nat) (x y : List Byte) : List Byte :=
  (List.range n).flatMap fun c => leBytes 4 (foldElem op ty (fieldAt x (4 * c) 4) (fieldAt y (4 * c) 4))

/-- A tile row as a collective sends it: its bytes by place, or an accumulator row. -/
inductive CollRow where
  | bytes (parts : List (Nat × List Byte))
  | acc (row : Nat) (v : AccRow)
  deriving DecidableEq, Repr

/-- The places and lengths of row `i` in a palette tile; a kept row of a planes tile stands in every plane, with its group's metadata
(R99, R276; log 19). -/
def rowRanges (w : Word) (i : Nat) : List (Nat × Nat) :=
  if shPlanes w then (planeRanges w i i).map fun p => (p.1, p.2 - p.1)
  else [(i * rowStride w, rowBytes (shCols w) (tyBits (shType w)))]

/-- Row `i` of a participant's tile (R101); every entry of an accumulator row passes its residue check (R85). -/
def sentRow (s : State) (t : Tile) (i : Nat) (r : Request) : Except Stop CollRow :=
  if shAcc t.shape then
    match boundEntry (s.quads.get r.home) r.tentry r.tgen with
    | none => if r.strict then tilegen else .ok (.acc i blankRow)
    | some u => do
      let row := readAccRow (s.quads.get r.home) u i
      check (row.data.toList.all accOk) (dataerr 2)
      .ok (.acc i row)
  else do
    let ps ← (rowRanges t.shape i).mapM fun p => (tread s r r.tentry r.tgen p.1 p.2).map fun bs => (p.1, bs)
    .ok (.bytes ps)

/-- A row that a BCAST sends and no participant holds: free values (R287 names no row; log 19). -/
def freeRow (n : Nat) (w : Word) (i : Nat) : CollRow :=
  let v := fun (u : Nat) => (Config.freeRow n i u).toNat
  if shAcc w then .acc i { blankRow with data := Vector.ofFn fun (c : Fin 96) => accEntry (v c.val), sat := v 96 % 2 == 1 }
  else .bytes ((rowRanges w i).map fun p => (p.1, (List.range p.2).map fun j => BitVec.ofNat 8 (v (p.1 + j))))

/-- Two rows folded under SUM or MAX, element by element. -/
def foldRows (op ty n : Nat) : CollRow → CollRow → CollRow
  | .bytes [(o, x)], .bytes [(_, y)] => .bytes [(o, foldBytes op ty n x y)]
  | x, _ => x

/-- The participant whose rows a BCAST sends (R287). -/
def rootOf (s : State) (c : Rec) (ps : List Request) : Option Request := ps.find? fun r => s.logical r.home == c.root

/-- The tile whose layout the result's rows have: ROOT's, or the first participant's. -/
def sentTile (s : State) (c : Rec) (t : Tile) (ps : List Request) : Tile :=
  match (if c.op = 0 then rootOf s c ps else none) with
  | some r => (match reqTile s r with | .ok u => u | .error _ => t)
  | none => t

/-- Row `i` of the result (R287). -/
def collResult (s : State) (c : Rec) (t : Tile) (i : Nat) (ps : List Request) : Except Stop CollRow :=
  if c.op = 0 then
    match rootOf s c ps with
    | some r => sentRow s (sentTile s c t ps) i r
    | none => .ok (freeRow (fresh s).1 t.shape i)
  else
    match ps with
    | [] => shape
    | p :: rest => do
      let x ← sentRow s t i p
      rest.foldlM (fun acc r => do
        let y ← sentRow s t i r
        .ok (foldRows c.op (shType t.shape) (shCols t.shape) acc y)) x

/-- Every row of the result, before any is written. -/
def collRows (s : State) (c : Rec) (t : Tile) (ps : List Request) : List Nat → Except Stop (List CollRow)
  | [] => .ok []
  | i :: is => do
    let v ← collResult s c t i ps
    let vs ← collRows s c t ps is
    .ok (v :: vs)

/-- An accumulator row written under the carried generation (R101); one row is one granule (R100). -/
def putAccRow (r : Request) (i : Nat) (v : AccRow) (x : Quad) : Quad :=
  match boundEntry x r.tentry r.tgen with
  | some t => x.setAccRow (t.base + i) { v with tag := t.gen, scr := false }
  | none => { x with dropWrites := x.dropWrites + 1 }

/-- A row of the result in a participant's tile. -/
def putRow (r : Request) (d : CollRow) (s : State) : State :=
  match d with
  | .bytes ps => ps.foldl (fun s p => twrite r p.1 p.2 s) s
  | .acc i v => s.updQuad r.home (putAccRow r i v)

/-- LAYOUT, LEVEL and SPARSE of a shape word. -/
def layoutOf (w : Word) : Nat := bits w 36 33

/-- The rows of the result as one participant takes them: R287 says what they hold where its tile is laid out as the sender's is; else
they are free values (log 19). -/
def rowsFor (s : State) (sent : Tile) (rows : List CollRow) (r : Request) : List CollRow :=
  match reqTile s r with
  | .ok u => if layoutOf u.shape == layoutOf sent.shape then rows
    else (List.range rows.length).map fun i => freeRow (fresh s).1 u.shape i
  | .error _ => rows

/-- The participants agree (R287). -/
def collAgree (s : State) (p : Request) (t : Tile) (r : Request) : Bool :=
  match reqTile s r with
  | .ok u => r.recs.take 8 == p.recs.take 8 && r.recs.drop 12 == p.recs.drop 12 && r.rows == p.rows &&
      u.handle == t.handle && shType u.shape == shType t.shape && shCols u.shape == shCols t.shape &&
      shRows u.shape == shRows t.shape
  | .error _ => false

def faultAll (k c : Nat) (v : Word) (rs : List Request) (s : State) : State :=
  rs.foldl (fun s r => endRequest r (some (.faulted k c v)) s) s

/-- COLLECTIVE_MATCH (R287): every participant has kicked; the rows of each are replaced and the requests end. -/
def execCollectiveMatch (l : LaunchId) (cid : Word) (s : State) : Host.Outcome State Fault Refusal :=
  if !collReady s l cid then .next s
  else match participants s l cid with
    | [] => .next s
    | p :: rest => match reqTile s p with
      | .error _ => .next (refuseColl l p.recs (p :: rest) s)
      | .ok t =>
        let ps := p :: rest
        if !ps.all (collAgree s p t) then .next (refuseColl l p.recs ps s)
        else match collRows s p.recs t ps (List.range p.rows) with
          | .error (.fault k c v) => .next (faultAll k c v ps s)
          | .error _ => .next s
          | .ok rows =>
            let sent := sentTile s p.recs t ps
            let s1 := ps.foldl (fun u r => (rowsFor s sent rows r).foldl (fun u d => putRow r d u) u) (fresh s).2
            .next (ps.foldl (fun s r => endRequest r none s) s1)

/-! ## Rows (R115, R285, R286, R288, R396) -/

/-- The next row of a plain or sealed copy in. -/
def copyInRow (a : Agent) (r : Request) (c : Rec) (t : Tile) (row : Nat) (s : State) : Except Stop (Nat × State) := do
  let va := wd (c.base + row * c.stride)
  let off := if shPlanes t.shape then 12 * row else rowOff t row
  let cols := min c.cols (copyCols t.shape)
  let n := rowBytes cols (tyBits c.ty)
  if c.seal then
    let p ← hartRead a va (n + 16) s
    let k := s.mg.slots.get (Fin.ofNat 64 c.kslot)
    let iv := k.salt.toNat * 2 ^ 64 + c.nonce * 2 ^ 16 + row
    let s1 := p.2.updHart a fun h => { h with gcm := some (k.key, k.salt), staging := patchBytes h.staging 0 p.1 }
    match gcmDecrypt k.key.toNat iv (p.1.take n) (p.1.drop n) with
    | some bs => .ok (n, twriteCols r off (cols * tyBits c.ty) bs (s1.updHart a fun h => { h with staging := patchBytes h.staging 0 bs }))
    | none => perm 4 0
  else
    let p ← hartRead a va n s
    .ok (n, twriteCols r off (cols * tyBits c.ty) p.1 p.2)

def copyOutRow (a : Agent) (r : Request) (c : Rec) (t : Tile) (row : Nat) (s : State) : Except Stop (Nat × State) := do
  let cols := min c.cols (copyCols t.shape)
  let n := rowBytes cols (tyBits c.ty)
  let bs ← tread s r r.tentry r.tgen (if shPlanes t.shape then 12 * row else rowOff t row) n
  let s1 ← storeCols a (wd (c.base + row * c.stride)) (cols * tyBits c.ty) bs s
  .ok (n, s1)

def indexRow (a : Agent) (r : Request) (ix tb : Rec) (t : Tile) (row : Nat) (s : State) : Except Stop (Nat × State) := do
  let b := tb.cols * tyBits tb.ty
  let n := rowBytes tb.cols (tyBits tb.ty)
  let p ← hartRead a (wd (ix.base + row * ix.stride)) 4 s
  let j := leNat p.1
  let va := wd (tb.base + j * tb.stride)
  if r.kind = 2 then
    if tb.rows ≤ j then .ok (n, twriteCols r (rowOff t row) b (List.replicate n 0) p.2)
    else
      let d ← hartRead a va n p.2
      .ok (n, twriteCols r (rowOff t row) b d.1 d.2)
  else if tb.rows ≤ j then .ok (n, p.2)
  else
    let bs ← tread p.2 r r.tentry r.tgen (rowOff t row) n
    let s1 ← storeCols a va b bs p.2
    .ok (n, s1)

/-- A weight element as a weir unit takes it (R288). -/
def weirWeight (ty v : Nat) : Xr :=
  match ty with
  | 13 => fE2m1.val v
  | 8 => .ofInt (sInt 4 v)
  | _ => fE4m3.val v

/-- The sum of R79 of one output over one activation row, block by block. -/
def weirSum : List Xr → List Xr → List Xr → Nat → Nat
  | acts, ws, sc :: scs, acc =>
    weirSum (acts.drop 48) (ws.drop 48) scs (promote acc (blockSum (acts.take 48) (ws.take 48)) (.fin false 1 1) sc)
  | _, _, [], acc => acc

/-- The f32 that an fx34 sum becomes (R79). -/
def sumF32 (v : Nat) : Nat := (roundFmt fF32 false .rne (fFx34.val v)).1

/-- The sums of an output over the activation rows, written. -/
def weirOutputs (r : Request) (act t : Tile) (k n : Nat) (ws scs : List Xr) : List Nat → State → Except Stop State
  | [], s => .ok s
  | m :: ms, s => do
    let b := tyBits (shType act.shape) / 8
    let bs ← tread s r r.aentry r.agen (rowOff act m) (k * b)
    let acts := (List.range k).map fun i => activation (shType act.shape) (fieldAt bs (i * b) b)
    weirOutputs r act t k n ws scs ms (twrite r (rowOff t m + 4 * n) (leBytes 4 (sumF32 (weirSum acts ws scs 0))) s)

def weirRow (a : Agent) (r : Request) (w sc : Rec) (t : Tile) (row : Nat) (s : State) : Except Stop (Nat × State) := do
  let act ← match (s.quads.get r.home).entry r.aentry with | some t => .ok t | none => shape
  let p ← hartRead a (wd (w.base + row * w.stride)) w.rowLen s
  let nb := ceilDiv w.cols 48
  let q ← hartRead a (wd (sc.base + row * sc.stride)) (2 * nb) p.2
  let ws := (List.range w.cols).map fun i => weirWeight w.ty (elemBits p.1 (tyBits w.ty) i)
  let scs := (List.range nb).map fun j => bs12Val (fieldAt q.1 (2 * j) 2)
  let s1 ← weirOutputs r act t w.cols row ws scs (List.range (shRows act.shape)) q.2
  .ok (0, s1)

/-- One row of a request: the destination bytes passed, and the state. -/
def requestRow (a : Agent) (r : Request) (row : Nat) (s : State) : Except Stop (Nat × State) := do
  let t ← reqTile s r
  let one := withRows r.rows (r.recs.take 32)
  let two : Rec := r.recs.drop 32
  match r.kind with
  | 0 => copyInRow a r one t row s
  | 1 => copyOutRow a r one t row s
  | 2 | 3 => indexRow a r one two t row s
  | _ => weirRow a r (r.recs.take 32) two t row s

/-! ## The head request's next move -/

/-- The records read and checked: whether the request is empty (R106, R285 to R288). -/
def checkRecs (s : State) (r : Request) (bs : Rec) : Except Stop Bool :=
  let one := withRows r.rows (bs.take 32)
  let two : Rec := bs.drop 32
  match r.kind with
  | 0 | 1 => checkCopy s r one
  | 2 | 3 => indexOk r.kind one two (entryShape s r r.tentry)
  | 4 => (checkColl s r bs).map fun _ => r.rows == 0
  | _ => weirOk (bs.take 32) two (entryShape s r r.tentry) (entryShape s r r.aentry)

/-- A request that cannot go on: a fault ends it with STATUS 2 (R121), an absent page holds it at its row (R115). -/
def requestStop (a : Agent) (r : Request) (e : Stop) (s : State) : State :=
  match e with
  | .fault k c v => endRequest r (some (.faulted k c v)) s
  | .absent va k ea => match agentSpace s a with
    | some sp => waitPage a va k (askPage sp va k ea s)
    | none => s
  | .granule va k => match agentSpace s a with
    | some sp => waitPage a va k (askGranule (some a) sp va k s)
    | none => s
  | .faultIn .. | .request .. | .trap .. | .park _ | .hold .. | .stall | .wait _ | .noAddress _ => s

/-- The records of the head request, read by the engine itself (R284). -/
def openRequest (a : Agent) (r : Request) (s : State) : State :=
  if r.kind != 5 && r.record.toNat % 32 != 0 then endRequest r (some (.faulted 5 0 r.record)) s
  else match hartRead a r.record (recsLen r.kind) s with
    | .error e => requestStop a r e s
    | .ok (bs, s0) =>
      let p : Rec × State := (bs, updHead a (fun x => { x with cid := if r.kind = 4 then Rec.cid bs else 0 }) s0)
      let bad := r.kind == 4 && (collOpen p.2 r p.1 || collBad p.2 r p.1)
      if bad then
        (if collBad p.2 r p.1 then refuseColl r.launch p.1 [r] p.2 else endRequest r (some (.faulted 6 0 0)) p.2)
      else match checkRecs p.2 r p.1 with
        | .error e =>
          if r.kind = 4 then
            refuseColl r.launch p.1 (r :: (participants p.2 r.launch (Rec.cid p.1)).filter fun x => x.order != r.order) p.2
          else requestStop a r e p.2
        | .ok true => endRequest r none p.2
        | .ok false =>
          let s1 := updHead a (fun x => { x with recs := p.1, rows := if r.kind = 5 then Rec.rows p.1 else x.rows }) p.2
          if r.kind = 4 && collReady s1 r.launch (Rec.cid p.1) then post (.collectiveMatch r.launch (Rec.cid p.1)) s1 else s1

/-- One row moved (R115): its destination bytes leave the barrier as the row passes, also those that a tile write loses to another
request's cancellation, of which R101 and R122 do not say when they leave (log 57). -/
def moveRow (a : Agent) (r : Request) (row : Nat) (s : State) : State :=
  match requestRow a r row s with
  | .error e => requestStop a r e s
  | .ok (n, s1) =>
    let n' := min n r.left
    let s2 := barrierSub r n' s1
    (updHead a (fun x => { x with left := x.left - n' }) s2).updHart a fun h => { h with row := row + 1, refused := none }

/-- An engine's next move (R114 to R116): its records, a row, or its end. -/
def engineMove (a : Agent) (s : State) : State :=
  match workable s a, s.hart a with
  | some r, some h =>
    if r.recs.isEmpty then openRequest a r s
    else if r.kind = 4 then
      (if collReady s r.launch (Rec.cid r.recs) then post (.collectiveMatch r.launch (Rec.cid r.recs)) s else s)
    else if h.row < r.rows then moveRow a r h.row s
    else endRequest r none s
  | _, _ => s

end Sys2Proof.Machine
end

