-- ==== Sys2Proof/Machine/Engx.lean ====
section
/-! DEFINITION. The engx forms: what the microcode of an engine hart is made of (spec/10, R291 to R293). -/

namespace Sys2Proof.Machine

/-! ## Locations (R291) -/

/-- A length word (R291). -/
structure LenWord where
  len : Nat
  tile : Bool
  via : Bool
  port : Nat
  deriving DecidableEq, Repr

/-- The checks of R291 on a length word: PORT 3 is written only, PORT 0 to 2 are read only, VIA is a weir unit's. -/
def lenWord (a : Agent) (write : Bool) (b : Word) : Except Stop LenWord := do
  let l := bits b 12 0
  let via := bitAt b 17
  let port := bits b 19 18
  let isWeir := match a with | .weir _ => true | .strand .. | .hart .. | .cmd _ | .sec => false
  check (bits b 63 20 == 0 && bits b 15 13 == 0 && decide (1 ≤ l) && decide (l ≤ 4096)) shape
  check (!via || (isWeir && (port == 3) == write)) shape
  .ok { len := l, tile := bitAt b 16, via := via, port := port }

/-- The request at the head of a hart's queue. -/
def headRequest (s : State) (a : Agent) : Option Request :=
  match s.hart a with
  | some h => h.queue.head?
  | none => none

/-- The place a tile word names within its tile; an access outside the tile's row raises SHAPE (R291). -/
def tilePlace (t : Tile) (w : Word) (len : Nat) : Except Stop Nat := do
  let row := bits w 39 24
  let off := bits w 63 40
  let n := if shPlanes t.shape then 12 else rowBytes (shCols t.shape) (tyBits (shType t.shape))
  check (!shAcc t.shape && decide (row < copyRows t.shape) && decide (off + len ≤ n)) shape
  .ok ((if shPlanes t.shape then 12 * row else rowOff t row) + off)

/-- Bytes read at a location. -/
def readLoc (a : Agent) (l : LenWord) (w : Word) (s : State) : Except Stop (List Byte × State) :=
  if !l.tile then hartRead a w l.len s
  else match headRequest s a with
    | none => shape
    | some r =>
      let gen : Gen := BitVec.ofNat 16 (bits w 23 8)
      match boundEntry (s.quads.get r.home) (bits w 7 0) gen with
      | none => if r.strict then tilegen else .ok (List.replicate l.len 0, s)
      | some t => do
        let off ← tilePlace t w l.len
        let bs ← tread s r (bits w 7 0) gen off l.len
        .ok (bs, s)

/-- The bytes written to a request's destination leave its barrier (R122). -/
def countWritten (a : Agent) (r : Request) (n : Nat) (s : State) : State :=
  let n' := min n r.left
  updHead a (fun x => { x with left := x.left - n' }) (barrierSub r n' s)

/-- Where a tile word of a generation that is no longer its entry's points, by the row stride of what the entry holds now: the
granules a dropped write would have touched (R101). -/
def staleOff (x : Quad) (e : Nat) (w : Word) : Nat :=
  let row := bits w 39 24
  (match x.entry e with
    | some t => if shPlanes t.shape then 12 * row else rowOff t row
    | none => 0) + bits w 63 40

/-- Bytes written at a location, under the carried generation in a tile (R101). -/
def writeLoc (a : Agent) (l : LenWord) (w : Word) (bs : List Byte) (s : State) : Except Stop State :=
  if !l.tile then do
    let s1 ← hartWrite a w bs s
    .ok (match headRequest s1 a with
      | some r => if r.kind == 1 || r.kind == 3 then countWritten a r bs.length s1 else s1
      | none => s1)
  else match headRequest s a with
    | none => shape
    | some r =>
      let gen : Gen := BitVec.ofNat 16 (bits w 23 8)
      let e := bits w 7 0
      match boundEntry (s.quads.get r.home) e gen with
      | none => .ok (s.updQuad r.home fun x => engineWrite e gen (staleOff x e w) bs x)
      | some t => do
        let off ← tilePlace t w l.len
        let s1 := s.updQuad r.home (engineWrite e gen off bs)
        .ok (if (r.kind == 0 || r.kind == 2) && e == r.tentry then countWritten a r bs.length s1 else s1)

/-! ## The ports of a weir unit (R293) -/

/-- What R288 and R293 find wrong is the request's fault (R269, R296). -/
def shapeOfRequest {α : Type} : Except Stop α := .error (.request 6 0 0)

/-- The type of the request's activation tile, one of R288's (R75). -/
def actType (s : State) (a : Agent) : Except Stop Nat :=
  match headRequest s a with
  | none => shape
  | some r => match (s.quads.get r.home).entry r.aentry with
    | some t => let ty := shType t.shape; if ty == 14 || ty == 11 || ty == 16 then .ok ty else shapeOfRequest
    | none => shapeOfRequest

/-- The TYPE of the request's weight record, which the unit reads itself when it has not yet. -/
def weightType (s : State) (a : Agent) : Except Stop Nat :=
  match headRequest s a with
  | none => shape
  | some r => do
    let ty ← if r.recs.isEmpty then (hartRead a (r.record + 24) 1 s).map (fun p => leNat p.1) else .ok (Rec.ty r.recs)
    check (ty == 13 || ty == 8 || ty == 11) shapeOfRequest
    .ok ty

/-- Activation `i` of a row of type `ty`; one that the row does not hold is a free value (log 16). -/
def portAct (free : BitVec 32) (ty : Nat) (row : List Byte) (i : Nat) : Xr :=
  let b := tyBits ty / 8
  activation ty (if (i + 1) * b ≤ row.length then fieldAt row (i * b) b else free.toNat % 2 ^ (8 * b))

/-- The activations of block `j` of a port row against its weights: past the weights present a position is what the row holds
there, or nothing, against a zero weight (R76, R293; log 16). -/
def blockActs (free : BitVec 32) (ty present j : Nat) (row : List Byte) : List Xr :=
  (List.range 48).map fun i =>
    if i < present || (48 * j + i + 1) * (tyBits ty / 8) ≤ row.length then portAct free ty row (48 * j + i) else .fin false 0 1

/-- One block closed (R293): promoted into every activation row's sum with the next scale; its missing weights are zeros. -/
def closeBlock (free : BitVec 32) (ty : Nat) (ws : List Xr) (p : Ports) : Ports :=
  let j := p.scaleIdx
  let sc := bs12Val (if 2 * j + 2 ≤ p.scales.length then fieldAt p.scales (2 * j) 2 else free.toNat % 65536)
  let sums := (List.range p.acts.length).map fun m =>
    let row := p.acts.getD m []
    let full := ws ++ List.replicate (48 - ws.length) (.fin false 0 1)
    BitVec.ofNat 34 (promote (p.sums.getD m 0).toNat (blockSum (blockActs free ty ws.length j row) full) (.fin false 1 1) sc)
  { p with sums := sums, scaleIdx := j + 1 }

/-- The elements of a run of weight bytes. -/
def weightElems (ty : Nat) (bs : List Byte) (n : Nat) : List Xr :=
  (List.range n).map fun i => weirWeight ty (elemBits bs (tyBits ty) i)

/-- Closes every whole block of 48 weights. -/
def closeBlocks (free : BitVec 32) (aty wty : Nat) : Nat → Ports → Ports
  | 0, p => p
  | fuel + 1, p =>
    let n := 48 * tyBits wty / 8
    if p.weights.length < n then p
    else closeBlocks free aty wty fuel
      (closeBlock free aty (weightElems wty (p.weights.take n) 48) { p with weights := p.weights.drop n })

/-- dmard through a port (R293). -/
def appendPort (a : Agent) (port : Nat) (bs : List Byte) (s : State) : Except Stop State := do
  let h ← match s.hart a with | some h => .ok h | none => shape
  let n := fresh s
  let free := Config.freePort n.1
  match port with
  | 0 => do
    let _ ← actType s a
    check (decide (h.ports.acts.length < 8)) shapeOfRequest
    .ok (s.updHart a fun h => { h with ports := { h.ports with acts := h.ports.acts ++ [bs] } })
  | 1 => .ok (s.updHart a fun h => { h with ports := { h.ports with scales := h.ports.scales ++ bs } })
  | _ => do
    let aty ← actType s a
    let wty ← weightType s a
    .ok (n.2.updHart a fun h =>
      { h with ports := closeBlocks free aty wty 200 { h.ports with weights := h.ports.weights ++ bs } })

/-- The ports once a short final block has been promoted, its missing elements zero weights (R76, R293). -/
def finishSums (free : BitVec 32) (aty wty : Nat) (p : Ports) : Ports :=
  if p.weights.isEmpty then p
  else
    let k := p.weights.length * 8 / tyBits wty
    closeBlock free aty (weightElems wty p.weights k) { p with weights := [] }

/-- The f32 values that PORT 3 gives, one per activation row. -/
def sumBytes (p : Ports) : List Byte :=
  (List.range p.acts.length).flatMap fun m => leBytes 4 (sumF32 (p.sums.getD m 0).toNat)

/-- dmawr from PORT 3 (R293): the sums written, then reset. -/
def drainPort (a : Agent) (l : LenWord) (w : Word) (s : State) : Except Stop State := do
  let h ← match s.hart a with | some h => .ok h | none => shape
  check (l.len == 4 * h.ports.acts.length) shapeOfRequest
  let n := fresh s
  let p ← if h.ports.weights.isEmpty then .ok h.ports
    else do
      let aty ← actType s a
      let wty ← weightType s a
      .ok (finishSums (Config.freePort n.1) aty wty h.ports)
  let s1 ← writeLoc a l w (sumBytes p) n.2
  .ok (s1.updHart a fun h =>
    { h with ports := { p with sums := [], weights := [], scales := [], scaleIdx := 0 } })

/-! ## The forms (R292) -/

/-- engx.dmard. -/
def execEngxDmard (d : Dst) (a b : Src) (s : State) : Host.Outcome State Fault Refusal :=
  perform (.engxDmard d a b) (fun ag s => do
    let w ← readSrc s ag a
    let lw ← readSrc s ag b
    let l ← lenWord ag false lw
    let r ← readLoc ag l w s
    let s1 ← if l.via then appendPort ag l.port r.1 r.2
      else .ok (r.2.updHart ag fun h => { h with staging := patchBytes h.staging 0 r.1 })
    .ok (writeDst s1 ag d (wd l.len))) s

/-- engx.dmawr. -/
def execEngxDmawr (d : Dst) (a b : Src) (s : State) : Host.Outcome State Fault Refusal :=
  perform (.engxDmawr d a b) (fun ag s => do
    let w ← readSrc s ag a
    let lw ← readSrc s ag b
    let l ← lenWord ag true lw
    let bs := match s.hart ag with | some h => h.staging.take l.len | none => []
    let s1 ← if l.via then drainPort ag l w s else writeLoc ag l w bs s
    .ok (writeDst s1 ag d (wd l.len))) s

/-- A CAUSE that R365 gives a KIND. -/
def causeOf (kind : Nat) (c : BitVec 8) : Nat :=
  match kind with
  | 7 => 1 + c.toNat % 4
  | 9 | 10 | 11 => 1 + c.toNat % 3
  | _ => 0

/-- R369 gives the fault a VALUE: an address, or ZLA's stamp. -/
def hasValue (kind cause : Nat) : Bool :=
  kind == 5 || kind == 11 || (kind == 7 && cause != 3) || (kind == 9 && cause == 3)

/-- What a STATUS says of a request (R116); one that R116 does not list stands for some one of the three, and the fault of a STATUS
of 2 is some fault of R365 and R369 (log 16). -/
def statusOf (n status : Nat) : Option ReqSt :=
  match (if status ≤ 2 then status else (Config.freeStatus n).val) with
  | 0 => none
  | 1 => some .cancelled
  | _ =>
    let f := Config.freeFault n
    let kind := f.1.val + 1
    let cause := causeOf kind f.2.1
    some (.faulted kind cause (if hasValue kind cause then f.2.2 else 0))

/-- engx.mbox: the running request ends. -/
def execEngxMbox (a : Src) (s : State) : Host.Outcome State Fault Refusal :=
  perform (.engxMbox a) (fun ag s => do
    let v ← readSrc s ag a
    match headRequest s ag with
    | none => .ok s
    | some r =>
      let n := fresh s
      .ok (endRequest r (statusOf n.1 (bits v 47 40)) n.2)) s

/-- The four words of a request record (R284). -/
def requestWords (s : State) (r : Request) : List Word :=
  [r.record,
   wd ((if r.kind = 5 then 0 else r.rows % 2 ^ 32) + r.kind * 2 ^ 32 + r.tentry % 256 * 2 ^ 40 + r.tgen.toNat * 2 ^ 48),
   wd (r.aentry % 256 + r.btag.toNat * 2 ^ 8 + r.agen.toNat * 2 ^ 16 + (stidWord s r.stid).toNat * 2 ^ 32),
   0]

/-- engx.kwait. -/
def execEngxKwait (s : State) : Host.Outcome State Fault Refusal :=
  perform .engxKwait (fun ag s =>
    match headRequest s ag with
    | none => .error (.park .request)
    | some r =>
      let ws := requestWords s r
      let put := fun (y : Ctx) (i : Fin 16) (z : Arch) => z.setN i (ws.getD i.val 0) y.gen
      .ok (s.updCtx ag fun y => { y with arch := put y 3 (put y 2 (put y 1 (put y 0 y.arch))) })) s

/-- engx.gcmkey loads the slot's key and salt: PERM unless the slot is granted to the partition of the request (R396). -/
def execEngxGcmkey (a : Src) (s : State) : Host.Outcome State Fault Refusal :=
  perform (.engxGcmkey a) (fun ag s => do
    let v ← readSrc s ag a
    let k := bits v 7 0
    check (decide (k < 64) && (headRequest s ag).isSome &&
      (s.mg.slots.get (Fin.ofNat 64 k)).grant == some (pIdx (s.partOf ag))) (perm 3 0)
    let sl := s.mg.slots.get (Fin.ofNat 64 k)
    .ok (s.updHart ag fun h => { h with gcm := some (sl.key, sl.salt) })) s

/-- The loaded key and salt, and the length L of a gcm form. -/
def gcmArgs (s : State) (a : Agent) (b : Word) : Except Stop ((BitVec 128 × BitVec 32) × Nat × List Byte) := do
  let h ← match s.hart a with | some h => .ok h | none => shape
  let k ← match h.gcm with | some k => .ok k | none => shape
  check (decide (1 ≤ b.toNat) && decide (b.toNat ≤ 4080)) shape
  .ok (k, b.toNat, h.staging)

/-- The IV of the gcm forms: the slot's salt, then read_src(a). -/
def gcmIv (k : BitVec 128 × BitVec 32) (v : Word) : Nat := k.2.toNat * 2 ^ 64 + v.toNat

/-- engx.gcmenc. -/
def execEngxGcmenc (d : Dst) (a b : Src) (s : State) : Host.Outcome State Fault Refusal :=
  perform (.engxGcmenc d a b) (fun ag s => do
    let iv ← readSrc s ag a
    let lv ← readSrc s ag b
    let g ← gcmArgs s ag lv
    let r := gcmEncrypt g.1.1.toNat (gcmIv g.1 iv) (g.2.2.take g.2.1)
    .ok (writeDst (s.updHart ag fun h => { h with staging := patchBytes h.staging 0 (r.1 ++ r.2) }) ag d 0)) s

/-- engx.gcmdec. -/
def execEngxGcmdec (d : Dst) (a b : Src) (s : State) : Host.Outcome State Fault Refusal :=
  perform (.engxGcmdec d a b) (fun ag s => do
    let iv ← readSrc s ag a
    let lv ← readSrc s ag b
    let g ← gcmArgs s ag lv
    let put := fun (bs : List Byte) => s.updHart ag fun h => { h with staging := patchBytes h.staging 0 bs }
    match gcmDecrypt g.1.1.toNat (gcmIv g.1 iv) (g.2.2.take g.2.1) ((g.2.2.drop g.2.1).take 16) with
    | some bs => .ok (writeDst (put bs) ag d 0)
    | none => .ok (writeDst (put (List.replicate g.2.1 0)) ag d 1)) s

end Sys2Proof.Machine
end

