-- ==== Sys2Proof/Machine/Priv.lean ====
section
/-! DEFINITION. The priv forms: major 0x31, on command cores and the security core (spec/10, R294, R295; spec/19, R385 to
R389; spec/05, R133). -/

namespace Sys2Proof.Machine

/-- A partition's number as an index, when it is one (R385). -/
def partArg (n : Nat) : Option (Fin 64) := if n < 64 then some (Fin.ofNat 64 n) else none

/-! ## Partition states (R388, R389) -/

/-- A configuration change is refused without being counted: in ERROR, and in RELEASING outside its sequence (R388). -/
def configClosed (s : State) (p : Fin 64) : Bool := (s.parts.get p).st == .error || (s.parts.get p).st == .releasing

/-! ## Caches (R294, R133) -/

/-- Every cached sector that `p` picks. -/
def linesWhere (s : State) (p : Nat → Bool) : List Nat := (s.mm.lines.filter fun l => p l.sector).map fun l => l.sector

/-- Every L1 copy of a quad written back and dropped (R294, R386). -/
def flushQuad (q : Fin 64) (s : State) : State :=
  foldSectors (dropL1 fun q' _ => q' == q) (linesWhere s fun _ => true) s

/-- Host copies of a sector recalled, with its dirty data (R133, R412). -/
def recallHost (sector : Nat) (s : State) : State :=
  let l := lineOf s sector
  if l.host == .none then s
  else putLine (Line.alone { l with host := .none, st := if l.host == .exclusive then .m else l.st }) s

/-- Every L1 and host copy of the granules of a range gone (R133). -/
def clearRange (lo hi : Nat) (s : State) : State :=
  let secs := linesWhere s fun x => decide (lo ≤ x / 1024) && decide (x / 1024 ≤ hi)
  foldSectors recallHost secs (foldSectors (dropL1 fun _ _ => true) secs s)

/-- A dirty basin sector written to the memory array (R294). -/
def cleanBasin (sector : Nat) (s : State) : State :=
  let l := lineOf s sector
  if l.st == .m || l.st == .o then
    putLine { l with st := if l.l1.any (fun x => x.2.2) then .o else if l.st == .m then .e else .s } (arrBack sector s)
  else s

/-! ## GENSCRUB and QOWN (R295, R386) -/

/-- The conditions under which GENSCRUB refuses (R295). -/
def quadBusy (s : State) (q : Fin 64) : Bool :=
  let x := s.quads.get q
  (x.cores.toList.any fun y => y.ctxs.toList.any fun z => z.st != .free) ||
    !(requestsWhere s fun r => r.home == q).isEmpty || x.tiles.any fun e => (s.launch e.2.launch).isSome

/-- A message of a quad's partition to or from its network interface. -/
def ofInterface (s : State) (q : Fin 64) (e : Instr) : Bool :=
  match headerOf e with
  | some h => h.part == (s.quads.get q).part && (h.port == q.val || h.dest == q.val)
  | none => false

/-- A message of the quad's network interface, inbound or outbound, is on its way, or is held there or at a core (R386). -/
def quadTraffic (s : State) (q : Fin 64) : Bool :=
  let x := s.quads.get q
  (s.md.inflight ++ x.held ++ x.cores.toList.flatMap fun y => y.held).any (ofInterface s q)

/-- The scrub begins: the form is held until it is done (R295). -/
def beginScrub (q : Fin 64) (s : State) : Except Stop State :=
  .error (.hold (.scrub q) (post (.genscrubComplete q) (s.updQuad q fun x => { x with scrubbing := true })))

/-- priv.genscrub (R294, R295). -/
def execGenscrub (d : Dst) (a : Src) (s : State) : Host.Outcome State Fault Refusal :=
  perform (.genscrub d a) (fun ag s => do
    let v ← readSrc s ag a
    check (v.toNat < 64) illegal
    let q : Fin 64 := Fin.ofNat 64 v.toNat
    if (s.ctx ag).answer == some .landed then .ok (endScrub q (writeDst s ag d 0))
    else if (s.quads.get q).scrubbing then .error .stall
    else if quadBusy s q then .ok (writeDst s ag d 1)
    else beginScrub q s) s

/-- Quads awake at most under the envelope (R416). -/
def envelopeQuads (s : State) : Nat := if s.mg.envelope = 120 then 64 else if s.mg.envelope = 28 then 32 else 8

/-- The partition that a quad belongs to (R385). -/
def quadPart (x : Quad) : Option (Fin 64) := if x.owner.toNat % 2 = 1 then some (pIdx x.part) else none

/-- The quads that belong to some partition. -/
def validQuads (s : State) : Nat := (s.quads.toList.filter fun x => x.owner.toNat % 2 == 1).length

/-- A QOWN that changes nothing: the state it leaves, when it is refused (R388 to R390, R416). -/
def qownRefused (q : Fin 64) (b : Word) (s : State) : Option State :=
  let x := s.quads.get q
  let old := quadPart x
  let new : Option (Fin 64) := if bitAt b 0 then some (Fin.ofNat 64 (bits b 39 32)) else none
  let frozen := (old.toList ++ new.toList).filter (isFrozen s)
  if !frozen.isEmpty then some (frozen.foldl (fun s p => refuseConfig p s) s)
  else if old.any (fun p => (s.parts.get p).st == .error ||
      ((s.parts.get p).st == .releasing && ((s.parts.get p).releaseStep == 0 || new == some p))) then some s
  else if new.any (configClosed s) then some s
  else if old.isNone && new.isSome && decide (envelopeQuads s ≤ validQuads s) then some s
  else none

/-- OWNER and PARTID written, with the states of the partitions that gain or lose the quad (R385, R388). -/
def giveQuad (q : Fin 64) (b : Word) (s : State) : State :=
  let old := quadPart (s.quads.get q)
  let s1 := s.updQuad q fun x =>
    { x with part := BitVec.ofNat 8 (bits b 39 32), owner := BitVec.ofNat 32 (bits b 31 0) &&& ownerMask, seqs := []
             halt := { x.halt with halted := false } }
  let s2 := match quadPart (s1.quads.get q) with
    | some p => s1.updPart p fun x => { x with st := if x.st == .empty then .unlocked else x.st }
    | none => s1
  match old with
  | some p => s2.updPart p fun x =>
      { x with st := if x.st == .unlocked && (s2.partQuads (BitVec.ofNat 8 p.val)).isEmpty then .empty else x.st }
  | none => s2

/-- The bits of b that priv.qown reserves (R385). -/
def qownOk (b : Word) : Bool :=
  bits b 63 40 == 0 && decide (bits b 39 32 < 64) && BitVec.ofNat 32 (bits b 31 0) &&& ~~~ ownerMask == 0

/-- priv.qown (R294, R386). -/
def execQown (d : Dst) (a b : Src) (s : State) : Host.Outcome State Fault Refusal :=
  perform (.qown d a b) (fun ag s => do
    let v ← readSrc s ag a
    let w ← readSrc s ag b
    check (decide (v.toNat < 64) && qownOk w) illegal
    let q : Fin 64 := Fin.ofNat 64 v.toNat
    if (s.ctx ag).answer == some .landed then .ok (endScrub q (giveQuad q w (writeDst s ag d 0)))
    else match qownRefused q w s with
      | some s1 => .ok (writeDst s1 ag d 1)
      | none =>
        if (s.quads.get q).scrubbing then .error .stall
        else if quadBusy s q then .ok (writeDst s ag d 1)
        else if quadTraffic s q then .error .stall
        else beginScrub q ((flushQuad q s).updQuad q fun x =>
          { x with tlb := [], cores := x.cores.each fun y => { y with tlb := [] } })) s

/-! ## The other forms (R294) -/

/-- priv.tlbinv. -/
def execTlbinv (a b : Src) (s : State) : Host.Outcome State Fault Refusal :=
  perform (.tlbinv a b) (fun ag s => do
    let va ← readSrc s ag a
    let w ← readSrc s ag b
    check (bits w 63 16 == 0 && bits w 7 2 == 0 && bits w 1 0 != 3) illegal
    let p : BitVec 8 := BitVec.ofNat 8 (bits w 15 8)
    .ok (match bits w 1 0 with
      | 0 => discard p none none false s
      | 1 => discard p none (some (va.toNat / 65536)) false s
      | _ => discard p none none true s)) s

/-- priv.halt. -/
def execHalt (a b : Src) (s : State) : Host.Outcome State Fault Refusal :=
  perform (.halt a b) (fun ag s => do
    let v ← readSrc s ag a
    let w ← readSrc s ag b
    check (bits v 63 8 == 0 && decide (w.toNat ≤ 1)) illegal
    .ok (match partArg v.toNat with
      | none => s
      | some p => if w == 1 then raiseLine p 0 s else releaseLine p s)) s

/-- priv.stoprec. -/
def execStoprec (d : Dst) (a : Src) (s : State) : Host.Outcome State Fault Refusal :=
  perform (.stoprec d a) (fun ag s => do
    let v ← readSrc s ag a
    check (bits v 63 8 == 0) illegal
    match partArg v.toNat with
    | none => .ok (writeDst s ag d 0)
    | some p =>
      if !(s.parts.get p).toStop.isEmpty then .error (.park (.stopRecords p))
      else .ok (writeDst (s.updPart p fun x => { x with stopCount := 0 }) ag d (wd (s.parts.get p).stopCount))) s

/-- The buffers of committed regions go on to their homes, as far as they can. -/
def drainAll : List Agent → State → State
  | [], s => s
  | a :: t, s => drainAll t (drainRegion a s)

/-- The home-reaching fence of a partition (R294): it retires once no strand has a write on its way. -/
def homeFence (p : BitVec 8) (s : State) : Except Stop State :=
  let as := strandsOf (s.partQuads p)
  let s1 := drainAll as s
  if as.all fun a => (s1.ctx a).fl.drain.isEmpty then .ok s1 else .error (.wait s1)

/-- priv.cctl. -/
def execCctl (a b : Src) (s : State) : Host.Outcome State Fault Refusal :=
  perform (.cctl a b) (fun ag s => do
    let v ← readSrc s ag a
    let w ← readSrc s ag b
    check (decide (w.toNat ≤ 2) && decide (v.toNat < if w == 0 then 64 else 256)) illegal
    if w == 0 then .ok (flushQuad (Fin.ofNat 64 v.toNat) s)
    else if w == 1 then
      .ok (foldSectors cleanBasin (linesWhere s fun x =>
        target s (64 * x) == .device && ownV (ownerOf s (64 * x)) && ownPart (ownerOf s (64 * x)) == v.toNat) s)
    else homeFence (BitVec.ofNat 8 v.toNat) s) s

/-- The writable bits of RGNB and RGNL (R129). -/
def rgnbMask : Word := 0x000F_FFFF_FFFF_0007
def rgnlMask : Word := 0x000F_FFFF_FFFF_0000

/-- The granules that an entry of a region table covers. -/
def rgnRange (p : Part) (i : Nat) : Nat × Nat := (bits (p.rgnb.toList.getD i 0) 51 16, bits (p.rgnl.toList.getD i 0) 51 16)

/-- A region-table write with what R133 asks of the old and new ranges. -/
def writeRegion (p : Fin 64) (i : Nat) (limit : Bool) (v : Word) (s : State) : State :=
  let old := rgnRange (s.parts.get p) i
  let s1 := s.updPart p fun x =>
    if limit then { x with rgnl := x.rgnl.setIfInBounds i (v &&& rgnlMask) }
    else { x with rgnb := x.rgnb.setIfInBounds i (v &&& rgnbMask) }
  let new := rgnRange (s1.parts.get p) i
  clearRange new.1 new.2 (clearRange old.1 old.2 s1)

/-- The value of a region-table register (R129). -/
def rgnWord (p : Part) (i : Nat) (limit : Bool) : Word := (if limit then p.rgnl else p.rgnb).toList.getD i 0

/-- priv.pset; a frozen partition refuses one that would change its table (R389). The writer's own earlier accesses are performed first (R133). -/
def execPset (a b : Src) (s : State) : Host.Outcome State Fault Refusal :=
  perform (.pset a b) (fun ag s => do
    let v ← readSrc s ag a
    let w ← readSrc s ag b
    check (bits v 63 17 == 0 && bits v 7 6 == 0 && w &&& ~~~ (if bitAt v 16 then rgnlMask else rgnbMask) == 0) illegal
    let s ← drained ag s
    .ok (match partArg (bits v 15 8) with
      | none => s
      | some p =>
        if isFrozen s p then (if w == rgnWord (s.parts.get p) (bits v 5 0) (bitAt v 16) then s else refuseConfig p s)
        else if configClosed s p then s
        else writeRegion p (bits v 5 0) (bitAt v 16) w s)) s

end Sys2Proof.Machine
end

