-- ==== Sys2Proof/Machine/Packet.lean ====
section
/-! DEFINITION. The fetch unit and the packets it processes (spec/15, R329, R333 to R348). -/

namespace Sys2Proof.Machine

/-! ## The processing pointer (R338 to R340) -/

/-- The address of the packet that the pointer names: in the open indirect buffer, or in the ring below KLIM. -/
def QueueSt.head (q : QueueSt) : Option Word :=
  match q.ib with
  | e :: _ => some e.next
  | [] => if q.pos == q.klim then none else some (ringEntry q.rbase q.rsize.toNat q.pos)

/-- The pointer stands in the buffer that holds the active loop. -/
def QueueSt.inLoop (q : QueueSt) : Bool := q.loop.active && q.ib.length == q.loop.depth

/-- A pass of the loop has ended: the pointer goes back to START, or the loop is over. -/
def QueueSt.passEnd (q : QueueSt) : QueueSt :=
  if q.inLoop && q.loop.pos == q.loop.span then
    if q.loop.remain.toNat ≤ 1 then { q with loop := Init.queue.loop }
    else
      let n := q.loop.span.toNat
      let lp := { q.loop with remain := q.loop.remain - 1, pos := 0 }
      match q.ib with
      | e :: t => { q with loop := lp, ib := { next := q.loop.start, remain := e.remain + BitVec.ofNat 32 n } :: t }
      | [] => { q with loop := lp, pos := q.pos - BitVec.ofNat 32 n }
  else q

/-- Loop passes that have ended, and indirect buffers that have: back to the packet after the IBCALL. -/
def QueueSt.settle : Nat → QueueSt → QueueSt
  | 0, q => q
  | k + 1, q =>
    let q1 := q.passEnd
    match q1.ib with
    | e :: t => if e.remain == 0 then QueueSt.settle k { q1 with ib := t } else q1
    | [] => q1

/-- The pointer past one packet of its buffer. -/
def QueueSt.pass (q : QueueSt) : QueueSt :=
  let q1 := match q.ib with
    | e :: t => { q with ib := { next := e.next + 64, remain := e.remain - 1 } :: t }
    | [] => { q with pos := q.pos + 1 }
  if q.inLoop then { q1 with loop := { q1.loop with pos := q1.loop.pos + 1 } } else q1

/-- The pointer at the next packet to process. -/
def QueueSt.advance (q : QueueSt) : QueueSt := q.pass.settle 8

/-- The pointer in an indirect buffer (R338). -/
def QueueSt.enter (a : Word) (n : Nat) (q : QueueSt) : QueueSt :=
  let q1 := q.pass
  { q1 with ib := { next := a, remain := BitVec.ofNat 32 n } :: q1.ib }

/-- The pointer at the first packet of a loop (R340). -/
def QueueSt.openLoop (span count : Nat) (q : QueueSt) : QueueSt :=
  let q1 := q.pass
  let start := match q1.ib with
    | e :: _ => e.next
    | [] => ringEntry q1.rbase q1.rsize.toNat q1.pos
  { q1 with loop := { active := true, start := start, remain := BitVec.ofNat 32 count, span := BitVec.ofNat 8 span
                      pos := 0, depth := q1.ib.length } }

/-- Skips `n` packets of an indirect buffer after the one passed; none when they pass its end (R339). -/
def QueueSt.skipIn : Nat → QueueSt → Option QueueSt
  | 0, q => some (q.settle 8)
  | n + 1, q =>
    let q1 := q.passEnd
    match q1.ib with
    | e :: _ => if e.remain == 0 then none else QueueSt.skipIn n q1.pass
    | [] => none

/-- The packets after this one that lie in its indirect buffer; none in the ring. -/
def QueueSt.after (q : QueueSt) : Option Nat :=
  match q.ib with
  | e :: _ => some (e.remain.toNat - 1)
  | [] => none

/-! ## Packets (R333, R334) -/

/-- Bytes that R334 assigns to a field of a kind. -/
def pktUsed (kind i : Nat) : Bool :=
  let run := fun (lo hi : Nat) => decide (lo ≤ i) && decide (i ≤ hi)
  match kind with
  | 2 => run 4 51
  | 3 => run 4 63
  | 4 => run 8 19
  | 5 => run 2 3 || run 8 31
  | 6 => i == 2 || run 4 7
  | 8 => i == 2 || run 8 23
  | 9 => i == 2 || run 8 31
  | 10 => run 2 7
  | _ => false

def pktKind (p : List Byte) : Nat := fieldAt p 0 1

/-- The fields of a kind are in range (R334, R336). -/
def pktRange (p : List Byte) : Bool :=
  match pktKind p with
  | 3 =>
    let n := popCount 32 (fieldAt p 4 4)
    decide (n ≤ 7) && (List.range 7).all fun k => decide (k < n) || fieldAt p (8 + 8 * k) 8 == 0
  | 4 => fieldAt p 8 8 % 64 == 0 && decide (1 ≤ fieldAt p 16 4) && decide (fieldAt p 16 4 ≤ 2 ^ 20)
  | 5 => decide (fieldAt p 2 1 ≤ 5)
  | 6 => decide (1 ≤ fieldAt p 2 1)
  | 8 => decide (fieldAt p 2 1 ≤ 3)
  | 9 => decide (fieldAt p 2 1 ≤ 5)
  | 10 =>
    let op := fieldAt p 2 1
    let arg := fieldAt p 4 4
    decide (1 ≤ op) && decide (op ≤ 4) && decide (fieldAt p 3 1 < 32) &&
      (if op = 3 then true else if op = 4 then decide (1 ≤ arg) && decide (arg ≤ 3) else arg == 0)
  | _ => true

/-- The code of the queue fault that a packet's own bytes are (R333, R348). -/
def pktCode (p : List Byte) : Option Nat :=
  let k := pktKind p
  if k = 0 ∨ 10 < k then some 1
  else if 2 ≤ fieldAt p 1 1 then some 1
  else if (List.range 64).any fun i => decide (2 ≤ i) && !pktUsed k i && fieldAt p i 1 != 0 then some 1
  else if !pktRange p then some 1
  else if k = 10 ∧ fieldAt p 2 1 = 3 ∧ 255 < fieldAt p 4 4 then some 5
  else none

/-- The row of the opcode table that a well-formed packet is. -/
def pktRow (p : List Byte) : Instr :=
  match pktKind p with
  | 1 => .pktNop
  | 2 => .pktDispatch
  | 3 => .pktDelta
  | 4 => .pktIbcall
  | 5 => .pktPred
  | 6 => .pktLoop
  | 7 => .pktFfence
  | 8 => .pktSignal
  | 9 => .pktWaitmem
  | _ => match fieldAt p 2 1 with
    | 1 => .levelGraph
    | 2 => .levelPhase
    | 3 => .levelJob
    | _ => .levelCancel

/-- A packet that waits for every launch of the queue: WAIT, LEVEL PHASE, LEVEL JOB (R335, R346). -/
def pktWaits (p : List Byte) : Bool :=
  fieldAt p 1 1 == 1 || (pktKind p == 10 && (fieldAt p 2 1 == 2 || fieldAt p 2 1 == 3))

/-- The comparison of R339. -/
def pktCond (cond : Nat) (x v : Word) : Bool :=
  match cond with
  | 0 => x == v
  | 1 => x != v
  | 2 => x.slt v
  | 3 => !x.slt v
  | 4 => x.ult v
  | _ => !x.ult v

/-! ## Fetching (R342) -/

/-- The slot may process packets: it is RUNNING, nothing of it waits for a page, firmware is not changing (R405), and the
distributors have accepted every dispatch before (R335). -/
def slotLive (s : State) (i : Fin 16) : Bool :=
  let x := s.slots.get i
  x.st == .running && x.holdFetch.isNone && !x.writesHeld && firmwareUp s &&
    !s.launches.any fun l => l.queue == x.qid && !l.accepted

/-- The packets read ahead, from the one at the pointer on. -/
def aheadOf (q : QueueSt) : List (Word × List Byte) :=
  match q.head with
  | none => []
  | some a => q.ahead.dropWhile fun e => e.1 != a

/-- A loop of `span` packets cannot stand in its buffer (R340): it passes the buffer's end, or is longer than the ring, whose
entries are passed only when the loop ends (DEDUCED, log 40). -/
def QueueSt.loopBad (q : QueueSt) (span : Nat) : Bool :=
  q.loop.active || match q.after with
    | some n => decide (n < span)
    | none => decide (q.rsize.toNat < span)

/-- Where the pointer stands after a packet read ahead, a PRED taken as holding (R342); none past one that faults. -/
def walkPacket (p : List Byte) (q : QueueSt) : Option QueueSt :=
  if q.skip != 0 then some { q.advance with skip := q.skip - 1 }
  else if (pktCode p).isSome then none
  else match pktKind p with
    | 4 => if 3 ≤ q.ib.length then none else some (q.enter (wd (fieldAt p 8 8)) (fieldAt p 16 4))
    | 6 =>
      if q.loopBad (fieldAt p 2 1) then none
      else if fieldAt p 4 4 = 0 then some { q.advance with skip := BitVec.ofNat 8 (fieldAt p 2 1) }
      else some (q.openLoop (fieldAt p 2 1) (fieldAt p 4 4))
    | _ => some q.advance

/-- The pointer past the packets read ahead. -/
def walkAhead : List (Word × List Byte) → QueueSt → Option QueueSt
  | [], q => some q
  | e :: t, q =>
    if q.head == some e.1 then
      match walkPacket e.2 q with
      | some q1 => walkAhead t q1
      | none => none
    else none

/-- The half of the packet at `va` that has been read: whether it is the later one, and its bytes. -/
def QueueSt.halfAt (q : QueueSt) (va : Word) : Option (Bool × List Byte) :=
  match q.half with
  | some (hi, at_, bs) => if at_ == va then some (hi, bs) else none
  | none => none

/-- A half of a packet is read (R126, R342). -/
def readHalf (i : Fin 16) (va : Word) (hi : Bool) (s : State) : Except Stop (List Byte × State) :=
  plainRead (slotRequester s i) (if hi then va + 32 else va) 32 s

/-- What of a packet has not been read is read (R342). -/
def readPacket (i : Fin 16) (va : Word) (s : State) : Except Stop (List Byte × State) := do
  match (s.slots.get i).q.halfAt va with
  | some (hi, bs) =>
    let r ← readHalf i va (!hi) s
    .ok (if hi then r.1 ++ bs else bs ++ r.1, r.2)
  | none =>
    let r ← readHalf i va false s
    let r2 ← readHalf i va true r.2
    .ok (r.1 ++ r2.1, r2.2)

/-- A ring entry that its producer has not written yet stops the fetch until a kick (R329). -/
def stickAt (i : Fin 16) (s : State) : State := s.updSlot i fun x => { x with q := { x.q with stuck := true, half := none } }

/-- PACKET_READ (R342): of the next packet of the processing order, within 8 of the one being processed, one 32-byte half is
read, `req.on` saying which comes first, or the other half when one has been (R329). A page fault of a packet or a descriptor holds
the fetch. A read ahead that finds its page absent is made again when the packet is processed. -/
def execPacketRead (i : Fin 16) (s : State) : Host.Outcome State Fault Refusal :=
  let x := s.slots.get i
  let ah := aheadOf x.q
  if x.st != .running || x.q.stuck || x.holdFetch.isSome || 8 < ah.length then .next s
  else match walkAhead ah x.q with
    | none => .next s
    | some q => match q.head with
      | none => .next s
      | some va => match x.q.halfAt va with
        | none =>
          (match readHalf i va s.md.req.on s with
          | .error _ => .next s
          | .ok (bs, s1) =>
            if !s.md.req.on && pktKind bs == 0 && q.ib.isEmpty then .next (stickAt i s1)
            else .next (s1.updSlot i fun x => { x with q := { x.q with half := some (s.md.req.on, va, bs) } }))
        | some _ =>
          (match readPacket i va s with
          | .error _ => .next s
          | .ok (p, s1) =>
            if pktKind p == 0 && q.ib.isEmpty then .next (stickAt i s1)
            else .next (s1.updSlot i fun x => { x with q := { x.q with ahead := ah ++ [(va, p)], half := none } }))

/-! ## Moving on (R329) -/

/-- One ring entry consumed: its KIND cleared, RPTR written. -/
def passRing (i : Fin 16) (s : State) : State :=
  let q := (s.slots.get i).q
  let s1 := slotPut i (ringEntry q.rbase q.rsize.toNat q.rptr) [0] s
  let s2 := s1.updSlot i fun x => { x with q := { x.q with rptr := x.q.rptr + 1 } }
  putQcb i 20 4 (s2.slots.get i).q.rptr.toNat s2

def passRings (i : Fin 16) : Nat → State → State
  | 0, s => s
  | n + 1, s => passRings i n (passRing i s)

/-- The ring entries that the pointer has passed: not those of an active loop's span before it ends, and not an IBCALL whose buffer
is open (R329, R338). -/
def passedCount (q : QueueSt) : Nat :=
  (q.pos - (if q.loop.active && q.loop.depth == 0 then q.loop.pos.setWidth 32 else if q.ib.isEmpty then 0 else 1) - q.rptr).toNat

/-- A packet has been processed: the pointer moves by `g`. -/
def moveOn (i : Fin 16) (g : QueueSt → QueueSt) (s : State) : State :=
  let s1 := s.updSlot i fun x =>
    let q1 := { x.q with ahead := (aheadOf x.q).drop 1 }
    { x with refused := none, waitSector := none, q := g q1 }
  passRings i (passedCount (s1.slots.get i).q) s1

/-- An access of a packet that does not complete: its page is asked for, or it is a queue fault of code ACCESS (R341,
R342). -/
def pktStop (i : Fin 16) (e : Stop) (s : State) : State :=
  match e with
  | .absent .. | .granule .. => slotAsk i e s
  | _ => queueFault i 4 s

/-- The head packet of the slot that `md.req` names, when it is of a kind and may be processed now. -/
def headPacket (s : State) (p : List Byte → Bool) : Option (List Byte) :=
  let i := s.md.req.slot
  let x := s.slots.get i
  if !slotLive s i || x.waitSector.isSome || x.q.skip != 0 then none
  else match aheadOf x.q with
    | (_, b) :: _ =>
      if p b && (pktCode b).isNone && !(pktWaits b && x.q.lseq != x.q.ldone) then some b else none
    | [] => none

/-- A packet's row: processed when it is the head packet, else nothing. -/
def packetForm (p : List Byte → Bool) (f : Fin 16 → List Byte → State → State) (s : State) : Host.Outcome State Fault Refusal :=
  match headPacket s p with
  | some b => .next (f s.md.req.slot b s)
  | none => .next s

/-- The processed packet has moved the pointer on. -/
def packetDone (i : Fin 16) (s : State) : State := moveOn i QueueSt.advance s

def isKind (k : Nat) (p : List Byte) : Bool := pktKind p == k
def isLevel (op : Nat) (p : List Byte) : Bool := pktKind p == 10 && fieldAt p 2 1 == op

/-! ## Control flow (R338 to R341) -/

/-- NOP (R334). -/
def execPktNop (s : State) : Host.Outcome State Fault Refusal := packetForm (isKind 1) (fun i _ s => packetDone i s) s

/-- IBCALL (R338); a fourth level is a fault of code NEST. -/
def execPktIbcall (s : State) : Host.Outcome State Fault Refusal :=
  packetForm (isKind 4) (fun i p s =>
    if 3 ≤ (s.slots.get i).q.ib.length then queueFault i 2 s
    else moveOn i (QueueSt.enter (wd (fieldAt p 8 8)) (fieldAt p 16 4)) s) s

/-- Skips `n` packets after the one processed (R339): in the ring one by one, as they become available; past the end of
an indirect buffer, a fault of code `code`. -/
def skipPackets (i : Fin 16) (n code : Nat) (s : State) : State :=
  let q := (s.slots.get i).q
  if q.ib.isEmpty then moveOn i (fun q => { q.advance with skip := BitVec.ofNat 8 n }) s
  else match QueueSt.skipIn n q.pass with
    | some _ => moveOn i (fun q => (QueueSt.skipIn n q.pass).getD q) s
    | none => queueFault i code s

/-- The word that a PRED or a WAITMEM reads (R339, R341): an acquire read by the slot. -/
def pktWord (i : Fin 16) (va : Word) (s : State) : Except Stop (Word × List (Nat × Nat) × State) := do
  check (va.toNat % 8 == 0) (alignF va)
  let r ← resolve (slotRequester s i) .r .read va 8 s
  check (!poisoned r.2 r.1) (memerr (memCause r.2 r.1) va)
  .ok (wd (leNat (loadPieces r.2 r.1)), r.1, loadEffects ((slotRequester s i).via none va r.2) r.1 r.2)

/-- The comparison of a PRED or WAITMEM on the word it read. -/
def pktHolds (p : List Byte) (v : Word) : Bool :=
  pktCond (fieldAt p 2 1) (v &&& wd (fieldAt p 24 8)) (wd (fieldAt p 16 8))

/-- PRED (R339). -/
def execPktPred (s : State) : Host.Outcome State Fault Refusal :=
  packetForm (isKind 5) (fun i p s =>
    match pktWord i (wd (fieldAt p 8 8)) s with
    | .error e => pktStop i e s
    | .ok (v, _, s1) => if pktHolds p v then packetDone i s1 else skipPackets i (fieldAt p 3 1) 1 s1) s

/-- LOOP (R340). -/
def execPktLoop (s : State) : Host.Outcome State Fault Refusal :=
  packetForm (isKind 6) (fun i p s =>
    let q := (s.slots.get i).q
    let span := fieldAt p 2 1
    if q.loopBad span then queueFault i 3 s
    else if fieldAt p 4 4 = 0 then skipPackets i span 3 s
    else moveOn i (QueueSt.openLoop span (fieldAt p 4 4)) s) s

/-- The pointer past an FFENCE: what was read past it, an empty entry included, is read again (R342). -/
def QueueSt.discardAhead (q : QueueSt) : QueueSt := { q.advance with ahead := [], half := none, stuck := false }

/-- FFENCE (R342). -/
def execPktFfence (s : State) : Host.Outcome State Fault Refusal :=
  packetForm (isKind 7) (fun i _ s => moveOn i QueueSt.discardAhead s) s

/-- What a SIGNAL leaves at its location (R341). -/
def signalValue (op old v : Nat) : Nat := if op = 1 then old + v else if op = 2 then old ||| v else v

/-- The 64-bit release access of a SIGNAL (R341, R216). -/
def signal (i : Fin 16) (op : Nat) (va v : Word) (s : State) : Except Stop State := do
  check (va.toNat % 8 == 0) (alignF va)
  if op = 0 then
    let r ← resolve (slotRequester s i) .w .write va 8 s
    .ok (storePieces .cmd ((slotRequester s i).via none va r.2) (withBytes r.1 (leBytes 8 v.toNat)) r.2)
  else
    let r ← resolve (slotRequester s i) .atomic .write va 8 s
    check (r.1.all fun p => isMemory s p.1) (perm 4 va)
    check (!poisoned r.2 r.1) (memerr (memCause r.2 r.1) va)
    let old := leNat (readPieces r.2 r.1)
    .ok (writePieces ((slotRequester s i).via none va r.2) r.1 (leBytes 8 (signalValue op old v.toNat)) r.2)

/-- SIGNAL (R341). -/
def execPktSignal (s : State) : Host.Outcome State Fault Refusal :=
  packetForm (isKind 8) (fun i p s =>
    match signal i (fieldAt p 2 1) (wd (fieldAt p 8 8)) (wd (fieldAt p 16 8)) s with
    | .error e => pktStop i e s
    | .ok s1 => packetDone i s1) s

/-- WAITMEM's read (R341): whether its comparison holds, and the sector to watch; an IO location is refused, as WAITA's is
(R219). -/
def waitmemHolds (i : Fin 16) (p : List Byte) (s : State) : Except Stop (Bool × Nat × State) := do
  let va := wd (fieldAt p 8 8)
  let r ← pktWord i va s
  check (!anyIo s (slotRequester s i) r.2.1) (perm 4 va)
  .ok (pktHolds p r.1, ((r.2.1.head?.map fun e => e.1).getD 0) / 64, r.2.2)

/-- The slot leaves RUNNING for a state that holds no quads (R350, R351); a queue that waits for a slot may have it
(R330). -/
def leaveRunning (i : Fin 16) (st : HwSt) (s : State) : State := serveKicks (post .slotSelection (setSlot i st s))

/-- WAITMEM (R341): processing is held on its monitor; with no launch outstanding the slot is WAITING (R350). -/
def execPktWaitmem (s : State) : Host.Outcome State Fault Refusal :=
  packetForm (isKind 9) (fun i p s =>
    match waitmemHolds i p s with
    | .error e => pktStop i e s
    | .ok (true, _, s1) => packetDone i s1
    | .ok (false, sec, s1) =>
      let s2 := (setMonitor { sector := sec, who := .slot i } s1).updSlot i fun x => { x with waitSector := some sec }
      if outstanding s2 (s2.slots.get i).qid then s2 else leaveRunning i .waiting s2) s

/-- A WAITING slot's monitor has fired (R341): the word is read again, and the slot goes on past a WAITMEM that is
satisfied, or watches again; a write of its own that is refused leaves it in ERROR (R343, R350). -/
def retryWaitmem (i : Fin 16) (s : State) : State :=
  match aheadOf (s.slots.get i).q with
  | [] => makeRunnable i s
  | (_, p) :: _ => match waitmemHolds i p s with
    | .error (.absent g k ea) => slotAsk i (.absent g k ea) s
    | .error (.granule g k) => slotAsk i (.granule g k) s
    | .error _ => queueFault i 4 s
    | .ok (true, _, s1) =>
      let s2 := moveOn i QueueSt.advance s1
      if (s2.slots.get i).st == .error then s2 else makeRunnable i s2
    | .ok (false, sec, s1) =>
      (setMonitor { sector := sec, who := .slot i } s1).updSlot i fun x => { x with waitSector := some sec }

/-! ## Levels (R346, R347) -/

/-- A counter of the QCB goes up by one (R344, R346). -/
def bumpGraph (i : Fin 16) (s : State) : State :=
  let s1 := s.updSlot i fun x => { x with q := { x.q with gdone := x.q.gdone + 1 } }
  putQcb i 48 8 (s1.slots.get i).q.gdone.toNat s1

def bumpPhase (i : Fin 16) (s : State) : State :=
  let s1 := s.updSlot i fun x => { x with q := { x.q with pdone := x.q.pdone + 1 } }
  putQcb i 56 8 (s1.slots.get i).q.pdone.toNat s1

/-- The current graph closes, and a new one opens with a policy (R346). -/
def closeGraph (i : Fin 16) (pol : BitVec 8) (s : State) : State :=
  let q := (s.slots.get i).q
  let busy := !(levelLaunches s i 1).isEmpty
  let n := fresh s
  let s1 := n.2.updSlot i fun x =>
    { x with q := { x.q with graph := n.1, gpol := pol, graphOpen := if busy then q.graphOpen ++ [q.graph] else q.graphOpen } }
  if busy then s1 else bumpGraph i s1

/-- The current phase closes, and a new one opens with a policy. -/
def closePhase (i : Fin 16) (pol : BitVec 8) (s : State) : State :=
  let q := (s.slots.get i).q
  let busy := !(levelLaunches s i 2).isEmpty
  let n := fresh s
  let s1 := n.2.updSlot i fun x =>
    { x with q := { x.q with phase := n.1, ppol := pol, phaseOpen := if busy then q.phaseOpen ++ [q.phase] else q.phaseOpen } }
  if busy then s1 else bumpPhase i s1

def pktPol (p : List Byte) : BitVec 8 := BitVec.ofNat 8 (fieldAt p 3 1)

/-- LEVEL GRAPH (R346). -/
def execLevelGraph (s : State) : Host.Outcome State Fault Refusal :=
  packetForm (isLevel 1) (fun i p s => packetDone i (closeGraph i (pktPol p) s)) s

/-- LEVEL PHASE (R346). -/
def execLevelPhase (s : State) : Host.Outcome State Fault Refusal :=
  packetForm (isLevel 2) (fun i p s =>
    packetDone i (closePhase i (pktPol p) (closeGraph i (s.slots.get i).q.gpol s))) s

/-- LEVEL JOB (R346 to R348): as PHASE, and the queue's job is a new instance. -/
def execLevelJob (s : State) : Host.Outcome State Fault Refusal :=
  packetForm (isLevel 3) (fun i p s =>
    let pol := pktPol p
    let s1 := closePhase i pol (closeGraph i (s.slots.get i).q.gpol s)
    let n := fresh s1
    let s2 := n.2.updSlot i fun x =>
      { x with q := { x.q with job := BitVec.ofNat 8 (fieldAt p 4 4), jpol := pol, jobInst := n.1, jobCancelled := false } }
    packetDone i (setJob (pIdx (s2.slots.get i).part) (fieldAt p 4 4) (fun e => { e with pol := pol }) s2)) s

/-- LEVEL CANCEL (R347). -/
def execLevelCancel (s : State) : Host.Outcome State Fault Refusal :=
  packetForm (isLevel 4) (fun i p s => packetDone i (cancelLevel i (fieldAt p 4 4) s)) s

/-! ## Dispatch (R336, R337, R344, R356) -/

/-- A code address: a PC has bit 0 clear (R154). An ENTRY or TRAP whose sum with TEXTBASE is odd, of which R304 and R337 say nothing,
loses the bit (DESIGN CHOICE, log 57). -/
def codeAddr (a : Word) : Word := a &&& ~~~ 1

/-- A launch record of an image descriptor (R304, R337). -/
def parseRecord (b : List Byte) (text chanBase : Word) : LRec :=
  let f := fun (o n : Nat) => fieldAt b o n
  { entry := codeAddr (text + wd (f 4 4)), strands := f 8 4, pack := f 12 1 == 1, strict := f 13 1 % 2 == 1
    ltm := f 13 1 / 2 % 2 == 1, upol := BitVec.ofNat 8 (f 14 1), lpol := BitVec.ofNat 8 (f 15 1)
    amode := [f 24 1, f 25 1, f 26 1], astride := [f 28 2, f 30 2, f 32 2], cmask := BitVec.ofNat 32 (f 36 4)
    trap := if f 40 4 = 0xFFFF_FFFF then 0 else codeAddr (text + wd (f 40 4))
    chan := if f 44 4 = 0xFFFF_FFFF then none else some (chanBase + wd (f 44 4))
    tiles := (List.range (min 8 (f 48 1))).map fun k => (Fin.ofNat 64 (f (64 + 16 * k) 1), wd (f (72 + 16 * k) 8)) }

/-- An entry of a channel table (R307). A channel number past 7 is outside every mask, so that the check refuses it. -/
def parseChan (b : List Byte) : Chan :=
  let f := fun (o : Nat) => fieldAt b o 1
  let bad := decide (7 < f 2) || decide (7 < f 3)
  { fq := if bad then 64 else f 0 / 4, fc := Fin.ofNat 4 (f 0), tq := f 1 / 4, tc := Fin.ofNat 4 (f 1)
    outch := Fin.ofNat 8 (f 2), inch := Fin.ofNat 8 (f 3), l := BitVec.ofNat 32 (fieldAt b 4 4) }

/-- A run of bytes that a dispatch reads, of the slot's plain reads (R337). -/
def slotRead (i : Fin 16) (va : Word) (len : Nat) (s : State) : Except Stop (List Byte × State) :=
  plainRead (slotRequester s i) va len s

/-- The channel table of a launch record (R307). -/
def readChans (i : Fin 16) (r : LRec) (s : State) : Except Stop (List Chan × State) := do
  match r.chan, r.ltm with
  | some va, true =>
    let h ← slotRead i va 8 s
    let n := min 256 (fieldAt h.1 0 2)
    let b ← slotRead i (va + 8) (8 * n) h.2
    .ok ((List.range n).map fun k => parseChan (sliceBytes b.1 (8 * k) 8), b.2)
  | _, _ => .ok ([], s)

/-- The launch record that a dispatch names, with its QMASK and channel table; none for a LAUNCH at or past NLAUNCH. -/
def readLaunch (i : Fin 16) (image : Word) (index : Nat) (s : State) : Except Stop (Option (LRec × Word × List Chan) × State) := do
  let h ← slotRead i image 64 s
  if fieldAt h.1 16 4 ≤ index then .ok (none, h.2)
  else
    let b ← slotRead i (image + wd (64 + 192 * index)) 192 h.2
    let r := parseRecord b.1 (wd (fieldAt h.1 0 8)) (wd (fieldAt h.1 8 8))
    let c ← readChans i r b.2
    .ok (some (r, wd (fieldAt b.1 16 8), c.1), c.2)

/-- The record of a launch that named none. -/
def noRecord : LRec :=
  { entry := 0, strands := 0, pack := false, strict := false, ltm := false, upol := 0, lpol := 0, amode := [], astride := []
    cmask := 0, trap := 0, chan := none, tiles := [] }

/-- Puts a launch on record (R344): LSEQ goes up, its level's policies and cancel marks are taken, the job counts it. -/
def newLaunch (i : Fin 16) (r : Option (LRec × Word × List Chan)) (s : State) : State :=
  let s1 := s.updSlot i fun x => { x with q := { x.q with lseq := x.q.lseq + 1 } }
  let x := s1.slots.get i
  let q := x.q
  let sh := fun (k : Nat) => q.sh.toList.getD k 0
  let id : LaunchId := { hwq := i, lseq := q.lseq }
  let rec_ := match r with | some (v, _, _) => v | none => noRecord
  let strands := (sh 6).toNat % 2 ^ 32
  let gone := q.cancelG.contains q.graph || q.cancelP.contains q.phase || q.jobCancelled
  let l : Launch :=
    { id := id, part := x.part, queue := x.qid, image := sh 0, index := (sh 1).toNat % 2 ^ 32, args := [sh 2, sh 3, sh 4]
      qmask := if sh 5 == 0 then (match r with | some (_, m, _) => m | none => 0) else sh 5
      rec_ := { rec_ with strands := if strands = 0 then rec_.strands else strands }
      todo := [], next := [], waiting := [], inflight := 0, job := q.job.toNat, jobInst := q.jobInst, graph := q.graph
      phase := q.phase, gpol := q.gpol, ppol := q.ppol, jpol := q.jpol, distributed := false
      accepted := r.isNone || gone, refused := r.isNone, cancelled := gone, faulted := false, framesDropped := false
      kind := 0, cause := 0, tries := 0, chans := (match r with | some (_, _, c) => c | none => []), badColl := [] }
  let s2 := { s1 with launches := s1.launches ++ [l] }
  let s3 := setJob (pIdx x.part) q.job.toNat (fun e => { e with outst := e.outst + 1 }) s2
  let s4 := putQcb i 32 8 q.lseq.toNat s3
  post (if l.accepted then .launchComplete id else .launchDistribution id) s4

/-- A dispatch with the shadow registers as they stand (R336). -/
def dispatch (i : Fin 16) (s : State) : State :=
  let x := s.slots.get i
  let image := x.q.sh.toList.getD 0 0
  let ok := match spaceOf s x.qid with | some sp => sp.part == x.part | none => false
  if image == 0 || !ok then packetDone i (newLaunch i none s)
  else match readLaunch i image ((x.q.sh.toList.getD 1 0).toNat % 2 ^ 32) s with
    | .error e => pktStop i e s
    | .ok (r, s1) => packetDone i (newLaunch i r s1)

/-- The shadow registers after a DISPATCH's fields (R336). -/
def dispatchShadow (p : List Byte) (sh : Vector Word 32) : Vector Word 32 :=
  Vector.ofFn fun (k : Fin 32) =>
    match k.val with
    | 0 => if fieldAt p 32 8 = 0 then sh.get k else wd (fieldAt p 32 8)
    | 1 => wd (fieldAt p 4 4)
    | 2 => wd (fieldAt p 8 8)
    | 3 => wd (fieldAt p 16 8)
    | 4 => wd (fieldAt p 24 8)
    | 5 => wd (fieldAt p 40 8)
    | 6 => wd (fieldAt p 48 4)
    | _ => sh.get k

/-- The shadow registers after a DELTA: the values go to the set bits of MASK in ascending order (R334). -/
def deltaShadow (p : List Byte) (sh : Vector Word 32) : Vector Word 32 :=
  let m := fieldAt p 4 4
  Vector.ofFn fun (k : Fin 32) =>
    if m / 2 ^ k.val % 2 = 1 then wd (fieldAt p (8 + 8 * popCount k.val m) 8) else sh.get k

def setShadow (i : Fin 16) (f : Vector Word 32 → Vector Word 32) (s : State) : State :=
  s.updSlot i fun x => { x with q := { x.q with sh := f x.q.sh } }

/-- DISPATCH (R336, R344). -/
def execPktDispatch (s : State) : Host.Outcome State Fault Refusal :=
  packetForm (isKind 2) (fun i p s => dispatch i (setShadow i (dispatchShadow p) s)) s

/-- DELTA (R336). -/
def execPktDelta (s : State) : Host.Outcome State Fault Refusal :=
  packetForm (isKind 3) (fun i p s => dispatch i (setShadow i (deltaShadow p) s)) s

end Sys2Proof.Machine
end

