-- ==== Sys2Proof/Machine/EvTime.lean ====
section
/-! DEFINITION. Events of waiting and of translation: promises, monitors, deadlines, region buffers, page requests,
GRANULE answers, ATS invalidations, long-latency results, cache maintenance (R120, R172, R219, R223, R226, R229, R360,
R362, R364). -/

namespace Sys2Proof.Machine

/-- The agent is parked for a reason that satisfies `p`. -/
def parkedOn (s : State) (a : Agent) (p : Why → Bool) : Bool :=
  (s.ctx a).st == .parked && (match (s.ctx a).why with | some w => p w | none => false)

/-! ## Waiting strands -/

/-- PROMISE_DUE (R120): the waited promise's DUE has passed; the WAITP issues again and traps with LATE. -/
def execPromiseDue (a : Agent) (s : State) : Host.Outcome State Fault Refusal :=
  if parkedOn s a (fun w => match w with | .waitp d => duePassed s d.toNat | _ => false) && lateAllowed s a then
    .next (wake a s)
  else .next s

/-- A slot that WAITMEM holds reads again (R341); one that is being unmapped takes the wake as PEND (R353). -/
def wakeWaitmem (i : Fin 16) (s : State) : State :=
  let x := s.slots.get i
  if x.st == .unmapping then setPend i s
  else if x.st == .waiting then retryWaitmem i s
  else s.updSlot i fun x => { x with waitSector := none }

/-- The waiters of one fired monitor. -/
def fireOne (s : State) (m : Monitor) : State :=
  match m.who with
  | .agent a => if parkedOn s a (fun w => w == .waita m.sector) then wake a s else s
  | .slot i => wakeWaitmem i s
  | .walk .. => s

/-- A sector leaves the caches: what an L1 or the basin holds dirty goes to its home, for host memory in a dirty eviction (R410). A copy
that the host holds keeps the sector in the directory. -/
def evict (sector : Nat) (s : State) : State :=
  let s1 := dropL1 (fun _ _ => true) sector s
  putLine { lineOf s1 sector with st := if (lineOf s1 sector).host == .none then .i else .s } (arrBack sector s1)

/-- MONITOR_FIRE (R219, R341): a write to the sector, or its eviction, which `req.on` says. -/
def execMonitorFire (sector : Nat) (s : State) : Host.Outcome State Fault Refusal :=
  let s := if s.md.req.on then evict sector s else s
  let isWait := fun (m : Monitor) => m.sector == sector && (match m.who with | .walk .. => false | .agent _ | .slot _ => true)
  let ms := s.xl.monitors.filter isWait
  .next (ms.foldl fireOne (clearMonitor isWait s))

/-- PARK_DEADLINE (R223). -/
def execParkDeadline (a : Agent) (s : State) : Host.Outcome State Fault Refusal :=
  if parkedOn s a fun w => match w with | .deposit t => t != 0 && !s.ctc.ult t | _ => false then .next (wake a s) else .next s

/-- REGION_BUFFER_DRAIN (R226): the held stores and messages of a committed region, in order. -/
def execRegionBufferDrain (a : Agent) (s : State) : Host.Outcome State Fault Refusal := .next (drainRegion a s)

/-- LONG_LATENCY_COMPLETION (R172): the oldest outstanding result of the agent is written. -/
def execLongLatencyCompletion (a : Agent) (s : State) : Host.Outcome State Fault Refusal := .next (commitOne a s)

/-- CACHE_MAINTENANCE_COMPLETE (R229): the maintenance form that waits goes on and retires. -/
def execCacheMaintenanceComplete (a : Agent) (s : State) : Host.Outcome State Fault Refusal :=
  if parkedOn s a fun w => w == .flush then .next (wake a (s.updCtx a fun y => { y with answer := some .landed }))
  else .next s

/-! ## Absent pages (R364, R360) -/

/-- WALK_MONITOR_FIRE (R364): every agent parked on a granule of the entry's sector walks again. -/
def execWalkMonitorFire (sector : Nat) (s : State) : Host.Outcome State Fault Refusal :=
  let isWalk := fun (m : Monitor) => m.sector == sector && (match m.who with | .walk .. => true | .agent _ | .slot _ => false)
  let ms := s.xl.monitors.filter isWalk
  .next (ms.foldl (fun s m => match m.who with
    | .walk p pasid g => answerPage false p (some pasid) g none s
    | .agent _ | .slot _ => s) (clearMonitor isWalk s))

/-- The partition an event from the host names. -/
def reqPart (s : State) : BitVec 8 := BitVec.ofNat 8 ((s.md.req.part.map fun p => p.val).getD 0)

/-- A page request group is free again: a request of the partition that waits for one is sent (R364). -/
def freeGroup (r : PageReq) (s : State) : State :=
  let gs := s.xl.groups.filter fun x => x != r
  match s.xl.groupWait.find? fun x => x.part == r.part with
  | some w => { s with xl := { s.xl with groups := gs ++ [w], groupWait := s.xl.groupWait.filter fun x => x != w } }
  | none => { s with xl := { s.xl with groups := gs } }

/-- PAGE_REQUEST_RESPONSE (R364): Success lets the waiters of that granule and kind walk again, a failure refuses them; a
response to no outstanding request, or for a confidential partition through no bound stream (R395), is discarded. -/
def execPageRequestResponse (s : State) : Host.Outcome State Fault Refusal :=
  let q := s.md.req
  let r : PageReq := { part := reqPart s, pasid := q.pasid, granule := q.granule, kind := q.kind }
  if s.xl.groups.contains r && hostAccepted s (pIdx r.part) .io then
    .next (answerPage (!q.on) r.part (some r.pasid) r.granule (some r.kind) (freeGroup r s))
  else .next s

/-- GRANQ0_READ (R360): the host reads the head report, which leaves the queue. -/
def execGranq0Read (s : State) : Host.Outcome State Fault Refusal :=
  .next (popGranq { s with mg := { s.mg with granRead := (hostReg s 0x3000).getD 0 } })

/-- The host's answer to a GRANULE report, which a confidential partition takes through a bound stream alone (R360, R395). -/
def granAnswered (refuse : Bool) (s : State) : State :=
  if hostAccepted s (pIdx (reqPart s)) .io then granAnswer refuse (reqPart s) s.md.req.granule s else s

/-- GRANRESP_WALK_AGAIN (R360). -/
def execGranrespWalkAgain (s : State) : Host.Outcome State Fault Refusal := .next (granAnswered false s)

/-- GRANRESP_REFUSE (R360). -/
def execGranrespRefuse (s : State) : Host.Outcome State Fault Refusal := .next (granAnswered true s)

/-- Translations of an address space that touch a range of granules are discarded, in the partitions that take what the host sends
(R395). -/
def discardRange (pasid : BitVec 20) (lo hi : Nat) (s : State) : State :=
  let mine := fun (part : BitVec 8) (id : BitVec 20) => id == pasid && hostAccepted s (pIdx part) .io
  let keep := fun (xs : List TlbEnt) => xs.filter fun e =>
    !(mine e.part e.pasid && decide (e.va.toNat ≤ hi) && decide (lo < e.va.toNat + e.count))
  { s with
    xl := { s.xl with walk := s.xl.walk.filter fun e => !mine e.part e.pasid }
    quads := s.quads.each fun x => { x with tlb := keep x.tlb, cores := x.cores.each fun y => { y with tlb := keep y.tlb } }
    weirs := s.weirs.each fun x => { x with tlb := keep x.tlb }
    slots := s.slots.each fun x => { x with tlb := keep x.tlb } }

/-- ATS_INVALIDATION (R362): TLBINV of kind 1 on every granule of the range, in the address space that the host names. -/
def execAtsInvalidation (s : State) : Host.Outcome State Fault Refusal :=
  .next (discardRange s.md.req.pasid s.md.req.granule.toNat s.md.req.granuleHi.toNat s)

end Sys2Proof.Machine
end

