-- ==== Sys2Proof/Machine/LocalTime.lean ====
section
/-! DEFINITION. Creating strands (R17, R60 to R63) and local time: major 0x1F and the events of R31 to R39
(spec/01; spec/08, R238 to R241). -/

namespace Sys2Proof.Machine

/-! ## Creating a strand -/

/-- The next generation of a core (R60), the one to which a scrub has advanced CGEN first (R62); none when CGEN would pass
0xFFFF. -/
def Core.nextCgen (x : Core) : Option Gen :=
  if x.cgenFresh && !x.liveGens.contains x.cgen then some x.cgen else nextGen x.liveGens 30 x.cgen.toNat

/-- The state of a new strand (R63): the arguments in n0-n2, everything else dead, CMASK from the launch record (R57). -/
def newCtx (y0 : Ctx) (g : Gen) (l : LaunchId) (cmask : BitVec 32) (frameK : Nat) (copy : CreCopy) : Ctx :=
  let arch := y0.arch.clearTags
  let arg := fun (v : Word) => ({ data := v, tag := g, scr := false } : Reg)
  let n := if frameK = 0 then ((arch.n.set 0 (arg copy.a0)).set 1 (arg copy.a1)).set 2 (arg copy.a2) else arch.n
  { Init.ctx with
    st := .pending, gen := g, launch := some l, copy := copy, awaited := frameK
    arch := { arch with n := n, act := 0, sact := 0, cmask := cmask, frm := 0, fflg := 0, deps := 0, pc := copy.entry } }

/-- A strand created in slot `k` with generation `g`: READY, or a PENDING frame (R17). -/
def createStrand (q : Fin 64) (c : Fin 4) (k : Fin 24) (g : Gen) (l : LaunchId) (frameK : Nat) (copy : CreCopy) (s : State) :
    State :=
  let cmask := match s.launch l with | some r => r.rec_.cmask | none => Init.arch.cmask
  let s1 := s.updCore q c fun x => { (x.updCtx k fun y => newCtx y g l cmask frameK copy) with cgen := g, cgenFresh := false }
  if frameK = 0 then makeReady (.strand q c k) s1 else s1

/-- A message that its interface has checked and opened, and that waits at its core (R62, R391). -/
def takenMsg (m : Instr) : Instr := withHeader (fun h => { h with taken := true }) m

/-- A context scrub begins (R62); the message waits at the interface. -/
def startScrub (q : Fin 64) (c : Fin 4) (m : Option Instr) (s : State) : State :=
  let s1 := s.updCore q c fun x => { x with scrubbing := true, held := x.held ++ (m.map takenMsg).toList }
  if (s.core q c).scrubbing then s1 else post (.contextScrubComplete q c) s1

/-- The strand's creation-message copy that a message gives (R372). -/
def copyOf (m : CreMsg) : CreCopy :=
  { entry := m.entry, a0 := m.a0, a1 := m.a1, a2 := m.a2, timed := m.timed, stamp := m.stamp, order := m.order
    retriable := m.retriable && m.frameK == 0, tries := m.tries }

/-! ## Clocks and channels (R34, R238) -/

/-- Addition that stops at 2^64 - 1. -/
def addSat (a b : Nat) : Word := wd (min (a + b) (2 ^ 64 - 1))

/-- Sends V on every output channel whose last announcement it exceeds (R238), as announcements or null events. -/
def announceOn (nul : Bool) (q : Fin 64) (c : Fin 4) (v : Word) : List (Fin 8) → State → State
  | [], s => s
  | j :: t, s =>
    let lt := (s.core q c).lt
    match lt.out.get j with
    | some o =>
      if (lt.a.get j).ult v then
        let s1 := s.updCore q c fun x => { x with lt := { x.lt with a := x.lt.a.set j.val v j.isLt } }
        announceOn nul q c v t (mail q o.q (lt.launch.getD noLaunch)
          (fun h => if nul then .nullEvent (h, o.q) o.c o.ch v else .clockAnnouncement (h, o.q) o.c o.ch v) s1)
      else announceOn nul q c v t s
    | none => announceOn nul q c v t s

def announceAll (nul : Bool) (q : Fin 64) (c : Fin 4) (v : Word) (s : State) : State :=
  announceOn nul q c v (List.finRange 8) s

/-- The declared input channels of a core. -/
def inputs (lt : LTime) : List (Fin 8) := (List.finRange 8).filter fun j => (lt.chla.get j).isSome

/-- The least bound over the inputs; none without inputs. -/
def leastBound (lt : LTime) : Option Nat :=
  (inputs lt).foldl (fun b j => some (match b with | none => (lt.b.get j).toNat | some v => min v (lt.b.get j).toNat)) none

/-- B(c) := max(B(c), V + L(c)) (R34); a bound that rises resets the count of R39 and may let an event start. A sum past 2^64 - 1, for
which R34 gives no wrap and no limit, stops there (DESIGN CHOICE, log 57). -/
def raiseBound (q : Fin 64) (c : Fin 4) (ch : Fin 8) (v : Word) (s : State) : State :=
  let lt := (s.core q c).lt
  match lt.launch, lt.chla.get ch with
  | some _, some l =>
    let b := addSat v.toNat l.toNat
    if (lt.b.get ch).ult b then
      post (.eventStart q c) (s.updCore q c fun x =>
        { x with lt := { x.lt with b := x.lt.b.set ch.val b ch.isLt, nulls := 0, bRose := true } })
    else s
  | _, _ => s

/-- CLOCK_ANNOUNCEMENT (R34): the quad's interface takes it, and the channel's bound rises. -/
def execClockAnnouncement : Mailed (Fin 64) → Fin 4 → Fin 8 → Word → State → Host.Outcome State Fault Refusal
  | (h, q), c, ch, v, s => .next (arrive h q (.clockAnnouncement (h, q) c ch v) (raiseBound q c ch (cryptWord (meshKey s q) h v)) s)

/-- NULL_EVENT (R34, R38). -/
def execNullEvent : Mailed (Fin 64) → Fin 4 → Fin 8 → Word → State → Host.Outcome State Fault Refusal
  | (h, q), c, ch, v, s => .next (arrive h q (.nullEvent (h, q) c ch v) (raiseBound q c ch (cryptWord (meshKey s q) h v)) s)

/-! ## Starting events (R33, R36) -/

/-- A strand of the core's launch is live on it. -/
def liveEvent (s : State) (q : Fin 64) (c : Fin 4) : Bool :=
  let x := s.core q c
  x.lt.launch.isSome && x.ctxs.toList.any fun y => y.st != .free && y.launch == x.lt.launch

/-- A launch whose slot is being saved, or whose events have not all been delivered, starts nothing (R33, R374). -/
def launchStarts (s : State) (l : LaunchId) : Bool :=
  match s.launch l with
  | some y => y.distributed && !y.cancelled && (s.slots.get l.hwq).st != .preempting && !(s.slots.get l.hwq).saved
  | none => false

/-- The event that the core may start now (R36). -/
def startable (s : State) (q : Fin 64) (c : Fin 4) : Option Event :=
  let x := s.core q c
  match x.lt.launch, waitingEvents s q c with
  | some l, e :: _ =>
    let t := e.stamp.toNat
    if launchStarts s l && !liveEvent s q c && (e.restarted || decide (x.lt.vt.toNat ≤ t)) &&
        (inputs x.lt).all (fun j => decide (t < (x.lt.b.get j).toNat)) && !x.scrubbing &&
        !engineStopped s (pIdx (s.quads.get q).part) (.core q c) then some e
    else none
  | _, _ => none

def sameEvent (x y : Event) : Bool := x.stamp == y.stamp && x.order == y.order && x.restarted == y.restarted

/-- EVENT_START (R36): VT := t, the strand is created in a FREE slot, VT is announced; a freed store entry serves the
refusal FIFO (R241). -/
def execEventStart (q : Fin 64) (c : Fin 4) (s : State) : Host.Outcome State Fault Refusal :=
  let x := s.core q c
  match startable s q c, x.freeSlot (fun _ => true) with
  | some e, some k => match x.nextCgen with
    | none => .next (post (.eventStart q c) (startScrub q c none s))
    | some g =>
      let vt := if x.lt.vt.ult e.stamp then e.stamp else x.lt.vt
      let s1 := s.updCore q c fun x =>
        { x with lt := { x.lt with
          vt := vt, blocked := 0, nulls := 0, bRose := false
          store := x.lt.store.filter fun y => !sameEvent y e
          dispatched := x.lt.dispatched.filter fun y => !sameEvent y e } }
      let copy : CreCopy := { entry := e.entry, a0 := e.a0, a1 := e.a1, a2 := e.a2, timed := true, stamp := e.stamp
                              order := e.order, retriable := true, tries := e.tries }
      let s2 := subInflight e.launch (createStrand q c k g e.launch 0 copy s1)
      .next (announceAll false q c vt (serveFifo q c s2))
  | _, _ => .next s

/-- jzdb holds a strand of the launch stopped (R322). -/
def launchDebugged (s : State) (l : LaunchId) : Bool :=
  (slotsOf s l).any fun (q, c, k) => (s.ctx (.strand q c k)).why == some .debug

/-- NULL_ROUND (R38, R39): a core blocked for 256 cycles, which `blocked` counts in tenths, sends V as a null event; sixteen counted
rounds raise ZLA cause 2. When that fault was ignored (LPOL) and the core stays blocked, every later counted round raises it again;
R39 says only that it is raised when the count reaches 16 (DESIGN CHOICE, log 57). -/
def execNullRound (q : Fin 64) (c : Fin 4) (s : State) : Host.Outcome State Fault Refusal :=
  let lt := (s.core q c).lt
  match lt.launch with
  | none => .next s
  | some l =>
    if lt.blocked < 2560 || !launchStarts s l || liveEvent s q c || (startable s q c).isSome || launchDebugged s l ||
        engineStopped s (pIdx (s.quads.get q).part) (.core q c) then .next s
    else
      let ev := waitingEvents s q c
      let stamp := match ev with | e :: _ => e.stamp.toNat | [] => 2 ^ 64 - 1
      let v := wd (min stamp ((leastBound lt).getD (2 ^ 64 - 1)))
      let counted := !ev.isEmpty && !lt.bRose
      let n := if counted then lt.nulls + 1 else lt.nulls
      let s1 := announceAll true q c v (s.updCore q c fun x => { x with lt := { x.lt with nulls := n, bRose := false, blocked := 0 } })
      if counted && decide (16 ≤ n) then
        let p := pIdx (s1.quads.get q).part
        .next (stopEngine p (.core q c) (some (9, 2, 0)) (faultNoStrand p 9 2 l s1))
      else .next s1

/-! ## ltm (R238 to R241) -/

/-- The core of a strand; the forms of this file run on strand cores only (R176). -/
def strandCore (a : Agent) : Fin 64 × Fin 4 :=
  match a with
  | .strand q c _ => (q, c)
  | .hart .. | .weir _ | .cmd _ | .sec => (0, 0)

/-- A form that only a local-time launch may use (R238). -/
def needLtm (s : State) (a : Agent) : Except Stop Unit := check (s.ltm a) (perm 4 0)

/-- ltm.vtget (R238). -/
def execVtget (d : Dst) (s : State) : Host.Outcome State Fault Refusal :=
  perform (.vtget d) (fun ag s =>
    let qc := strandCore ag
    .ok (writeDst s ag d (if s.ltm ag then (s.core qc.1 qc.2).lt.vt else 0))) s

/-- ltm.vtset (R239). Of VTSET, ANNOUNCE and SENDT outside local time with a dead source in a strict launch the spec does not say
whether UNINIT or PERM comes first: the source is read first (DESIGN CHOICE, log 57). -/
def execVtset (d : Dst) (a : Src) (s : State) : Host.Outcome State Fault Refusal :=
  perform (.vtset d a) (fun ag s => do
    let v ← readSrc s ag a
    needLtm s ag
    let qc := strandCore ag
    let lt := (s.core qc.1 qc.2).lt
    let stamp := match waitingEvents s qc.1 qc.2 with | e :: _ => e.stamp.toNat | [] => 2 ^ 64 - 1
    let bnd := match leastBound lt with | some b => b - 1 | none => 2 ^ 64 - 1
    let nv := wd (max lt.vt.toNat (min v.toNat (min stamp bnd)))
    let s1 := s.updCore qc.1 qc.2 fun x => { x with lt := { x.lt with vt := nv } }
    .ok (announceAll false qc.1 qc.2 nv (writeDst s1 ag d nv))) s

/-- ltm.announce (R240); the source is read first, as in ltm.vtset (log 57). -/
def execAnnounce (a : Src) (s : State) : Host.Outcome State Fault Refusal :=
  perform (.announce a) (fun ag s => do
    let v ← readSrc s ag a
    needLtm s ag
    let qc := strandCore ag
    .ok (announceAll false qc.1 qc.2 v s)) s

/-- The header of a message that has not left its interface, which fills in the rest. -/
def newHeader (part : BitVec 8) (l : LaunchId) : Header :=
  { part := part, launch := l, port := 0, dest := 0, seq := 0, tag := 0, taken := false }

/-- A message's part that every creation message and event of a strand has in common. -/
def strandMsg (s : State) (a : Agent) (q : Fin 64) (c : Fin 4) (entry a0 a1 a2 : Word) (k : Nat) : CreMsg :=
  { hdr := newHeader (s.partOf a) ((s.launchOf a).getD noLaunch)
    q := q, c := c, entry := entry, a0 := a0, a1 := a1, a2 := a2, frameK := k, timed := false, stamp := 0, order := 0
    sender := .strand (ownId s a), tries := 0, retriable := true }

/-- An event's order key (R376): the sender's logical quad, core and send sequence number. -/
def orderKey (s : State) (q : Fin 64) (c : Fin 4) (seq : Nat) : Word :=
  wd (s.logical q % 64 * 2 ^ 57 + c.val * 2 ^ 55 + seq % 2 ^ 55)

/-- A stamped event of a strand, with the next send sequence number of its core. -/
def stampedMsg (s : State) (a : Agent) (q : Fin 64) (c : Fin 4) (entry a0 a1 a2 stamp : Word) : CreMsg × State :=
  let qc := strandCore a
  let n := (s.core qc.1 qc.2).lt.sendSeq
  ({ strandMsg s a q c entry a0 a1 a2 0 with timed := true, stamp := stamp, order := orderKey s qc.1 qc.2 n },
    s.updCore qc.1 qc.2 fun x => { x with lt := { x.lt with sendSeq := n + 1 } })

/-- Holds a message in the region buffer (R225). -/
def bufferMsg (a : Agent) (e : BufEnt) (s : State) : Except Stop State :=
  if 64 ≤ (s.ctx a).fl.rbuf.length then regovf
  else .ok (s.updFlight a fun f => { f with rbuf := f.rbuf ++ [e] })

/-- A form that sends (R232): once the target has answered, the answer alone decides, and `ok` is what acceptance does; before
that, `send`. -/
def answered (a : Agent) (ok : Answer → Act) (send : Act) : Act := fun s =>
  match (s.ctx a).answer with
  | some .denied => perm 3 0
  | some x => ok x s
  | none => send s

/-- The message goes out once every access and message before it has been performed, and the strand parks (R232); in a region it
is held, and no strand waits for its acceptance when it drains. -/
def sendOrHold (a : Agent) (ws : List Word) (hold : BufEnt) (send : State → State) (s : State) : Except Stop State :=
  if (s.ctx a).sp.inregion then bufferMsg a hold s
  else do
    let t ← drained a s
    .error (parkWith a ws .answer (send t))

/-- A stamped event of a strand goes out, or is held in its region, with the next send sequence number of its core. -/
def sendEvent (a : Agent) (q : Fin 64) (c : Fin 4) (entry a0 a1 a2 stamp : Word) (s : State) : Except Stop State :=
  let qc := strandCore a
  let m := stampedMsg s a q c entry a0 a1 a2 stamp
  sendOrHold a [] (.sendt { m.1 with sender := .firmware }) (fun s1 => sendStamped qc.1 m.1
    (s1.updCore qc.1 qc.2 fun x => { x with lt := { x.lt with sendSeq := (m.2.core qc.1 qc.2).lt.sendSeq } }))
    (if (s.ctx a).sp.inregion then m.2 else s)

/-- ltm.sendt (R241); the channel operand is read first, as in ltm.vtset (log 57). -/
def execSendt (a b : Src) (s : State) : Host.Outcome State Fault Refusal :=
  perform (.sendt a b) (fun ag => answered ag (fun _ s => .ok s) fun s => do
    let j ← readSrc s ag b
    needLtm s ag
    let qc := strandCore ag
    let lt := (s.core qc.1 qc.2).lt
    let ch : Fin 8 := Fin.ofNat 8 j.toNat
    match (if j.toNat < 8 then lt.out.get ch else none) with
    | none => perm 4 0
    | some o =>
      let pc ← readSrc s ag a
      check (pc.toNat % 2 == 0) (alignF pc)
      let t ← readSrc s ag (.q 3)
      check (decide (max lt.vt.toNat (lt.a.get ch).toNat + o.l.toNat ≤ t.toNat)) (zla 3 t)
      let a0 ← readSrc s ag (.q 2)
      let a1 ← readSrc s ag (.q 1)
      let a2 ← readSrc s ag (.q 0)
      sendEvent ag o.q o.c pc a0 a1 a2 t s) s

end Sys2Proof.Machine
end

