-- ==== Sys2Proof/Machine/Msg.lean ====
section
/-! DEFINITION. Messages: major 0x1E, and the events of creation, refusal, deposits and migration (spec/01, R13 to R30;
spec/02, R60 to R65; spec/08, R232 to R237). -/

namespace Sys2Proof.Machine

/-! ## Target words (R232) -/

/-- The physical quad of a logical one that the launch's mask names. -/
def maskedQuad (s : State) (a : Agent) (l : Nat) : Option (Fin 64) :=
  match s.launchRec a with
  | some r => if maskHas r.qmask l then s.physical r.part l else none
  | none => none

/-- The core a target word names, or PERM of cause 4. -/
def targetCore (s : State) (a : Agent) (w : Word) : Except Stop (Fin 64 × Fin 4) :=
  match maskedQuad s a (bits w 12 7) with
  | some q => .ok (q, Fin.ofNat 4 (bits w 6 5))
  | none => perm 4 0

/-! ## msg.spark, msg.frame, msg.send (R233 to R235) -/

/-- msg.spark (R233); in a local-time launch an event on the own core at the sender's VT (R37). Where more than one holds, the quad
mask's PERM comes before ALIGN, and ALIGN before the PERM of local time; the spec gives no order (DESIGN CHOICE, log 57). -/
def execSpark (a b : Src) (s : State) : Host.Outcome State Fault Refusal :=
  perform (.spark a b) (fun ag => answered ag (fun _ s => .ok s) fun s => do
    let pc ← readSrc s ag a
    let t ← readSrc s ag b
    let a0 ← readSrc s ag (.q 2)
    let a1 ← readSrc s ag (.q 1)
    let a2 ← readSrc s ag (.q 0)
    let to_ ← targetCore s ag t
    check (pc.toNat % 2 == 0) (alignF pc)
    let qc := strandCore ag
    if s.ltm ag then
      check (to_ == qc) (perm 4 0)
      sendEvent ag qc.1 qc.2 pc a0 a1 a2 (s.core qc.1 qc.2).lt.vt s
    else
      let m := strandMsg s ag to_.1 to_.2 pc a0 a1 a2 0
      sendOrHold ag [] (.spark { m with sender := .firmware }) (sendCreation qc.1 m) s) s

/-- msg.frame (R234): on acceptance dst takes the frame token. Where more than one holds, ILLEGAL comes before PERM, and PERM before
ALIGN; the spec gives no order (DESIGN CHOICE, log 57). -/
def execFrame (d : Dst) (a b : Src) (s : State) : Host.Outcome State Fault Refusal :=
  perform (.frame d a b) (fun ag => answered ag
    (fun x s => .ok (match x with
      | .accepted token => writeDst s ag d token
      | .landed | .dropped | .denied | .refused => s))
    fun s => do
      let pc ← readSrc s ag a
      let t ← readSrc s ag b
      check (bits t 3 0 != 0) illegal
      check (!s.ltm ag) (perm 4 0)
      let to_ ← targetCore s ag t
      check (pc.toNat % 2 == 0) (alignF pc)
      let m := strandMsg s ag to_.1 to_.2 pc 0 0 0 (bits t 3 0)
      let s1 ← drained ag s
      .error (parkWith ag [] .answer (sendCreation (strandCore ag).1 m s1))) s

/-- The deposit that a SEND's token and value make, or the check of one (R235). -/
def depositMsg (s : State) (a : Agent) (reg : Fin 16) (to_ : Fin 64 × Fin 4) (t v : Word) (checkOnly : Bool) : DepMsg :=
  { hdr := (strandMsg s a to_.1 to_.2 0 0 0 0 0).hdr, q := to_.1, c := to_.2, k := bits t 4 0
    gen := BitVec.ofNat 16 (bits t 28 13), reg := reg, value := v, checkOnly := checkOnly, sender := some (.strand (ownId s a)) }

/-- The SEND that a check has let through, held in the region (R235): its token and value are those that were checked. -/
def holdSend (a : Agent) (reg : Fin 16) (s : State) : Except Stop State := do
  let ws := (s.ctx a).latch.getD []
  let to_ ← targetCore s a (ws.getD 0 0)
  bufferMsg a (.send { depositMsg s a reg to_ (ws.getD 0 0) (ws.getD 1 0) false with sender := none }) s

/-- msg.send (R235); in a region a check goes first, and the deposit is held. -/
def execSend (reg : Fin 16) (a b : Src) (s : State) : Host.Outcome State Fault Refusal :=
  perform (.send reg a b) (fun ag => answered ag
    (fun _ s => if (s.ctx ag).sp.inregion then holdSend ag reg s else .ok s)
    fun s => do
      let t ← readSrc s ag a
      let v ← readSrc s ag b
      check (!s.ltm ag) (perm 4 0)
      let to_ ← targetCore s ag t
      let rgn := (s.ctx ag).sp.inregion
      check (!(rgn && decide (64 ≤ (s.ctx ag).fl.rbuf.length))) regovf
      let s1 ← if rgn then .ok s else drained ag s
      .error (parkWith ag [t, v] .answer (sendDeposit (strandCore ag).1 (depositMsg s ag reg to_ t v rgn) s1))) s

/-! ## msg.exit (R24, R237) -/

/-- The stop record of a request that has left its engine's queue, with the fault that it raised (R369). -/
def endedRecord (s : State) (engine : Nat) (id : StrandId) (l : LaunchId) (e : OutReq) (f : Nat × Nat × Word) : StopRec :=
  { StopRec.blank engine with
    kind := f.1, cause := f.2.1, value := f.2.2.toNat, flags := 5, stid := (stidWord s id).toNat, launch := l
    engseq := e.eng.toNat * 2048 + e.seq.toNat }

/-- The engine that raised a fault which becomes its launch's stops with its record (R367, R369, R370): a weir unit's stands behind
those of the requests that it still holds. -/
def stopEnded (p : Fin 64) (id : StrandId) (l : LaunchId) (e : OutReq) (f : Nat × Nat × Word) (s : State) : State :=
  match hartEngine (engAgent id.q e.eng) with
  | some (.hart q h) =>
    if !(s.parts.get p).toStop.contains (.hart q h) then s
    else leaveLine p (.hart q h) (putStopRecord p q (4 + h.val) (endedRecord s (4 + h.val) id l e f) s)
  | some (.weir u) =>
    if !(s.parts.get p).toStop.contains (.weir u) then s
    else
      let s1 := weirRecords p u none ((s.weirs.get u).queue.filter fun r => r.part.toNat == p.val) s
      let pos := (heldWeir s p id.q).length
      leaveLine p (.weir u) (if pos < 8 then putStopRecord p id.q (8 + pos) (endedRecord s 8 id l e f) s1 else s1)
  | _ => s

/-- The request faults still on a strand's list become faults of its launch (R121, R237). -/
def exitFaults (p : Fin 64) (id : StrandId) (l : LaunchId) : List OutReq → State → State
  | [], s => s
  | e :: t, s => exitFaults p id l t (match e.st with
      | .faulted k c v => noteIntegrity p k c (stopEnded p id l e (k, c, v) (faultNoStrand p k c l s))
      | .running | .cancelled => s)

/-- msg.exit (R24, R237): once the region buffer has drained, the lease is released and the slot becomes FREE. -/
def execExit (s : State) : Host.Outcome State Fault Refusal :=
  performJump .exit (fun ag s =>
    match ag with
    | .strand q c k => do
      let s1 ← drained ag s
      let y := s1.ctx ag
      let s2 := exitFaults (pIdx (s1.quads.get q).part) (s1.strandId q c k) (y.launch.getD noLaunch) y.outst s1
      .ok (freeSlot q c k (clearMonitor (fun m => m.who == .agent ag) s2))
    | .hart .. | .weir _ | .cmd _ | .sec => .ok s) s

/-! ## msg.migr (R25 to R27, R236) -/

/-- The four neighbour quads of a basin slice (R8). -/
def neighbours (sl : Nat) : List (Fin 64) :=
  let x := 2 * (sl % 4)
  let y := 2 * (sl / 4)
  [y * 8 + x, y * 8 + x + 1, (y + 1) * 8 + x, (y + 1) * 8 + x + 1].map (Fin.ofNat 64)

/-- Candidates of MIGR by address (R25): the neighbours of the home slice in the launch's quad mask, by logical number. -/
def addrCands (s : State) (a : Agent) (pa : Nat) : List (Fin 64) :=
  match s.launchRec a with
  | some l => ((s.partQuads l.part).zipIdx.filter fun e => maskHas l.qmask e.2 && (neighbours (home pa)).contains e.1).map Prod.fst
  | none => []

/-- The free slots of the four cores of a quad. -/
def freeCounts (x : Quad) : List Nat := x.cores.toList.map fun y => (y.ctxs.toList.filter fun z => z.st == .free).length

/-- The index of the first largest number of a list. -/
def argMax (xs : List Nat) : Nat := xs.idxOf (xs.foldl max 0)

/-- The chosen quad and core (R25). -/
def chooseDest (w : Query) : Fin 64 × Fin 4 :=
  let counts := w.cands.map fun q => match w.answers.find? fun e => e.1 == q with
    | some e => e.2
    | none => []
  let i := argMax (counts.map List.sum)
  (w.cands.getD i 0, Fin.ofNat 4 (argMax (counts.getD i [])))

/-- The migration image (R26). -/
def migrImage (y : Ctx) : List Byte :=
  let l := y.launch.getD noLaunch
  let w8 := fun (v : Word) => leBytes 8 v.toNat
  y.arch.n.toList.flatMap (fun r => w8 r.data) ++ y.arch.n.toList.flatMap (fun r => leBytes 2 r.tag.toNat) ++
    y.arch.loops.toList.flatMap (fun r => w8 r.data) ++ y.arch.loops.toList.flatMap (fun r => leBytes 2 r.tag.toNat) ++
    leBytes 2 y.gen.toNat ++ leBytes 1 (y.arch.act.toNat + 4 * y.arch.sact.toNat) ++
    leBytes 1 (y.sp.intrap.toNat + 2 * y.sp.sstep.toNat) ++ w8 y.arch.pc ++ leBytes 8 y.arch.cmask.toNat ++
    leBytes 1 y.arch.frm.toNat ++ leBytes 1 y.arch.fflg.toNat ++ leBytes 1 y.sp.trapc.toNat ++ leBytes 1 y.copy.tries ++
    leBytes 4 l.lseq.toNat ++ leBytes 1 l.hwq.val ++ leBytes 7 0 ++ w8 y.sp.trappc ++ w8 y.sp.trapv ++ w8 y.copy.entry ++
    w8 y.copy.a0 ++ w8 y.copy.a1 ++ w8 y.copy.a2 ++ leBytes 16 0

/-- The strand an image describes, in a slot that held `y0` (R26). What the ten flits have no field for, a pushed result and the
message copy's order key, comes from the source slot `src`, which is kept until now; every other queue position of the slot is dead
and keeps what it held (R406). -/
def migrCtx (bs : List Byte) (y0 src : Ctx) : Ctx :=
  let reg := fun (o t : Nat) => ({ data := wordAtOff bs o, tag := BitVec.ofNat 16 (fieldAt bs t 2), scr := false } : Reg)
  { Init.ctx with
    st := .pending, gen := BitVec.ofNat 16 (fieldAt bs 220 2), launch := src.launch
    copy := { src.copy with entry := wordAtOff bs 272, a0 := wordAtOff bs 280, a1 := wordAtOff bs 288
                            a2 := wordAtOff bs 296, tries := fieldAt bs 243 1 }
    arch := { y0.arch with
      n := Vector.ofFn fun (i : Fin 16) => reg (8 * i.val) (128 + 2 * i.val)
      q := Vector.ofFn fun (i : Fin 16) =>
        if (src.arch.q.get i).tag == src.gen then src.arch.q.get i else (y0.arch.q.get i).dead
      loops := Vector.ofFn fun (i : Fin 6) => reg (160 + 8 * i.val) (208 + 2 * i.val)
      act := BitVec.ofNat 2 (fieldAt bs 222 1), sact := BitVec.ofNat 2 (fieldAt bs 222 1 / 4)
      cmask := BitVec.ofNat 32 (fieldAt bs 232 4), frm := BitVec.ofNat 2 (fieldAt bs 240 1)
      fflg := BitVec.ofNat 5 (fieldAt bs 241 1), deps := 0, pc := wordAtOff bs 224 }
    sp := { Init.spec with intrap := fieldAt bs 223 1 % 2 == 1, sstep := fieldAt bs 223 1 / 2 % 2 == 1
                           trapc := BitVec.ofNat 8 (fieldAt bs 242 1), trappc := wordAtOff bs 256, trapv := wordAtOff bs 264 } }

/-- The image goes out (R26): the strand has retired MIGR with result 0 and a dead queue, and stands MIGRATING. -/
def sendImage (i : Instr) (d : Dst) (q : Fin 64) (c : Fin 4) (k : Fin 24) (dest : Fin 64 × Fin 4) (s : State) : State :=
  let a : Agent := .strand q c k
  let s1 := advance i a (writeDst (s.updArch a fun y => { y with q := y.q.each QEnt.dead, deps := 0 }) a d 0)
  let s2 := s1.updCtx a fun y => { y with st := .migrating, query := none, latch := none, outst := [], sp := { y.sp with btag := 0 } }
  let y := s2.ctx a
  let l := y.launch.getD noLaunch
  leaveCore q c k (mail q dest.1 l (fun h =>
    .migrationImage { hdr := h, q := dest.1, c := dest.2, source := s.strandId q c k, image := migrImage y }) (addInflight l s2))

/-- A query to each candidate quad (R25). -/
def postQueries (src : StrandId) (l : LaunchId) : List (Fin 64) → State → State
  | [], s => s
  | q :: t, s => postQueries src l t (mail src.q q l (fun h => .migrQuery (h, src) q) s)

/-- A request fault of the strand that has not been delivered, and the list without it (R121). -/
def undelivered (y : Ctx) : Option ((Nat × Nat × Word) × List OutReq) :=
  y.outst.findSome? fun e => match e.st with
    | .faulted k c v => some ((k, c, v), y.outst.filter fun x => x != e)
    | .running | .cancelled => none

/-- A MIGR that does not move retires with its result, its outstanding list empty (R26, R236). -/
def stayHere (i : Instr) (d : Dst) (a : Agent) (v : Word) (s : State) : State :=
  advance i a (writeDst (s.updCtx a fun y => { y with query := none, latch := none, outst := [] }) a d v)

/-- Both MIGR forms (R26, R27): the strand stays RUNNING while its messages are performed and its requests retire; then a request
fault is delivered, or its operand read, the candidates asked, and the move made once every answer is back. -/
def migrForm (i : Instr) (d : Dst) (src : Src) (cands : Word → State → Agent → Except Stop (List (Fin 64) × State)) (ag : Agent) : Act :=
  fun s =>
  match ag with
  | .hart .. | .weir _ | .cmd _ | .sec => .ok s
  | .strand q c k => do
    check ((s.core q c).holder != some k) illegal
    check (!s.ltm ag) (perm 4 0)
    let s0 ← drained ag s
    let y := s0.ctx ag
    if y.outst.any fun e => e.st == .running then .error (.wait s0)
    else match undelivered y with
      | some (f, rest) => .error (.faultIn f.1 f.2.1 f.2.2 (s0.updCtx ag fun y => { y with outst := rest }))
      | none =>
        match y.query with
        | some w =>
          if w.back.length = w.cands.length then
            let dest := chooseDest w
            if dest.1 == q then .ok (stayHere i d ag 2 s0) else .ok (sendImage i d q c k dest s0)
          else .error (.wait s0)
        | none =>
          let v ← readSrc s0 ag src
          let r ← cands v s0 ag
          if r.1.isEmpty then .ok (stayHere i d ag 1 r.2)
          else .error (.wait (postQueries (s.strandId q c k) (y.launch.getD noLaunch) r.1
            (r.2.updCtx ag fun y => { y with query := some { cands := r.1, answers := [], back := [] } })))

/-- msg.migr.addr (R236). -/
def execMigrAddr (d : Dst) (a : Src) (s : State) : Host.Outcome State Fault Refusal :=
  performJump (.migrAddr d a) (migrForm (.migrAddr d a) d a fun va s ag => do
    let w := requesterOf s ag
    let r ← resolve w .r .read va 1 s
    let pa := (r.1.head?.map fun p => p.1).getD 0
    .ok (if domain s w.part pa == .io then [] else addrCands s ag pa, r.2)) s

/-- msg.migr.tile (R236). -/
def execMigrTile (d : Dst) (a : Src) (s : State) : Host.Outcome State Fault Refusal :=
  performJump (.migrTile d a) (migrForm (.migrTile d a) d a fun h s ag => do
    check (h.toNat < 64) shape
    let hd : Fin 64 := Fin.ofNat 64 h.toNat
    let l := (s.launchOf ag).getD noLaunch
    let own := if ((s.quads.get (strandCore ag).1).find l hd).isSome then some (strandCore ag).1 else none
    match (if launchWide hd then directory s l hd else own) with
    | none => shape
    | some q => .ok ([q], s)) s

/-- A candidate has answered with the FREE slots of its cores. -/
def Query.noted (w : Query) (quad : Fin 64) (counts : List Nat) : Query :=
  if w.cands.contains quad && !(w.answers.any fun e => e.1 == quad) then { w with answers := w.answers ++ [(quad, counts)] } else w

/-- A candidate's answer is back with the strand. -/
def Query.arrived (w : Query) (quad : Fin 64) : Query :=
  if w.cands.contains quad && !w.back.contains quad then { w with back := w.back ++ [quad] } else w

/-- MIGR_QUERY (R25): the quad's interface answers with the FREE slots of its cores as they stand; the counts that travel with the
answer are kept with the MIGR. -/
def execMigrQuery : Mailed StrandId → Fin 64 → State → Host.Outcome State Fault Refusal
  | (h, src), quad, s => .next (arrive h quad (.migrQuery (h, src) quad) (fun s =>
    let a := agentOf src
    if s.alive src && (s.ctx a).query.isSome then
      mail quad src.q h.launch (fun h => .migrQueryAnswer (h, src)) (s.updCtx a fun y =>
        { y with query := y.query.map fun w => w.noted quad (freeCounts (s.quads.get quad)) })
    else s) s)

/-- MIGR_QUERY_ANSWER (R25): a candidate's answer is back; MIGR chooses once every candidate's is. -/
def execMigrQueryAnswer : Mailed StrandId → State → Host.Outcome State Fault Refusal
  | (h, src), s => .next (arrive h src.q (.migrQueryAnswer (h, src)) (fun s =>
    if s.alive src then s.updCtx (agentOf src) fun y => { y with query := y.query.map fun w => w.arrived (Fin.ofNat 64 h.port) }
    else s) s)

/-! ## Arrival at a core (R19 to R21, R26, R61, R62) -/

/-- The entry of the refusal FIFO that a message answers: its sender has had its notice, and its place stands (R19). -/
def Core.entryOf (x : Core) (m : Instr) : Option Refusal19 :=
  x.fifo.find? fun e => e.resv.isSome && e.noticed && sameMsg e.msg m

/-- A sender leaves the FIFO, and its reservation ends. -/
def Core.dropEntry (x : Core) (e : Option Refusal19) : Core :=
  match e with
  | some e => { x with fifo := x.fifo.erase e }
  | none => x

/-- A refusal (R19, R20): into the FIFO of 16, or to be sent again later. -/
def refuse (q : Fin 64) (c : Fin 4) (m : Instr) (s : State) : State :=
  serveFifo q c (s.updCore q c fun x =>
    if x.fifo.length < 16 then { x with fifo := x.fifo ++ [{ msg := m, waiting := true, resv := none, noticed := false }] }
    else { x with late := x.late ++ [m] })

/-- A launch that takes no more creation messages (R15). -/
def launchGone (s : State) (l : LaunchId) : Bool :=
  match s.launch l with
  | some y => y.cancelled
  | none => true

/-- A dropped message counts no more. -/
def dropMsg (l : LaunchId) (s : State) : State := subInflight l s

/-- The distributor and the wider machine learn that a message was taken (R345). -/
def acceptedBy (m : CreMsg) (token : Word) (s : State) : State :=
  match m.sender with
  | .strand _ | .drain _ => answer m.q m.sender (.accepted token) s
  | .distributor _ =>
    post (.launchDistribution m.hdr.launch)
      (s.updLaunch m.hdr.launch fun y => { y with waiting := y.waiting.filter fun q => q != m.q })
  | .firmware => s

/-- A creation message that its interface has taken and opened, at its core (R19 to R21, R60): accepted into a FREE slot, or
refused. -/
def takeCreation (m : CreMsg) (s : State) : State :=
  let i := Instr.creationMessage m
  let x := s.core m.q m.c
  if launchGone s m.hdr.launch then dropMsg m.hdr.launch s
  else if x.scrubbing then startScrub m.q m.c (some i) s
  else
    let e := x.entryOf i
    match (match e with | some f => f.resv | none => x.freeSlot fun _ => true) with
    | none => refuse m.q m.c i s
    | some k => match x.nextCgen with
      | none => startScrub m.q m.c (some i) s
      | some g =>
        let s1 := s.updCore m.q m.c fun x => x.dropEntry e
        let s2 := createStrand m.q m.c k g m.hdr.launch m.frameK (copyOf m) s1
        let token := stidWord s2 { q := m.q, c := m.c, k := k, gen := g }
        serveFifo m.q m.c (subInflight m.hdr.launch (acceptedBy m token s2))

/-- CREATION_MESSAGE (R19 to R21, R60, R387, R391). -/
def execCreationMessage (m : CreMsg) (s : State) : Host.Outcome State Fault Refusal :=
  .next (arrive m.hdr m.q (.creationMessage m) (takeCreation (creCrypt (meshKey s m.q) m)) s)

/-- CONTEXT_SCRUB_COMPLETE (R62): CGEN is set to 0 and advances under R60. -/
def execContextScrubComplete (q : Fin 64) (c : Fin 4) (s : State) : Host.Outcome State Fault Refusal :=
  let x := s.core q c
  if !x.scrubbing then .next s
  else
    let s1 := s.updCore q c fun x =>
      { x with
        ctxs := x.ctxs.each fun y =>
          if y.st == .free then { y with lastGen := none } else { y with arch := y.arch.keepTags y.gen }
        cgen := (nextGen x.liveGens 30 0).getD 1, cgenFresh := true, scrubbing := false, held := [], scrubs := x.scrubs + 1 }
    .next (postFront x.held s1)

/-- The slot that granted a distributor's message still runs (R374). -/
def distributorWaits (s : State) (m : CreMsg) : Bool :=
  match m.sender with
  | .distributor _ => (s.slots.get m.hdr.launch.hwq).st == .preempting || (s.slots.get m.hdr.launch.hwq).saved
  | .strand _ | .drain _ | .firmware => false

/-- A distributor's message goes back to the launch's list while its slot is saved (R374). -/
def takeBack (m : CreMsg) (s : State) : State :=
  subInflight m.hdr.launch (s.updLaunch m.hdr.launch fun y =>
    { y with todo := m :: y.todo, waiting := y.waiting.filter fun q => q != m.q })

/-- One entry of the FIFO changed. -/
def Core.setEntry (x : Core) (e f : Refusal19) : Core := { x with fifo := x.fifo.map fun d => if d == e then f else d }

/-- The quad whose interface sent a refused message. -/
def senderPort (e : Refusal19) : Nat := match headerOf e.msg with | some h => h.port | none => 0

/-- A sender's interface gives up the place that a core keeps for it (R19). -/
def releasePlace (src q : Fin 64) (c : Fin 4) (l : LaunchId) (s : State) : State := mail src q l (fun h => .refusalRelease (h, q) c) s

/-- A notice has reached the interface of a sender (R19): a waiting sender resends, or the interface answers with a release. -/
def takeNotice (src q : Fin 64) (c : Fin 4) (l : LaunchId) (s : State) : State :=
  match (s.core q c).fifo.find? fun e => e.resv.isSome && !e.noticed && senderPort e == src.val with
  | none => s
  | some e =>
    let gone := s.updCore q c fun x => x.setEntry e { e with noticed := true, waiting := false }
    let there := s.updCore q c fun x => x.setEntry e { e with noticed := true }
    if !e.waiting then releasePlace src q c l gone
    else match e.msg with
      | .creationMessage m => if distributorWaits s m then releasePlace src q c l (takeBack m gone) else resend e.msg there
      | _ => resend e.msg there

/-- CONTEXT_FREE_NOTICE (R19): the notice of a core of quad `q` reaches the sender's quad. -/
def execContextFreeNotice : Mailed (Fin 64) → Fin 4 → State → Host.Outcome State Fault Refusal
  | (h, q), c, s =>
  let src : Fin 64 := Fin.ofNat 64 h.dest
  .next (arrive h src (.contextFreeNotice (h, q) c) (takeNotice src q c h.launch) s)

/-- RESEND_TIMEOUT (R19): a waiting sender has not resent in time; its interface releases the reservation, and it is
handled as one refused with a full FIFO (R20). -/
def execResendTimeout (q : Fin 64) (c : Fin 4) (s : State) : Host.Outcome State Fault Refusal :=
  match (s.core q c).fifo.find? fun e => e.resv.isSome && e.noticed && e.waiting && notOnItsWay s e.msg with
  | some e => .next (releasePlace (Fin.ofNat 64 (senderPort e)) q c ((msgLaunch e.msg).getD noLaunch) (s.updCore q c fun x =>
      { x.setEntry e { e with waiting := false } with late := x.late ++ [e.msg] }))
  | none => .next s

/-- A release from a sender's interface has reached the core (R19). -/
def takeRelease (q : Fin 64) (c : Fin 4) (port : Nat) (s : State) : State :=
  match (s.core q c).fifo.find? fun e => e.resv.isSome && e.noticed && !e.waiting && senderPort e == port with
  | some e => serveFifo q c (s.updCore q c fun x => x.dropEntry (some e))
  | none => s

/-- REFUSAL_RELEASE (R19): the reservation ends, the sender leaves the FIFO, the next one gets its notice. -/
def execRefusalRelease : Mailed (Fin 64) → Fin 4 → State → Host.Outcome State Fault Refusal
  | (h, q), c, s => .next (arrive h q (.refusalRelease (h, q) c) (takeRelease q c h.port) s)

/-- REFUSED_RESEND (R20): a sender refused with a full FIFO sends again. -/
def execRefusedResend (q : Fin 64) (c : Fin 4) (s : State) : Host.Outcome State Fault Refusal :=
  match (s.core q c).late with
  | [] => .next s
  | m :: t => .next (resend m (s.updCore q c fun x => { x with late := t }))

/-- The FREE slot that takes an image: the one reserved for it, or another, whose last generation differs from the image's
(R61). -/
def imageSlot (x : Core) (e : Option Refusal19) (g : Gen) : Option (Fin 24) :=
  match e.bind fun e => e.resv with
  | some k => if (x.ctxs.get k).lastGen != some g then some k else x.freeSlot fun y => y.lastGen != some g
  | none => x.freeSlot fun y => y.lastGen != some g

/-- The moved strand is READY; one under single step stops for the debugger when it next runs (R17, R382). -/
def landStrand (a : Agent) (s : State) : State :=
  if (s.ctx a).sp.sstep then
    (makeReady a s).updCtx a fun y => { y with why := some .debug, sp := { y.sp with sstep := false } }
  else makeReady a s

/-- A migration image at its core (R26, R61): the strand stands there, and its old slot is FREE; or the image is refused. -/
def takeImage (m : MigrMsg) (s : State) : State :=
  let i := Instr.migrationImage m
  let x := s.core m.q m.c
  let src := agentOf m.source
  if launchGone s m.hdr.launch || !s.alive m.source || (s.ctx src).st != .migrating then dropMsg m.hdr.launch s
  else if x.scrubbing then startScrub m.q m.c (some i) s
  else
    let e := x.entryOf i
    let g : Gen := BitVec.ofNat 16 (fieldAt m.image 220 2)
    let s1 := s.updCore m.q m.c fun x => x.dropEntry e
    match imageSlot x e g with
    | none => refuse m.q m.c i s1
    | some k =>
      let sy := s1.ctx src
      let s2 := s1.updCore m.q m.c fun x => x.updCtx k fun y => migrCtx m.image y sy
      let s3 := freeSlot m.source.q m.source.c m.source.k s2
      serveFifo m.q m.c (subInflight m.hdr.launch (landStrand (.strand m.q m.c k) s3))

/-- MIGRATION_IMAGE (R26, R61, R387, R391). -/
def execMigrationImage (m : MigrMsg) (s : State) : Host.Outcome State Fault Refusal :=
  .next (arrive m.hdr m.q (.migrationImage m) (takeImage (migrCrypt (meshKey s m.q) m)) s)

/-- A stamped event at its core (R35, R241): into the event store of 64 entries, or refused. -/
def takeEvent (m : CreMsg) (s : State) : State :=
  let i := Instr.stampedEvent m
  let x := s.core m.q m.c
  if launchGone s m.hdr.launch then dropMsg m.hdr.launch s
  else if x.scrubbing then startScrub m.q m.c (some i) s
  else
    let e := x.entryOf i
    if e.isSome || decide (x.lt.store.length + x.storeReserved < 64) then
      let ev : Event := { stamp := m.stamp, entry := m.entry, a0 := m.a0, a1 := m.a1, a2 := m.a2, order := m.order
                          tries := m.tries, restarted := m.retriable && decide (0 < m.tries), launch := m.hdr.launch }
      let s1 := s.updCore m.q m.c fun x =>
        { x.dropEntry e with lt := { x.lt with store := x.lt.store ++ [ev] } }
      serveFifo m.q m.c (post (.eventStart m.q m.c) (answer m.q m.sender (.accepted 0) s1))
    else refuse m.q m.c i s

/-- STAMPED_EVENT (R35, R241, R387, R391). -/
def execStampedEvent (m : CreMsg) (s : State) : Host.Outcome State Fault Refusal :=
  .next (arrive m.hdr m.q (.stampedEvent m) (takeEvent (creCrypt (meshKey s m.q) m)) s)

/-! ## Deposits and answers (R21, R64, R222, R232, R235) -/

/-- A deposit lands (R64, R222): the register and its copies in every checkpoint, and the DEPS bit in each (R227). -/
def landDeposit (reg : Fin 16) (v : Word) (y : Ctx) : Ctx :=
  let put := fun (x : Arch) => { x.setN reg v y.gen with deps := x.deps ||| BitVec.ofNat 16 (2 ^ reg.val) }
  { y with arch := put y.arch
           fl := { y.fl with ckpt := y.fl.ckpt.map put, pend := y.fl.pend.map fun p => { p with ckpt := put p.ckpt } } }

/-- A deposit that finds its strand gone is dropped and counted (R21). -/
def dropDeposit (m : DepMsg) (s : State) : State :=
  let s1 := if m.checkOnly then s else s.updCore m.q m.c fun x => { x with dropped := x.dropped + 1 }
  match m.sender with
  | some x => answer m.q x .dropped s1
  | none => s1

/-- The target's answer to a deposit's sender, when one waits. -/
def replyDeposit (m : DepMsg) (x : Answer) (s : State) : State := match m.sender with | some y => answer m.q y x s | none => s

/-- A deposit has landed in a live strand (R21, R222): the k-th one makes a frame READY, and a strand parked on deposits wakes. -/
def noteDeposit (a : Agent) (s : State) : State :=
  let y := s.ctx a
  if y.st == .pending then
    let s1 := s.updCtx a fun y => { y with awaited := y.awaited - 1 }
    if y.awaited ≤ 1 then makeReady a s1 else s1
  else match y.why with
    | some (.deposit _) => wake a s
    | _ => s

/-- A deposit at its core (R64, R235); during a context scrub it waits there (R62). -/
def takeDeposit (m : DepMsg) (s : State) : State :=
  if (s.core m.q m.c).scrubbing then startScrub m.q m.c (some (.deposit m)) s
  else
    let s0 := subInflight m.hdr.launch s
    if m.k < 24 then
      let a : Agent := .strand m.q m.c (Fin.ofNat 24 m.k)
      let y := s0.ctx a
      if y.st == .free || y.st == .migrating || y.gen != m.gen then dropDeposit m s0
      else if y.launch != some m.hdr.launch then replyDeposit m .denied s0
      else if m.checkOnly then replyDeposit m .landed s0
      else noteDeposit a (replyDeposit m .landed (s0.updCtx a (landDeposit m.reg m.value)))
    else dropDeposit m s0

/-- DEPOSIT (R64, R235, R387, R391). -/
def execDeposit (m : DepMsg) (s : State) : Host.Outcome State Fault Refusal :=
  .next (arrive m.hdr m.q (.deposit m) (takeDeposit (depCrypt (meshKey s m.q) m)) s)

/-- The quad whose strand an answer is for. -/
def senderQuad : Sender → Fin 64
  | .strand id | .drain id => id.q
  | .distributor q => q
  | .firmware => 0

/-- An answer has reached the sender's quad (R232): the parked sender issues again and retires or faults by it; a drain goes on
(R226). -/
def takeAnswer (dest : Sender) (ans : Answer) (s : State) : State :=
  match dest with
  | .strand id =>
    let a := agentOf id
    if s.alive id && (s.ctx a).why == some .answer && (s.ctx a).st == .parked && ans != .refused then
      wake a (s.updCtx a fun y => { y with answer := some ans })
    else s
  | .drain id =>
    if s.alive id && (s.ctx (agentOf id)).fl.sent && ans != .refused then drainNext (agentOf id) s else s
  | .distributor _ | .firmware => s

/-- TARGET_ANSWER (R232, R387, R391). -/
def execTargetAnswer : Mailed Sender → Answer → State → Host.Outcome State Fault Refusal
  | (h, dest), ans, s => .next (arrive h (senderQuad dest) (.targetAnswer (h, dest) ans)
    (takeAnswer dest (answerCrypt (meshKey s (senderQuad dest)) h ans)) s)

/-! ## Selection by the core (R18) -/

/-- The strand's queue is being saved: it runs no more (R374). -/
def frozen (s : State) (y : Ctx) : Bool :=
  match y.launch with
  | some l => (s.slots.get l.hwq).st == .preempting
  | none => false

/-- CORE_SELECT (R17, R18): the first ready strand runs with a new quantum; one whose single step has ended runs too, and stops for the
debugger before its first instruction (R382). -/
def execCoreSelect (q : Fin 64) (c : Fin 4) (s : State) : Host.Outcome State Fault Refusal :=
  let x := s.core q c
  if x.run.isSome || engineStopped s (pIdx (s.quads.get q).part) (.core q c) || (s.quads.get q).power == .gated then .next s
  else match x.ready.find? fun k => !frozen s (x.ctxs.get k) with
    | none => .next s
    | some k =>
      let a : Agent := .strand q c k
      let s1 := s.updCore q c fun x => { x with ready := x.ready.filter fun j => j != k }
      let s2 := (s1.updCore q c fun x => { x with run := some k, quantum := 0 }).updCtx a fun y =>
        { y with st := .running, why := if y.why == some .debug then y.why else none }
      .next (traceIf a (fun t => t.switch) 5 (stidWord s2 (s2.strandId q c k)).toNat s2)

end Sys2Proof.Machine
end

