-- ==== Sys2Proof/Machine/EvFault.lean ====
section
/-! DEFINITION. Halts, the containment walk, and the debugger's events (spec/17, R366 to R372, R381; spec/01, R40). -/

namespace Sys2Proof.Machine

/-! ## Engines stop (R367) -/

/-- ENGINE_STOP (R367, R369): the engine stops for every partition whose halt line has reached it. -/
def execEngineStop (e : Engine) (s : State) : Host.Outcome State Fault Refusal :=
  .next (((List.finRange 64).filter fun p => (s.parts.get p).line && (s.parts.get p).toStop.contains e).foldl
    (fun s p => stopEngine p e none s) s)

/-- HALTCTL_HOLD_SET (R368). -/
def execHaltctlHoldSet (q : Fin 64) (s : State) : Host.Outcome State Fault Refusal :=
  .next (if (s.quads.get q).enabled && !(s.quads.get q).halt.hold then setHold q s else s)

/-- HALTCTL_HOLD_CLEAR (R368). -/
def execHaltctlHoldClear (q : Fin 64) (s : State) : Host.Outcome State Fault Refusal := .next (clearHold q s)

/-! ## Levels (R12, R371, R372) -/

/-- The levels of R12, from the unit up. -/
inductive Level where
  | unit | launch | graph | phase | job
  deriving DecidableEq, Repr

def levelsUp : List Level := [.unit, .launch, .graph, .phase, .job]

/-- The policy byte of a level (R304, R346). -/
def levelPol (l : Launch) : Level → BitVec 8
  | .unit => l.rec_.upol
  | .launch => l.rec_.lpol
  | .graph => l.gpol
  | .phase => l.ppol
  | .job => l.jpol

/-- The launches in a level of a launch. -/
def sameLevel (l : Launch) (lv : Level) (x : Launch) : Bool :=
  match lv with
  | .unit | .launch => x.id == l.id
  | .graph => x.queue == l.queue && x.graph == l.graph
  | .phase => x.queue == l.queue && x.phase == l.phase
  | .job => x.part == l.part && x.job == l.job

/-- Launches dispatched into the level from now on are cancelled too, until it closes (R347). -/
def closeLevel (l : Launch) (lv : Level) (s : State) : State :=
  match lv with
  | .unit | .launch => s
  | .graph => { s with slots := s.slots.each fun x =>
      if x.st != .free && x.qid == l.queue then { x with q := { x.q with cancelG := x.q.cancelG ++ [l.graph] } } else x }
  | .phase => { s with slots := s.slots.each fun x =>
      if x.st != .free && x.qid == l.queue then { x with q := { x.q with cancelP := x.q.cancelP ++ [l.phase] } } else x }
  | .job => markJob l.part (BitVec.ofNat 8 l.job) (setJob (pIdx l.part) l.job (fun e => { e with cancelled := true }) s)

/-- kill(L) (R372). -/
def killLevel (l : Launch) (id : Option StrandId) (lv : Level) (s : State) : State :=
  match lv with
  | .unit => match id with
    | some x => killStrand x.q x.c x.k s
    | none => s
  | .launch => cancelLaunch l.id s
  | .graph | .phase | .job =>
    cancelLaunches ((s.launches.filter (sameLevel l lv)).map fun x => x.id) (closeLevel l lv s)

/-- mark(L) (R372); a unit's mark is its launch's (log 26). -/
def markLevel (l : Launch) (kind cause : Nat) (lv : Level) (s : State) : State :=
  let mark := fun (x : Launch) => { x with
    faulted := true
    kind := if x.kind == 0 then BitVec.ofNat 8 kind else x.kind
    cause := if x.kind == 0 then BitVec.ofNat 8 cause else x.cause }
  let s1 := { s with launches := s.launches.map fun x => if sameLevel l lv x then mark x else x }
  match lv with
  | .job => setJob (pIdx l.part) l.job (fun e => { e with faulted := true }) s1
  | .unit | .launch | .graph | .phase => s1

/-- A residue mismatch that the save in progress has charged to a strand, and no word of it (R85, log 49). -/
def saveCharge (l : Launch) (kind cause : Nat) (s : State) : Bool :=
  let x := s.slots.get l.id.hwq
  x.st == .preempting && x.charged.contains l.id && kind == 10 && cause == 2

/-- ignore(L) (R372): a unit goes on after the faulting word, which may be one that a breakpoint displaced (R381); a higher level is
marked. -/
def ignoreLevel (l : Launch) (id : Option StrandId) (kind cause : Nat) (lv : Level) (s : State) : State :=
  match lv with
  | .unit => match id with
    | some x =>
      let a := agentOf x
      let w := match (s.ctx a).displaced with | some w => w.toNat | none => wordAt s a (s.arch a).pc
      let len := if w % 2 = 0 then 2 else 4
      if saveCharge l kind cause s then s
      else s.updCtx a fun y =>
        { y with arch := { y.arch with pc := y.arch.pc + len }, refused := none, answer := none, waited := [], latch := none
                 abortAt := none, displaced := none, stepping := false }
    | none => s
  | .launch | .graph | .phase | .job => markLevel l kind cause lv s

/-- The creation message whose copy a slot keeps, sent again (R372). -/
def resendMsg (l : LaunchId) (x : StrandId) (part : BitVec 8) (c : CreCopy) : CreMsg :=
  { hdr := newHeader part l
    q := x.q, c := x.c, entry := c.entry, a0 := c.a0, a1 := c.a1, a2 := c.a2, frameK := 0, timed := c.timed, stamp := c.stamp
    order := c.order, sender := .firmware, tries := c.tries + 1, retriable := true }

/-- restart(UNIT) (R372). -/
def restartUnit (l : LaunchId) (x : StrandId) (s : State) : State :=
  let c := (s.ctx (agentOf x)).copy
  let m := resendMsg l x (s.quads.get x.q).part c
  let s1 := killStrand x.q x.c x.k s
  if c.timed then sendStamped x.q m s1 else sendCreation x.q m s1

/-- The messages of a launch that have not landed are gone. -/
def purgeMessages (l : LaunchId) (s : State) : State :=
  let keep := fun (m : Instr) => msgLaunch m != some l
  let s1 := { s with md := { s.md with inflight := s.md.inflight.filter keep } }
  { s1 with quads := s1.quads.each fun x =>
      { x with held := x.held.filter keep, cores := x.cores.each fun y => { y with held := y.held.filter keep } } }

/-- A launch's tiles are released. -/
def freeTiles (l : LaunchId) (s : State) : State :=
  { s with quads := s.quads.each fun x =>
      let gone := (x.tiles.filter fun e => e.2.launch == l).map Prod.fst
      if gone.isEmpty then x
      else { x with
        tiles := x.tiles.filter fun e => e.2.launch != l
        sb := x.sb.filter fun e => !(gone.contains e.tile && (match e.owner with
          | .free | .put .. | .zero | .load .. => true
          | .easel _ | .request .. => false)) } }

/-- restart(LAUNCH) (R372): dispatched again from the values latched at its dispatch; what an earlier walk marked in its record
stays. -/
def restartLaunch (l : LaunchId) (s : State) : State :=
  let s1 := freeTiles l (purgeMessages l (cancelLaunch l s))
  post (.launchDistribution l) (s1.updLaunch l fun y =>
    { y with cancelled := false, distributed := false, accepted := false, todo := [], next := [], waiting := [], inflight := 0, tries := y.tries + 1
             badColl := [] })

/-- A RETRY that R371 allows, performed: none says KILLPARENT. -/
def retryLevel (l : Launch) (id : Option StrandId) (lim : Nat) (lv : Level) (s : State) : Option State :=
  match lv with
  | .unit => match id with
    | some x =>
      let c := (s.ctx (agentOf x)).copy
      if c.retriable && decide (c.tries < lim) then some (restartUnit l.id x s) else none
    | none => none
  | .launch => if l.tries < lim then some (restartLaunch l.id s) else none
  | .graph | .phase | .job => none

/-- The containment walk of a fault over the levels that are left (R371). -/
def walkLevels (l : Launch) (id : Option StrandId) (kind cause : Nat) : List Level → State → State
  | [], s => s
  | lv :: rest, s =>
    let pol := (levelPol l lv).toNat % 4
    let lim := (levelPol l lv).toNat / 4 % 8
    let kill := fun (s : State) => markLevel l kind cause lv (killLevel l id lv s)
    let low := lv == .unit || lv == .launch
    if pol = 0 then ignoreLevel l id kind cause lv s
    else if pol = 1 ∧ low then
      match retryLevel l id lim lv s with
      | some s1 => s1
      | none => walkLevels l id kind cause rest (kill s)
    else if pol = 3 then walkLevels l id kind cause rest (kill s)
    else kill s

/-! ## CONTAINMENT_WALK (R370, R371) -/

/-- A fault whose strand or launch is already dead is discarded (R370). -/
def faultDead (s : State) (f : FaultRec) : Bool :=
  match f.strand, f.launch with
  | some x, _ => !s.alive x
  | none, some l => launchGone s l
  | none, none => true

/-- The walk of one recorded fault; what a restarted launch had on record is discarded with its old attempt (R370). -/
def walkFault (p : Fin 64) (f : FaultRec) (s : State) : State :=
  match f.launch.bind s.launch with
  | none => s
  | some l =>
    if faultDead s f then s
    else
      let s1 := walkLevels l f.strand f.kind f.cause (if f.strand.isSome then levelsUp else levelsUp.drop 1) s
      let again := match s1.launch l.id with | some y => decide (l.tries < y.tries) | none => false
      if again then s1.updPart p fun x => { x with faults := x.faults.filter fun g => g.launch != some l.id } else s1

/-- NFAULT is the number of faults left (R368). -/
def countFaults (p : Fin 64) (s : State) : State :=
  let n := min 255 (s.parts.get p).faults.length
  { s with quads := s.quads.each fun x =>
      if x.part.toNat == p.val && x.owner.toNat % 2 == 1 then { x with halt := { x.halt with nfault := BitVec.ofNat 8 n } }
      else x }

/-- CONTAINMENT_WALK (R366, R370, R371): the active command complex walks the oldest fault; after the last one it releases
the line. Under a hold the walk is asked for again when the hold is released (R368). -/
def execContainmentWalk (p : Fin 64) (s : State) : Host.Outcome State Fault Refusal :=
  let x := s.parts.get p
  if !x.walking || !x.line || !x.toStop.isEmpty || !firmwareUp s then .next s
  else if held s p then .next (s.updPart p fun y => { y with walking := false })
  else match x.faults with
    | [] => .next (releaseLine p (s.updPart p fun y => { y with walking := false }))
    | f :: rest =>
      let s1 := walkFault p f (s.updPart p fun y => { y with faults := rest })
      let s2 := countFaults p s1
      let s3 := match f.launch with | some l => post (.launchComplete l) s2 | none => s2
      if (s3.parts.get p).faults.isEmpty then .next (releaseLine p (s3.updPart p fun y => { y with walking := false }))
      else .next (post (.containmentWalk p) s3)

/-! ## The debugger -/

/-- CHLA_WRITE (R40). -/
def execChlaWrite (q : Fin 64) (c : Fin 4) (ch : Fin 8) (v : Word) (s : State) : Host.Outcome State Fault Refusal :=
  .next (if (s.quads.get q).enabled then writeChla q c ch v s else s)

/-- DEBUG_RESUME (R381): a stopped strand goes on, with the word that its breakpoint displaced. -/
def execDebugResume (a : Agent) (s : State) : Host.Outcome State Fault Refusal :=
  if parkedOn s a fun w => w == .debug then .next (wake a (s.updCtx a fun y => { y with stepping := true })) else .next s

end Sys2Proof.Machine
end

