-- ==== Sys2Proof/Machine/Launch.lean ====
section
/-! DEFINITION. The launch distributors and the completion of launches (spec/01, R13, R14, R32, R33; spec/04, R95; spec/11,
R304, R305, R307; spec/15, R344 to R346). -/

namespace Sys2Proof.Machine

/-! ## Placement (R304) -/

/-- The logical quads of a launch's mask, ascending. -/
def maskQuads (m : Word) : List Nat := (List.range 64).filter (maskHas m)

/-- The physical quads of a launch, in ascending logical order. -/
def launchQuads (s : State) (y : Launch) : List (Fin 64) := (maskQuads y.qmask).filterMap (s.physical y.part)

/-- The index of the `j`-th strand of quad position `pos` among `n`, and its core (R304). -/
def placed (pack : Bool) (n pos j : Nat) : Nat × Fin 4 :=
  if pack then (4 * (pos + n * (j / 4)) + j % 4, Fin.ofNat 4 j) else (pos + j * n, Fin.ofNat 4 j)

/-- Argument `k` of a strand (R345). -/
def strandArg (y : Launch) (k index : Nat) : Word :=
  let v := y.args.getD k 0
  match y.rec_.amode.getD k 0 with
  | 1 => wd index
  | 2 => v + wd (index * y.rec_.astride.getD k 0)
  | _ => v

/-- The creation message of a dispatched strand. -/
def dispatchMsg (y : Launch) (q : Fin 64) (c : Fin 4) (index : Nat) : CreMsg :=
  { hdr := newHeader y.part y.id
    q := q, c := c, entry := y.rec_.entry, a0 := strandArg y 0 index, a1 := strandArg y 1 index, a2 := strandArg y 2 index
    frameK := 0, timed := false, stamp := 0, order := 0, sender := .distributor q, tries := 0, retriable := true }

/-! ## The checks of a dispatch (R305, R307, R32, R388) -/

/-- A dispatch of the partition is allowed (R388). -/
def dispatchAllowed (s : State) (p : Fin 64) : Bool :=
  match (s.parts.get p).st with
  | .unlocked => !partConf s p.val
  | .run => true
  | .empty | .locked | .error | .releasing => false

/-- The effective mask passes R305. -/
def maskOk (s : State) (y : Launch) : Bool :=
  y.qmask != 0 && decide (y.qmask.toNat < 2 ^ (s.partQuads y.part).length)

/-- Two entries of a channel table clash (R307). -/
def chanClash (x y : Chan) : Bool :=
  (x.fq == y.fq && x.fc == y.fc && x.outch == y.outch) || (x.tq == y.tq && x.tc == y.tc && x.inch == y.inch)

def chansDistinct : List Chan → Bool
  | [] => true
  | x :: t => !t.any (chanClash x) && chansDistinct t

/-- The table check of R307. -/
def chansOk (m : Word) (cs : List Chan) : Bool :=
  cs.all (fun e => maskHas m e.fq && maskHas m e.tq && !(e.fq == e.tq && e.fc == e.tc && e.l == 0)) && chansDistinct cs

/-- Channels of lookahead 0 whose receiver has a channel of lookahead 0 among them, round after round; what is left
after as many rounds as there are channels closes a cycle (R32). -/
def zeroCycle : Nat → List Chan → List Chan
  | 0, cs => cs
  | k + 1, cs => zeroCycle k (cs.filter fun e => cs.any fun d => d.fq == e.tq && d.fc == e.tc)

/-- Some cycle of channels has lookahead sum 0. -/
def hasZeroCycle (cs : List Chan) : Bool := !(zeroCycle cs.length (cs.filter fun e => e.l == 0)).isEmpty

/-! ## Starting a launch (R345) -/

/-- The launch fails with REFUSED set, and creates no strand (R344). -/
def refuseLaunch (l : LaunchId) (kind cause : Nat) (s : State) : State :=
  post (.launchComplete l) (s.updLaunch l fun y =>
    { y with refused := true, accepted := true, kind := BitVec.ofNat 8 kind, cause := BitVec.ofNat 8 cause })

/-- The pre-allocated tiles of a launch on a quad (R95); launch-wide ones lie on the lowest logical quad. -/
def allocList (l : LaunchId) (q : Fin 64) (first : Bool) : List (Fin 64 × Word) → State → Except Stop State
  | [], s => .ok s
  | (h, w) :: t, s =>
    if launchWide h && !first then allocList l q first t s
    else match allocTile q l h w s with
      | .ok s1 => allocList l q first t s1
      | .error e => .error e

def allocQuads (l : LaunchId) (ts : List (Fin 64 × Word)) : Bool → List (Fin 64) → State → Except Stop State
  | _, [], s => .ok s
  | first, q :: t, s => match allocList l q first ts s with
    | .ok s1 => allocQuads l ts false t s1
    | .error e => .error e

/-- The local-time state of a core as a launch begins (R31, R34, R40). -/
def coreTime (s : State) (y : Launch) (q : Fin 64) (c : Fin 4) : LTime :=
  let ch := coreChannels s y q c
  { Init.ltime with
    launch := some y.id, out := ch.1, chla := ch.2
    b := ch.2.map fun v => match v with | some l => wd l.toNat | none => 0 }

/-- The dispatched events of a launch (R33), each with its quad and core; their stamp is the value of their n0 (R320),
their order that of their index. -/
def dispatchedEvents (y : Launch) (qs : List (Fin 64)) : List (Fin 64 × Fin 4 × Event) :=
  let n := max 1 qs.length
  (List.range y.rec_.strands).map fun i =>
    let pos := if y.rec_.pack then i / 4 % n else i % n
    let core := if y.rec_.pack then i else i / n
    (qs.getD pos 0, Fin.ofNat 4 core,
      { stamp := strandArg y 0 i, entry := y.rec_.entry, a0 := strandArg y 0 i, a1 := strandArg y 1 i, a2 := strandArg y 2 i
        order := wd (2 ^ 63 + i % 2 ^ 55), tries := 0, restarted := false, launch := y.id })

/-- A local-time launch begins on its cores (R31, R33): their clocks, channels and dispatched events. -/
def beginTime (y : Launch) (qs : List (Fin 64)) (s : State) : State :=
  let evs := dispatchedEvents y qs
  let cores := qs.flatMap fun q => (List.finRange 4).map fun c => (q, c)
  let s1 := cores.foldl (fun t (q, c) =>
    let lt := coreTime s y q c
    let mine := (evs.filter fun e => e.1 == q && e.2.1 == c).map fun e => e.2.2
    t.updCore q c fun x => { x with lt := { lt with dispatched := mine } }) s
  let s2 := s1.updLaunch y.id fun z => { z with inflight := z.inflight + evs.length, distributed := true }
  postAll (cores.map fun (q, c) => Instr.eventStart q c) s2

/-- Quads that a slot being saved has not released yet (R351), whose distributor has stopped (R367), or that are being scrubbed,
when they take no dispatch (R295). -/
def quadsBusy (s : State) (y : Launch) : Bool :=
  let x := s.slots.get y.id.hwq
  ((List.finRange 16).any fun j => j != y.id.hwq && (s.slots.get j).st == .preempting && (s.slots.get j).part == y.part &&
    ((s.slots.get j).qmask &&& y.qmask) != 0) ||
  x.st == .preempting || x.saved ||
  (launchQuads s y).any fun q => (s.quads.get q).scrubbing || engineStopped s (pIdx y.part) (.distributor q)

/-- Another local-time launch has a core of this one (log 29). -/
def timeTaken (s : State) (y : Launch) (qs : List (Fin 64)) : Bool :=
  y.rec_.ltm && qs.any fun q => (List.finRange 4).any fun c =>
    match (s.core q c).lt.launch with | some l => l != y.id | none => false

/-- The distributors' checks and allocations (R305, R336, R307, R32, R95, R345). -/
def startLaunch (y : Launch) (s : State) : State :=
  let l := y.id
  if !dispatchAllowed s (pIdx y.part) || !maskOk s y then refuseLaunch l 0 0 s
  else
    let m := y.qmask &&& (s.slots.get l.hwq).qmask
    if m == 0 then refuseLaunch l 0 0 s
    else
      let y := { y with qmask := m }
      let s := s.updLaunch l fun z => { z with qmask := m }
      let qs := launchQuads s y
      if quadsBusy s y || timeTaken s y qs then s
      else if y.rec_.ltm && !chansOk m y.chans then refuseLaunch l 6 0 s
      else if y.rec_.ltm && hasZeroCycle y.chans then refuseLaunch l 9 1 s
      else match allocQuads l y.rec_.tiles true qs s with
        | .error _ => refuseLaunch l 6 0 (freeTiles l s)
        | .ok s1 =>
          let s2 := s1.updLaunch l fun z => { z with accepted := true, next := qs.map fun _ => 0 }
          if y.rec_.ltm then post (.launchComplete l) (beginTime y qs s2) else post (.launchDistribution l) s2

/-! ## Sending the strands (R345, R20) -/

/-- A distributor's own message. -/
def ofDistributor (m : CreMsg) : Bool := match m.sender with | .distributor _ => true | .strand _ | .drain _ | .firmware => false

/-- Messages of others that a save took back go out again. -/
def sendBack (l : LaunchId) : List CreMsg → State → State
  | [], s => s
  | m :: t, s =>
    if ofDistributor m then sendBack l t s
    else
      let s1 := s.updLaunch l fun y => { y with todo := y.todo.erase m }
      sendBack l t (if m.timed then sendStamped m.q m s1 else sendCreation m.q m s1)

/-- The next message of a quad's distributor: one that a save took back, or the next strand of its quad. -/
def nextMsg (y : Launch) (n pos : Nat) (q : Fin 64) : Option (CreMsg × Launch) :=
  match y.todo.find? fun m => m.q == q with
  | some m => some (m, { y with todo := y.todo.erase m })
  | none =>
    let j := y.next.getD pos 0
    let p := placed y.rec_.pack n pos j
    if p.1 < y.rec_.strands then some (dispatchMsg y q p.2 p.1, { y with next := y.next.set pos (j + 1) }) else none

/-- Every distributor whose last message has been accepted sends its next one. -/
def sendNext (l : LaunchId) (n : Nat) : List (Fin 64) → Nat → State → State
  | [], _, s => s
  | q :: t, pos, s =>
    match s.launch l with
    | none => s
    | some y =>
      if y.waiting.contains q then sendNext l n t (pos + 1) s
      else match nextMsg y n pos q with
        | none => sendNext l n t (pos + 1) s
        | some (m, y1) =>
          sendNext l n t (pos + 1) (sendCreation q m (s.updLaunch l fun _ => { y1 with waiting := y1.waiting ++ [q] }))

/-- No distributor has a message left to send or to see accepted. -/
def allSent (s : State) (y : Launch) : Bool :=
  let qs := launchQuads s y
  y.todo.isEmpty && y.waiting.isEmpty &&
    (y.rec_.ltm || (qs.zipIdx.all fun e => decide (y.rec_.strands ≤ (placed y.rec_.pack qs.length e.2 (y.next.getD e.2 0)).1)))

/-- LAUNCH_DISTRIBUTION (R345): the checks first; then each quad's strands in ascending index. -/
def execLaunchDistribution (l : LaunchId) (s : State) : Host.Outcome State Fault Refusal :=
  match s.launch l with
  | none => .next s
  | some y =>
    if y.cancelled || y.refused then .next (post (.launchComplete l) (s.updLaunch l fun z => { z with accepted := true }))
    else if !y.accepted then .next (startLaunch y s)
    else if quadsBusy s y then .next s
    else
      let qs := launchQuads s y
      let s0 := sendBack l y.todo s
      let s1 := if y.rec_.ltm then s0 else sendNext l qs.length qs 0 s0
      let done := match s1.launch l with | some z => allSent s1 z | none => true
      .next (post (.launchComplete l) (s1.updLaunch l fun z => { z with distributed := done }))

/-! ## Completion (R13, R14, R344) -/

/-- Something of the launch is outstanding (R13), waits in an image (R377), or its slot is being saved. -/
def launchBusy (s : State) (y : Launch) : Bool :=
  let x := s.slots.get y.id.hwq
  !(y.accepted || y.cancelled || y.refused) ||
  (!(y.cancelled || y.refused) && !allSent s y) ||
  y.inflight != 0 || !(requestsWhere s fun r => r.launch == y.id).isEmpty ||
  (s.parts.get (pIdx y.part)).faults.any (fun f => f.launch == some y.id) ||
  (slotsOf s y.id).any (fun (q, c, k) => (s.ctx (.strand q c k)).st != .pending) || imageWaits s y.id ||
  x.st == .preempting || x.saved

/-- STATUS of a completion record (R344). -/
def recordStatus (y : Launch) : Nat :=
  y.refused.toNat + 2 * y.cancelled.toNat + 4 * y.framesDropped.toNat + 8 * y.faulted.toNat

/-- The completion record (R344), and whether the launch may complete with it (R342): a write whose page is absent is asked for,
and the launch waits; a refused one is a queue fault of code ACCESS and is not performed. -/
def writeRecord (y : Launch) (s : State) : Bool × State :=
  let i := y.id.hwq
  let q := (s.slots.get i).q
  let bs := leBytes 8 y.id.lseq.toNat ++ leBytes 1 (recordStatus y) ++ leBytes 1 y.kind.toNat ++ leBytes 1 y.cause.toNat ++ leBytes 5 0
  if q.crbase == 0 then (true, s)
  else match plainWrite (slotWriter s i) none (q.crbase + wd (16 * (y.id.lseq.toNat % max 1 q.crsize.toNat))) bs s with
    | .ok s1 => (true, s1.updSlot i fun x => { x with refusedW := none })
    | .error e => match askWrite i e s with
      | some s1 => (false, s1)
      | none => (true, queueFault i 4 s)

/-- LDONE goes up (R344, R14). -/
def bumpDone (i : Fin 16) (s : State) : State :=
  let s2 := s.updSlot i fun x => { x with q := { x.q with ldone := x.q.ldone + 1 } }
  putQcb i 40 8 (s2.slots.get i).q.ldone.toNat s2

/-- A closed graph or phase whose last launch has completed counts (R346). -/
def closeLevels (y : Launch) (s : State) : State :=
  let i := y.id.hwq
  let q := (s.slots.get i).q
  let here := s.launches.filter fun l => l.queue == y.queue
  let s1 := if q.graphOpen.contains y.graph && !here.any (fun l => l.graph == y.graph) then
      bumpGraph i (s.updSlot i fun x => { x with q := { x.q with
        graphOpen := q.graphOpen.filter fun g => g != y.graph, cancelG := q.cancelG.filter fun g => g != y.graph } })
    else s
  if q.phaseOpen.contains y.phase && !here.any (fun l => l.phase == y.phase) then
    bumpPhase i (s1.updSlot i fun x => { x with q := { x.q with
      phaseOpen := q.phaseOpen.filter fun g => g != y.phase, cancelP := q.cancelP.filter fun g => g != y.phase } })
  else s1

/-- Announcements and null events to a launch's cores are gone with its channel state (R323). -/
def dropTime (l : LaunchId) (s : State) : State :=
  let mine := fun (e : Instr) => match e with
    | .clockAnnouncement (_, q) c .. | .nullEvent (_, q) c .. => (s.core q c).lt.launch == some l
    | _ => false
  let clear := fun (y : Core) => if y.lt.launch == some l then { y with lt := Init.ltime } else y
  { s with
    md := { s.md with inflight := s.md.inflight.filter fun e => !mine e }
    quads := s.quads.each fun x => { x with cores := x.cores.each clear } }

/-- The launch of a local-time launch that waits for these cores, and others held back, may start. -/
def pokeLaunches (s : State) : State :=
  postAll ((s.launches.filter fun y => !y.accepted).map fun y => Instr.launchDistribution y.id) s

/-- A launch whose record is written leaves (R13, R14, R344): PENDING frames are dropped, its tiles and barriers are free, LDONE,
its levels and its job count it. -/
def endLaunch (y : Launch) (s : State) : State :=
  let l := y.id
  let s1 := killStrands (slotsOf s l) s
  let s2 := releaseBarriers l (freeTiles l (dropTime l s1))
  let s3 := bumpDone l.hwq { s2 with launches := s2.launches.filter fun z => z.id != l }
  let s4 := closeLevels y s3
  let s5 := setJob (pIdx y.part) y.job (fun e => { e with outst := e.outst - 1, done := e.done + 1 }) s4
  let x := s5.slots.get l.hwq
  let s6 := if x.st == .unmapping then post (.unmapComplete l.hwq) s5
    else if x.st == .resetting then post (.queueResetComplete l.hwq) s5
    else if x.st == .error then post .slotSelection s5 else s5
  pokeLaunches s6

/-- LAUNCH_COMPLETE (R13, R14, R344): with nothing of it outstanding, and no write of its slot held before its record (R342), the
launch completes. -/
def execLaunchComplete (l : LaunchId) (s : State) : Host.Outcome State Fault Refusal :=
  match s.launch l with
  | none => .next s
  | some y =>
    if launchBusy s y || (s.slots.get l.hwq).writesHeld then .next s
    else
      let y1 := { y with framesDropped := y.framesDropped || !(slotsOf s l).isEmpty }
      let r := writeRecord y1 s
      .next (if r.1 then endLaunch y r.2 else r.2)

end Sys2Proof.Machine
end

