-- ==== Sys2Proof/Machine/EvQueue.lean ====
section
/-! DEFINITION. Events of queues and of the scheduler: kicks, cancels, maps, unmaps, resets, quanta, ageing, selection
(spec/15, R328 to R330, R347, R351 to R354). -/

namespace Sys2Proof.Machine

/-! ## The kick page (R328, R330, R347) -/

/-- KICK (R328, R330). -/
def execKick (queue : Fin 4096) (v : BitVec 32) (s : State) : Host.Outcome State Fault Refusal := .next (kickOp queue v s)

/-- A CANCEL store of a queue (R347), routed by the kick filter as a kick is (R330). -/
def cancelStore (q : Fin 4096) (kind : Nat) (s : State) : State :=
  if !bitAt s.cw.kapbase 0 || !kftValid s q then s
  else match slotOfQueue s q with
    | some i => cancelLevel i kind s
    | none => cancelUnmapped q kind s

/-- CANCEL_GRAPH (R347). -/
def execCancelGraph (queue : Fin 4096) (s : State) : Host.Outcome State Fault Refusal := .next (cancelStore queue 1 s)

/-- CANCEL_PHASE (R347). -/
def execCancelPhase (queue : Fin 4096) (s : State) : Host.Outcome State Fault Refusal := .next (cancelStore queue 2 s)

/-- CANCEL_JOB (R347). -/
def execCancelJob (queue : Fin 4096) (s : State) : Host.Outcome State Fault Refusal := .next (cancelStore queue 3 s)

/-! ## Map, unmap, reset (R353, R354) -/

/-- SCTL_MAP (R353); then the next pending queue is served (R330). -/
def execSctlMap (slot : Fin 16) (queue : Fin 4096) (s : State) : Host.Outcome State Fault Refusal :=
  let t := mapSlot slot queue s
  .next (if (t.slots.get slot).st == .free then t else serveKicks t)

/-- SCTL_UNMAP (R353). -/
def execSctlUnmap (slot : Fin 16) (s : State) : Host.Outcome State Fault Refusal := .next (startUnmap slot s)

/-- UNMAP_COMPLETE (R353). -/
def execUnmapComplete (slot : Fin 16) (s : State) : Host.Outcome State Fault Refusal := .next (finishUnmap slot s)

/-- SCTL_RESET (R354). -/
def execSctlReset (slot : Fin 16) (s : State) : Host.Outcome State Fault Refusal := .next (startReset slot s)

/-- QUEUE_RESET_COMPLETE (R354): once the queue's launches are complete, the home-reaching fence, then IDLE. -/
def execQueueResetComplete (slot : Fin 16) (s : State) : Host.Outcome State Fault Refusal :=
  let x := s.slots.get slot
  if x.st != .resetting || outstanding s x.qid then .next s
  else match homeFence x.part s with
    | .ok t => .next (finishReset slot t)
    | .error (.wait t) => .next t
    | .error _ => .next s

/-! ## Selection (R351, R352) -/

/-- SLOT_SELECTION (R351). -/
def execSlotSelection (s : State) : Host.Outcome State Fault Refusal := .next (select s)

/-- An ageing interval of a RUNNABLE slot has passed. -/
def ageDue (s : State) (i : Fin 16) : Bool :=
  let x := s.slots.get i
  x.st == .runnable && decide (x.eprio.toNat < 7) && decide (x.age.toNat + s.cw.ageint.toNat ≤ s.ctc.toNat)

/-- AGEING_INTERVAL (R351): EPRIO rises by one, up to 7. -/
def execAgeingInterval (slot : Fin 16) (s : State) : Host.Outcome State Fault Refusal :=
  if ageDue s slot then
    .next (s.updSlot slot fun x => { x with eprio := x.eprio + 1, age := x.age + wd s.cw.ageint.toNat })
  else .next s

/-- The quantum of a RUNNING slot has passed (R352). -/
def quantumDue (s : State) (i : Fin 16) : Bool :=
  let x := s.slots.get i
  x.st == .running && !x.ended && x.quantum != 0 && decide (x.granted.toNat + 1024 * x.quantum.toNat ≤ s.ctc.toNat)

/-- QUANTUM_EXPIRY (R352): the slot counts as RUNNABLE from now on, and selection runs. -/
def execQuantumExpiry (slot : Fin 16) (s : State) : Host.Outcome State Fault Refusal :=
  if quantumDue s slot then .next (select (s.updSlot slot fun x => { x with ended := true, since := s.ctc, rsince := s.ctc })) else .next s

end Sys2Proof.Machine
end

