-- ==== Sys2Proof/Machine/EvSave.lean ====
section
/-! DEFINITION. Pre-emption: the deadline, the save and the restore of a slot's context (spec/17, R373 to R377). -/

namespace Sys2Proof.Machine

/-! ## The deadline (R374) -/

/-- A running strand of a slot's launches stops at its instruction boundary, to be saved whole from there: what it has not committed
is cancelled, and it issues nothing more. -/
def stopStrand (s : State) (p : Fin 64 × Fin 4 × Fin 24) : State :=
  let a : Agent := .strand p.1 p.2.1 p.2.2
  if (s.ctx a).st == .running then cancelPending a s else s

/-- The deadline of a save has passed. -/
def deadlineDue (s : State) (i : Fin 16) : Bool :=
  let x := s.slots.get i
  x.st == .preempting && !x.deadline && decide (x.since.toNat + s.cw.pdeadline.toNat ≤ s.ctc.toNat)

/-- PREEMPTION_DEADLINE (R374): running strands are saved whole from here, and requests held on a translation fault are
no longer waited for (R375). -/
def execPreemptionDeadline (slot : Fin 16) (s : State) : Host.Outcome State Fault Refusal :=
  if deadlineDue s slot then
    let x := s.slots.get slot
    let s1 := (queueSlots s x.qid).foldl stopStrand s
    .next (post (.saveComplete slot) (s1.updSlot slot fun x => { x with deadline := true }))
  else .next s

/-! ## What a save waits for (R374, R375) -/

def queueLaunch (s : State) (queue : Fin 4096) (l : LaunchId) : Bool := s.launches.any fun y => y.queue == queue && y.id == l

/-- No message of the queue's launches, and no answer to a strand of theirs, is on its way. -/
def messagesLand (s : State) (queue : Fin 4096) : Bool :=
  let mine := fun (l : Option LaunchId) => match l with | some l => queueLaunch s queue l | none => false
  !(s.md.inflight.any fun e => mine (msgLaunch e) || (match e with
      | .targetAnswer (_, .strand id) _ | .targetAnswer (_, .drain id) _ => mine (s.ctx (agentOf id)).launch
      | .clockAnnouncement (_, q) c .. | .nullEvent (_, q) c .. => mine (s.core q c).lt.launch
      | _ => false)) &&
  s.quads.toList.all fun x => x.held.all (fun e => !mine (msgLaunch e)) &&
    x.cores.toList.all fun y => y.held.all fun e => !mine (msgLaunch e)

/-- Every strand has reached its save point: a running one only past the deadline (R374). -/
def strandsStopped (s : State) (queue : Fin 4096) : Bool :=
  (queueSlots s queue).all fun (q, c, k) =>
    let a : Agent := .strand q c k
    ((s.ctx a).st != .running || pastDeadline s a) && (s.ctx a).st != .migrating

/-- The requests of the queue's launches. -/
def queueRequests (s : State) (queue : Fin 4096) : List Request := requestsWhere s fun r => queueLaunch s queue r.launch

/-- A request held on a translation fault. -/
def requestHeld (s : State) (r : Request) : Bool :=
  match s.hart (engAgent r.home r.eng) with
  | some h => h.holdAt.isSome && (match h.queue.head? with | some x => x.order == r.order | none => false)
  | none => false

/-- A request is cancelled by the save (R375). -/
def saveCancels (s : State) (late : Bool) (r : Request) : Bool := !waitedFor s r || (late && requestHeld s r)

/-- A region's buffer has nothing on its way: what a target has not accepted is sent again after the restore (R226, R374). -/
def unsend (s : State) (p : Fin 64 × Fin 4 × Fin 24) : State :=
  s.updFlight (.strand p.1 p.2.1 p.2.2) fun f => { f with sent := false }

/-- The messages that strands and distributors of the launches wait to have accepted go back to them: a parking
instruction issues again after the restore, a distributor and a region's buffer send again (R374). -/
def recallMessages (queue : Fin 4096) (s : State) : State :=
  let mine := fun (m : Instr) => match msgLaunch m with | some l => queueLaunch s queue l | none => false
  let back := (waitingMsgs s mine).filterMap fun m => match m with
    | .creationMessage x => (match x.sender with | .distributor _ | .firmware => some x | .strand _ | .drain _ => none)
    | .stampedEvent x => (match x.sender with | .distributor _ | .firmware => some x | .strand _ | .drain _ => none)
    | _ => none
  let s := (queueSlots s queue).foldl unsend s
  back.foldl (fun t m => t.updLaunch m.hdr.launch fun y =>
    { y with todo := y.todo ++ [m], waiting := y.waiting.filter fun q => q != m.q }) (dropWaiting mine s)

/-- The forms of a strand that have issued and not begun, in an easel's queue or in the scoreboard, issue again after the
restore. -/
def recallStrand (s : State) (p : Fin 64 × Fin 4 × Fin 24) : State :=
  let (q, c, k) := p
  let s1 := recallForms q c k s
  if (loadEntries (s1.quads.get q) c k).isEmpty then s1
  else dropLoads q c k (s1.updCtx (.strand q c k) fun y => { y with latch := none })

def recallEasel (queue : Fin 4096) (s : State) : State := (queueSlots s queue).foldl recallStrand s

/-- A scoreboard entry on a tile of the launches is still open, or an easel form of their strands is not complete. -/
def boardOpen (s : State) (queue : Fin 4096) : Bool :=
  ((queueSlots s queue).any fun (q, c, k) => (s.core q c).dq.any fun e => e.k == k) ||
  s.quads.toList.any fun x => x.sb.any fun e => match x.entry e.tile with
    | some t => queueLaunch s queue t.launch
    | none => false

/-! ## The save area (R376) -/

/-- What the image of a strand has no place for; a parked one's form reads its operands again (R374). A single step that ends in a
yield into the save comes back stopped (R382). -/
def keptOf_ (s : State) (p : Fin 64 × Fin 4 × Fin 24) : Kept :=
  let (q, c, k) := p
  let y := s.ctx (.strand q c k)
  let stepped := match y.why with | some (.saving ..) => y.sp.sstep | _ => false
  { id := s.strandId q c k, outst := y.outst, debug := y.why == some .debug || stepped, answer := y.answer
    latch := if y.st == .parked then none else y.latch, drain := y.fl.drain, displaced := y.displaced, copy := y.copy }

/-- A core that holds state of the slot's launches: a local-time launch, or a weight binding of theirs. -/
def coreServes (s : State) (queue : Fin 4096) (x : Core) : Bool :=
  match x.lt.launch with | some l => queueLaunch s queue l | none => false

def coreBinds (s : State) (queue : Fin 4096) (x : Core) : Bool := x.wbind.valid && queueLaunch s queue x.wbind.launch

def queueCores (s : State) (queue : Fin 4096) : List (Fin 64 × Fin 4) :=
  (List.finRange 64).flatMap fun q => ((List.finRange 4).filter fun c =>
    coreServes s queue (s.core q c) || coreBinds s queue (s.core q c)).map fun c => (q, c)

/-- What a core's record has no place for (R35, R39, R111, R372). -/
def keptCore (s : State) (queue : Fin 4096) (p : Fin 64 × Fin 4) : KeptCore :=
  let x := s.core p.1 p.2
  { quad := s.logical p.1, core := p.2, sendSeq := if coreServes s queue x then x.lt.sendSeq else 0, rose := x.lt.bRose
    events := (waitingEvents s p.1 p.2).map fun e => (e.tries, e.restarted), launch := x.wbind.launch, shape := x.wbind.shape, bound := (bindingTile (s.quads.get p.1) x.wbind).isSome
    scaled := (boundEntry (s.quads.get p.1) x.wbind.scEntry x.wbind.scGen).isSome }

/-- The tiles of the slot's launches: quad, entry and tile. -/
def queueTiles (s : State) (queue : Fin 4096) : List (Fin 64 × Nat × Tile) :=
  (List.finRange 64).flatMap fun q =>
    ((s.quads.get q).tiles.filter fun e => queueLaunch s queue e.2.launch).map fun e => (q, e)

/-- Tile images of one tile: one for each live range; an empty range, LO above HI, for a tile with nothing live. -/
def tileImages (s : State) (q : Fin 64) (e : Nat) (t : Tile) : List (List Byte) :=
  let rs := liveRanges s q e t
  if rs.isEmpty then [pad 32 ((tileImage s q t 1 0).take 32)]
  else if shPlanes t.shape then [tileImage s q t 0 (shRows t.shape - 1)]
  else rs.map fun r => tileImage s q t r.1 r.2

/-- The whole area (R376): directory, strand images (those that still waited for their restore as they are), core records, tile
images. -/
def saveArea (i : Fin 16) (s : State) : List Byte × List LaunchId :=
  let x := s.slots.get i
  let ks := queueSlots s x.qid
  let strands := (ks.map fun (q, c, k) => strandImage s q c k (saveRec s (.strand q c k))) ++ waitingImages s i
  let cores := (queueCores s x.qid).map fun (q, c) => coreRecordBytes s q c (coreServes s x.qid (s.core q c))
  let tiles := (queueTiles s x.qid).flatMap fun (q, e, t) => (tileImages s q e t).map fun b => (b, t.launch)
  let dir := pad 64 (leBytes 1 Config.rev ++ leBytes 1 (s.partQuads x.part).length ++ leBytes 2 0 ++ leBytes 4 strands.length ++
    leBytes 4 tiles.length ++ leBytes 4 cores.length)
  (dir ++ strands.flatten ++ cores.flatten ++ (tiles.map fun e => e.1).flatten, tiles.map fun e => e.2)

/-- The strands of the slot leave the cores. -/
def clearStrand (s : State) (p : Fin 64 × Fin 4 × Fin 24) : State :=
  let (q, c, k) := p
  freeSlot q c k (clearMonitor (fun m => m.who == .agent (.strand q c k)) s)

/-- A core's local-time state and binding leave with the slot. -/
def clearCore (s : State) (p : Fin 64 × Fin 4) : State :=
  s.updCore p.1 p.2 fun x => { x with lt := Init.ltime, wbind := Init.wbind }

def clearContext (queue : Fin 4096) (s : State) : State :=
  let s1 := (queueCores s queue).foldl clearCore ((queueSlots s queue).foldl clearStrand s)
  (queueLaunches s1 queue).foldl (fun t l => freeTiles l t) s1

/-- A launch with a live accumulator row whose residue does not match (R85), and that the save has not charged yet. -/
def saveMismatch (s : State) (queue : Fin 4096) (charged : List LaunchId) : Option LaunchId :=
  (queueTiles s queue).findSome? fun (q, e, t) =>
    if !charged.contains t.launch && (liveRanges s q e t).any fun r => rowsMismatch (s.quads.get q) t r.1 r.2 then some t.launch
    else none

/-- The save engine's read of a mismatch is charged to the strand being saved (R85): the first of the tile's launch, once for each
launch of a save (DESIGN CHOICE, log 49). -/
def chargeSave (i : Fin 16) (l : LaunchId) (s : State) : State :=
  let p := pIdx (s.slots.get i).part
  let id := (slotsOf s l).head?.map fun (q, c, k) => s.strandId q c k
  raiseLine p 10 (recordFault p 10 2 id (some l) (s.updSlot i fun x => { x with charged := x.charged ++ [l] }))

/-- The image is written, or the launches are cancelled and the command complex told when the area does not hold it (R376). A slot
whose quantum had ended has been RUNNABLE since then, another is from now on (R351). -/
def writeSave (i : Fin 16) (s : State) : State :=
  let x := s.slots.get i
  let since := if x.ended then x.rsince else s.ctc
  let cores := (queueCores s x.qid).map (keptCore s x.qid)
  let kept := (queueSlots s x.qid).map (keptOf_ s) ++ x.kept
  let area := saveArea i s
  if !bitAt x.ssave 0 || 2 ^ bits x.ssave 9 4 < area.1.length then
    raiseIrq (post .slotSelection (setSlot i .runnable (cancelLaunches (queueLaunches s x.qid)
      (s.updSlot i fun x => { x with eprio := x.prio, age := s.ctc, kept := [], restoring := [], ended := false, charged := [], rsince := since }))))
  else
    let s1 := writePhys (.home x.part.toNat) (bits x.ssave 51 16 * 65536) area.1 s
    let s2 := clearContext x.qid s1
    let s3 := s2.updSlot i fun x =>
      { x with saved := true, kept := kept, keptTiles := area.2, keptCores := cores, restoring := [], eprio := x.prio, age := s.ctc
               ended := false, charged := [], rsince := since }
    pokeLaunches (post .slotSelection (setSlot i .runnable s3))

/-- Committed region buffers reach their homes before a save. -/
def drainQueue (queue : Fin 4096) (s : State) : State :=
  drainAll ((queueSlots s queue).map fun (q, c, k) => Agent.strand q c k) s

/-- SAVE_COMPLETE (R374 to R376): once every strand has stopped and every message has landed, requests that are not
waited for are cancelled; once the others have ended, and the faults on record have been walked, the area is written and the
slot is RUNNABLE. -/
def execSaveComplete (slot : Fin 16) (s : State) : Host.Outcome State Fault Refusal :=
  let x := s.slots.get slot
  if x.st != .preempting || !strandsStopped s x.qid || !messagesLand s x.qid || x.writesHeld then .next s
  else
    let s0 := drainQueue x.qid s
    if !messagesLand s0 x.qid then .next s0 else
    let s1 := recallEasel x.qid (recallMessages x.qid s0)
    let rs := (queueRequests s1 x.qid).filter (saveCancels s1 x.deadline)
    let s2 := cancelAllReq (keptRanges s1) rs s1
    if !(queueRequests s2 x.qid).isEmpty || boardOpen s2 x.qid || !(s2.parts.get (pIdx x.part)).faults.isEmpty then .next s2
    else match saveMismatch s2 x.qid x.charged with
      | some l => .next (chargeSave slot l s2)
      | none => .next (writeSave slot s2)

/-! ## The restore (R377) -/

/-- The strand images of an area: each with its bytes. -/
def readStrands (s : State) : Nat → Nat → List (List Byte) × Nat
  | 0, a => ([], a)
  | n + 1, a =>
    let vec := readPhysN s (a + 1) 1 / 2 % 2 == 1
    let len := if vec then 3968 else 768
    let rest := readStrands s n (a + len)
    (readPhys s a len :: rest.1, rest.2)

def readCores (s : State) : Nat → Nat → List (List Byte) × Nat
  | 0, a => ([], a)
  | n + 1, a =>
    let len := readPhysN s (a + 4) 4
    let rest := readCores s n (a + len)
    (readPhys s a len :: rest.1, rest.2)

/-- Bytes of a tile image after its header. -/
def imageBytes (w : Word) (lo hi : Nat) : Nat :=
  if hi < lo then 0
  else if shAcc w then 768 * (hi + 1 - lo)
  else if shPlanes w then tileBytes w
  else (hi + 1 - lo) * rowStride w

def readTiles (s : State) : Nat → Nat → List (List Byte)
  | 0, _ => []
  | n + 1, a =>
    let len := 32 + imageBytes (wd (readPhysN s (a + 8) 8)) (readPhysN s (a + 16) 2) (readPhysN s (a + 18) 2)
    readPhys s a len :: readTiles s n (a + len)

/-- The place of an image's strand: its quad, core and slot. -/
def imagePlace (s : State) (part : BitVec 8) (b : List Byte) : Option (Fin 64 × Fin 4 × Fin 24) :=
  (s.physical part (fieldAt b 4 1)).map fun q => (q, Fin.ofNat 4 (fieldAt b 5 1), Fin.ofNat 24 (fieldAt b 3 1))

/-- A strand's slot is FREE and no live strand of its core holds its generation (R377). -/
def placeFree (s : State) (part : BitVec 8) (b : List Byte) : Bool :=
  match imagePlace s part b with
  | none => false
  | some (q, c, k) =>
    let g : Gen := BitVec.ofNat 16 (fieldAt b 6 2)
    let x := s.core q c
    (x.ctxs.get k).st == .free && !x.reserved k && !x.liveGens.contains g && !x.scrubbing &&
      (fieldAt b 1 1 / 2 % 2 == 0 || x.holder.isNone)

/-- One strand restored. -/
def restoreStrand (i : Fin 16) (part : BitVec 8) (kept : List Kept) (s : State) (b : List Byte) : State :=
  match imagePlace s part b, imageLaunch s i (fieldAt b 16 4) with
  | some (q, c, k), some l =>
    let id : StrandId := { q := q, c := c, k := k, gen := BitVec.ofNat 16 (fieldAt b 6 2) }
    let s1 := s.updCore q c fun x =>
      let x1 := x.updCtx k fun y => restoreCtx b l (kept.find? fun e => e.id == id) y
      if fieldAt b 1 1 / 2 % 2 = 1 then restoreVec b k x1 else x1
    let s2 := if (s1.ctx (.strand q c k)).fl.drain.isEmpty then s1 else post (.regionBufferDrain (.strand q c k)) s1
    if (s2.ctx (.strand q c k)).st == .ready then makeReady (.strand q c k) s2 else s2
  | _, _ => s

/-- A restored tile takes the first free entry and place, and a new generation (R377). -/
def rebindTile (q : Fin 64) (l : LaunchId) (h : Fin 64) (w : Word) (s : State) : State :=
  if ((s.quads.get q).find l h).isSome then s
  else match allocTile q l h w s with
    | .ok s1 => s1
    | .error _ => s

/-- One tile image restored. -/
def restoreTile (part : BitVec 8) (s : State) (e : List Byte × LaunchId) : State :=
  let b := e.1
  match s.physical part (fieldAt b 0 1) with
  | none => s
  | some q =>
    if launchGone s e.2 then s else
    let h : Fin 64 := Fin.ofNat 64 (fieldAt b 1 1)
    let s1 := rebindTile q e.2 h (wordAtOff b 8) s
    let lo := fieldAt b 16 2
    let hi := fieldAt b 18 2
    if hi < lo then s1
    else match (s1.quads.get q).find e.2 h with
      | some (_, t) => s1.updQuad q (writeRows t lo hi (b.drop 32))
      | none => s1

/-- The binding of a core refers to its tiles under their new generations (R377); one that was stale at the save stays stale, under
generation 0 (R111). -/
def rebindCore (s : State) (kept : Option KeptCore) (q : Fin 64) (x : Core) : Core :=
  let wb := x.wbind
  let at_ := fun (on : Bool) (h : Fin 64) => if on then (s.quads.get q).find wb.launch h else none
  match kept, wb.valid with
  | some k, true =>
    let tile := at_ k.bound wb.handle
    let sc := at_ k.scaled wb.scHandle
    { x with wbind := { wb with
      entry := (match tile with | some p => p.1 | none => 0), tgen := (match tile with | some p => p.2.gen | none => 0)
      scEntry := (match sc with | some p => p.1 | none => 0), scGen := (match sc with | some p => p.2.gen | none => 0) } }
  | _, _ => x

/-- One core record restored. -/
def restoreCoreRec (i : Fin 16) (part : BitVec 8) (kept : List KeptCore) (s : State) (b : List Byte) : State :=
  match s.physical part (fieldAt b 0 1) with
  | none => s
  | some q =>
    let c : Fin 4 := Fin.ofNat 4 (fieldAt b 1 1)
    let ltm := s.launches.filter fun y => y.id.hwq == i && y.rec_.ltm && !y.cancelled && (launchQuads s y).contains q
    let k := kept.find? fun e => e.quad == fieldAt b 0 1 && e.core == c
    let s1 := s.updCore q c fun x => rebindCore s k q (restoreCore s b k ltm.head? q c x)
    (post (.eventStart q c) s1).updQuad q fun x => { x with canvas := none }

/-- A restore is refused: the saved launches complete with CANCELLED set (R377). -/
def refuseRestore (i : Fin 16) (s : State) : State :=
  cancelLaunches (queueLaunches s (s.slots.get i).qid) (forgetSaved i s)

/-- The restored strands that were PARKED issue their parking instructions again (R374, R377). -/
def wakeRestored (queue : Fin 4096) (s : State) : State :=
  wakeWhere (fun w => w == .restored) ((queueSlots s queue).map fun (q, c, k) => Agent.strand q c k) s

/-- An image in its place by slot number. -/
def insertImage (b : List Byte) : List (List Byte) → List (List Byte)
  | [] => [b]
  | x :: t => if fieldAt b 3 1 ≤ fieldAt x 3 1 then b :: x :: t else x :: insertImage b t

/-- One waiting image: restored when its place is free, else still waiting. -/
def restoreNext (i : Fin 16) (u : State × List (List Byte)) (b : List Byte) : State × List (List Byte) :=
  let x := u.1.slots.get i
  if placeFree u.1 x.part b then (restoreStrand i x.part x.kept u.1 b, u.2) else (u.1, u.2 ++ [b])

/-- Every image whose place is free is restored, in ascending slot order; the others wait, each on its own (R377). -/
def restoreWaiting (i : Fin 16) (s : State) : State :=
  let r := ((waitingImages s i).foldr insertImage []).foldl (restoreNext i) (s, [])
  let s1 := r.1.updSlot i fun x => { x with restoring := r.2, kept := if r.2.isEmpty then [] else x.kept }
  let q := (s1.slots.get i).qid
  postAll ((queueLaunches s1 q).flatMap fun l => [Instr.launchDistribution l, Instr.launchComplete l]) (wakeRestored q s1)

/-- The images of strands of a slot's running launches may be restored now. -/
def restoring (x : HwSlot) : Bool := !x.restoring.isEmpty && (x.st == .running || x.st == .error || x.st == .unmapping)

/-- RESTORE (R377): once the slot is granted and the previous holder has released its quads (R351), tiles and core records are
restored in their places, and each strand as soon as its own is free. -/
def execRestore (slot : Fin 16) (s : State) : Host.Outcome State Fault Refusal :=
  let x := s.slots.get slot
  let base := bits x.ssave 51 16 * 65536
  let overlap := (List.finRange 16).any fun j => j != slot && (s.slots.get j).st == .preempting && masksOverlap x (s.slots.get j)
  if !x.saved && restoring x then .next (restoreWaiting slot s)
  else if x.st != .running || !x.saved || overlap then .next s
  else if readPhysN s base 1 != Config.rev || decide ((s.partQuads x.part).length < readPhysN s (base + 1) 1) then
    .next (refuseRestore slot s)
  else
    let imgs := readStrands s (readPhysN s (base + 4) 4) (base + 64)
    let cores := readCores s (readPhysN s (base + 12) 4) imgs.2
    let tiles := readTiles s (readPhysN s (base + 8) 4) cores.2
    let s1 := (tiles.zip x.keptTiles).foldl (restoreTile x.part) s
    let s2 := cores.1.foldl (restoreCoreRec slot x.part x.keptCores) s1
    let drop := fun (y : Launch) => if y.queue == x.qid && y.cancelled then { y with inflight := 0 } else y
    let s3 := { s2.updSlot slot (fun x => { x with saved := false, keptTiles := [], keptCores := [], restoring := imgs.1 }) with
      launches := s2.launches.map drop }
    .next (restoreWaiting slot s3)

end Sys2Proof.Machine
end

