-- ==== Sys2Proof/Machine/Debug.lean ====
section
/-! DEFINITION. Debug reads and writes (spec/02, R66; spec/03, R85; spec/04, R104; spec/20, R406; spec/21, R417, R420), and what
drowsy retention keeps (R58). -/

namespace Sys2Proof.Machine

/-! ## The item -/

/-- A tagged item as the debugger finds it: its data, tag and SCRUBBED bit, the generation its tag is compared with, none
where the spec gives none (R66), and the columns whose residue does not match (R85). -/
structure DebugEnt where
  data : Nat
  tag : Gen
  scr : Bool
  ref : Option Gen
  mismatch : List Nat
  deriving DecidableEq, Repr

/-- Words of `k` bits side by side, the first lowest. -/
def packNat (k : Nat) (vs : List Nat) : Nat := vs.foldr (fun v r => v + 2 ^ k * r) 0

/-- Word `i` of `k` bits. -/
def unpackNat (k v i : Nat) : Nat := v / 2 ^ (k * i) % 2 ^ k

/-- The reference generation of a slot's registers (R43, R66). -/
def slotRef (y : Ctx) : Option Gen := if y.st == .free then none else some y.gen

/-- The reference generation of a core's vector registers: the core's lease generation, held or not (R43, R49). -/
def leaseRef (x : Core) : Option Gen := some x.leaseGen

/-- The quad of a tagged item; none for an IO place or the memory array. -/
def itemQuad : DebugItem → Option (Fin 64)
  | .named q .. | .queue q .. | .loop q .. | .vector q .. | .mask q .. | .granule q _ | .accRow q _ => some q
  | .io _ | .array _ => none

/-- The tagged item, as it lies (R66, R104). -/
def debugEnt (s : State) : DebugItem → Option DebugEnt
  | .named q c k i =>
    let y := s.ctx (.strand q c k)
    let r := y.arch.n.get i
    some { data := r.data.toNat, tag := r.tag, scr := r.scr, ref := slotRef y, mismatch := [] }
  | .queue q c k i =>
    let y := s.ctx (.strand q c k)
    let r := y.arch.q.get i
    some { data := r.data.toNat, tag := r.tag, scr := r.scr, ref := slotRef y, mismatch := [] }
  | .loop q c k i =>
    let y := s.ctx (.strand q c k)
    let r := y.arch.loops.get i
    some { data := r.data.toNat, tag := r.tag, scr := r.scr, ref := slotRef y, mismatch := [] }
  | .vector q c i =>
    let r := (s.core q c).w.get i
    some { data := packNat 32 (r.data.toList.map BitVec.toNat), tag := r.tag, scr := r.scr, ref := leaseRef (s.core q c), mismatch := [] }
  | .mask q c i =>
    let r := (s.core q c).m.get (Fin.succ i)
    some { data := r.data.toNat, tag := r.tag, scr := r.scr, ref := leaseRef (s.core q c), mismatch := [] }
  | .granule q g =>
    let x := s.quads.get q
    let r := x.granule g
    some { data := r.data.toNat, tag := r.tag, scr := r.scr, ref := (holderOf x false g).map fun e => e.2.gen, mismatch := [] }
  | .accRow q g =>
    let x := s.quads.get q
    let r := x.accRow g
    some { data := packNat 36 (r.data.toList.map BitVec.toNat), tag := r.tag, scr := r.scr
           ref := (holderOf x true g).map fun e => e.2.gen
           mismatch := (List.range 96).filter fun j => !accOk (r.data.toList.getD j 0) }
  | .io _ | .array _ => none

/-! ## Reads -/

/-- What a debug read shows of a tagged item (R66, R406): PROTECTED in a confidential partition without consent, SCRUBBED where
its bit is set, and otherwise the data, the tag and whether the tag is the reference generation. -/
def viewOf (hid : Bool) (e : DebugEnt) : DebugView :=
  if hid then { data := 0, tag := 0, matches_ := false, scrubbed := false, protected_ := true, mismatch := [] }
  else if e.scr then { data := 0, tag := 0, matches_ := false, scrubbed := true, protected_ := false, mismatch := [] }
  else { data := e.data, tag := e.tag, matches_ := e.ref == some e.tag, scrubbed := false, protected_ := false, mismatch := e.mismatch }

/-- Data without a tag. -/
def plainView (v : Nat) : DebugView :=
  { data := v, tag := 0, matches_ := false, scrubbed := false, protected_ := false, mismatch := [] }

/-- The debug access port may read a physical address for the partition that its request names (R394, R420). -/
def portReads (s : State) (pa : Nat) : Bool :=
  allowed s 83 ((s.md.req.part.map fun p => p.val).getD 0) false .r pa

/-- A granule is a confidential partition's whose tenant gave no consent (R66). -/
def hiddenGranule (s : State) (pa : Nat) : Bool :=
  let e := ownerOf s pa
  target s pa == .device && ownV e && s.quads.toList.any fun x => x.part.toNat == ownPart e && x.owner.toNat % 2 == 1 && hidden x

/-- The memory array at 8 bytes, past every cache (R150). -/
def rawArray (s : State) (pa : Nat) : Nat := leNat (readCells s.mm.arr pa 8)

/-- A debug read (R66): the answer stands in `debugView`, and of the machine nothing else changes. The debug access port reads
only where the configuration permits debug (R420); a place that its access table refuses answers nothing. -/
def debugRead (it : DebugItem) (s : State) : State :=
  let view : Option DebugView :=
    if !s.mg.allowDebug then none
    else match it with
      | .io pa => if !isMemory s pa && target s pa != .engWindow && portReads s pa then some (plainView (leNat (ioBytes s pa 8))) else none
      | .array pa =>
        if !isMemory s pa || !portReads s pa then none
        else some (if hiddenGranule s pa then { plainView 0 with protected_ := true } else plainView (rawArray s pa))
      | .named q .. | .queue q .. | .loop q .. | .vector q .. | .mask q .. | .granule q _ | .accRow q _ =>
        (debugEnt s it).map (viewOf (hidden (s.quads.get q)))
  { s with mg := { s.mg with debugView := view } }

/-! ## Writes -/

/-- The debugger may write to a partition (R420): the configuration permits debug, and DEBUG is set on one of its quads (which
quad's HALTCTL counts is a DESIGN CHOICE, log 50). -/
def debugOpen (s : State) (p : Fin 64) : Bool :=
  s.mg.allowDebug && s.quads.toList.any fun x => x.part.toNat == p.val && x.owner.toNat % 2 == 1 && x.halt.debug

/-- The item's new data under its reference generation, its SCRUBBED bit clear (R406): an accumulator entry with the residue of its
value (R85), a loop address with bit 0 clear (R156). -/
def debugPut (v : Nat) (g : Gen) (it : DebugItem) (s : State) : State :=
  match it with
  | .named q c k i => s.updArch (.strand q c k) fun y => { y with n := y.n.set i.val { data := wd v, tag := g, scr := false } i.isLt }
  | .queue q c k i => s.updArch (.strand q c k) fun y =>
      { y with q := y.q.set i.val { y.q.get i with data := wd v, tag := g, scr := false } i.isLt }
  | .loop q c k i => s.updArch (.strand q c k) fun y =>
      let d := if i.val < 2 then wd v else wd v &&& ~~~1
      { y with loops := y.loops.set i.val { data := d, tag := g, scr := false } i.isLt }
  | .vector q c i => s.updCore q c fun y =>
      { y with w := y.w.set i.val { data := Vector.ofFn fun j => BitVec.ofNat 32 (unpackNat 32 v j.val), tag := g, scr := false } i.isLt }
  | .mask q c i => s.updCore q c fun y =>
      { y with m := y.m.set (i.val + 1) { data := BitVec.ofNat 96 v, tag := g, scr := false } (Nat.succ_lt_succ i.isLt) }
  | .granule q n => s.updQuad q fun x => x.setGranule n { data := BitVec.ofNat 512 v, tag := g, scr := false }
  | .accRow q n => s.updQuad q fun x =>
      x.setAccRow n { x.accRow n with data := Vector.ofFn fun j => accEntry (unpackNat 36 v j.val), tag := g, scr := false }
  | .io _ | .array _ => s

/-- A debug write (R66, R420): ignored in a confidential partition without consent and where no debugger may write. It gives an
item its new data under the reference generation; an item without a reference generation is left alone, and registers and memory take
their writes through the window (DESIGN CHOICE, log 50). -/
def debugWrite (it : DebugItem) (v : Nat) (s : State) : State :=
  match itemQuad it with
  | none => s
  | some q =>
    let x := s.quads.get q
    if !debugOpen s (pIdx x.part) || hidden x then s
    else match (debugEnt s it).bind fun e => e.ref with
      | some g => debugPut v g it s
      | none => s

/-! ## Drowsy retention (R58, R417) -/

/-- A register as drowsy retention keeps it: an entry with tag 0 wakes as zero. -/
def Reg.drowsed (r : Reg) : Reg := if r.tag = 0 then { r with data := 0 } else r
def QEnt.drowsed (r : QEnt) : QEnt := if r.tag = 0 then { r with data := 0 } else r
def VReg.drowsed (r : VReg) : VReg := if r.tag = 0 then { r with data := Vector.replicate 96 0 } else r
def MReg.drowsed (r : MReg) : MReg := if r.tag = 0 then { r with data := 0 } else r
def Granule.drowsed (r : Granule) : Granule := if r.tag = 0 then { r with data := 0 } else r
def AccRow.drowsed (r : AccRow) : AccRow := if r.tag = 0 then { r with data := Vector.replicate 96 0, sat := false } else r

def Core.drowsed (x : Core) : Core :=
  { x with
    ctxs := x.ctxs.each fun y => { y with arch := { y.arch with
      n := y.arch.n.each Reg.drowsed, q := y.arch.q.each QEnt.drowsed, loops := y.arch.loops.each Reg.drowsed } }
    w := x.w.each VReg.drowsed
    m := x.m.each MReg.drowsed }

/-- What a quad keeps across drowsy retention (R58, R417). -/
def Quad.drowsed (x : Quad) : Quad :=
  { x with
    cores := x.cores.each Core.drowsed
    pal := x.pal.map fun e => (e.1, e.2.drowsed)
    acc := x.acc.map fun e => (e.1, e.2.drowsed) }

end Sys2Proof.Machine
end

