-- ==== Sys2Proof/Machine/EvHost.lean ====
section
/-! DEFINITION. Host traffic, bias, power and clock, and register writes from outside (spec/21, R410 to R417, R420; spec/17,
R381 to R383; spec/19, R392, R394). -/

namespace Sys2Proof.Machine

/-! ## Bias (R411 to R413) -/

/-- The sectors of a 64 KiB granule. -/
def granuleSectors (s : State) (g : Nat) : List Nat := linesWhere s fun x => x / 1024 == g

def setBias (g : Nat) (host : Bool) (s : State) : State :=
  let p := biasPlace s g
  let old := readPhysN s p.1 1
  let off := old - old / 2 ^ p.2 % 2 * 2 ^ p.2
  writePhys (.home 0) p.1 (leBytes 1 (off + host.toNat * 2 ^ p.2)) s

/-- Dirty copies of a sector in core L1s written into the basin (R412). -/
def l1Back (sector : Nat) (s : State) : State :=
  let l := lineOf s sector
  if l.l1.any (fun x => x.2.2) then putLine { l with st := .o, l1 := l.l1.map fun x => (x.1, x.2.1, false) } s else s

/-- A flip's writebacks or recalls, and the granule's new bias (R412). -/
def flip (g : Nat) (host : Bool) (s : State) : State :=
  setBias g host (foldSectors (if host then l1Back else recallHost) (granuleSectors s g) s)

/-- BIASCMD_GO (R413). -/
def execBiascmdGo (granule : BitVec 36) (target : Bool) (s : State) : Host.Outcome State Fault Refusal :=
  .next (biasGo granule target s)

/-- BIAS_FLIP_COMPLETE (R412). -/
def execBiasFlipComplete (granule : BitVec 36) (target : Bool) (s : State) : Host.Outcome State Fault Refusal :=
  if s.cw.biasBusy && inHdm s granule.toNat then
    let s1 := flip granule.toNat target s
    .next { s1 with cw := { s1.cw with biasBusy := false } }
  else .next s

/-! ## Host requests (R394, R395, R410, R411) -/

/-- The rights that a host request needs (R394): a read-modify-write, ATOMIC. -/
def hostRights (h : HostReq) : List Right := if h.rmw.isSome then [.atomic] else if h.write then [.w] else [.r]

/-- A host request is refused (R394, R395). -/
def hostRefused (s : State) (h : HostReq) : Bool :=
  let p := (h.part.map fun p => p.val).getD 0
  let own := ownPart (ownerOf s h.addr)
  let conf := ownV (ownerOf s h.addr) && partConf s own
  !(hostRights h).all (fun need => allowed s 84 p false need h.addr) ||
  (conf && !(match h.part with | some q => q.val == own && h.ide && boundStream s q .mem | none => false))

/-- The host holds a copy of the sectors that it asked for, when their granule is in host bias and the location is in SYS
(R131, R411). -/
def hostHolds (pa len : Nat) (write : Bool) (s : State) : State :=
  if !hostBias s (pa / 65536) || domain s 0 pa != .sys then s
  else foldSectors (fun x t =>
    let l := lineOf t x
    putLine { l with host := if write then .exclusive else .shared, st := if write then .i else l.st.shared
                     l1 := if write then [] else l.l1 } t) (sectors pa len) s

/-- What a host read-modify-write of `k` bits leaves (R135), as the host's own architecture defines its operations. -/
def hostRmwVal (op : HostRmw) (k old y : Nat) : Nat :=
  match op with
  | .add => (old + y) % 2 ^ k
  | .and => old &&& y
  | .or => old ||| y
  | .xor => old ^^^ y
  | .swap => y
  | .cas e => if old == e % 2 ^ k then y else old

/-- A host read-modify-write at the home basin slice, one rmw pair (R135): the old value is the answer. The host keeps no copy. -/
def serveRmw (op : HostRmw) (h : HostReq) (s : State) : State :=
  let n := h.bytes.length
  let old := readPhys s h.addr n
  writePhys (.home 0) h.addr (leBytes n (hostRmwVal op (8 * n) (leNat old) (leNat h.bytes)))
    { s with mg := { s.mg with hostAnswer := old } }

/-- A commanded flip of a granule to host bias is in progress: host requests to it wait (R412). -/
def flipping (s : State) (g : Nat) : Bool :=
  s.cw.biasBusy && s.md.inflight.any fun e => match e with | .biasFlipComplete h true => h.toNat == g | _ => false

/-- HOST_CXL_MEM_REQUEST (R411): refused with poison, or served; a granule in device bias flips first when AUTO is 1, else
the request is served uncached at the home. One to a granule that a command flips to host bias comes again after the flip (R412). -/
def execHostCxlMemRequest (s : State) : Host.Outcome State Fault Refusal :=
  let h := s.md.req.host
  let n := if h.write || h.rmw.isSome then h.bytes.length else 64
  let answer := fun (bs : List Byte) (s : State) => { s with mg := { s.mg with hostAnswer := bs } }
  if target s h.addr != .device || hostRefused s h then .next (answer [] s)
  else if flipping s (h.addr / 65536) then
    .next { s with md := { s.md with turns := s.md.turns ++ [.input .hostCxlMemRequest s.md.req] } }
  else
    let g := h.addr / 65536
    let s1 := if !hostBias s g && s.cw.biasAuto then flip g true s else s
    let s2 := foldSectors l1Back (sectors h.addr n) s1
    let poison := (sectors h.addr n).any (badSector s2)
    match h.rmw with
    | some op => if poison then .next (answer [] s2) else .next (serveRmw op h s2)
    | none =>
      if h.write then .next (answer [] (hostHolds h.addr n true (writePhys (.home 0) h.addr h.bytes s2)))
      else if poison then .next (answer [] s2)
      else .next (answer (readPhys s2 h.addr n) (hostHolds h.addr n false s2))

/-- HOST_SNOOP (R410): a sector of host memory that an L1 holds dirty is written into the basin, and the basin answers with
its data. A snoop that invalidates leaves no copy; a host write for which it was made follows at once (log 24). -/
def execHostSnoop (s : State) : Host.Outcome State Fault Refusal :=
  let x := s.md.req.sector
  let h := s.md.req.host
  if target s (64 * x) != .host then .next s
  else
    let s1 := l1Back x s
    let s2 := { s1 with mg := { s1.mg with hostAnswer := readPhys s1 (64 * x) 64 } }
    if h.write && h.addr / 64 == x && decide (h.addr % 64 + h.bytes.length ≤ 64) then
      let s3 := writePhys (.home 0) h.addr h.bytes s2
      .next (putLine (noLine s3 x) (arrBack x s3))
    else if s.md.req.on then
      .next (postAll (monitorEvents s2.xl.monitors x) (putLine (noLine s2 x) (arrBack x s2)))
    else .next (putLine { lineOf s2 x with st := if (lineOf s2 x).st == .i then .i else .s } (arrBack x s2))

/-! ## Power and clock (R104, R416, R417) -/

/-- Every slot FREE, no request of the quad's own in flight, no live tile (R417). -/
def quadIdle (s : State) (q : Fin 64) : Bool :=
  let x := s.quads.get q
  (x.cores.toList.all fun y => y.ctxs.toList.all fun z => z.st == .free) && (requestsWhere s fun r => r.home == q).isEmpty && x.tiles.isEmpty

/-- A quad may enter drowsy retention (R417). -/
def drowsyDue (s : State) (q : Fin 64) : Bool :=
  let x := s.quads.get q
  x.power == .awake && x.enabled && quadIdle s q && decide (x.idleSince.toNat + 100000 ≤ s.ctc.toNat)

/-- DROWSY_ENTRY (R417): entries with tag 0 lose their data (R58). -/
def execDrowsyEntry (q : Fin 64) (s : State) : Host.Outcome State Fault Refusal :=
  if drowsyDue s q then .next (s.updQuad q fun x => { x.drowsed with power := .drowsy }) else .next s

/-- A power-gated bank wakes with every tag 0 and every SCRUBBED bit set (R104, R406). -/
def wakeBanks (x : Quad) : Quad :=
  { x with
    pal := x.pal.map fun (g, v) => (g, { v with tag := 0, scr := true })
    acc := x.acc.map fun (r, v) => (r, { v with tag := 0, scr := true }) }

/-- The controller may gate a quad: no partition owns it, and no strand stands on it (R416). -/
def gateable (x : Quad) : Bool :=
  x.owner.toNat % 2 == 0 && x.cores.toList.all fun y => y.ctxs.toList.all fun z => z.st == .free

/-- Quads awake. -/
def awakeQuads (s : State) : Nat := (s.quads.toList.filter fun x => x.enabled && x.power == .awake).length

/-- Room for one more quad awake under the envelope (R416): there is some, or a quad that may be gated is. -/
def makeRoom (q : Fin 64) (s : State) : Option State :=
  if awakeQuads s < envelopeQuads s then some s
  else ((List.finRange 64).find? fun i => i != q && (s.quads.get i).enabled && (s.quads.get i).power == .awake && gateable (s.quads.get i)).map
    fun i => s.updQuad i fun x => { x with power := .gated }

/-- DROWSY_WAKE (R417): the quad is awake, and takes the messages that waited. A quad for which the envelope has no room stays as it
is (R416). -/
def execDrowsyWake (q : Fin 64) (s : State) : Host.Outcome State Fault Refusal :=
  let x := s.quads.get q
  if x.power == .awake then .next s
  else match makeRoom q s with
    | none => .next s
    | some s1 =>
      let y := if x.power == .gated then wakeBanks x else x
      .next (postAll x.held (s1.updQuad q fun _ => { y with power := .awake, held := [], idleSince := s1.ctc }))

/-- The highest arithmetic clock of the envelope, in steps of 100 MHz (R416). -/
def topClock (s : State) : Nat := if s.mg.envelope = 120 then 23 else if s.mg.envelope = 28 then 12 else 10

/-- CLOCK_STEP (R416): one step of 100 MHz, at most one per 10 microseconds, within the envelope. -/
def execClockStep (s : State) : Host.Outcome State Fault Refusal :=
  let f := if s.md.req.on then s.clock + 1 else s.clock - 1
  if s.ctc.toNat < s.lastStep.toNat + 10000 || topClock s < f || f = 0 then .next s
  else .next { s with clock := f, lastStep := s.ctc }

/-- EVLOG_READ (R415). -/
def execEvlogRead (s : State) : Host.Outcome State Fault Refusal :=
  .next (popEvlog { s with mg := { s.mg with evread := (hostReg s 0x3100).getD 0 } })

/-! ## Register writes (R4) -/

/-- The masters of the windows by their number in the access tables (R394); a strand or a hart stores through its own quad or unit. -/
def masterNumber : Master → Nat
  | .cmd => 80
  | .sec => 82
  | .debug => 83
  | .host => 84
  | .agent => 0

/-- A host's store to the kick page of a confidential partition's queue, or its answer to a GRANULE report of such a partition, comes
through a stream bound to its TDI in RUN (R395). -/
def hostKickOk (s : State) (pa : Nat) (bs : List Byte) : Bool :=
  match target s pa with
  | .kick => hostAccepted s (pIdx (BitVec.ofNat 8 (kftField s (kickPlace s pa).1 16 1))) .io
  | .hostWindow => pa != Config.hostWindow + 0x3010 || hostAccepted s (pIdx (BitVec.ofNat 8 (fieldAt bs 0 1))) .io
  | .device | .host | .cmdWindow | .engWindow => true

/-- The debug access port may write memory: that of a partition while its HALTCTL.DEBUG is 1 and it is not hidden (R66, R420). -/
def portWrites (s : State) (pa : Nat) : Bool :=
  let e := ownerOf s pa
  target s pa != .device || !ownV e || (debugOpen s (pIdx (BitVec.ofNat 8 (ownPart e))) && !hiddenGranule s pa)

/-- A write by a master to a window, or of the debug port to memory, under its access table (R394, R395, R55, R415, R420). -/
def writeWindow (by_ : Master) (pa : Nat) (bs : List Byte) (s : State) : State :=
  let p := (s.md.req.part.map fun p => p.val).getD 0
  if by_ == .agent || target s pa == .engWindow || (isMemory s pa && (by_ != .debug || !portWrites s pa)) then s
  else if by_ == .debug && !s.mg.allowDebug then s
  else if by_ == .host && !hostKickOk s pa bs then s
  else if !allowed s (masterNumber by_) p (by_ == .cmd) .w pa then s
  else if isMemory s pa then writePhys (.home p) pa bs s
  else ioWrite by_ pa bs s

/-- The partitions that an access-table entry names. -/
def tableParts (s : State) (t m : Nat) : Word :=
  match s.mg.tables.find? fun e => e.1 == t && e.2.1 == m with
  | some e => e.2.2.1
  | none => 0

/-- An access-table entry written by the security core (R394), unless it concerns a frozen partition (R389). -/
def writeTable (t m : Nat) (parts : Word) (rights : BitVec 5) (s : State) : State :=
  let cur := (s.mg.tables.find? fun e => e.1 == t && e.2.1 == m).map fun e => (e.2.2.1, e.2.2.2)
  let frozen := (List.finRange 64).filter fun p => isFrozen s p && bitAt (tableParts s t m ||| parts) p.val
  if cur == some (parts, rights) then s
  else match frozen with
    | [] => { s with mg := { s.mg with tables := (s.mg.tables.filter fun e => !(e.1 == t && e.2.1 == m)) ++ [(t, m, parts, rights)] } }
    | ps => ps.foldl (fun s p => refuseConfig p s) s

/-- A granule's key identifier changes: what its sectors hold lies under the key that it was written with (R393). -/
def rekeyGranule (g k0 k1 : Nat) (s : State) : State :=
  if k0 = k1 then s
  else
    let old := fun (x : Nat) => (lookupNat s.mm.foreign x).getD k0
    let rest := s.mm.foreign.filter fun e => e.1 / 1024 != g
    let now := ((List.range 1024).map fun i => 1024 * g + i).filterMap fun x => if old x = k1 then none else some (x, old x)
    { s with mm := { s.mm with foreign := rest ++ now } }

/-- An ownership entry written by the security core (R392), unless it concerns a frozen partition (R389). -/
def writeOwner (g : Nat) (e : BitVec 16) (s : State) : State :=
  let old := ownerOf s (65536 * g)
  let named := fun (v : BitVec 16) => if ownV v then [pIdx (BitVec.ofNat 8 (ownPart v))] else []
  if !inHdm s g || old == e then s
  else match (named old ++ named e).filter (isFrozen s) with
    | [] => rekeyGranule g (granuleKey old) (granuleKey e)
        { s with mm := { s.mm with owners := if e == 0 then eraseNat s.mm.owners g else insertNat s.mm.owners g e } }
    | ps => ps.foldl (fun s p => refuseConfig p s) s

/-- The power and thermal controller gates a quad that no partition owns (R416). -/
def gateQuad (q : Fin 64) (off : Bool) (s : State) : State :=
  if off && gateable (s.quads.get q) then s.updQuad q fun x => { x with power := .gated }
  else if !off then post (.drowsyWake q) s else s

/-- A sector of device memory fails in its channel (R365, R393): by an uncorrectable error, or its ciphertext or code is no longer what
was stored. -/
def failSector (x : Nat) (code : Bool) (s : State) : State :=
  if target s (64 * x) != .device then s
  else if code then { s with mm := { s.mm with altered := if s.mm.altered.contains x then s.mm.altered else s.mm.altered ++ [x] } }
  else { s with mm := { s.mm with poison := if s.mm.poison.contains x then s.mm.poison else s.mm.poison ++ [x] } }

/-- The I3C status block is read (R420). -/
def readI3c (s : State) : State :=
  let n := fresh s
  let st : I3cStatus :=
    { bootstat := (hostReg s 0x10).getD 0, temperature := Config.freeTemperature n.1, power := Config.freePower n.1 }
  { n.2 with mg := { n.2.mg with i3cStatus := some st } }

/-- A copy-in key slot that nobody holds is cleared; a grant ends otherwise (R396). -/
def clearSlot (k : Fin 64) (s : State) : State :=
  if (s.mg.slots.get k).grant.isSome then s
  else { s with mg := { s.mg with slots := s.mg.slots.set k.val { key := 0, salt := 0, grant := none } k.isLt } }

/-- REGISTER_WRITE (R4): a register with no behaviour of its own, under its access code; with it what a channel, the I3C target and the
debug port do. -/
def execRegisterWrite (s : State) : Host.Outcome State Fault Refusal :=
  match s.md.req.reg with
  | .window by_ addr bytes => .next (writeWindow by_ addr bytes s)
  | .ownership g e => .next (writeOwner g e s)
  | .accessTable t m parts rights => .next (writeTable t m parts rights s)
  | .copySlotClear k => .next (clearSlot k s)
  | .channelError x code => .next (failSector x code s)
  | .i3cRead => .next (readI3c s)
  | .breakpoint p addr word =>
    if debugOpen s p then
      .next (s.updPart p fun x =>
        { x with bps := if 256 ≤ x.bps.length then x.bps else (x.bps.filter fun e => e.1 != addr) ++ [(addr, word)] })
    else .next s
  | .clearBreakpoint p addr =>
    if debugOpen s p then .next (s.updPart p fun x => { x with bps := x.bps.filter fun e => e.1 != addr }) else .next s
  | .singleStep a on => match a with
    | .strand q .. =>
      if debugOpen s (pIdx (s.quads.get q).part) && !hidden (s.quads.get q) && (s.ctx a).st != .free then
        .next (s.updSpec a fun p => { p with sstep := on })
      else .next s
    | .hart .. | .weir _ | .cmd _ | .sec => .next s
  | .injector q v =>
    if (s.quads.get q).halt.debug && s.mg.allowDebug then .next (s.updQuad q fun x => { x with inj := v }) else .next s
  | .jobTable p base => .next (s.updPart p fun x => { x with jobBase := base })
  | .microcode p addr bytes =>
    let n := fresh s
    .next (n.2.updPart p fun x => { x with ucode := writeCells x.ucode addr bytes, measure := some (Config.freeDigest n.1) })
  | .powerGate q off => .next (gateQuad q off s)
  | .liveness p image recs => .next (s.updPart p fun x => { x with live := (x.live.filter fun e => e.1 != image) ++ [(image, recs)] })
  | .debugRead it => .next (debugRead it s)
  | .debugWrite it v => .next (debugWrite it v s)

end Sys2Proof.Machine
end

