-- ==== Sys2Proof/Machine/EvPart.lean ====
section
/-! DEFINITION. The replay-protected store, partition interfaces, the release sequence and IDE (spec/19, R388 to R399). -/

namespace Sys2Proof.Machine

/-- The partition that an event from outside names. -/
def namedPart (s : State) : Option (Fin 64) := s.md.req.part

/-! ## The replay-protected store (R399) -/

/-- The key of the store, which the identity of stage 2 gives (R397). -/
def storeKey (s : State) : BitVec 256 := match s.mg.identity with | some i => i.store | none => 0

/-- The flash takes a write to the store under a counter and a tag, and only with the next counter value (R399). -/
def flashWrite (ctr : Nat) (tag : BitVec 128) (f : Mgmt → Mgmt) (s : State) : State :=
  if ctr = s.mg.storeCtr + 1 then { s with mg := { f s.mg with storeCtr := ctr, storeTag := tag } } else s

/-- The security core commits a change of the store's items: the next counter value, with its tag under the store key (R399). -/
def storeCommit (f : Mgmt → Mgmt) (s : State) : State :=
  flashWrite (s.mg.storeCtr + 1) (Config.freeStoreTag (storeKey s) (s.mg.storeCtr + 1)) f s

/-! ## Partition interfaces -/

/-- The granules that a partition owns (R131, R392). -/
def ownedGranules (s : State) (p : Fin 64) : List Nat :=
  (s.mm.owners.filter fun e => ownV e.2 && ownPart e.2 == p.val).map fun e => e.1

/-- Every cell of the granules that `g` picks reads zero under their own key, and no copy of them is held (R390, R393, R395). -/
def zeroGranules (g : Nat → Bool) (s : State) : State :=
  let keep := fun (cs : List Host.Cell) => cs.filter fun c => !g (c.1 / 65536)
  { s with mm := { s.mm with
    mem := keep s.mm.mem, arr := keep s.mm.arr
    lines := s.mm.lines.filter fun l => !g (l.sector / 1024), poison := s.mm.poison.filter fun x => !g (x / 1024)
    altered := s.mm.altered.filter fun x => !g (x / 1024)
    foreign := s.mm.foreign.filter fun e => !g (e.1 / 1024) } }

/-- The free KEYID of lowest number (R395): no partition holds it and no granule names it (R393). -/
def freeKeyid (s : State) : Option (BitVec 6) :=
  ((List.range 64).drop 1).findSome? fun k =>
    if (s.parts.toList.any fun x => x.keyid.toNat == k) || s.mm.owners.any (fun e => ownV e.2 && ownKey e.2 == k) then none
    else some (BitVec.ofNat 6 k)

/-- An ownership entry with another KEYID (R392). -/
def withKey (k : Nat) (e : BitVec 16) : BitVec 16 := BitVec.ofNat 16 (e.toNat - ownKey e * 256 + k * 256)

/-- The OWNER registers of a partition's quads (R385). -/
def mapOwner (p : Fin 64) (f : BitVec 32 → BitVec 32) (s : State) : State :=
  let g := fun (x : Quad) => if x.part.toNat == p.val && x.owner.toNat % 2 == 1 then { x with owner := f x.owner } else x
  { s with quads := s.quads.each g }

/-- A key identifier takes a new key: what lies elsewhere under its old one can be read no more (R393). -/
def retireKey (k : Nat) (s : State) : State :=
  { s with mm := { s.mm with foreign := s.mm.foreign.map fun e => if e.2 == k then (e.1, 64) else e } }

/-- LOCK_INTERFACE (R388, R391, R395): a confidential UNLOCKED partition takes fresh keys and a free KEYID, its sequence numbers
start over, its granules are zeroed under the key, and it is LOCKED. -/
def execLockInterface (s : State) : Host.Outcome State Fault Refusal :=
  match namedPart s with
  | none => .next s
  | some p =>
    if (s.parts.get p).st != .unlocked || !partConf s p.val then .next s
    else match freeKeyid s with
      | none => .next s
      | some k =>
        let a := fresh s
        let b := fresh a.2
        let c := fresh b.2
        let own := ownedGranules s p
        let mem : BitVec 256 := Config.freeKey b.1 ++ Config.freeKey c.1
        let s1 := c.2.updPart p fun x => { x with st := .locked, keyid := k, meshKey := some (Config.freeKey a.1), memKey := some mem }
        let s2 := zeroGranules own.contains (retireKey k.toNat s1)
        let f := fun (e : Nat × BitVec 16) => if ownV e.2 && ownPart e.2 == p.val then (e.1, withKey k.toNat e.2) else e
        let s3 := { s2 with mm := { s2.mm with owners := s2.mm.owners.map f } }
        let s4 := { s3 with quads := s3.quads.each fun x => if quadPart x == some p then { x with seqs := [] } else x }
        .next (mapOwner p (fun o => BitVec.ofNat 32 (o.toNat - o.toNat / 256 % 64 * 256 + k.toNat * 256)) s4)

/-- START_INTERFACE (R388). -/
def execStartInterface (s : State) : Host.Outcome State Fault Refusal :=
  match namedPart s with
  | some p => if (s.parts.get p).st == .locked then .next (s.updPart p fun x => { x with st := .run, acked := false }) else .next s
  | none => .next s

/-- The queues of a partition are no longer pending. -/
def dropPending (p : Fin 64) (s : State) : State :=
  ((pendingQueues s).filter fun q => kftField s q 16 1 == p.val).foldl (fun t q => clearPending q t) s

/-- Step 1 of the release (R390): every queue of the partition is reset. -/
def resetQueues (p : Fin 64) (s : State) : State :=
  ((List.finRange 16).filter fun i => (s.slots.get i).st != .free && (s.slots.get i).part.toNat == p.val).foldl
    (fun t i => startReset i t) (dropPending p s)

/-- A release is recorded in the replay-protected store before its step 1 (R390). -/
def recordRelease (p : Fin 64) (s : State) : State :=
  if s.mg.release.contains p then s else storeCommit (fun g => { g with release := g.release ++ [p] }) s

/-- A release begins, or begins again after a reset (R390). An activation waits for the partition no more (R404). -/
def beginRelease (p : Fin 64) (s : State) : State :=
  let s2 := bootStandby ((recordRelease p s).updPart p fun x => { x with st := .releasing, releaseStep := 0 })
  let s3 := if (s2.parts.get p).line then releaseLine p (s2.updPart p fun x => { x with faults := [] }) else s2
  post (.releaseSequenceComplete p) (resetQueues p s3)

/-- STOP_INTERFACE (R388, R390). -/
def execStopInterface (s : State) : Host.Outcome State Fault Refusal :=
  match namedPart s with
  | none => .next s
  | some p =>
    let st := (s.parts.get p).st
    if st == .locked || st == .run || st == .error then .next (beginRelease p s) else .next s

/-- Step 1 is complete: every slot of the partition is FREE or IDLE and none of its launches is left. -/
def queuesReset (s : State) (p : Fin 64) : Bool :=
  (s.slots.toList.all fun x => x.part.toNat != p.val || x.st == .free || x.st == .idle) &&
    !s.launches.any fun l => l.part.toNat == p.val

/-- Step 2 on one quad (R386, R390): copies and translations gone, the quad scrubbed, VALID kept and CONF, DCONSENT and
KEYID cleared. -/
def releaseQuad (s : State) (q : Fin 64) : State :=
  (flushQuad q s).updQuad q fun x =>
    let y := scrubQuad x
    { y with tlb := [], cores := y.cores.each (fun z => { z with tlb := [] }), owner := x.owner &&& 0xFFFF0001, seqs := [] }

/-- Steps 3 and 4 (R390): granules zeroed and given up, keys erased, key slots revoked, and the store's record gone. The partition is
then UNLOCKED. -/
def releaseMemory (p : Fin 64) (s : State) : State :=
  let own := ownedGranules s p
  let s1 := zeroGranules own.contains s
  let s2 := { s1 with mm := { s1.mm with owners := s1.mm.owners.filter fun e => !own.contains e.1 } }
  let clear := fun (k : KeySlot) => if k.grant == some p then { key := 0, salt := 0, grant := none } else k
  let s3 := { s2 with mg := { s2.mg with slots := s2.mg.slots.each clear } }
  let s4 := storeCommit (fun g => { g with release := g.release.filter fun x => x != p }) s3
  s4.updPart p fun x => { x with st := .unlocked, keyid := 0, meshKey := none, memKey := none, releaseStep := 0, acked := false }

/-- RELEASE_SEQUENCE_COMPLETE (R390): once step 1 is complete a quad may be moved out; the partition's own quads are then
scrubbed once no message of theirs is on its way, and its memory, keys and key slots given up. -/
def execReleaseSequenceComplete (part : Fin 64) (s : State) : Host.Outcome State Fault Refusal :=
  let x := s.parts.get part
  if x.st != .releasing || !queuesReset s part then .next s
  else if x.releaseStep = 0 then
    .next (post (.releaseSequenceComplete part) (s.updPart part fun x => { x with releaseStep := 1 }))
  else
    let qs := s.partQuads (BitVec.ofNat 8 part.val)
    if qs.any fun q => quadTraffic s q || quadBusy s q || (s.quads.get q).scrubbing then .next s
    else .next (releaseMemory part (qs.foldl releaseQuad s))

/-! ## IDE (R395) -/

/-- IDE_INTEGRITY_FAILURE (R395): every TDI bound to the stream is in ERROR. -/
def execIdeIntegrityFailure (s : State) : Host.Outcome State Fault Refusal :=
  let ps := (s.mg.ide.filter fun e => e.1 == s.md.req.stream).flatMap fun e => e.2.2
  .next (ps.foldl (fun t p => enterError p t) s)

end Sys2Proof.Machine
end

