-- ==== Sys2Proof/Machine/EvSpdm.lean ====
section
/-! DEFINITION. The SPDM responder, certificate slots, copy-in keys, consent, and updates of the firmware (spec/19, R396 to
R405; log 14). -/

namespace Sys2Proof.Machine

/-- An answer of the responder. -/
def say (a : SpdmAnswer) (s : State) : State := { s with mg := { s.mg with answers := s.mg.answers ++ [a] } }

def sayError (s : State) : State := say .error s

/-- An answer whose contents the spec does not lay out (log 14). -/
def sayFree (s : State) : State :=
  let n := fresh s
  say (.ok [Config.freeAnswer n.1]) n.2

/-- A digest as words. -/
def digestWords (d : BitVec 384) : List Word := (List.range 6).map fun i => wd (d.toNat / 2 ^ (64 * i))

/-- The session of the request, when it is complete. -/
def session (s : State) : Option Session := s.mg.sessions.find? fun x => x.num == s.md.req.session && x.finished

/-- The tenant's partition of the request's session. -/
def tenant (s : State) : Option (Fin 64) := (session s).bind fun x => x.tenant

/-- The session that the configuration names as owner (R403, R404): a complete one that is no tenant's. -/
def ownerSession (s : State) : Bool :=
  s.mg.certOwner && match session s with | some x => x.tenant.isNone | none => false

/-- The index of the next signature by the attestation key (R400): the end of its run of 1,024 is committed to the store before it is
used; none past 2^40. -/
def sign (s : State) : Option (Nat × State) :=
  let n := s.mg.xmssNext
  if 2 ^ 40 ≤ n then none
  else
    let s1 := if s.mg.xmssEnd ≤ n then storeCommit (fun g => { g with xmssEnd := n + 1024 }) s else s
    some (n, { s1 with mg := { s1.mg with xmssNext := n + 1 } })

/-! ## Plain requests (R402) -/

/-- GET_VERSION (R402): SPDM 1.2 and 1.3. -/
def execGetVersion (s : State) : Host.Outcome State Fault Refusal := .next (say (.versions [(1, 2), (1, 3)]) s)

/-- GET_CAPABILITIES (R402): the requests that the responder offers. -/
def execGetCapabilities (s : State) : Host.Outcome State Fault Refusal :=
  .next (say (.capabilities
    [.getVersion, .getCapabilities, .negotiateAlgorithms, .getDigests, .getCertificate, .challenge, .getMeasurements,
     .keyExchange, .finish, .heartbeat, .keyUpdate, .endSession, .setCertificate, .vendorDefined]) s)

/-- NEGOTIATE_ALGORITHMS (R402): base hash SHA3-384; XMSS^MT as an extended asymmetric algorithm. -/
def execNegotiateAlgorithms (s : State) : Host.Outcome State Fault Refusal := .next (say (.algorithms .sha3_384 .xmssMt) s)

/-- GET_DIGESTS (R402, R399): the certificate slots' digests. -/
def execGetDigests (s : State) : Host.Outcome State Fault Refusal :=
  .next (say (.ok (s.mg.certDigest.toList.flatMap digestWords)) s)

/-! ## Certificates (R403) -/

/-- GET_CERTIFICATE (R403): a sequence starts at offset 0; a chunk that arrives after a rewrite is an error. -/
def execGetCertificate (s : State) : Host.Outcome State Fault Refusal :=
  let q := s.md.req
  let ep := (s.mg.certs.get q.cert).epoch
  let rest := s.mg.reading.filter fun e => !(e.1 == q.port && e.2.1 == q.cert)
  if q.offset = 0 then .next (sayFree { s with mg := { s.mg with reading := rest ++ [(q.port, q.cert, ep)] } })
  else if s.mg.reading.contains (q.port, q.cert, ep) then .next (sayFree s)
  else .next (sayError { s with mg := { s.mg with reading := rest } })

/-- A certificate slot's chain replaced, and its digest in the store (R399). -/
def rewriteCert (k : Fin 8) (chain : Nat) (s : State) : State :=
  let c := s.mg.certs.get k
  storeCommit (fun g => { g with
    certs := g.certs.set k.val { c with chain := chain, epoch := c.epoch + 1, rewrite := none } k.isLt
    certDigest := g.certDigest.set k.val (Config.freeDigest chain) k.isLt }) s

def updCert (k : Fin 8) (f : CertSlot → CertSlot) (s : State) : State :=
  { s with mg := { s.mg with certs := s.mg.certs.set k.val (f (s.mg.certs.get k)) k.isLt } }

/-- A signed response for a certificate slot (R400, R403): asked for, it is pending with the index of its signature; `req.on` is the
moment at which the oldest one is sent (log 14). A waiting rewrite follows the last one. -/
def signedAnswer (words : List Word) (s : State) : State :=
  let k := s.md.req.cert
  if !s.md.req.on then
    match sign s with
    | none => sayError s
    | some (n, s1) => updCert k (fun c => { c with pending := c.pending ++ [(n, words)] }) s1
  else
    let c := s.mg.certs.get k
    match c.pending with
    | [] => sayError s
    | (n, ws) :: rest =>
      let s1 := updCert k (fun c => { c with pending := rest }) (say (.ok (ws ++ [Config.freeSignature n])) s)
      match rest, c.rewrite with
      | [], some ch => rewriteCert k ch s1
      | _, _ => s1

/-- CHALLENGE (R402, R403). -/
def execChallenge (s : State) : Host.Outcome State Fault Refusal := .next (signedAnswer [] s)

/-- The measurements of an index (R401): each partition's microcode at 6. -/
def measureOf (s : State) (i : Nat) : List Word :=
  if i = 6 then s.parts.toList.flatMap fun p => match p.measure with | some d => digestWords d | none => []
  else match (s.mg.measures.toList[i]?).join with
    | some d => digestWords d
    | none => []

/-- TENANT and CONF of a partition (R402). -/
def tenantWords (s : State) (p : Fin 64) : List Word :=
  match s.partQuads (BitVec.ofNat 8 p.val) with
  | q :: _ => let o := (s.quads.get q).owner; [wd (o.toNat / 65536), wd (o.toNat / 2 % 2)]
  | [] => [0, 0]

/-- GET_MEASUREMENTS (R401, R402): in a tenant's session with the TENANT and CONF of its partition. -/
def execGetMeasurements (s : State) : Host.Outcome State Fault Refusal :=
  .next (signedAnswer (measureOf s s.md.req.index ++ match tenant s with | some p => tenantWords s p | none => []) s)

/-- SET_CERTIFICATE (R403): slots 1 to 7, from the owner's session; it waits for the slot's pending responses. -/
def execSetCertificate (s : State) : Host.Outcome State Fault Refusal :=
  let q := s.md.req
  if q.cert = 0 || !ownerSession s then .next (sayError s)
  else if (s.mg.certs.get q.cert).pending.isEmpty then .next (say (.ok []) (rewriteCert q.cert q.chain s))
  else .next (say (.ok []) (updCert q.cert (fun c => { c with rewrite := some q.chain, since := s.ctc }) s))

def sayErrors : Nat → State → State
  | 0, s => s
  | n + 1, s => sayErrors n (sayError s)

/-- A rewrite has waited 50 ms. -/
def rewriteDue (s : State) (k : Fin 8) : Bool :=
  let c := s.mg.certs.get k
  c.rewrite.isSome && decide (c.since.toNat + 50000000 ≤ s.ctc.toNat)

/-- CERT_REWRITE_TIMEOUT (R403): 50 ms after the rewrite arrived, unsent responses are abandoned and it proceeds. -/
def execCertRewriteTimeout (s : State) : Host.Outcome State Fault Refusal :=
  let k := s.md.req.cert
  let c := s.mg.certs.get k
  match c.rewrite with
  | none => .next s
  | some ch =>
    if !rewriteDue s k then .next s
    else .next (rewriteCert k ch (updCert k (fun c => { c with pending := [] }) (sayErrors c.pending.length s)))

/-! ## Sessions (R402) -/

/-- KEY_EXCHANGE (R402): a session opens, for the port or for a TDI's tenant. -/
def execKeyExchange (s : State) : Host.Outcome State Fault Refusal :=
  match sign s with
  | none => .next (sayError s)
  | some (i, s1) =>
    let n := (s.mg.sessions.map fun x => x.num).foldl max 0 + 1
    let x : Session := { num := n, tenant := s.md.req.part, finished := false, keyGen := 0 }
    .next (say (.ok [wd n, Config.freeSignature i]) { s1 with mg := { s1.mg with sessions := s1.mg.sessions ++ [x] } })

/-- A change to the request's session, or an error when there is none that `p` picks. -/
def onSession (p : Session → Bool) (f : Session → Option Session) (s : State) : State :=
  let g := fun (x : Session) => if x.num == s.md.req.session then f x else some x
  if s.mg.sessions.any fun x => x.num == s.md.req.session && p x then
    say (.ok []) { s with mg := { s.mg with sessions := s.mg.sessions.filterMap g } }
  else sayError s

/-- FINISH (R402). -/
def execFinish (s : State) : Host.Outcome State Fault Refusal :=
  .next (onSession (fun x => !x.finished) (fun x => some { x with finished := true }) s)

/-- HEARTBEAT (R402). -/
def execHeartbeat (s : State) : Host.Outcome State Fault Refusal :=
  .next (onSession (fun x => x.finished) (fun x => some x) s)

/-- KEY_UPDATE (R402). -/
def execKeyUpdate (s : State) : Host.Outcome State Fault Refusal :=
  .next (onSession (fun x => x.finished) (fun x => some { x with keyGen := x.keyGen + 1 }) s)

/-- END_SESSION (R402). -/
def execEndSession (s : State) : Host.Outcome State Fault Refusal :=
  .next (onSession (fun x => x.finished) (fun _ => none) s)

/-! ## Vendor-defined requests (R396, R402, R404) -/

/-- SET_COPY_KEY (R396): from a tenant whose partition is LOCKED or RUN, for a slot that is free or its own; a zero key
clears it. -/
def execSetCopyKey (s : State) : Host.Outcome State Fault Refusal :=
  let q := s.md.req
  match tenant s with
  | none => .next (sayError s)
  | some p =>
    let g := (s.mg.slots.get q.keySlot).grant
    if !isFrozen s p || (g.isSome && g != some p) then .next (sayError s)
    else
      let k : BitVec 128 := BitVec.ofNat 128 q.key.toNat
      let v : KeySlot := if k == 0 then { key := 0, salt := 0, grant := none } else { key := k, salt := q.salt, grant := some p }
      .next (say (.ok []) { s with mg := { s.mg with slots := s.mg.slots.set q.keySlot.val v q.keySlot.isLt } })

/-- SET_DEBUG_CONSENT (R402): DCONSENT of the tenant's partition, where the configuration allows it. -/
def execSetDebugConsent (s : State) : Host.Outcome State Fault Refusal :=
  match tenant s with
  | none => .next (sayError s)
  | some p =>
    if !s.mg.allowDebug then .next (sayError s)
    else .next (say (.ok []) (mapOwner p (fun o => if s.md.req.on then o ||| 4 else o &&& 0xFFFFFFFB) s))

/-- IDE_KEY_MANAGEMENT (R395): the key of a stream, and a TDI that is bound to it beside those that are. -/
def execIdeKeyManagement (s : State) : Host.Outcome State Fault Refusal :=
  let q := s.md.req
  if (session s).isNone then .next (sayError s)
  else
    let old := match s.mg.ide.find? fun e => e.1 == q.stream with | some e => e.2.2 | none => []
    let new := match q.part with | some p => if old.contains p then old else old ++ [p] | none => old
    .next (say (.ok []) { s with mg := { s.mg with ide := (s.mg.ide.filter fun e => e.1 != q.stream) ++ [(q.stream, q.key, new)] } })

/-! ## Staged and live update (R404, R405) -/

def cmdIndex : Fin 8 := 3
def stagedIndex : Fin 8 := 7

def setMeasure (i : Fin 8) (d : Option (BitVec 384)) (s : State) : State :=
  { s with mg := { s.mg with measures := s.mg.measures.set i.val d i.isLt } }

def setFlash (im : FwImage) (s : State) : State := { s with mg := { s.mg with flash := s.mg.flash.set im.comp.val im im.comp.isLt } }

/-- Components whose firmware carries an SVN counter and can be replaced (R401). -/
def updatable : List (Fin 8) := [2, 3, 4, 5]

/-- An image is signed with XMSS-SHAKE256_20_256, under a key of the ROM or of the configuration, and the signature verifies (R398). -/
def verified (s : State) (im : FwImage) : Bool :=
  im.sig.param == Config.xmssParam && (s.mg.romKeys ++ s.mg.blobKeys).contains im.sig.key && im.sig.verifies

/-- An image's SVN is below its component's counter (R401). -/
def rolledBack (s : State) (im : FwImage) : Bool := decide (im.svn.toNat < (s.mg.svn.get im.comp).toNat)

/-- A component's counter raised to its image's SVN (R405). -/
def raiseSvn (im : FwImage) (s : State) : State :=
  if decide ((s.mg.svn.get im.comp).toNat < im.svn.toNat) then
    storeCommit (fun g => { g with svn := g.svn.set im.comp.val im.svn im.comp.isLt }) s
  else s

/-- Every partition's acknowledgement is forgotten. -/
def clearAcks (s : State) : State := { s with parts := s.parts.each fun p => { p with acked := false } }

/-- STAGE_UPDATE (R404): an image whose signature fails or whose SVN is below its counter is refused (R401); staging changes
nothing that runs. Index 7 measures the firmware of the command complexes; that of another component waits for the next reset
(R405). -/
def execStageUpdate (s : State) : Host.Outcome State Fault Refusal :=
  let im := s.md.req.image
  if !updatable.contains im.comp || !verified s im || rolledBack s im then .next (sayError s)
  else if im.comp == cmdIndex then .next (say (.ok []) (clearAcks (setMeasure stagedIndex (some (Config.freeDigest im.number))
    (setUpdate (fun u => { u with staged := some im, wanted := false, reading := false }) s))))
  else .next (say (.ok []) (setUpdate (fun u => { u with others := (u.others.filter fun x => x.comp != im.comp) ++ [im] }) s))

/-- ACTIVATION_REQUEST (R404): the configuration's owner requests activation, or withdraws the request. -/
def execActivationRequest (s : State) : Host.Outcome State Fault Refusal :=
  if !ownerSession s || s.mg.update.staged.isNone then .next (sayError s)
  else .next (bootStandby (say (.ok []) (setUpdate (fun u => { u with wanted := s.md.req.on, reading := false }) s)))

/-- ACKNOWLEDGE_STAGED (R404): a partition in RUN acknowledges the staged measurement in its own session. -/
def execAcknowledgeStaged (s : State) : Host.Outcome State Fault Refusal :=
  match tenant s with
  | none => .next (sayError s)
  | some p =>
    if (s.parts.get p).st != .run || s.mg.update.staged.isNone then .next (sayError s)
    else .next (bootStandby (say (.ok []) (s.updPart p fun x => { x with acked := true })))

/-- The command complex that has a role. -/
def cmdWith (s : State) (r : CmdRole) : Option (Fin 2) := (List.finRange 2).find? fun i => (s.cmds.get i).role == r

def updCmd (i : Fin 2) (f : CmdCore → CmdCore) (s : State) : State :=
  { s with cmds := s.cmds.set i.val (f (s.cmds.get i)) i.isLt }

/-- Every mapped slot stands at a quiescent packet boundary (R405, step 3). -/
def quiescent (s : State) : Bool :=
  (s.slots.toList.all fun x => !x.q.loop.active && x.q.ib.isEmpty && x.st != .unmapping && (x.waitSector.isNone || x.st == .waiting)) &&
  !(s.md.inflight.any fun e => match e with | .sctlMap .. | .sctlUnmap _ | .unmapComplete _ => true | _ => false) &&
  s.parts.toList.all fun p => !p.walking || p.faults.isEmpty || !p.toStop.isEmpty

/-- What waited for firmware is taken up again: pending kicks and containment walks (R330, R370). -/
def resumeFirmware (s : State) : State :=
  serveKicks (postAll (((List.finRange 64).filter fun p => (s.parts.get p).walking).map Instr.containmentWalk) s)

/-- A command complex boots a firmware. -/
def bootCmd (role : CmdRole) (fw : Nat) (_ : CmdCore) : CmdCore := { Init.cmdCore with role := role, fw := fw }

/-- LIVE_UPDATE_TAKEOVER (R405): B takes over the command window, the interrupt and the slots; the counter of index 3 is
raised, index 3 takes the new measurement, A reboots as standby. A state table that B cannot read aborts the update. An activation
that nothing holds up any more (R404) first lets B boot. -/
def execLiveUpdateTakeover (s : State) : Host.Outcome State Fault Refusal :=
  match s.mg.update.staged, cmdWith s .active, cmdWith s .standby with
  | some im, some a, some b =>
    if !s.mg.update.reading || !activationReady s then .next (bootStandby s)
    else if im.version != Config.tableVersion then .next (setUpdate (fun u => { u with wanted := false, reading := false }) s)
    else if !quiescent s then .next s
    else
      let s1 := updCmd a (bootCmd .standby im.number) (updCmd b (bootCmd .active im.number) s)
      let s2 := setMeasure stagedIndex none (setMeasure cmdIndex (some (Config.freeDigest im.number)) s1)
      let s3 := setUpdate (fun u => { u with staged := none, wanted := false, reading := false }) (clearAcks s2)
      .next (resumeFirmware (setFlash im (raiseSvn im s3)))
  | _, _, _ => .next s

/-- STANDBY_FAILURE (R405): B fails before it takes over; A goes on with nothing lost. -/
def execStandbyFailure (s : State) : Host.Outcome State Fault Refusal :=
  match cmdWith s .standby with
  | some b => .next (setUpdate (fun u => { u with wanted := false, reading := false }) (updCmd b (fun c => { c with role := .failed }) s))
  | none => .next s

/-- COMMAND_COMPLEX_FAILURE (R11): the active complex fails; the data plane runs on. -/
def execCommandComplexFailure (s : State) : Host.Outcome State Fault Refusal :=
  match cmdWith s .active with
  | some a => .next (updCmd a (fun c => { c with role := .failed, ctx := { c.ctx with st := .parked, why := none } }) s)
  | none => .next s

end Sys2Proof.Machine
end

