-- ==== Sys2Proof/Machine/EvReset.lean ====
section
/-! DEFINITION. The resets and the boot stages (spec/21, R418, R419; log 25). -/

namespace Sys2Proof.Machine

/-- A certificate rewrite that was waiting is made; no response is pending any more (R403). -/
def keptCert (c : CertSlot) : CertSlot := { c with pending := [], chain := c.rewrite.getD c.chain, rewrite := none }

/-- The store, the flash and the configuration outlive a reset (R398 to R401, R404, R416); so does what a warm reset keeps of the
security core: its identity and its measurements (R418). -/
def keptMgmt (cold : Bool) (g : Mgmt) : Mgmt :=
  { Init.mgmt with
    xmssNext := max g.xmssNext g.xmssEnd, xmssEnd := max g.xmssNext g.xmssEnd, svn := g.svn, release := g.release
    certDigest := Vector.ofFn fun k => match (g.certs.get k).rewrite with | some c => Config.freeDigest c | none => g.certDigest.get k
    storeCtr := g.storeCtr, storeTag := g.storeTag, flash := g.flash, romKeys := g.romKeys, blobKeys := g.blobKeys
    unsigned := g.unsigned, certs := g.certs.each keptCert
    update := { staged := g.update.staged, others := g.update.others, wanted := false, reading := false }
    certOwner := g.certOwner, allowDebug := g.allowDebug, envelope := g.envelope
    identity := if cold then none else g.identity
    measures := if cold then Vector.replicate 8 none else (g.measures.set 3 none).set 7 none }

/-- Every register at its reset value. The memory of the host keeps what has reached it; device memory is written with zeros
at stage 6 (R419). -/
def clearMachine (cold : Bool) (s : State) : State :=
  let hostOnly := s.mm.arr.filter fun c => target s c.1 == .host
  { State.reset with
    mm := { Init.store with mem := hostOnly, arr := hostOnly, hdmBase := s.mm.hdmBase
                            poison := s.mm.poison.filter fun x => target s (64 * x) == .host }
    sec := if cold then Init.cmdCore else s.sec
    cmds := s.cmds.each fun c => { Init.cmdCore with fw := c.fw }
    mg := keptMgmt cold s.mg
    md := { s.md with inflight := [], who := .sec } }

/-- A component is measured at its index from its image in flash, before it runs (R401). -/
def measure (i : Fin 8) (s : State) : State := setMeasure i (some (Config.freeDigest (s.mg.flash.get i).number)) s

/-- Firmware starts: the command complexes with the firmware in flash and its measurement (R401, R405), and releases that a
reset interrupted (R390). -/
def startFirmware (s : State) : State :=
  let fw := (s.mg.flash.get cmdIndex).number
  let s1 := measure cmdIndex s
  let s2 := match s1.mg.update.staged with
    | some im => setMeasure stagedIndex (some (Config.freeDigest im.number)) s1
    | none => s1
  let s3 := updCmd 0 (bootCmd .active fw) (updCmd 1 (bootCmd .standby fw) s2)
  s3.mg.release.foldl (fun t p => beginRelease p t) s3

/-- The link trains on its two modules, or on one at half the rate when the event says that a single one fails, whose number
BOOTSTAT.DETAIL reports (R408, R415). -/
def trainLink (s : State) : State :=
  let r := s.md.req
  let one := r.index == 10
  { s with mg := { s.mg with linkUp := if one then 1 else 2, bootDetail := if one then r.offset % 16 else s.mg.bootDetail } }

/-- Staged firmware of the components other than the command complexes is in force from the reset on (R405). -/
def activateOthers (s : State) : State := s.mg.update.others.foldl (fun t im => setFlash im t) s

/-- The counters of the firmware that a reset activated are raised (R405). -/
def raiseOthers (s : State) : State :=
  setUpdate (fun u => { u with others := [] }) (s.mg.update.others.foldl (fun t im => raiseSvn im t) s)

/-- ERR of an image that stage 3 or 8 refuses: its signature fails, or its SVN is below its counter (R401, R415). -/
def imageError (s : State) (i : Fin 8) : Option Nat :=
  let im := s.mg.flash.get i
  if !verified s im then some 2 else if rolledBack s im then some 3 else none

/-- The components that stage 3 verifies and measures (R419): security core firmware, configuration blob, power controller
firmware. -/
def stage3 : List (Fin 8) := [2, 4, 5]

/-- Quads that pass the self-test are enabled, with their map the identity; those past what the envelope keeps awake are gated
(R416, R419). The event names those that fail, or that the fuses exclude (R415). -/
def selfTest (s : State) : State :=
  let fails := s.md.req.key
  let pass := fun (i : Fin 64) => !fails.getLsbD i.val
  let before := fun (i : Fin 64) => ((List.finRange 64).filter fun j => decide (j.val < i.val) && pass j).length
  let max := envelopeQuads s
  let f := fun (i : Fin 64) =>
    let x := s.quads.get i
    { x with enabled := pass i, power := if pass i && decide (max ≤ before i) then Power.gated else x.power }
  { s with quads := Vector.ofFn f }

/-- What stage `n` does (R419). -/
def bootStage (n : Nat) (s : State) : State :=
  match n with
  | 1 => measure 1 { s with sec := { s.sec with role := .active } }
  | 2 =>
    let id : Secrets := { attest := Config.freeIdentity 0, store := Config.freeIdentity 1, wrap := Config.freeIdentity 2 }
    { s with mg := { s.mg with identity := if s.md.req.index == 2 then none else some id } }
  | 3 => activateOthers s
  | 4 => { s with clock := topClock s }
  | 6 =>
    let a := fresh s
    let b := fresh a.2
    { b.2 with mg := { b.2.mg with key0 := Config.freeKey a.1 ++ Config.freeKey b.1 } }
  | 7 => selfTest s
  | _ => s

/-- ERR and DETAIL of a boot that stops at stage `n`, once the stage has done what it does (R419, R415): a PUF reading that cannot be
corrected, an image refused, a channel that fails to train, too few quads, or no module of the link. -/
def stageError (n : Nat) (s : State) : Option (Nat × Nat) :=
  let r := s.md.req
  match n with
  | 2 => if s.mg.identity.isNone then some (1, 0) else none
  | 3 => (stage3.findSome? (imageError s)).map fun e => (e, 0)
  | 5 => if r.index == 5 then some (4, r.offset % 16) else none
  | 7 => if (s.quads.toList.filter fun x => x.enabled).length < envelopeQuads s then some (6, 0) else none
  | 8 => (imageError s cmdIndex).map fun e => (e, 0)
  | 9 => if r.index == 9 then some (5, r.offset % 16) else none
  | _ => none

/-- What follows stage `n` when it has not failed (R401, R405, R419): what it verified is measured, counters rise, firmware starts,
the link is up. -/
def stagePassed (n : Nat) (s : State) : State :=
  match n with
  | 3 => raiseOthers (stage3.foldl (fun t i => measure i t) s)
  | 8 => startFirmware s
  | 9 => trainLink s
  | _ => s

/-- The stages in order, up to one that fails, which is also reported on I3C (R419). -/
def runStages : List Nat → State → State
  | [], s => s
  | n :: t, s =>
    let s1 := bootStage n { s with mg := { s.mg with bootStage := n } }
    match stageError n s1 with
    | some e => { s1 with mg := { s1.mg with bootErr := e.1, bootDetail := e.2, i3cFailure := some e } }
    | none => runStages t (stagePassed n s1)

/-- What the flash holds when a boot starts: as it was left, or with the image that the event finds in it at index 3 or 8 (R401). -/
def bootFlash (s : State) : State := if [3, 8].contains s.md.req.index then setFlash s.md.req.image s else s

/-- COLD_RESET (R418): every stage. -/
def execColdReset (s : State) : Host.Outcome State Fault Refusal :=
  .next (runStages [1, 2, 3, 4, 5, 6, 7, 8, 9] (bootFlash (clearMachine true s)))

/-- WARM_RESET (R418): the PUF reading and the memory training are kept. -/
def execWarmReset (s : State) : Host.Outcome State Fault Refusal :=
  .next (runStages [4, 6, 7, 8, 9] (bootFlash (clearMachine false s)))

/-- LINK_RESET (R408, R418): only the link retrains; a host request in flight gets no data, and the page requests that the host
has still to answer stay. -/
def execLinkReset (s : State) : Host.Outcome State Fault Refusal :=
  .next (trainLink { s with mg := { s.mg with hostAnswer := [] } })

end Sys2Proof.Machine
end

