-- ==== Sys2Proof/Machine/Scalar.lean ====
section
/-! DEFINITION. The integer and scalar floating-point forms: majors 0x00 to 0x0C (spec/07, R181 to R194). -/

namespace Sys2Proof.Machine

/-! ## The shared forms -/

/-- dst := f(x, y) with both sources read (R183). -/
def alu2 (d : Dst) (a b : Src) (f : Word → Word → Word) (ag : Agent) : Act := fun s => do
  let x ← readSrc s ag a
  let y ← readSrc s ag b
  .ok (writeDst s ag d (f x y))

/-- dst := f(x) with one source read (R186 to R190). -/
def alu1 (d : Dst) (a : Src) (f : Word → Word) (ag : Agent) : Act := fun s => do
  let x ← readSrc s ag a
  .ok (writeDst s ag d (f x))

/-- A long-latency dst := f(x, y) (R184). -/
def long2 (d : Dst) (a b : Src) (la : Fin 16) (f : Word → Word → Word) (ag : Agent) : Act := fun s => do
  let x ← readSrc s ag a
  let y ← readSrc s ag b
  .ok (longResult s ag la.val d (f x y) 0)

/-- A scalar float form of two sources: its result, and its flags at commit (R191, R193). -/
def fpuForm2 (d : Dst) (a b : Src) (f : RM → Word → Word → Word × Flags) (ag : Agent) : Act := fun s => do
  let x ← readSrc s ag a
  let y ← readSrc s ag b
  let r := f (rmOf s ag) x y
  .ok (raiseFlags ag r.2 (writeDst s ag d r.1))

def fpuForm1 (d : Dst) (a : Src) (f : RM → Word → Word × Flags) (ag : Agent) : Act := fun s => do
  let x ← readSrc s ag a
  let r := f (rmOf s ag) x
  .ok (raiseFlags ag r.2 (writeDst s ag d r.1))

/-- The low six bits of a shift operand (R183). -/
def shamt (y : Word) : Nat := y.toNat % 64

/-- mulh (R184): bits [127:64] of the signed product. -/
def mulhs (x y : Word) : Word := wd (wrap 128 (x.toInt * y.toInt) / 2 ^ 64)

/-- mulhu (R184). -/
def mulhu (x y : Word) : Word := wd (x.toNat * y.toNat / 2 ^ 64)

/-- Signed division (R184, R185): truncated toward zero; all ones for a zero divisor; -2^63 / -1 wraps. -/
def divS (x y : Word) : Word := if y == 0 then -1 else wd (wrap 64 (x.toInt.tdiv y.toInt))

/-- Unsigned division (R184, R185). -/
def divU (x y : Word) : Word := if y == 0 then -1 else wd (x.toNat / y.toNat)

/-- Signed remainder (R184, R185): x for a zero divisor. -/
def remS (x y : Word) : Word := if y == 0 then x else wd (wrap 64 (x.toInt.tmod y.toInt))

/-- Unsigned remainder (R184, R185). -/
def remU (x y : Word) : Word := if y == 0 then x else wd (x.toNat % y.toNat)

/-- sext of a 15-bit immediate, and its zext for ori (R186). -/
def imm15 (i : BitVec 15) : Word := sext 15 i.toNat
def zimm15 (i : BitVec 15) : Word := wd i.toNat

/-- x[pos + len - 1 : pos] (R190). -/
def bitsOf (x : Word) (pos len1 : BitVec 6) : Nat := x.toNat / 2 ^ pos.toNat % 2 ^ (len1.toNat + 1)

/-- `old` with bits [pos + len - 1 : pos] replaced by the low bits of x (R190). -/
def insertBits (old x : Word) (pos len1 : BitVec 6) : Word :=
  let n := 2 ^ (len1.toNat + 1)
  wd (old.toNat - bitsOf old pos len1 * 2 ^ pos.toNat + x.toNat % n * 2 ^ pos.toNat)

/-! ## alu (R183) -/

/-- alu (R183): dst := x + y modulo 2^64. -/
def execAluAdd (d : Dst) (a b : Src) (s : State) : Host.Outcome State Fault Refusal :=
  perform (.aluAdd d a b) (alu2 d a b (fun x y => x + y)) s

/-- alu (R183): dst := x - y modulo 2^64. -/
def execAluSub (d : Dst) (a b : Src) (s : State) : Host.Outcome State Fault Refusal :=
  perform (.aluSub d a b) (alu2 d a b (fun x y => x - y)) s

/-- alu (R183): dst := bitwise and. -/
def execAluAnd (d : Dst) (a b : Src) (s : State) : Host.Outcome State Fault Refusal :=
  perform (.aluAnd d a b) (alu2 d a b (fun x y => x &&& y)) s

/-- alu (R183): dst := bitwise or. -/
def execAluOr (d : Dst) (a b : Src) (s : State) : Host.Outcome State Fault Refusal :=
  perform (.aluOr d a b) (alu2 d a b (fun x y => x ||| y)) s

/-- alu (R183): dst := bitwise exclusive or. -/
def execAluXor (d : Dst) (a b : Src) (s : State) : Host.Outcome State Fault Refusal :=
  perform (.aluXor d a b) (alu2 d a b (fun x y => x ^^^ y)) s

/-- alu (R183): dst := x shifted left by y[5:0]. -/
def execAluSll (d : Dst) (a b : Src) (s : State) : Host.Outcome State Fault Refusal :=
  perform (.aluSll d a b) (alu2 d a b (fun x y => x <<< shamt y)) s

/-- alu (R183): dst := x shifted right by y[5:0], zeros in. -/
def execAluSrl (d : Dst) (a b : Src) (s : State) : Host.Outcome State Fault Refusal :=
  perform (.aluSrl d a b) (alu2 d a b (fun x y => x >>> shamt y)) s

/-- alu (R183): dst := x shifted right by y[5:0], copies of x[63] in. -/
def execAluSra (d : Dst) (a b : Src) (s : State) : Host.Outcome State Fault Refusal :=
  perform (.aluSra d a b) (alu2 d a b (fun x y => x.sshiftRight (shamt y))) s

/-- alu (R183): dst := 1 if x < y as signed. -/
def execAluSlt (d : Dst) (a b : Src) (s : State) : Host.Outcome State Fault Refusal :=
  perform (.aluSlt d a b) (alu2 d a b (fun x y => if x.slt y then 1 else 0)) s

/-- alu (R183): dst := 1 if x < y as unsigned. -/
def execAluSltu (d : Dst) (a b : Src) (s : State) : Host.Outcome State Fault Refusal :=
  perform (.aluSltu d a b) (alu2 d a b (fun x y => if x.ult y then 1 else 0)) s

/-- alu (R183): dst := the smaller as signed. -/
def execAluMin (d : Dst) (a b : Src) (s : State) : Host.Outcome State Fault Refusal :=
  perform (.aluMin d a b) (alu2 d a b (fun x y => if x.slt y then x else y)) s

/-- alu (R183): dst := the larger as signed. -/
def execAluMax (d : Dst) (a b : Src) (s : State) : Host.Outcome State Fault Refusal :=
  perform (.aluMax d a b) (alu2 d a b (fun x y => if x.slt y then y else x)) s

/-- alu (R183): dst := the smaller as unsigned. -/
def execAluMinu (d : Dst) (a b : Src) (s : State) : Host.Outcome State Fault Refusal :=
  perform (.aluMinu d a b) (alu2 d a b (fun x y => if x.ult y then x else y)) s

/-- alu (R183): dst := the larger as unsigned. -/
def execAluMaxu (d : Dst) (a b : Src) (s : State) : Host.Outcome State Fault Refusal :=
  perform (.aluMaxu d a b) (alu2 d a b (fun x y => if x.ult y then y else x)) s

/-! ## mul (R184, R185) -/

/-- mul (R184, R185): dst := the low 64 bits of the product. -/
def execMulMul (d : Dst) (a b : Src) (la : Fin 16) (s : State) : Host.Outcome State Fault Refusal :=
  perform (.mulMul d a b la) (long2 d a b la (fun x y => x * y)) s

/-- mul (R184, R185): dst := the high 64 bits of the signed product. -/
def execMulMulh (d : Dst) (a b : Src) (la : Fin 16) (s : State) : Host.Outcome State Fault Refusal :=
  perform (.mulMulh d a b la) (long2 d a b la mulhs) s

/-- mul (R184, R185): dst := the high 64 bits of the unsigned product. -/
def execMulMulhu (d : Dst) (a b : Src) (la : Fin 16) (s : State) : Host.Outcome State Fault Refusal :=
  perform (.mulMulhu d a b la) (long2 d a b la mulhu) s

/-- mul (R184, R185): dst := the signed quotient. -/
def execMulDiv (d : Dst) (a b : Src) (la : Fin 16) (s : State) : Host.Outcome State Fault Refusal :=
  perform (.mulDiv d a b la) (long2 d a b la divS) s

/-- mul (R184, R185): dst := the unsigned quotient. -/
def execMulDivu (d : Dst) (a b : Src) (la : Fin 16) (s : State) : Host.Outcome State Fault Refusal :=
  perform (.mulDivu d a b la) (long2 d a b la divU) s

/-- mul (R184, R185): dst := the signed remainder. -/
def execMulRem (d : Dst) (a b : Src) (la : Fin 16) (s : State) : Host.Outcome State Fault Refusal :=
  perform (.mulRem d a b la) (long2 d a b la remS) s

/-- mul (R184, R185): dst := the unsigned remainder. -/
def execMulRemu (d : Dst) (a b : Src) (la : Fin 16) (s : State) : Host.Outcome State Fault Refusal :=
  perform (.mulRemu d a b la) (long2 d a b la remU) s

/-! ## Immediates (R186 to R190) -/

/-- addi (R186): dst := x + sext(imm15). -/
def execAddi (d : Dst) (a : Src) (imm : BitVec 15) (s : State) : Host.Outcome State Fault Refusal :=
  perform (.addi d a imm) (alu1 d a (fun x => x + imm15 imm)) s

/-- andi (R186): dst := x and sext(imm15). -/
def execAndi (d : Dst) (a : Src) (imm : BitVec 15) (s : State) : Host.Outcome State Fault Refusal :=
  perform (.andi d a imm) (alu1 d a (fun x => x &&& imm15 imm)) s

/-- ori (R186): dst := x or zext(imm15). -/
def execOri (d : Dst) (a : Src) (imm : BitVec 15) (s : State) : Host.Outcome State Fault Refusal :=
  perform (.ori d a imm) (alu1 d a (fun x => x ||| zimm15 imm)) s

/-- xori (R186): dst := x exclusive or sext(imm15). -/
def execXori (d : Dst) (a : Src) (imm : BitVec 15) (s : State) : Host.Outcome State Fault Refusal :=
  perform (.xori d a imm) (alu1 d a (fun x => x ^^^ imm15 imm)) s

/-- shi (R187): the source shifted by count. -/
def execShiSll (d : Dst) (a : Src) (count : BitVec 6) (s : State) : Host.Outcome State Fault Refusal :=
  perform (.shiSll d a count) (alu1 d a (fun x => x <<< count.toNat)) s

/-- shi (R187): the source shifted by count. -/
def execShiSrl (d : Dst) (a : Src) (count : BitVec 6) (s : State) : Host.Outcome State Fault Refusal :=
  perform (.shiSrl d a count) (alu1 d a (fun x => x >>> count.toNat)) s

/-- shi (R187): the source shifted by count. -/
def execShiSra (d : Dst) (a : Src) (count : BitVec 6) (s : State) : Host.Outcome State Fault Refusal :=
  perform (.shiSra d a count) (alu1 d a (fun x => x.sshiftRight count.toNat)) s

/-- cmpi (R188): 1 if the source meets cond against sext(imm12). -/
def execCmpi (c : Cond) (d : Dst) (a : Src) (imm : BitVec 12) (s : State) : Host.Outcome State Fault Refusal :=
  perform (.cmpi c d a imm) (alu1 d a (fun x => if condHolds c x (sext 12 imm.toNat) then 1 else 0)) s

/-- lui (R189): dst := sext(imm20) * 32,768. -/
def execLui (d : Dst) (imm : BitVec 20) (s : State) : Host.Outcome State Fault Refusal :=
  perform (.lui d imm) (fun ag s => .ok (writeDst s ag d (sext 20 imm.toNat * 32768))) s

/-- auipc (R189): dst := (PC with [14:0] cleared) + sext(imm20) * 32,768. -/
def execAuipc (d : Dst) (imm : BitVec 20) (s : State) : Host.Outcome State Fault Refusal :=
  perform (.auipc d imm) (fun ag s => .ok (writeDst s ag d (wd ((s.arch ag).pc.toNat / 32768 * 32768) + sext 20 imm.toNat * 32768))) s

/-- bits.ext (R190): dst := sext(x[hi:pos]). -/
def execBitsExt (d : Dst) (a : Src) (pos len1 : BitVec 6) (s : State) : Host.Outcome State Fault Refusal :=
  perform (.bitsExt d a pos len1) (alu1 d a (fun x => sext (len1.toNat + 1) (bitsOf x pos len1))) s

/-- bits.extu (R190): dst := zext(x[hi:pos]). -/
def execBitsExtu (d : Dst) (a : Src) (pos len1 : BitVec 6) (s : State) : Host.Outcome State Fault Refusal :=
  perform (.bitsExtu d a pos len1) (alu1 d a (fun x => wd (bitsOf x pos len1))) s

/-- bits.ins (R190): dst with [hi:pos] replaced by the low bits of x; dst is also a source. -/
def execBitsIns (d : Fin 16) (a : Src) (pos len1 : BitVec 6) (s : State) : Host.Outcome State Fault Refusal :=
  perform (.bitsIns d a pos len1) (alu2 (.n d) a (.n d) (fun x old => insertBits old x pos len1)) s

/-! ## Scalar floating point (R191 to R194) -/

/-- fpu (R191, R192): dst := x + y in f32. -/
def execFpuAdd (d : Dst) (a b : Src) (s : State) : Host.Outcome State Fault Refusal :=
  perform (.fpuAdd d a b) (fpuForm2 d a b fpuAddR) s

/-- fpu (R191, R192): dst := x - y in f32. -/
def execFpuSub (d : Dst) (a b : Src) (s : State) : Host.Outcome State Fault Refusal :=
  perform (.fpuSub d a b) (fpuForm2 d a b fpuSubR) s

/-- fpu (R191, R192): dst := x * y in f32. -/
def execFpuMul (d : Dst) (a b : Src) (s : State) : Host.Outcome State Fault Refusal :=
  perform (.fpuMul d a b) (fpuForm2 d a b fpuMulR) s

/-- fpu (R191, R192): dst := the lesser under R86 in f32. -/
def execFpuMin (d : Dst) (a b : Src) (s : State) : Host.Outcome State Fault Refusal :=
  perform (.fpuMin d a b) (fpuForm2 d a b (fun _ => fpuMinMaxR false)) s

/-- fpu (R191, R192): dst := the greater under R86 in f32. -/
def execFpuMax (d : Dst) (a b : Src) (s : State) : Host.Outcome State Fault Refusal :=
  perform (.fpuMax d a b) (fpuForm2 d a b (fun _ => fpuMinMaxR true)) s

/-- fpu (R191, R192): dst := 1 if x = y in f32. -/
def execFpuEq (d : Dst) (a b : Src) (s : State) : Host.Outcome State Fault Refusal :=
  perform (.fpuEq d a b) (fpuForm2 d a b (fun _ => fpuCmpR eqF)) s

/-- fpu (R191, R192): dst := 1 if x < y in f32. -/
def execFpuLt (d : Dst) (a b : Src) (s : State) : Host.Outcome State Fault Refusal :=
  perform (.fpuLt d a b) (fpuForm2 d a b (fun _ => fpuCmpR ltF)) s

/-- fpu (R191, R192): dst := 1 if x <= y in f32. -/
def execFpuLe (d : Dst) (a b : Src) (s : State) : Host.Outcome State Fault Refusal :=
  perform (.fpuLe d a b) (fpuForm2 d a b (fun _ => fpuCmpR leF)) s

/-- fpu.cvts (R191, R192): f32 to s32, saturating. -/
def execFpuCvts (d : Dst) (a : Src) (s : State) : Host.Outcome State Fault Refusal :=
  perform (.fpuCvts d a) (fpuForm1 d a fpuCvtsR) s

/-- fpu.cvtf (R191): s32 to f32. -/
def execFpuCvtf (d : Dst) (a : Src) (s : State) : Host.Outcome State Fault Refusal :=
  perform (.fpuCvtf d a) (fpuForm1 d a fpuCvtfR) s

/-- A long-latency float form of two sources (R194). -/
def fplForm2 (d : Dst) (a b : Src) (la : Fin 16) (f : RM → Word → Word → Word × Flags) (ag : Agent) : Act := fun s => do
  let x ← readSrc s ag a
  let y ← readSrc s ag b
  let r := f (rmOf s ag) x y
  .ok (longResult s ag la.val d r.1 r.2)

/-- fpl.div (R194). -/
def execFplDiv (d : Dst) (a b : Src) (la : Fin 16) (s : State) : Host.Outcome State Fault Refusal :=
  perform (.fplDiv d a b la) (fplForm2 d a b la fplDivR) s

/-- fpl.sqrt (R194). -/
def execFplSqrt (d : Dst) (a : Src) (la : Fin 16) (s : State) : Host.Outcome State Fault Refusal :=
  perform (.fplSqrt d a la) (fun ag s => do
    let x ← readSrc s ag a
    let r := fplSqrtR (rmOf s ag) x
    .ok (longResult s ag la.val d r.1 r.2)) s

/-- fpl.fma (R194): dst := dst + x * y with one rounding; dst is also a source. -/
def execFplFma (d : Fin 16) (a b : Src) (la : Fin 16) (s : State) : Host.Outcome State Fault Refusal :=
  perform (.fplFma d a b la) (fun ag s => do
    let z ← readSrc s ag (.n d)
    let x ← readSrc s ag a
    let y ← readSrc s ag b
    let r := fplFmaR (rmOf s ag) z x y
    .ok (longResult s ag la.val (.n d) r.1 r.2)) s

end Sys2Proof.Machine
end

