-- ==== Sys2Proof/Machine/Dispatch.lean ====
section
/-! DEFINITION. The meaning of every row of the opcode table: one arm per constructor. -/

namespace Sys2Proof.Machine

/-- What an instruction or an event does. -/
def exec (i : Instr) (s : State) : Host.Outcome State Fault Refusal :=
  match i with
  | .aluAdd d a b => Sys2Proof.Machine.execAluAdd d a b s
  | .aluSub d a b => Sys2Proof.Machine.execAluSub d a b s
  | .aluAnd d a b => Sys2Proof.Machine.execAluAnd d a b s
  | .aluOr d a b => Sys2Proof.Machine.execAluOr d a b s
  | .aluXor d a b => Sys2Proof.Machine.execAluXor d a b s
  | .aluSll d a b => Sys2Proof.Machine.execAluSll d a b s
  | .aluSrl d a b => Sys2Proof.Machine.execAluSrl d a b s
  | .aluSra d a b => Sys2Proof.Machine.execAluSra d a b s
  | .aluSlt d a b => Sys2Proof.Machine.execAluSlt d a b s
  | .aluSltu d a b => Sys2Proof.Machine.execAluSltu d a b s
  | .aluMin d a b => Sys2Proof.Machine.execAluMin d a b s
  | .aluMax d a b => Sys2Proof.Machine.execAluMax d a b s
  | .aluMinu d a b => Sys2Proof.Machine.execAluMinu d a b s
  | .aluMaxu d a b => Sys2Proof.Machine.execAluMaxu d a b s
  | .mulMul d a b la => Sys2Proof.Machine.execMulMul d a b la s
  | .mulMulh d a b la => Sys2Proof.Machine.execMulMulh d a b la s
  | .mulMulhu d a b la => Sys2Proof.Machine.execMulMulhu d a b la s
  | .mulDiv d a b la => Sys2Proof.Machine.execMulDiv d a b la s
  | .mulDivu d a b la => Sys2Proof.Machine.execMulDivu d a b la s
  | .mulRem d a b la => Sys2Proof.Machine.execMulRem d a b la s
  | .mulRemu d a b la => Sys2Proof.Machine.execMulRemu d a b la s
  | .addi d a imm => Sys2Proof.Machine.execAddi d a imm s
  | .andi d a imm => Sys2Proof.Machine.execAndi d a imm s
  | .ori d a imm => Sys2Proof.Machine.execOri d a imm s
  | .xori d a imm => Sys2Proof.Machine.execXori d a imm s
  | .shiSll d a count => Sys2Proof.Machine.execShiSll d a count s
  | .shiSrl d a count => Sys2Proof.Machine.execShiSrl d a count s
  | .shiSra d a count => Sys2Proof.Machine.execShiSra d a count s
  | .cmpi c d a imm => Sys2Proof.Machine.execCmpi c d a imm s
  | .lui d imm => Sys2Proof.Machine.execLui d imm s
  | .auipc d imm => Sys2Proof.Machine.execAuipc d imm s
  | .bitsExt d a pos len1 => Sys2Proof.Machine.execBitsExt d a pos len1 s
  | .bitsExtu d a pos len1 => Sys2Proof.Machine.execBitsExtu d a pos len1 s
  | .bitsIns d a pos len1 => Sys2Proof.Machine.execBitsIns d a pos len1 s
  | .fpuAdd d a b => Sys2Proof.Machine.execFpuAdd d a b s
  | .fpuSub d a b => Sys2Proof.Machine.execFpuSub d a b s
  | .fpuMul d a b => Sys2Proof.Machine.execFpuMul d a b s
  | .fpuMin d a b => Sys2Proof.Machine.execFpuMin d a b s
  | .fpuMax d a b => Sys2Proof.Machine.execFpuMax d a b s
  | .fpuCvts d a => Sys2Proof.Machine.execFpuCvts d a s
  | .fpuCvtf d a => Sys2Proof.Machine.execFpuCvtf d a s
  | .fpuEq d a b => Sys2Proof.Machine.execFpuEq d a b s
  | .fpuLt d a b => Sys2Proof.Machine.execFpuLt d a b s
  | .fpuLe d a b => Sys2Proof.Machine.execFpuLe d a b s
  | .fplDiv d a b la => Sys2Proof.Machine.execFplDiv d a b la s
  | .fplSqrt d a la => Sys2Proof.Machine.execFplSqrt d a la s
  | .fplFma d a b la => Sys2Proof.Machine.execFplFma d a b la s
  | .br c a b off => Sys2Proof.Machine.execBr c a b off s
  | .jalCall off => Sys2Proof.Machine.execJalCall off s
  | .jalJump off => Sys2Proof.Machine.execJalJump off s
  | .jrJump a => Sys2Proof.Machine.execJrJump a s
  | .jrCall a => Sys2Proof.Machine.execJrCall a s
  | .loopSet k a stop => Sys2Proof.Machine.execLoopSet k a stop s
  | .gets d num => Sys2Proof.Machine.execGets d num s
  | .sets a num => Sys2Proof.Machine.execSets a num s
  | .trap a code => Sys2Proof.Machine.execTrap a code s
  | .brk a code => Sys2Proof.Machine.execBrk a code s
  | .sysc a code => Sys2Proof.Machine.execSysc a code s
  | .yieldPt index => Sys2Proof.Machine.execYieldPt index s
  | .ld sz acq d base off la => Sys2Proof.Machine.execLd sz acq d base off la s
  | .st sz rel data base off => Sys2Proof.Machine.execSt sz rel data base off s
  | .amoAdd wide acq rel d a b la => Sys2Proof.Machine.execAmoAdd wide acq rel d a b la s
  | .amoAnd wide acq rel d a b la => Sys2Proof.Machine.execAmoAnd wide acq rel d a b la s
  | .amoOr wide acq rel d a b la => Sys2Proof.Machine.execAmoOr wide acq rel d a b la s
  | .amoXor wide acq rel d a b la => Sys2Proof.Machine.execAmoXor wide acq rel d a b la s
  | .amoMin wide acq rel d a b la => Sys2Proof.Machine.execAmoMin wide acq rel d a b la s
  | .amoMax wide acq rel d a b la => Sys2Proof.Machine.execAmoMax wide acq rel d a b la s
  | .amoMinu wide acq rel d a b la => Sys2Proof.Machine.execAmoMinu wide acq rel d a b la s
  | .amoMaxu wide acq rel d a b la => Sys2Proof.Machine.execAmoMaxu wide acq rel d a b la s
  | .amoSwap wide acq rel d a b la => Sys2Proof.Machine.execAmoSwap wide acq rel d a b la s
  | .amoCas wide acq rel d a b la => Sys2Proof.Machine.execAmoCas wide acq rel d a b la s
  | .waita d a b => Sys2Proof.Machine.execWaita d a b s
  | .waitp d a => Sys2Proof.Machine.execWaitp d a s
  | .park d a b => Sys2Proof.Machine.execPark d a b s
  | .flushr a b => Sys2Proof.Machine.execFlushr a b s
  | .invr a b => Sys2Proof.Machine.execInvr a b s
  | .pref a => Sys2Proof.Machine.execPref a s
  | .fence kind => Sys2Proof.Machine.execFence kind s
  | .spark a b => Sys2Proof.Machine.execSpark a b s
  | .frame d a b => Sys2Proof.Machine.execFrame d a b s
  | .migrAddr d a => Sys2Proof.Machine.execMigrAddr d a s
  | .migrTile d a => Sys2Proof.Machine.execMigrTile d a s
  | .send reg a b => Sys2Proof.Machine.execSend reg a b s
  | .vtget d => Sys2Proof.Machine.execVtget d s
  | .vtset d a => Sys2Proof.Machine.execVtset d a s
  | .announce a => Sys2Proof.Machine.execAnnounce a s
  | .sendt a b => Sys2Proof.Machine.execSendt a b s
  | .wAdd ty m d a b => Sys2Proof.Machine.execWAdd ty m d a b s
  | .wSub ty m d a b => Sys2Proof.Machine.execWSub ty m d a b s
  | .wRsub ty m d a b => Sys2Proof.Machine.execWRsub ty m d a b s
  | .wMul ty m d a b => Sys2Proof.Machine.execWMul ty m d a b s
  | .wMac ty m d a b => Sys2Proof.Machine.execWMac ty m d a b s
  | .wMin ty m d a b => Sys2Proof.Machine.execWMin ty m d a b s
  | .wMax ty m d a b => Sys2Proof.Machine.execWMax ty m d a b s
  | .wAnd ty m d a b => Sys2Proof.Machine.execWAnd ty m d a b s
  | .wOr ty m d a b => Sys2Proof.Machine.execWOr ty m d a b s
  | .wXor ty m d a b => Sys2Proof.Machine.execWXor ty m d a b s
  | .wAndn ty m d a b => Sys2Proof.Machine.execWAndn ty m d a b s
  | .wShl ty m d a b => Sys2Proof.Machine.execWShl ty m d a b s
  | .wShr ty m d a b => Sys2Proof.Machine.execWShr ty m d a b s
  | .wMov ty m d b => Sys2Proof.Machine.execWMov ty m d b s
  | .wAbs ty m d b => Sys2Proof.Machine.execWAbs ty m d b s
  | .wNeg ty m d b => Sys2Proof.Machine.execWNeg ty m d b s
  | .wFma ty m d a b c => Sys2Proof.Machine.execWFma ty m d a b c s
  | .wSel ty m d a b => Sys2Proof.Machine.execWSel ty m d a b s
  | .l16Add ty m d src => Sys2Proof.Machine.execL16Add ty m d src s
  | .l16Sub ty m d src => Sys2Proof.Machine.execL16Sub ty m d src s
  | .l16Rsub ty m d src => Sys2Proof.Machine.execL16Rsub ty m d src s
  | .l16Mul ty m d src => Sys2Proof.Machine.execL16Mul ty m d src s
  | .l16Mac ty m d src => Sys2Proof.Machine.execL16Mac ty m d src s
  | .l16Min ty m d src => Sys2Proof.Machine.execL16Min ty m d src s
  | .l16Max ty m d src => Sys2Proof.Machine.execL16Max ty m d src s
  | .l16And ty m d src => Sys2Proof.Machine.execL16And ty m d src s
  | .l16Or ty m d src => Sys2Proof.Machine.execL16Or ty m d src s
  | .l16Xor ty m d src => Sys2Proof.Machine.execL16Xor ty m d src s
  | .l16Andn ty m d src => Sys2Proof.Machine.execL16Andn ty m d src s
  | .l16Shl ty m d src => Sys2Proof.Machine.execL16Shl ty m d src s
  | .l16Shr ty m d src => Sys2Proof.Machine.execL16Shr ty m d src s
  | .l16Mov ty m d src => Sys2Proof.Machine.execL16Mov ty m d src s
  | .l16Abs ty m d src => Sys2Proof.Machine.execL16Abs ty m d src s
  | .l16Neg ty m d src => Sys2Proof.Machine.execL16Neg ty m d src s
  | .wmathExp2 ty m d b => Sys2Proof.Machine.execWmathExp2 ty m d b s
  | .wmathLog2 ty m d b => Sys2Proof.Machine.execWmathLog2 ty m d b s
  | .wmathRecip ty m d b => Sys2Proof.Machine.execWmathRecip ty m d b s
  | .wmathRsqrt ty m d b => Sys2Proof.Machine.execWmathRsqrt ty m d b s
  | .wmathTanh ty m d b => Sys2Proof.Machine.execWmathTanh ty m d b s
  | .wmathRsum ty m d b => Sys2Proof.Machine.execWmathRsum ty m d b s
  | .wmathRmax ty m d b => Sys2Proof.Machine.execWmathRmax ty m d b s
  | .wmathScan ty m d b => Sys2Proof.Machine.execWmathScan ty m d b s
  | .wmathPerm ty m d a b => Sys2Proof.Machine.execWmathPerm ty m d a b s
  | .wmaskEq ty m d a b => Sys2Proof.Machine.execWmaskEq ty m d a b s
  | .wmaskLt ty m d a b => Sys2Proof.Machine.execWmaskLt ty m d a b s
  | .wmaskLe ty m d a b => Sys2Proof.Machine.execWmaskLe ty m d a b s
  | .wmaskAnd m d a b => Sys2Proof.Machine.execWmaskAnd m d a b s
  | .wmaskOr m d a b => Sys2Proof.Machine.execWmaskOr m d a b s
  | .wmaskXor m d a b => Sys2Proof.Machine.execWmaskXor m d a b s
  | .wmoveBcast m a b => Sys2Proof.Machine.execWmoveBcast m a b s
  | .wmoveExt d a b => Sys2Proof.Machine.execWmoveExt d a b s
  | .wmoveTrld m a b => Sys2Proof.Machine.execWmoveTrld m a b s
  | .wmoveTrst m a b => Sys2Proof.Machine.execWmoveTrst m a b s
  | .wmoveMpop m d => Sys2Proof.Machine.execWmoveMpop m d s
  | .wcvtUp ty m d a b => Sys2Proof.Machine.execWcvtUp ty m d a b s
  | .wcvtDown ty m d a b => Sys2Proof.Machine.execWcvtDown ty m d a b s
  | .wcvtDownsat ty m d a b => Sys2Proof.Machine.execWcvtDownsat ty m d a b s
  | .wcvtToint ty m d a b => Sys2Proof.Machine.execWcvtToint ty m d a b s
  | .wcvtFromint ty m d a b => Sys2Proof.Machine.execWcvtFromint ty m d a b s
  | .wsampTopk m d a b => Sys2Proof.Machine.execWsampTopk m d a b s
  | .wsampCbg m d a b => Sys2Proof.Machine.execWsampCbg m d a b s
  | .wsampDraw m d a b => Sys2Proof.Machine.execWsampDraw m d a b s
  | .wsampPick m d a b => Sys2Proof.Machine.execWsampPick m d a b s
  | .talloc nw h => Sys2Proof.Machine.execTalloc nw h s
  | .tfree h => Sys2Proof.Machine.execTfree h s
  | .tld nw ha hb la => Sys2Proof.Machine.execTld nw ha hb la s
  | .tst nw h => Sys2Proof.Machine.execTst nw h s
  | .tzero nw h => Sys2Proof.Machine.execTzero nw h s
  | .cload nw ha hb la => Sys2Proof.Machine.execCload nw ha hb la s
  | .cpass nw ha hb la => Sys2Proof.Machine.execCpass nw ha hb la s
  | .cdrain nw ha hb la => Sys2Proof.Machine.execCdrain nw ha hb la s
  | .czero nw ha la => Sys2Proof.Machine.execCzero nw ha la s
  | .canvasxLoad nw ha hb la => Sys2Proof.Machine.execCanvasxLoad nw ha hb la s
  | .canvasxPass nw ha hb la => Sys2Proof.Machine.execCanvasxPass nw ha hb la s
  | .cpyIn d a h la => Sys2Proof.Machine.execCpyIn d a h la s
  | .cpyOut d a h la => Sys2Proof.Machine.execCpyOut d a h la s
  | .gath d a h la => Sys2Proof.Machine.execGath d a h la s
  | .scat d a h la => Sys2Proof.Machine.execScat d a h la s
  | .coll d a h la => Sys2Proof.Machine.execColl d a h la s
  | .weir d a h la => Sys2Proof.Machine.execWeir d a h la s
  | .barm a b => Sys2Proof.Machine.execBarm a b s
  | .barrClaim d a b => Sys2Proof.Machine.execBarrClaim d a b s
  | .bwait b => Sys2Proof.Machine.execBwait b s
  | .engxDmard d a b => Sys2Proof.Machine.execEngxDmard d a b s
  | .engxDmawr d a b => Sys2Proof.Machine.execEngxDmawr d a b s
  | .engxMbox a => Sys2Proof.Machine.execEngxMbox a s
  | .engxGcmkey a => Sys2Proof.Machine.execEngxGcmkey a s
  | .engxGcmenc d a b => Sys2Proof.Machine.execEngxGcmenc d a b s
  | .engxGcmdec d a b => Sys2Proof.Machine.execEngxGcmdec d a b s
  | .tlbinv a b => Sys2Proof.Machine.execTlbinv a b s
  | .genscrub d a => Sys2Proof.Machine.execGenscrub d a s
  | .qown d a b => Sys2Proof.Machine.execQown d a b s
  | .halt a b => Sys2Proof.Machine.execHalt a b s
  | .stoprec d a => Sys2Proof.Machine.execStoprec d a s
  | .cctl a b => Sys2Proof.Machine.execCctl a b s
  | .pset a b => Sys2Proof.Machine.execPset a b s
  | .creationMessage m => Sys2Proof.Machine.execCreationMessage m s
  | .contextScrubComplete q c => Sys2Proof.Machine.execContextScrubComplete q c s
  | .contextFreeNotice q c => Sys2Proof.Machine.execContextFreeNotice q c s
  | .resendTimeout q c => Sys2Proof.Machine.execResendTimeout q c s
  | .refusalRelease q c => Sys2Proof.Machine.execRefusalRelease q c s
  | .refusedResend q c => Sys2Proof.Machine.execRefusedResend q c s
  | .migrQuery src quad => Sys2Proof.Machine.execMigrQuery src quad s
  | .migrQueryAnswer src => Sys2Proof.Machine.execMigrQueryAnswer src s
  | .migrationImage m => Sys2Proof.Machine.execMigrationImage m s
  | .targetAnswer dest ans => Sys2Proof.Machine.execTargetAnswer dest ans s
  | .deposit m => Sys2Proof.Machine.execDeposit m s
  | .coreSelect q c => Sys2Proof.Machine.execCoreSelect q c s
  | .clockAnnouncement q c ch v => Sys2Proof.Machine.execClockAnnouncement q c ch v s
  | .nullEvent q c ch v => Sys2Proof.Machine.execNullEvent q c ch v s
  | .stampedEvent m => Sys2Proof.Machine.execStampedEvent m s
  | .eventStart q c => Sys2Proof.Machine.execEventStart q c s
  | .nullRound q c => Sys2Proof.Machine.execNullRound q c s
  | .easelGrant q => Sys2Proof.Machine.execEaselGrant q s
  | .easelSubunitComplete q unit => Sys2Proof.Machine.execEaselSubunitComplete q unit s
  | .scoreboardEntryComplete q entry => Sys2Proof.Machine.execScoreboardEntryComplete q entry s
  | .tileScrubSweepComplete q => Sys2Proof.Machine.execTileScrubSweepComplete q s
  | .genscrubComplete q => Sys2Proof.Machine.execGenscrubComplete q s
  | .collectiveMatch launch cid => Sys2Proof.Machine.execCollectiveMatch launch cid s
  | .promiseDue a => Sys2Proof.Machine.execPromiseDue a s
  | .monitorFire sector => Sys2Proof.Machine.execMonitorFire sector s
  | .parkDeadline a => Sys2Proof.Machine.execParkDeadline a s
  | .regionBufferDrain a => Sys2Proof.Machine.execRegionBufferDrain a s
  | .walkMonitorFire sector => Sys2Proof.Machine.execWalkMonitorFire sector s
  | .engineStop e => Sys2Proof.Machine.execEngineStop e s
  | .containmentWalk part => Sys2Proof.Machine.execContainmentWalk part s
  | .haltctlHoldSet q => Sys2Proof.Machine.execHaltctlHoldSet q s
  | .haltctlHoldClear q => Sys2Proof.Machine.execHaltctlHoldClear q s
  | .chlaWrite q c ch v => Sys2Proof.Machine.execChlaWrite q c ch v s
  | .preemptionDeadline slot => Sys2Proof.Machine.execPreemptionDeadline slot s
  | .saveComplete slot => Sys2Proof.Machine.execSaveComplete slot s
  | .restore slot => Sys2Proof.Machine.execRestore slot s
  | .debugResume a => Sys2Proof.Machine.execDebugResume a s
  | .kick queue v => Sys2Proof.Machine.execKick queue v s
  | .cancelGraph queue => Sys2Proof.Machine.execCancelGraph queue s
  | .cancelPhase queue => Sys2Proof.Machine.execCancelPhase queue s
  | .cancelJob queue => Sys2Proof.Machine.execCancelJob queue s
  | .packetRead slot => Sys2Proof.Machine.execPacketRead slot s
  | .launchDistribution l => Sys2Proof.Machine.execLaunchDistribution l s
  | .launchComplete l => Sys2Proof.Machine.execLaunchComplete l s
  | .ageingInterval slot => Sys2Proof.Machine.execAgeingInterval slot s
  | .quantumExpiry slot => Sys2Proof.Machine.execQuantumExpiry slot s
  | .sctlMap slot queue => Sys2Proof.Machine.execSctlMap slot queue s
  | .sctlUnmap slot => Sys2Proof.Machine.execSctlUnmap slot s
  | .unmapComplete slot => Sys2Proof.Machine.execUnmapComplete slot s
  | .sctlReset slot => Sys2Proof.Machine.execSctlReset slot s
  | .queueResetComplete slot => Sys2Proof.Machine.execQueueResetComplete slot s
  | .biascmdGo granule target => Sys2Proof.Machine.execBiascmdGo granule target s
  | .biasFlipComplete granule target => Sys2Proof.Machine.execBiasFlipComplete granule target s
  | .releaseSequenceComplete part => Sys2Proof.Machine.execReleaseSequenceComplete part s
  | .drowsyEntry q => Sys2Proof.Machine.execDrowsyEntry q s
  | .drowsyWake q => Sys2Proof.Machine.execDrowsyWake q s
  | .longLatencyCompletion a => Sys2Proof.Machine.execLongLatencyCompletion a s
  | .cacheMaintenanceComplete a => Sys2Proof.Machine.execCacheMaintenanceComplete a s
  | .jrRet => Sys2Proof.Machine.execJrRet s
  | .rte => Sys2Proof.Machine.execRte s
  | .region => Sys2Proof.Machine.execRegion s
  | .commit => Sys2Proof.Machine.execCommit s
  | .exit => Sys2Proof.Machine.execExit s
  | .engxKwait => Sys2Proof.Machine.execEngxKwait s
  | .pageRequestResponse => Sys2Proof.Machine.execPageRequestResponse s
  | .granq0Read => Sys2Proof.Machine.execGranq0Read s
  | .granrespWalkAgain => Sys2Proof.Machine.execGranrespWalkAgain s
  | .granrespRefuse => Sys2Proof.Machine.execGranrespRefuse s
  | .atsInvalidation => Sys2Proof.Machine.execAtsInvalidation s
  | .pktNop => Sys2Proof.Machine.execPktNop s
  | .pktDispatch => Sys2Proof.Machine.execPktDispatch s
  | .pktDelta => Sys2Proof.Machine.execPktDelta s
  | .pktIbcall => Sys2Proof.Machine.execPktIbcall s
  | .pktPred => Sys2Proof.Machine.execPktPred s
  | .pktLoop => Sys2Proof.Machine.execPktLoop s
  | .pktFfence => Sys2Proof.Machine.execPktFfence s
  | .pktSignal => Sys2Proof.Machine.execPktSignal s
  | .pktWaitmem => Sys2Proof.Machine.execPktWaitmem s
  | .levelGraph => Sys2Proof.Machine.execLevelGraph s
  | .levelPhase => Sys2Proof.Machine.execLevelPhase s
  | .levelJob => Sys2Proof.Machine.execLevelJob s
  | .levelCancel => Sys2Proof.Machine.execLevelCancel s
  | .slotSelection => Sys2Proof.Machine.execSlotSelection s
  | .hostCxlMemRequest => Sys2Proof.Machine.execHostCxlMemRequest s
  | .hostSnoop => Sys2Proof.Machine.execHostSnoop s
  | .lockInterface => Sys2Proof.Machine.execLockInterface s
  | .startInterface => Sys2Proof.Machine.execStartInterface s
  | .stopInterface => Sys2Proof.Machine.execStopInterface s
  | .ideIntegrityFailure => Sys2Proof.Machine.execIdeIntegrityFailure s
  | .getVersion => Sys2Proof.Machine.execGetVersion s
  | .getCapabilities => Sys2Proof.Machine.execGetCapabilities s
  | .negotiateAlgorithms => Sys2Proof.Machine.execNegotiateAlgorithms s
  | .getDigests => Sys2Proof.Machine.execGetDigests s
  | .getCertificate => Sys2Proof.Machine.execGetCertificate s
  | .challenge => Sys2Proof.Machine.execChallenge s
  | .getMeasurements => Sys2Proof.Machine.execGetMeasurements s
  | .keyExchange => Sys2Proof.Machine.execKeyExchange s
  | .finish => Sys2Proof.Machine.execFinish s
  | .heartbeat => Sys2Proof.Machine.execHeartbeat s
  | .keyUpdate => Sys2Proof.Machine.execKeyUpdate s
  | .endSession => Sys2Proof.Machine.execEndSession s
  | .setCertificate => Sys2Proof.Machine.execSetCertificate s
  | .certRewriteTimeout => Sys2Proof.Machine.execCertRewriteTimeout s
  | .setCopyKey => Sys2Proof.Machine.execSetCopyKey s
  | .setDebugConsent => Sys2Proof.Machine.execSetDebugConsent s
  | .stageUpdate => Sys2Proof.Machine.execStageUpdate s
  | .activationRequest => Sys2Proof.Machine.execActivationRequest s
  | .acknowledgeStaged => Sys2Proof.Machine.execAcknowledgeStaged s
  | .liveUpdateTakeover => Sys2Proof.Machine.execLiveUpdateTakeover s
  | .standbyFailure => Sys2Proof.Machine.execStandbyFailure s
  | .coldReset => Sys2Proof.Machine.execColdReset s
  | .warmReset => Sys2Proof.Machine.execWarmReset s
  | .linkReset => Sys2Proof.Machine.execLinkReset s
  | .clockStep => Sys2Proof.Machine.execClockStep s
  | .evlogRead => Sys2Proof.Machine.execEvlogRead s
  | .registerWrite => Sys2Proof.Machine.execRegisterWrite s
  | .commandComplexFailure => Sys2Proof.Machine.execCommandComplexFailure s
  | .ideKeyManagement => Sys2Proof.Machine.execIdeKeyManagement s

end Sys2Proof.Machine
end

