-- ==== Sys2Proof/Machine/Fetch.lean ====
section
/-! DEFINITION. Fetching and decoding the instruction at an agent's PC (spec/06, R154, R155, R176, R177). -/

namespace Sys2Proof.Machine

/-- The word at the PC: one halfword, or both of a 32-bit word, each translated before the word is decoded (R155). -/
def fetchWord (a : Agent) (s : State) : Except Stop (Nat × State) := do
  let pc := (s.arch a).pc
  let r ← codeHalf a pc s
  if r.1 % 2 = 0 then .ok r
  else
    let t ← match codeHalf a (pc + 2) r.2 with
      | .ok t => .ok t
      | .error (.fault k c _) => .error (.fault k c pc)
      | .error e => .error e
    .ok (r.1 + 65536 * t.1, t.2)

/-- The majors that R175 leaves reserved. -/
def reservedMajor (m : Nat) : Bool :=
  [0x0D, 0x0E, 0x0F, 0x16, 0x17, 0x26, 0x27, 0x2C, 0x2D, 0x2E, 0x2F].contains m || decide (0x33 ≤ m)

/-- Steps 1 and 2 of R177 on the raw word: the halfword 0, a reserved major, the core class, priv.qown. -/
def rawStop (a : Agent) (w : Nat) : Option Stop :=
  if w % 2 = 0 then (if w % 65536 = 0 then some (.fault 1 0 0) else classStop (Agent.cls a) 0x40 false)
  else if reservedMajor (fld w 1 6) then some (.fault 1 0 0)
  else classStop (Agent.cls a) (fld w 1 6) (fld w 1 6 == 0x31 && fld w 22 6 == 2)

/-- What a move of the machine comes to: an instruction or event that executes, an agent stopped before any did, or an
effect of the hardware that is no row of the table. -/
inductive Move where
  | exec (i : Instr) (s : State)
  | stop (a : Agent) (e : Stop) (s : State)
  | done (s : State)
  deriving DecidableEq, Repr

/-- An agent that cannot issue: a strand that its core runs and that a debug stop waits for parks (R17, R382). -/
def notIssuing (a : Agent) (s : State) : State :=
  match a with
  | .strand q c k =>
    if (s.core q c).run == some k && (s.ctx a).st == .running && (s.ctx a).why == some .debug then parkAgent a .debug s else s
  | .hart .. | .weir _ | .cmd _ | .sec => s

/-- A fetch or a word that stops the agent before an instruction: behind its easel forms that have not retired it waits, so that what
they trap comes first (R155, R172). -/
def stopAfterForms (a : Agent) (e : Stop) (s : State) : Move := if ownForms s a then .done s else .stop a e s

/-- An agent's next instruction: the word that a breakpoint displaced (R381), or the one at its PC. -/
def nextInstr (a : Agent) (s : State) : Move :=
  let s0 := { s with md := { s.md with who := a } }
  if !mayIssue s0 a then .done (notIssuing a s0)
  else
    let f : Except Stop (Nat × State) := match (s0.ctx a).displaced with
      | some w => .ok (w.toNat, s0)
      | none => fetchWord a s0
    match f with
    | .error e => stopAfterForms a e s0
    | .ok (w, s1) =>
      match rawStop a w with
      | some e => stopAfterForms a e s1
      | none => match decode (leBytes 4 w) with
        | .error _ => stopAfterForms a (.fault 1 0 0) s1
        | .ok (i, _) => .exec i s1

end Sys2Proof.Machine
end

