-- ==== Sys2Proof/Machine/Turns.lean ====
section
/-! DEFINITION. Whose move comes next, and what it comes to (log 2); and how an instruction is placed where the next
step fetches it (log 3). -/

namespace Sys2Proof.Machine

/-! ## Packets (R329, R335, R342, R350) -/

/-- No packet is available: with no launch outstanding the slot is IDLE (R350). -/
def noPacket (i : Fin 16) (s : State) : State :=
  if outstanding s (s.slots.get i).qid then s else leaveRunning i .idle s

/-- An entry that its producer has not written (R329) ends what a ring holds for now; in an indirect buffer it is a packet of
KIND 0 (R333). -/
def emptyEntry (i : Fin 16) (s : State) : State :=
  if (s.slots.get i).q.ib.isEmpty then noPacket i (stickAt i s)
  else queueFault i 1 s

/-- The head packet, its bytes at hand: skipped, a queue fault, held back by WAIT, or its row. -/
def headTurn (i : Fin 16) (p : List Byte) (s : State) : Move :=
  let q := (s.slots.get i).q
  if q.skip != 0 then .done (moveOn i (fun q => { q.advance with skip := q.skip - 1 }) s)
  else match pktCode p with
    | some c => .done (queueFault i c s)
    | none =>
      if pktWaits p && q.lseq != q.ldone then .done s
      else .exec (pktRow p) { s with md := { s.md with req := { s.md.req with slot := i } } }

/-- The processing of a slot's next packet. -/
def packetTurn (i : Fin 16) (s : State) : Move :=
  let x := s.slots.get i
  if !slotLive s i then .done s
  else if x.waitSector.isSome then .done (if outstanding s x.qid then s else leaveRunning i .waiting s)
  else match aheadOf x.q with
    | (_, p) :: _ => headTurn i p s
    | [] =>
      match (if x.q.stuck then none else x.q.head) with
      | none => .done (noPacket i s)
      | some va => match readPacket i va s with
        | .error e => .done (pktStop i e s)
        | .ok (p, s1) =>
          if pktKind p = 0 then .done (emptyEntry i s1)
          else headTurn i p (s1.updSlot i fun x => { x with q := { x.q with ahead := [(va, p)], half := none } })

/-! ## Time (R3, R38, R208, R417) -/

/-- A core with nothing to run for its local-time launch (R38). Its count is held while jzdb holds a strand of the launch stopped
(R322) and while the core is (R366). DESIGN CHOICE (log 57): a core with an event that may start is not blocked, though no slot is
FREE for it. -/
def coreBlocked (s : State) (q : Fin 64) (c : Fin 4) : Bool :=
  (match (s.core q c).lt.launch with | some l => !launchDebugged s l | none => false) &&
    !engineStopped s (pIdx (s.quads.get q).part) (.core q c) && !liveEvent s q c && (startable s q c).isNone

/-- A core as `n` ticks pass: the quantum of its running strand and the time it is blocked, in tenths of cycles. -/
def tickCore (s : State) (n : Nat) (q : Fin 64) (c : Fin 4) (x : Core) : Core :=
  let y := if x.run.isSome then { x with quantum := x.quantum + n * s.clock } else x
  if coreBlocked s q c then { y with lt := { y.lt with blocked := y.lt.blocked + n * s.clock } } else y

/-- `n` ticks of the chip time counter. -/
def passTicks (n : Nat) (s : State) : State :=
  let t := s.ctc + wd n
  let quad := fun (q : Fin 64) =>
    let x := s.quads.get q
    { x with idleSince := if quadIdle s q then x.idleSince else t
             cores := Vector.ofFn fun (c : Fin 4) => tickCore s n q c (x.cores.get c) }
  { s with ctc := t, quads := Vector.ofFn quad }

/-! ## The move of a turn -/

/-- Events that no agent outside makes and no timer of the hardware: messages on their way, and the ends of the work of
easels and of the scoreboard. They are only delivered. -/
def onlyDelivered (e : Instr) : Bool :=
  match e with
  | .creationMessage _ | .contextFreeNotice .. | .migrQuery .. | .migrQueryAnswer .. | .migrationImage _ | .targetAnswer ..
  | .deposit _ | .clockAnnouncement .. | .nullEvent .. | .stampedEvent _ | .easelSubunitComplete ..
  | .scoreboardEntryComplete .. | .biasFlipComplete .. => true
  | _ => false

/-- What an event on its way keeps its order with: the messages from one quad's interface to another's (R391), and the stores that
reach the kick pages (R145, R327). -/
def laneOf (e : Instr) : Option (Nat × Nat) :=
  match e with
  | .kick .. | .cancelGraph _ | .cancelPhase _ | .cancelJob _ => some (64, 64)
  | _ => (headerOf e).map fun h => (h.port, h.dest)

/-- The i-th event on its way would overtake one before it (log 59). -/
def overtakes (s : State) (i : Nat) (e : Instr) : Bool :=
  match laneOf e with
  | some k => (s.md.inflight.take i).any fun x => laneOf x == some k
  | none => false

/-- The move of a turn. -/
def takeTurn (t : Turn) (s : State) : Move :=
  match t with
  | .deliver i =>
    match s.md.inflight[i]? with
    | some e =>
      if overtakes s i e then .done s
      else .exec e { s with md := { s.md with inflight := s.md.inflight.eraseIdx i, req := { s.md.req with on := false } } }
    | none => .done s
  | .input e r =>
    if (shapeOf e).major == 0x41 && !onlyDelivered e then .exec e { s with md := { s.md with req := r } } else .done s
  | .packet i => packetTurn i s
  | .run a => nextInstr a s
  | .engine a => .done (engineMove a s)
  | .tick n => .done (passTicks n s)

/-! ## The plan of a round (log 2) -/

/-- The cores of the enabled quads. -/
def liveCores (s : State) : List (Fin 64 × Fin 4) :=
  ((List.finRange 64).filter fun q => (s.quads.get q).enabled).flatMap fun q => (List.finRange 4).map fun c => (q, c)

/-- The strands and engine harts that have work. -/
def strandsRunning (s : State) : List Agent :=
  (liveCores s).filterMap fun (q, c) => (s.core q c).run.map fun k => .strand q c k

def enginesBusy (s : State) : List Agent :=
  otherAgents.filter fun a => match s.hart a with | some h => !h.queue.isEmpty | none => false

/-- Events of the hardware's own timing that are due. -/
def dueEvents (s : State) : List Instr :=
  let slots := List.finRange 16
  (slots.filter (ageDue s)).map Instr.ageingInterval ++ (slots.filter (quantumDue s)).map Instr.quantumExpiry ++
    (slots.filter (deadlineDue s)).map Instr.preemptionDeadline ++
    ((strandsOf (List.finRange 64)).filter fun a => parkedOn s a fun w => match w with | .waitp _ => true | _ => false).map
      Instr.promiseDue ++
    ((strandsOf (List.finRange 64)).filter fun a => parkedOn s a fun w => match w with | .deposit _ => true | _ => false).map
      Instr.parkDeadline ++
    ((liveCores s).filter fun e => decide (2560 ≤ (s.core e.1 e.2).lt.blocked)).map (fun e => Instr.nullRound e.1 e.2) ++
    ((List.finRange 64).filter (drowsyDue s)).map Instr.drowsyEntry

/-- The oldest uncommitted result of a strand is a value that only waits to be written (R169). -/
def valueDue (fl : Flight) : Bool := match fl.pend with | p :: _ => !p.form | [] => false

/-- Work of the hardware that goes on as soon as it can. -/
def followUps (s : State) : List Instr :=
  let slots := List.finRange 16
  let inState := fun (st : HwSt) => slots.filter fun i => (s.slots.get i).st == st
  (inState .preempting).map Instr.saveComplete ++
    (slots.filter fun i => restoring (s.slots.get i) || ((s.slots.get i).st == .running && (s.slots.get i).saved)).map Instr.restore ++
    (inState .unmapping).map Instr.unmapComplete ++ (inState .resetting).map Instr.queueResetComplete ++
    (s.launches.filter fun y => !y.distributed).map (fun y => Instr.launchDistribution y.id) ++
    (s.launches.filter fun y => y.distributed).map (fun y => Instr.launchComplete y.id) ++
    ((strandsOf (List.finRange 64)).filter fun a => valueDue (s.ctx a).fl).map Instr.longLatencyCompletion ++
    ((liveCores s).filter fun e => !(s.core e.1 e.2).late.isEmpty).map (fun e => Instr.refusedResend e.1 e.2) ++
    ((List.finRange 64).filter fun p => (s.parts.get p).st == .releasing).map Instr.releaseSequenceComplete ++
    (if s.mg.update.reading || activationReady s then [Instr.liveUpdateTakeover] else [])

/-- What the machine does on its own when no turn is chosen: everything on its way, everything due, a packet of every slot,
an instruction of every running strand, a row of every engine, and a tick. -/
def plan (s : State) : List Turn :=
  s.md.inflight.map (fun _ => Turn.deliver 0) ++ (dueEvents s ++ followUps s).map (fun e => Turn.input e s.md.req) ++
    ((List.finRange 8).filter (rewriteDue s)).map (fun k => Turn.input .certRewriteTimeout { s.md.req with cert := k }) ++
    ((List.finRange 16).filter fun i => (s.slots.get i).st == .running).map Turn.packet ++
    (strandsRunning s).map Turn.run ++ (enginesBusy s).map Turn.engine ++ [.tick 1]

/-- The next move: the first turn queued; with none queued, a round is planned. -/
def nextMove (s : State) : Move :=
  match s.md.turns with
  | t :: rest => takeTurn t { s with md := { s.md with turns := rest } }
  | [] => .done { s with md := { s.md with turns := plan s } }

/-! ## Placing an instruction -/

/-- Where placed instructions stand: a granule of host memory, and its virtual granule. -/
def placePa : Nat := 0x100_0000_0000

/-- The launch of the strand that runs a placed instruction. -/
def placeLaunch : Launch :=
  { id := noLaunch, part := 0, queue := 0, image := 0, index := 0, args := [], qmask := 1
    rec_ := { entry := 0, strands := 1, pack := false, strict := false, ltm := false, upol := 0, lpol := 0, amode := []
              astride := [], cmask := 0, trap := 0, chan := none, tiles := [] }
    todo := [], next := [], waiting := [], inflight := 0, job := 0, jobInst := 0, graph := 0, phase := 0, gpol := 2, ppol := 2, jpol := 2, distributed := true, accepted := true
    refused := false, cancelled := false, faulted := false, framesDropped := false, kind := 0, cause := 0, tries := 0
    chans := [], badColl := [] }

/-- The request of the engine hart that runs a placed instruction of major 0x30. -/
def placeRequest : Request :=
  { record := 0, rows := 0, kind := 0, tentry := 0, tgen := 0, aentry := 0, agen := 0, btag := 0
    stid := { q := 0, c := 0, k := 0, gen := 1 }, home := 0, launch := noLaunch, part := 0, queue := 0, strict := false
    eng := 0, seq := 0, bytes := 0, work := 0, left := 0, recs := [], order := 0, cid := 0 }

/-- The agent that may execute a word: an engine hart for engx, the security core for priv, else a strand (R176). -/
def placeAgent (w : Nat) : Agent :=
  if w % 2 = 0 then .strand 0 0 0
  else match fld w 1 6 with
    | 0x30 => .hart 0 0
    | 0x31 => .sec
    | _ => .strand 0 0 0

/-- A machine whose next step fetches the bytes of `w`: the boot done, the agent running, quad 0 owned by partition 0,
a queue 0 with an address space whose one translation covers the bytes, and a launch for the strand. -/
def placeWord (s : State) (w : Nat) : State :=
  let bs := leBytes 4 w
  let a := placeAgent w
  let s0 := { s with md := { s.md with inflight := [], turns := [.run a], who := a } }
  match a with
  | .hart .. =>
    (s0.updHart a fun h =>
      { h with queue := [placeRequest], ctx := { h.ctx with st := .running, arch := { h.ctx.arch with pc := 0 } } }).updPart 0
      fun p => { p with ucode := writeCells p.ucode 0 bs }
  | .sec =>
    let s1 := s0.updCtx .sec fun y => { y with st := .running, arch := { y.arch with pc := wd placePa } }
    { s1 with mm := { s1.mm with mem := writeCells s1.mm.mem placePa bs } }
  | .strand .. | .weir _ | .cmd _ =>
    let s1 := s0.updQuad 0 fun x =>
      let y := x.cores.get 0
      let y1 := { y with run := some 0, tlb := [{ part := 0, pasid := 0, va := 0, pa := BitVec.ofNat 48 (placePa / 65536)
                                                  count := 1, write := true, exec := true, dirty := true, attr := 0 }] }
      let y2 := y1.updCtx 0 fun k =>
        { k with st := .running, gen := 1, launch := some noLaunch, arch := { k.arch with pc := 0 } }
      { x with part := 0, owner := x.owner ||| 1, cores := x.cores.set 0 y2 }
    let sp := bits s1.cw.astbase 51 16 * 65536
    { s1 with
      launches := placeLaunch :: s1.launches
      mm := { s1.mm with mem := writeCells (writeCells s1.mm.mem (sp + 13) [1]) placePa bs }
      mg := { s1.mg with tables := (36, 0, 1, 31) :: s1.mg.tables } }

end Sys2Proof.Machine
end

