-- ==== Sys2Proof/Machine/Step.lean ====
section
/-! DEFINITION. One step of the machine: the next move, executed. -/

namespace Sys2Proof.Machine

/-- One step: the move that comes next is an instruction or event that `exec` executes, an agent stopped before it had
one, or an effect of the hardware that is no row of the table (log 2). -/
def step (s : State) : Host.Outcome State Fault Refusal :=
  match nextMove s with
  | .exec i s1 => exec i s1
  | .stop a e s1 => stopped a e s1
  | .done s1 => .next s1

/-- The machine with an instruction of at most 32 bits placed where the next step fetches it (log 3). -/
def State.withFetchWord (s : State) (nbits w : Nat) : State := placeWord s (w % 2 ^ nbits)

end Sys2Proof.Machine
end

