-- ==== Sys2Proof/Safety.lean ====
section
/-! DEFINITION. The terms of the statements: what it means that an instruction issues, reads its operands and retires,
what a register-only instruction may change, and which states are in order. -/

namespace Sys2Proof.Safety

open Sys2Proof.Machine

/-- Nothing stands in the way of an instruction but its own operands: the agent may issue, its core may execute the form,
no window is open, no result is outstanding, no region is open and no trigger stops it. -/
structure Quiet (i : Instr) (a : Agent) (s : State) : Prop where
  issues : mayIssue s a = true
  free : dispatchHolds s a (shapeOf i) = false
  cls : classStop (Agent.cls a) (shapeOf i).major (isQown i) = none
  wins : (s.ctx a).fl.wins = []
  pend : (s.ctx a).fl.pend = []
  region : (s.ctx a).sp.inregion = false
  refused : regionRefused (s.ctx a) = none
  triggers : pcTrigger s a = (s, false)

/-- Instruction `i` of the agent whose turn it is passes every check that stands before its operands, and its effect starts from
`t`: from the state as it is where that is quiet; in any other state from the one that the checks leave, in which the windows
that `i` closes have committed (R123, R170, R171, R176, R225, R380). -/
def Issues (i : Instr) (s t : State) : Prop := (Quiet i s.md.who s ∧ t = s) ∨ gate i s.md.who s = .go t

/-- Source field `f` of the agent reads `x` in state `t` (R44, R45). -/
def Reads (t : State) (a : Agent) (f : Src) (x : Word) : Prop := readSrc t a f = .ok x

/-- The operands of a form that reads them once, and may wait: they are read as it first issues, and are the ones kept since when
it is issued again at the end of its wait (R218, R223, R232). -/
def Given (t : State) (a : Agent) (ops : List (Src × Word)) : Prop :=
  ((t.ctx a).latch = none ∧ ∀ p ∈ ops, Reads t a p.1 p.2) ∨ (t.ctx a).latch = some (ops.map Prod.snd)

/-- The state after the retire of `i`, once its effect stands in `t`: the PC moves on (R199), and what retires with it. -/
def retire (i : Instr) (a : Agent) (t : State) : State := finish a (advance i a t)

/-- When `i` issues into `t`, it completes with its effect `u` and retires. -/
def Yields (i : Instr) (s t u : State) : Prop := Issues i s t → exec i s = .next (retire i s.md.who u)

/-- When `i` issues into `t`, it completes with its effect `u`, which sets the PC itself. -/
def Jumps (i : Instr) (s t u : State) : Prop := Issues i s t → exec i s = .next (finish s.md.who u)

/-- The state in which the agent's instruction stops: what a trigger on its PC left (R380), everything before it committed (R171,
R172). -/
def atStop (s : State) : State := commitAll s.md.who (pcTrigger s s.md.who).1

/-- `i` issues into `t`, and no easel form of its strand is outstanding that a stop would wait for (R172, R246). -/
def Stops (i : Instr) (s t : State) : Prop := Issues i s t ∧ ownForms s s.md.who = false

/-- When `i` issues, it raises the program fault `kind` with `cause` and `value` (R365, R366); behind easel forms of its strand that
have not retired it waits for them instead, with nothing changed (R172, R246). -/
def Raises (i : Instr) (s t : State) (kind cause : Nat) (value : Word) : Prop :=
  Issues i s t → exec i s = .next (if ownForms s s.md.who then s else takeFault s.md.who kind cause value (atStop s))

/-- A message of launch `l` is on its way in `u` from quad `src` to quad `dst`, as the interface seals it under `key`: encrypted with its
trailer for a confidential partition, as it is for another (R387, R391). -/
def OnWay (src dst : Fin 64) (l : LaunchId) (key : Option (BitVec 128)) (mk : Header → Instr) (u : State) : Prop :=
  ∃ h : Header, h.port = src.val ∧ h.dest = dst.val ∧ h.launch = l ∧ h.taken = false ∧ sealMsg key (mk h) ∈ u.md.inflight

/-- The first `n` bytes at `va` lie at `pa`, in one piece of ordinary memory that the agent may use so: a translation buffer of the
agent's serves the granule, the access table and the owner permit the access, no sector of it has failed, and it is no IO
location (R126, R210, R394). -/
structure Served (w : Requester) (right : Right) (need : Access) (va : Word) (n pa : Nat) (s : State) : Prop where
  virt : w.physical = false
  bytes : 0 < n
  piece : va.toNat % 32 + n ≤ 32
  found : ∃ sp e, w.space = some sp ∧ tlbFind s w.tlb sp need (va.toNat / 65536) = some e ∧
    pa = (e.pa.toNat + (va.toNat / 65536 - e.va.toNat)) * 65536 + va.toNat % 65536
  memory : isMemory s pa = true
  permitted : allowed s w.master w.part w.command right pa = true
  cached : domain s w.part pa ≠ .io
  clean : poisoned s [(pa, n)] = false

/-- A sub-unit of a quad's easel can take a form with these scoreboard claims (R108, R109, R123, R367). -/
def unitReady (q : Fin 64) (unit : SubUnit) (claims : List Claim) (v : State) : Prop :=
  let x := v.quads.get q
  x.sweeping = false ∧ unit ∉ x.busy ∧ engineStopped v (pIdx x.part) (.easel q) = false ∧
    claimsBegin x claims = true ∧ sbRoom x (entryCount claims) = true

/-- The easel form `i` of a strand, with the source fields and words `ops`, is granted in the moment it issues; `v` is the
state that its effect starts from (R48, R123, R246). -/
structure Grants (i : Instr) (unit : SubUnit) (ops : List (Src × Word)) (claims : List Claim) (q : Fin 64) (c : Fin 4)
    (k : Fin 24) (s v : State) : Prop where
  who : s.md.who = .strand q c k
  issues : ∃ t, Issues i s t ∧ takeLease q c k (isLane (shapeOf i).major) t = some v
  reads : ∀ p ∈ ops, Reads v (.strand q c k) p.1 p.2
  first : dqsEmpty (v.quads.get q) = true
  ready : unitReady q unit claims v

/-- The state after a grant in the moment of issue whose effect is `u`: the entries are made, the sub-unit is busy and its
completion is on its way, the round robin moves on, and the form stands issued with its operands `ops` and tiles `ts`, the
strand past it (R108, R123, R246). -/
def granted (i : Instr) (unit : SubUnit) (ops : List Word) (ts : Handles) (claims : List Claim) (q : Fin 64) (c : Fin 4)
    (k : Fin 24) (s u : State) : State :=
  issueForm q c (dqEntry k i ops ts (s.ctx (.strand q c k)) .granted)
    (post (.easelSubunitComplete q unit)
      (u.updQuad q fun x => makeEntries (.easel unit) claims { x with rr := c + 1, busy := x.busy ++ [unit] }))

/-- When the form, naming the handles `hs`, is granted in the moment it issues, it takes its effect `u`. -/
def GrantYields (i : Instr) (unit : SubUnit) (hs : List (Fin 64)) (ops : List (Src × Word)) (claims : List Claim) (q : Fin 64)
    (c : Fin 4) (k : Fin 24) (s v u : State) : Prop :=
  Grants i unit ops claims q c k s v →
    exec i s = .next (granted i unit (ops.map Prod.snd) (resolveHandles v (.strand q c k) hs) claims q c k s u)

/-- A vector register's lanes of the mask written with `f`, and the flags of those lanes (R245). -/
def laneResult (a : Agent) (M : BitVec 96) (d : Fin 8) (f : Fin 96 → BitVec 32 × Flags) (v : State) : State :=
  raiseFlags a ((active M).foldl (fun l i => l ||| (f i).2) 0) (writeW a d M (Vector.ofFn fun i => (f i).1) v)

/-- The memories keep their canonical form. -/
def MemoryWf (s : State) : Prop := Memory.wf s.mm.mem = true ∧ Memory.wf s.mm.arr = true

/-- The byte that every agent reads at a physical address. -/
def byteAt (s : State) (pa : Nat) : Byte := readCell s.mm.mem pa

end Sys2Proof.Safety
end

