-- ==== Sys2Proof/Certificates/Slice0/Obligations.lean ====
section
/-! DEFINITION. The statements about the model: what its instructions and events do, from the numbered rules of spec/. Each
docstring says what its statement claims. -/

open Sys2Proof Sys2Proof.Machine Sys2Proof.Safety

/-- A named register or a queue age reads its data when its tag is the context's generation; with any other tag it raises
UNINIT (kind 3) in a strict launch and reads 0 in another.
A named destination takes the value with the context's generation and leaves every other register; a push makes the
value q1 and every position one age older; a destination of 31 writes nothing. The two register fields a write leaves alone
keep their contents, in the agent's context and in every other agent's. -/
def Obligations.RegisterFields : Prop :=
  (∀ (s : State) (a : Agent) (f : Src) (x : Word) (tag : Gen),
    (match f with
      | .n i => x = ((s.arch a).n.get i).data ∧ tag = ((s.arch a).n.get i).tag
      | .q i => x = ((s.arch a).q.get i).data ∧ tag = ((s.arch a).q.get i).tag) →
    (tag = (s.ctx a).gen → Reads s a f x) ∧
    (tag ≠ (s.ctx a).gen → s.strict a = false → Reads s a f 0) ∧
    (tag ≠ (s.ctx a).gen → s.strict a = true → readSrc s a f = .error (.fault 3 0 0))) ∧
  (∀ (s : State) (a : Agent) (v : Word),
    (∀ i j : Fin 16,
      (((writeDst s a (.n i) v).arch a).n.get j =
        if j = i then { data := v, tag := (s.ctx a).gen, scr := false } else (s.arch a).n.get j) ∧
      ((writeDst s a (.n i) v).arch a).q.get j = (s.arch a).q.get j) ∧
    (∀ j : Fin 16,
      (((writeDst s a .push v).arch a).q.get j =
        if h : j.val = 0 then { data := v, tag := (s.ctx a).gen, scr := false, resv := none }
        else (s.arch a).q.get ⟨j.val - 1, by omega⟩) ∧
      ((writeDst s a .push v).arch a).n.get j = (s.arch a).n.get j) ∧
    writeDst s a .drop v = s ∧
    (∀ (d : Dst) (b : Agent), b ≠ a → (writeDst s a d v).ctx b = s.ctx b))

/-- Where the agent may issue, its core executes the form, and no window, outstanding result, region or trigger stands in
the way, every instruction passes the checks before its operands, and its effect starts from the state as it is. Where the agent
may not issue, or an easel form of its own that has not retired holds the instruction back, nothing happens. -/
def Obligations.QuietIssues : Prop :=
  ∀ (i : Instr) (s : State),
    (Quiet i s.md.who s → gate i s.md.who s = .go s) ∧
    (mayIssue s s.md.who = false ∨ dispatchHolds s s.md.who (shapeOf i) = true → gate i s.md.who s = .stall s)

/-- Every alu form that issues, its two sources read, writes its result of R183 to its destination and retires. -/
def Obligations.AluResults : Prop :=
  ∀ (d : Dst) (a b : Src) (s t : State) (x y : Word), Reads t s.md.who a x → Reads t s.md.who b y →
    Yields (.aluAdd d a b) s t (writeDst t s.md.who d (x + y)) ∧
    Yields (.aluSub d a b) s t (writeDst t s.md.who d (x - y)) ∧
    Yields (.aluAnd d a b) s t (writeDst t s.md.who d (x &&& y)) ∧
    Yields (.aluOr d a b) s t (writeDst t s.md.who d (x ||| y)) ∧
    Yields (.aluXor d a b) s t (writeDst t s.md.who d (x ^^^ y)) ∧
    Yields (.aluSll d a b) s t (writeDst t s.md.who d (x <<< (y.toNat % 64))) ∧
    Yields (.aluSrl d a b) s t (writeDst t s.md.who d (x >>> (y.toNat % 64))) ∧
    Yields (.aluSra d a b) s t (writeDst t s.md.who d (x.sshiftRight (y.toNat % 64))) ∧
    Yields (.aluSlt d a b) s t (writeDst t s.md.who d (if x.toInt < y.toInt then 1 else 0)) ∧
    Yields (.aluSltu d a b) s t (writeDst t s.md.who d (if x.toNat < y.toNat then 1 else 0)) ∧
    Yields (.aluMin d a b) s t (writeDst t s.md.who d (if x.toInt < y.toInt then x else y)) ∧
    Yields (.aluMax d a b) s t (writeDst t s.md.who d (if x.toInt < y.toInt then y else x)) ∧
    Yields (.aluMinu d a b) s t (writeDst t s.md.who d (if x.toNat < y.toNat then x else y)) ∧
    Yields (.aluMaxu d a b) s t (writeDst t s.md.who d (if x.toNat < y.toNat then y else x))

/-- Every mul form that issues, its two sources read, completes with its result of R184 and R185 at its destination, at
once or behind its lookahead window. -/
def Obligations.MulResults : Prop :=
  ∀ (d : Dst) (a b : Src) (la : Fin 16) (s t : State) (x y : Word), Reads t s.md.who a x → Reads t s.md.who b y →
    let put := fun (v : Word) => longResult t s.md.who la.val d v 0
    Yields (.mulMul d a b la) s t (put (x * y)) ∧
    Yields (.mulMulh d a b la) s t (put ((x.signExtend 128 * y.signExtend 128).extractLsb' 64 64)) ∧
    Yields (.mulMulhu d a b la) s t (put ((x.zeroExtend 128 * y.zeroExtend 128).extractLsb' 64 64)) ∧
    Yields (.mulDiv d a b la) s t (put (if y = 0 then BitVec.allOnes 64 else x.sdiv y)) ∧
    Yields (.mulDivu d a b la) s t (put (if y = 0 then BitVec.allOnes 64 else x.udiv y)) ∧
    Yields (.mulRem d a b la) s t (put (if y = 0 then x else x.srem y)) ∧
    Yields (.mulRemu d a b la) s t (put (if y = 0 then x else x.umod y))

/-- addi, andi, ori, xori, shi, cmpi, lui and auipc that issue write their result to their destination and retire. -/
def Obligations.ImmediateResults : Prop :=
  ∀ (d : Dst) (a : Src) (i15 : BitVec 15) (i12 : BitVec 12) (i20 : BitVec 20) (n : BitVec 6) (s t : State) (x : Word),
    let put := fun (v : Word) => writeDst t s.md.who d v
    Yields (.lui d i20) s t (put (i20.signExtend 64 * 32768)) ∧
    Yields (.auipc d i20) s t (put (((t.arch s.md.who).pc &&& ~~~ (0x7FFF : Word)) + i20.signExtend 64 * 32768)) ∧
    (Reads t s.md.who a x →
      Yields (.addi d a i15) s t (put (x + i15.signExtend 64)) ∧
      Yields (.andi d a i15) s t (put (x &&& i15.signExtend 64)) ∧
      Yields (.ori d a i15) s t (put (x ||| i15.zeroExtend 64)) ∧
      Yields (.xori d a i15) s t (put (x ^^^ i15.signExtend 64)) ∧
      Yields (.shiSll d a n) s t (put (x <<< n.toNat)) ∧
      Yields (.shiSrl d a n) s t (put (x >>> n.toNat)) ∧
      Yields (.shiSra d a n) s t (put (x.sshiftRight n.toNat)) ∧
      Yields (.cmpi .eq d a i12) s t (put (if x = i12.signExtend 64 then 1 else 0)) ∧
      Yields (.cmpi .ne d a i12) s t (put (if x = i12.signExtend 64 then 0 else 1)) ∧
      Yields (.cmpi .lt d a i12) s t (put (if x.toInt < i12.toInt then 1 else 0)) ∧
      Yields (.cmpi .ge d a i12) s t (put (if x.toInt < i12.toInt then 0 else 1)) ∧
      Yields (.cmpi .ltu d a i12) s t (put (if x.toNat < (i12.signExtend 64).toNat then 1 else 0)) ∧
      Yields (.cmpi .geu d a i12) s t (put (if x.toNat < (i12.signExtend 64).toNat then 0 else 1)))

/-- A bits form of a legal field, len1 + 1 bits from pos up, that issues completes: ext and extu write the field extended,
ins writes its destination's old value with the field replaced by the low bits of its source. -/
def Obligations.BitFieldResults : Prop :=
  ∀ (d : Dst) (r : Fin 16) (a : Src) (pos len1 : BitVec 6) (s t : State) (x old : Word),
    pos.toNat + len1.toNat + 1 ≤ 64 → Reads t s.md.who a x →
    let field := x.extractLsb' pos.toNat (len1.toNat + 1)
    Yields (.bitsExt d a pos len1) s t (writeDst t s.md.who d (field.signExtend 64)) ∧
    Yields (.bitsExtu d a pos len1) s t (writeDst t s.md.who d (field.zeroExtend 64)) ∧
    (Reads t s.md.who (.n r) old →
      ∃ v : Word, Yields (.bitsIns r a pos len1) s t (writeDst t s.md.who (.n r) v) ∧
        ∀ k : Nat, k < 64 → v.getLsbD k =
          if pos.toNat ≤ k ∧ k < pos.toNat + len1.toNat + 1 then x.getLsbD (k - pos.toNat) else old.getLsbD k)

/-- Every fpu and fpl form that issues, its sources read, completes: fpu writes its result and adds its flags to FFLG at
once, fpl does at its commit. Each result is one rounding, under FRM, of the exact value of R191 or R194 on the low 32 bits
of the sources. -/
def Obligations.FloatResults : Prop :=
  ∀ (d : Dst) (r : Fin 16) (a b : Src) (la : Fin 16) (s t : State) (x y z : Word),
    Reads t s.md.who a x → Reads t s.md.who b y →
    let rm := RM.ofBits (t.arch s.md.who).frm
    let val := fun (w : Word) => fF32.val (w.toNat % 2 ^ 32)
    let short := fun (v : Word) (fl : Flags) => raiseFlags s.md.who fl (writeDst t s.md.who d v)
    let round := fun (e : Xr × Flags) => arith fF32 rm e
    let long := fun (d : Dst) (e : Xr × Flags) => longResult t s.md.who la.val d (wd (round e).1) (round e).2
    Yields (.fpuAdd d a b) s t (short (wd (round (addX rm (val x) (val y))).1) (round (addX rm (val x) (val y))).2) ∧
    Yields (.fpuSub d a b) s t
      (short (wd (round (addX rm (val x) (val y).neg)).1) (round (addX rm (val x) (val y).neg)).2) ∧
    Yields (.fpuMul d a b) s t (short (wd (round (mulX (val x) (val y))).1) (round (mulX (val x) (val y))).2) ∧
    Yields (.fpuMin d a b) s t (short (fpuMinMaxR false x y).1 (fpuMinMaxR false x y).2) ∧
    Yields (.fpuMax d a b) s t (short (fpuMinMaxR true x y).1 (fpuMinMaxR true x y).2) ∧
    Yields (.fpuCvts d a) s t (short (fpuCvtsR rm x).1 (fpuCvtsR rm x).2) ∧
    Yields (.fpuCvtf d a) s t (short (fpuCvtfR rm x).1 (fpuCvtfR rm x).2) ∧
    Yields (.fpuEq d a b) s t (short (fpuCmpR eqF x y).1 (fpuCmpR eqF x y).2) ∧
    Yields (.fpuLt d a b) s t (short (fpuCmpR ltF x y).1 (fpuCmpR ltF x y).2) ∧
    Yields (.fpuLe d a b) s t (short (fpuCmpR leF x y).1 (fpuCmpR leF x y).2) ∧
    Yields (.fplDiv d a b la) s t (long d (divX (val x) (val y))) ∧
    Yields (.fplSqrt d a la) s t (long d (sqrtX (val x))) ∧
    (Reads t s.md.who (.n r) z →
      Yields (.fplFma r a b la) s t (long (.n r) (fmaX rm (val z) (val x) (val y))))

/-- The special cases of R192 and R194, with NV = 16 and DZ = 8: a comparison with a NaN writes 0, and lt and le raise NV;
-0 equals +0; a NaN operand gives the canonical NaN in add, mul and div; a finite nonzero value divided by zero gives an
infinity of the XOR sign with DZ, 0/0 the canonical NaN with NV; the root of -0 is -0; cvts of a NaN writes 0 with NV.
On finite operands, with their exact values X and Y: the comparisons are those of X and Y and raise no flag; min and max give the
lesser or greater encoding, -0 below +0; cvts gives X rounded to an integer under the mode, saturated with NV outside 32 bits, with
NX = 1 where it is inexact; cvtf of an integer of at most 2^24 is exact, and 2^24 + 1 rounds under the mode with NX. -/
def Obligations.FloatSpecialCases : Prop :=
  ∀ (rm : RM) (x y : Word),
    let val := fun (w : Word) => fF32.val (w.toNat % 2 ^ 32)
    let isNan := fun (w : Word) => ∃ q, val w = .nan q
    (isNan x ∨ isNan y →
      (fpuCmpR eqF x y).1 = 0 ∧ fpuCmpR ltF x y = (0, 16) ∧ fpuCmpR leF x y = (0, 16) ∧
      (fpuAddR rm x y).1 = 0x7FC0_0000 ∧ (fpuMulR rm x y).1 = 0x7FC0_0000 ∧ (fplDivR rm x y).1 = 0x7FC0_0000) ∧
    (fpuCmpR eqF 0x8000_0000 0).1 = 1 ∧ (fpuCmpR leF 0 0x8000_0000).1 = 1 ∧ (fpuCmpR ltF 0x8000_0000 0).1 = 0 ∧
    (∀ (nx ny : Bool) (n d e : Nat), val x = .fin nx (n + 1) d → val y = .fin ny 0 e →
      (fplDivR rm x y).2 = 8 ∧ val (fplDivR rm x y).1 = .inf (nx != ny)) ∧
    fplDivR rm 0 0 = (0x7FC0_0000, 16) ∧ fplSqrtR rm 0x8000_0000 = (0x8000_0000, 0) ∧
    (isNan x → fpuCvtsR rm x = (0, 16)) ∧
    (∀ (nx ny : Bool) (n d m e : Nat), val x = .fin nx n d → val y = .fin ny m e →
      let X : ℚ := (sgn nx n : ℚ) / d
      let Y : ℚ := (sgn ny m : ℚ) / e
      let low := fun (w : Word) => w &&& 0xFFFF_FFFF
      let less := X < Y ∨ (X = Y ∧ nx = true ∧ ny = false)
      fpuCmpR eqF x y = (if X = Y then 1 else 0, 0) ∧ fpuCmpR ltF x y = (if X < Y then 1 else 0, 0) ∧
      fpuCmpR leF x y = (if X ≤ Y then 1 else 0, 0) ∧
      (less → fpuMinMaxR false x y = (low x, 0) ∧ fpuMinMaxR true x y = (low y, 0)) ∧
      (¬ less → fpuMinMaxR false x y = (low y, 0) ∧ fpuMinMaxR true x y = (low x, 0)) ∧
      (∃ v : Int,
        (match rm with
          | .rne => |X - v| < 1 / 2 ∨ (|X - v| = 1 / 2 ∧ v % 2 = 0)
          | .rtz => v = if nx = true then ⌈X⌉ else ⌊X⌋
          | .rup => v = ⌈X⌉
          | .rdn => v = ⌊X⌋) ∧
        fpuCvtsR rm x = (if v < -(2 ^ 31) then (BitVec.ofInt 64 (-(2 ^ 31)), 16) else if 2 ^ 31 ≤ v then (2 ^ 31 - 1, 16)
          else (BitVec.ofInt 64 v, if X = v then 0 else 1)))) ∧
    (let k := (x.setWidth 32).toInt;
      |k| ≤ 2 ^ 24 → (fpuCvtfR rm x).2 = 0 ∧
        ∃ (neg : Bool) (n d : Nat), val (fpuCvtfR rm x).1 = .fin neg n d ∧ (sgn neg n : ℚ) / d = k) ∧
    fpuCvtfR .rne 0x100_0001 = (0x4B80_0000, 1) ∧ fpuCvtfR .rup 0x100_0001 = (0x4B80_0001, 1)

/-- Every br, jal and jr that issues, its sources read and its target even, completes with exactly the registers that R195 to
R197 give: a taken branch and a jump go to their target and may end loops (R51), a branch not taken moves on, a call links n14
with the address after it and marks the queue dead, a return marks the queue and the named registers dead. An odd target in
jr raises ALIGN with the target as VALUE, and nothing of its effect happens. -/
def Obligations.BranchesAndJumps : Prop :=
  ∀ (c : Cond) (a b : Src) (o12 : BitVec 12) (o20 : BitVec 20) (s t : State) (x y : Word),
    let me := s.md.who
    let r := t.arch me
    let g := (t.ctx me).gen
    let goes := fun (i : Instr) (r' : Arch) => Issues i s t → ∃ u, exec i s = .next u ∧ u.arch me = r'
    goes (.jalJump o20) (r.jump (r.pc + 2 * o20.signExtend 64)) ∧
    goes (.jalCall o20) { (r.setN 14 (r.pc + 4) g).markQueue with pc := r.pc + 2 * o20.signExtend 64 } ∧
    (Reads t me a x → Reads t me b y →
      (condHolds c x y = true → goes (.br c a b o12) (r.jump (r.pc + 2 * o12.signExtend 64))) ∧
      (condHolds c x y = false → goes (.br c a b o12) (r.advance 4 g))) ∧
    (Reads t me a x →
      (x.toNat % 2 = 0 →
        goes (.jrJump a) (r.jump x) ∧
        goes (.jrCall a) { (r.setN 14 (r.pc + 4) g).markQueue with pc := x }) ∧
      (x.toNat % 2 = 1 → Raises (.jrJump a) s t 5 0 x ∧ Raises (.jrCall a) s t 5 0 x)) ∧
    (Reads t me (.n 14) x →
      (x.toNat % 2 = 0 → goes .jrRet { r.markQueue.markNamed with pc := x }) ∧
      (x.toNat % 2 = 1 → Raises .jrRet s t 5 0 x))

/-- mark_queue_dead clears the tag of queue position k exactly where bit 16 + k of CMASK is set, mark_named_dead that of
register n[i] exactly where bit i is; a jump to t keeps an active bit exactly where t lies in the loop's body. The data of a
register marked dead stays. -/
def Obligations.DeadMarks : Prop :=
  ∀ (y : Arch) (t : Word) (k : Fin 16) (l : Fin 2),
    (y.markQueue.q.get k).tag = (if y.cmask.getLsbD (16 + k.val) then 0 else (y.q.get k).tag) ∧
    (y.markQueue.q.get k).data = (y.q.get k).data ∧ y.markQueue.n = y.n ∧
    (y.markNamed.n.get k).tag = (if y.cmask.getLsbD k.val then 0 else (y.n.get k).tag) ∧
    (y.markNamed.n.get k).data = (y.n.get k).data ∧ y.markNamed.q = y.q ∧
    (y.jump t).pc = t ∧
    ((y.jump t).act.getLsbD l.val = true ↔
      y.act.getLsbD l.val = true ∧ (y.loops.toList.getD (2 + l.val) Init.reg).data.toNat ≤ t.toNat ∧
        t.toNat ≤ (y.loops.toList.getD (4 + l.val) Init.reg).data.toNat)

/-- At the retire of an instruction that is no taken branch: where loop k is active and ends at the PC, a count above 1 goes
down by 1 and the PC returns to ls_k, a lower one becomes 0 and the loop ends. Where both loops end here, loop 1 is examined
first, and loop 0 only when loop 1 falls through. Where none ends here, the PC moves past the instruction and nothing else
changes. Every open window closes at a back-edge, whether it branches or falls through. A taken branch at le_k goes to its target and leaves the counts. -/
def Obligations.LoopBackEdge : Prop :=
  ∀ (y : Arch) (len : Nat) (g : Gen),
    let reg := fun (z : Arch) (i : Nat) => (z.loops.toList.getD i Init.reg).data
    let ends := fun (k : Fin 2) => y.act.getLsbD k.val = true ∧ reg y (4 + k.val) = y.pc
    let z := y.advance len g
    (∀ k j : Fin 2, j ≠ k → ends k → ¬ ends j →
      (1 < (reg y k.val).toNat →
        z.pc = reg y (2 + k.val) ∧ reg z k.val = reg y k.val - 1 ∧ z.act = y.act ∧ reg z j.val = reg y j.val) ∧
      ((reg y k.val).toNat ≤ 1 →
        z.pc = y.pc + wd len ∧ reg z k.val = 0 ∧ z.act.getLsbD k.val = false ∧
          z.act.getLsbD j.val = y.act.getLsbD j.val ∧ reg z j.val = reg y j.val)) ∧
    (ends 0 → ends 1 →
      (1 < (reg y 1).toNat → z.pc = reg y 3 ∧ reg z 1 = reg y 1 - 1 ∧ reg z 0 = reg y 0 ∧ z.act = y.act) ∧
      ((reg y 1).toNat ≤ 1 → 1 < (reg y 0).toNat →
        z.pc = reg y 2 ∧ reg z 1 = 0 ∧ reg z 0 = reg y 0 - 1 ∧ z.act.getLsbD 1 = false ∧ z.act.getLsbD 0 = true) ∧
      ((reg y 1).toNat ≤ 1 → (reg y 0).toNat ≤ 1 →
        z.pc = y.pc + wd len ∧ reg z 1 = 0 ∧ reg z 0 = 0 ∧ z.act = 0)) ∧
    (¬ ends 0 → ¬ ends 1 → z = { y with pc := y.pc + wd len }) ∧
    (y.backEdge = true ↔ ∃ k : Fin 2, ends k) ∧
    (∀ (i : Instr) (a : Agent) (s : State), (s.arch a).backEdge = true → ((advance i a s).ctx a).fl.wins = []) ∧
    (∀ t, (y.jump t).pc = t ∧ (y.jump t).loops = y.loops)

/-- A loop form that issues, its count register read, writes ls, le and lc of its loop with the strand's generation. With a
count it makes the loop active and moves on; with a count of 0 it ends the loop and goes past the word at le, whose length
it fetches, unless the other loop ends at this word and goes back. -/
def Obligations.LoopSetup : Prop :=
  ∀ (k : Fin 2) (r : Fin 16) (stop : BitVec 15) (s t : State) (c : Word),
    let me := s.md.who
    let i := Instr.loopSet k r stop
    let y := t.arch me
    let g := (t.ctx me).gen
    let le := y.pc + 2 * stop.zeroExtend 64
    let set := ((y.setLoop (2 + k.val) (y.pc + 4) g).setLoop (4 + k.val) le g).setLoop k.val c g
    let bit : BitVec 2 := 1 <<< k.val
    Issues i s t → Reads t me (.n r) c →
    (c ≠ 0 → ∃ u, exec i s = .next u ∧ u.arch me = ({ set with act := y.act ||| bit } : Arch).advance 4 g) ∧
    (∀ (h : Nat) (t' : State), c = 0 → codeHalf me le t = .ok (h, t') → t'.ctx me = t.ctx me →
      let z : Arch := { set with act := y.act &&& ~~~ bit }
      ∃ u, exec i s = .next u ∧ u.arch me = if (z.loopsBack 1 || z.loopsBack 0) = true then z.advance 4 g
        else { z.advance 4 g with pc := le + if h % 2 = 0 then 2 else 4 })

/-- A gets that issues writes the value of its register to its destination. A sets writes the register and moves on; where a
loop ends at the sets, the back-edge is decided by the registers before it. On a strand or an engine hart a number from 0x100
raises PERM cause 3, and an unassigned number below it raises ILLEGAL.
A write below 0x100 followed by a read: CMASK, TRAPC, TRAPPC, TRAPV, FRM and FFLG read what was written in the bits they
have; a loop register reads what was written with the context's generation, LS and LE with bit 0 cleared; LCS takes SACT as written, and
an active bit only where the three registers of its loop carry the strand's generation (R200); GEN, STID, LNCH, CORE,
QUAD, CTC, TRAPH, NETCAP and REV are read-only. Writing one register leaves the named registers, the queue and the memory. -/
def Obligations.SpecialRegisters : Prop :=
  (∀ (d : Dst) (a : Src) (num : BitVec 12) (s t : State) (x : Word),
    let me := s.md.who
    let loopEnds := (t.arch me).backEdge || (t.arch me).atEnd 0 || (t.arch me).atEnd 1;
    (∀ v, readReg t me num.toNat = .ok v → Yields (.gets d num) s t (writeDst t me d v)) ∧
    (Reads t me a x → loopEnds = false → ∀ u, writeReg me num.toNat x t = .ok u →
      Jumps (.sets a num) s t (setPc u me ((t.arch me).pc + 4))) ∧
    (Reads t me a x → loopEnds = true → ∀ w u, writeReg me num.toNat x t = .ok w →
      writeReg me num.toNat x (advance (.sets a num) me t) = .ok u → Jumps (.sets a num) s t u) ∧
    (cselOf t me = none → 0x100 ≤ num.toNat →
      Raises (.gets d num) s t 7 3 0 ∧ (Reads t me a x → Raises (.sets a num) s t 7 3 0)) ∧
    (num.toNat < 0x100 → lowReg t me num.toNat = none →
      Raises (.gets d num) s t 1 0 0 ∧ (Reads t me a x → Raises (.sets a num) s t 1 0 0))) ∧
  (∀ (s : State) (a : Agent) (v : Word),
    let after := fun (num : Nat) => lowReg (writeLow a num v s) a num
    after 0x001 = some (.ok (v &&& 0xFFFF_FFFF)) ∧ after 0x010 = some (.ok (v &&& 0xFF)) ∧ after 0x011 = some (.ok v) ∧
    after 0x012 = some (.ok v) ∧ after 0x018 = some (.ok (v &&& 0x3)) ∧ after 0x019 = some (.ok (v &&& 0x1F)) ∧
    after 0x022 = some (.ok v) ∧ after 0x023 = some (.ok v) ∧
    (∀ n ∈ [0x024, 0x025, 0x026, 0x027], after n = some (.ok (v &&& ~~~ (1 : Word)))) ∧
    (let z := (writeLow a 0x021 v s).arch a;
      z.sact = v.extractLsb' 2 2 ∧ z.loops = (s.arch a).loops ∧
      (∀ k : Fin 2, z.act.getLsbD k.val = true ↔ v.getLsbD k.val = true ∧
        ∀ i ∈ [k.val, 2 + k.val, 4 + k.val], ((s.arch a).loops.toList.getD i Init.reg).tag = (s.ctx a).gen) ∧
      after 0x021 = some (.ok (z.act.setWidth 64 + 4 * z.sact.setWidth 64))) ∧
    (∀ n ∈ [0x000, 0x002, 0x003, 0x004, 0x005, 0x006, 0x007, 0x008, 0x013, 0x020, 0x030, 0x031], writeLow a n v s = s) ∧
    (∀ n, (writeLow a n v s).mm = s.mm ∧ ((writeLow a n v s).arch a).n = (s.arch a).n ∧
      ((writeLow a n v s).arch a).q = (s.arch a).q ∧ (writeLow a n v s).parts = s.parts))

/-- With a handler, none running and no region open, each recoverable trap that issues is taken: TRAPC, TRAPV and TRAPPC as the
table of R203 says, SACT := ACT, ACT := 0, INTRAP := 1, PC := TRAPH, every other register as it was. They are a sysc; a brk and a
trap whose operand is not 0, on no armed breakpoint; and LATE, a wait.p whose request runs and whose DUE has passed. So in every
state that is quiet, each sysc, brk and such trap completes by being taken. A trap whose operand is 0 retires with no effect, on an
armed breakpoint too, which is the model's choice (log 44). On an armed breakpoint a brk, and a trap that would be taken, stop the strand for the debugger at the instruction, with their operand
read. Behind easel forms of the strand that have not retired, none of this happens yet. -/
def Obligations.TrapEntry : Prop :=
  ∀ (a : Src) (code : BitVec 12) (s t : State) (x : Word),
    let me := s.md.who
    let old := (atStop s).arch me
    let pc := (t.arch me).pc
    let armed := atBreakpoint t me = true ∧ (t.ctx me).displaced = none
    let taken := fun (u : State) (cause : BitVec 8) (v ret : Word) =>
      (u.ctx me).sp.trapc = cause ∧ (u.ctx me).sp.trapv = v ∧ (u.ctx me).sp.trappc = ret ∧ (u.ctx me).sp.intrap = true ∧
        u.arch me = { old with sact := old.act, act := 0, pc := (atStop s).traph me }
    let enters := fun (i : Instr) (cause : BitVec 8) (v ret : Word) => Stops i s t → ∃ u, exec i s = .next u ∧ taken u cause v ret
    let stops := fun (i : Instr) => Stops i s t →
      ∃ u, exec i s = .next u ∧ (u.ctx me).st = .parked ∧ (u.ctx me).why = some .debug ∧ (u.arch me).pc = pc
    Reads t me a x →
    (noTrap t me = false →
      enters (.sysc a code) 3 x (pc + 4) ∧
      (¬ armed → enters (.brk a code) 2 x pc ∧ (x ≠ 0 → enters (.trap a code) 2 x pc)) ∧
      (armed → x ≠ 0 → stops (.trap a code)) ∧
      (∀ (d : Dst) (eng : BitVec 5) (seq : BitVec 11) (due : BitVec 48) (r : OutReq), x = eng ++ seq ++ due →
        (eng = 0 ∨ eng = 1 ∨ 16 ≤ eng.toNat) → (t.ctx me).latch = none →
        (t.ctx me).outst.find? (fun r => r.eng == eng && r.seq == seq) = some r →
        r.st = .running → duePassed t due.toNat = true →
        enters (.waitp d a) 1 (lateWord t (ownId t me) eng seq) pc)) ∧
    (x = 0 → Yields (.trap a code) s t t) ∧
    (armed → stops (.brk a code)) ∧
    (t = s → noTrap s me = false → ¬ armed →
      (Quiet (.sysc a code) me s → ∃ u, exec (.sysc a code) s = .next u ∧ taken u 3 x (pc + 4)) ∧
      (Quiet (.brk a code) me s → ∃ u, exec (.brk a code) s = .next u ∧ taken u 2 x pc) ∧
      (Quiet (.trap a code) me s → x ≠ 0 → ∃ u, exec (.trap a code) s = .next u ∧ taken u 2 x pc))

/-- While a handler runs, while TRAPH is 0, and in a region, a sysc, a trap whose condition holds and a brk that is on no armed
breakpoint raise ILLEGAL. -/
def Obligations.TrapRefused : Prop :=
  ∀ (a : Src) (code : BitVec 12) (s t : State) (x : Word),
    let me := s.md.who
    Reads t me a x → ((t.ctx me).sp.intrap = true ∨ t.traph me = 0 ∨ (t.ctx me).sp.inregion = true) →
    Raises (.sysc a code) s t 1 0 0 ∧ (x ≠ 0 → Raises (.trap a code) s t 1 0 0) ∧
    (¬ (atBreakpoint t me = true ∧ (t.ctx me).displaced = none) → Raises (.brk a code) s t 1 0 0)

/-- A rte that issues: outside a handler it raises ILLEGAL; with an odd TRAPPC it raises ALIGN and nothing of its effect
happens; else ACT := SACT, SACT := 0, INTRAP := 0 and the PC goes to TRAPPC, every other register and the generation as they
were. -/
def Obligations.TrapReturn : Prop :=
  ∀ (s t : State),
    let me := s.md.who
    let y := t.ctx me
    (y.sp.intrap = false → Raises .rte s t 1 0 0) ∧
    (y.sp.intrap = true → y.sp.trappc.toNat % 2 = 1 → Raises .rte s t 5 0 y.sp.trappc) ∧
    (y.sp.intrap = true → y.sp.trappc.toNat % 2 = 0 → Issues .rte s t →
      ∃ u, exec .rte s = .next u ∧ (u.ctx me).sp.intrap = false ∧ (u.ctx me).gen = y.gen ∧
        u.arch me = { y.arch with act := y.arch.sact, sact := 0, pc := y.sp.trappc })

/-- A yield that issues on a strand: an index without a liveness record raises ILLEGAL; in a region it retires, not taken; with
its queue's pre-emption pending it retires into the save, the tile ranges of its record named; with the quantum used up (4,096
cycles, counted in tenths) and another strand ready it goes to the tail of the ready list, giving up the lease where its record
keeps no vector register; else it retires, not taken. On an agent with no launch (command and security core; the model's choice,
log 44) the index 0xFFF retires and every other raises ILLEGAL. -/
def Obligations.YieldPoints : Prop :=
  ∀ (index : BitVec 12) (s t : State),
    let me := s.md.who
    let i := Instr.yieldPt index
    (∀ (q : Fin 64) (c : Fin 4) (k : Fin 24) (l : Launch), me = .strand q c k → t.launchRec me = some l →
      let legal := index = 0xFFF ∨ index.toNat < (liveRecords t l).length
      let dead := ∃ r, liveRecord t l index = some r ∧ r.wlive = 0 ∧ (t.core q c).holder = some k
      (¬ legal → Raises i s t 1 0 0) ∧
      (legal → (t.ctx me).sp.inregion = true → Yields i s t t) ∧
      (legal → (t.ctx me).sp.inregion = false →
        (∀ j, preemptedSlot t me = some j →
          Yields i s t (post (.saveComplete j) (yieldTo q c k (some (.saving index (yieldRanges t q (some l) index))) t))) ∧
        (preemptedSlot t me = none →
          ((t.core q c).quantum < 40960 ∨ (t.core q c).ready = [] → Yields i s t t) ∧
          (40960 ≤ (t.core q c).quantum → (t.core q c).ready ≠ [] →
            (¬ dead → Yields i s t (yieldTo q c k none t)) ∧
            (dead → Yields i s t (yieldTo q c k none (releaseLease q c t))))))) ∧
    (t.launchRec me = none → (index ≠ 0xFFF → Raises i s t 1 0 0) ∧ (index = 0xFFF → (∀ q c k, me ≠ .strand q c k) → Yields i s t t))

/-- In a memory of canonical form, a write of one byte is read back at its address, every other address reads as before, and
the form is kept; a run of bytes written is read back in order, and addresses outside the run read as before.
The pieces of an access cover its bytes in rising order without a gap, each lies within one aligned block of 32 bytes, and
none is empty; an access that crosses no boundary is one piece. -/
def Obligations.MemoryBytes : Prop :=
  (∀ (m : List Host.Cell) (a b : Nat) (v : Byte) (bs : List Byte), Memory.wf m = true →
    readCell (writeCell m a v) b = (if b = a then v else readCell m b) ∧ Memory.wf (writeCell m a v) = true ∧
    readCells (writeCells m a bs) a bs.length = bs ∧ Memory.wf (writeCells m a bs) = true ∧
    (b < a ∨ a + bs.length ≤ b → readCell (writeCells m a bs) b = readCell m b)) ∧
  (∀ (a len : Nat), 0 < len →
    let ps := pieces (len / 32 + 2) a len
    ps.flatMap (fun p => (List.range p.2).map fun i => p.1 + i) = (List.range len).map (fun i => a + i) ∧
    (∀ p ∈ ps, 0 < p.2 ∧ p.1 / 32 = (p.1 + p.2 - 1) / 32) ∧
    (a % 32 + len ≤ 32 → ps = [(a, len)]))

/-- An ld that issues, its base read, its address aligned where it is an acquire, all its pieces translated and permitted, none
poisoned, and no IO location read in a region, completes: the bytes, sign- or zero-extended by sz, reach the destination, at once
or behind the lookahead window. An acquire and a load of an IO location read what they read once every access before them is
performed. A misaligned acquire raises ALIGN with the address as VALUE. So in a quiet state with no buffer draining, a load of bytes
that a translation buffer serves completes.
Where the agent holds back no store, a load of memory pieces reads the bytes of memory, in order. Where it holds stores back,
each byte is the one its latest held store gives, and memory's where none covers it. -/
def Obligations.LoadForms : Prop :=
  (∀ (sz : LdSize) (acq : Bool) (d : Dst) (base : Src) (off : BitVec 7) (la : Fin 16) (s t : State) (b : Word),
    let me := s.md.who
    let n := ldBytes sz
    let va := b + off.signExtend 64 * wd n
    let i := Instr.ld sz acq d base off la
    let w := requesterOf t me
    let value := fun (bs : List Byte) => match sz with
      | .s8 | .s16 | .s32 => (BitVec.ofNat (8 * n) (leNat bs)).signExtend 64
      | .z8 | .z16 | .z32 | .d64 => wd (leNat bs)
    let loaded := fun (ps : List (Nat × Nat)) (u : State) =>
      longResult (traceAccess me 1 va (loadEffects (w.via (l1Of me) va u) ps u)) me la.val d (value (ownBytes u me ps)) 0
    Reads t me base b →
    (acq = true → va.toNat % n ≠ 0 → Raises i s t 5 0 va) ∧
    (∀ (ps : List (Nat × Nat)) (u v : State), (acq = true → va.toNat % n = 0) → resolve w .r .read va n t = .ok (ps, u) →
      ((u.ctx me).sp.inregion = true → anyIo u w ps = false) → poisoned u ps = false →
      (if acq = true ∨ anyIo u w ps = true then settled me u = .ok v else v = u) → Yields i s t (loaded ps v)) ∧
    (∀ pa : Nat, t = s → Quiet i me s → (s.ctx me).fl.drain = [] → (acq = true → va.toNat % n = 0) →
      Served (requesterOf s me) .r .read va n pa s → exec i s = .next (retire i me (loaded [(pa, n)] s)))) ∧
  (∀ (s : State) (a : Agent) (ps : List (Nat × Nat)), (∀ p ∈ ps, isMemory s p.1 = true) →
    (heldStores s a = [] →
      ownBytes s a ps = ps.flatMap fun p => (List.range p.2).map fun i => byteAt s (p.1 + i)) ∧
    (∀ (held : List BufEnt) (via : Via) (pa v : Nat) (bs new : List Byte),
      overlay (held ++ [.store via [(v, new)]]) pa bs =
        (List.range bs.length).map fun i =>
          if v ≤ pa + i ∧ pa + i < v + new.length then new.getD (pa + i - v) 0 else (overlay held pa bs).getD i 0))

/-- An st that issues, its base and data read, its address aligned where it is a release, all its pieces translated and
permitted, completes: performed at once outside a region with nothing uncommitted before it, behind the buffer of a committed
region; put in the region buffer inside a region; held for the last uncommitted instruction otherwise, or performed once all
before it is where it is no store to memory. A misaligned release raises ALIGN, and a 65th entry of a region's buffer REGOVF. So
in a quiet state with no buffer draining, a store to bytes that a translation buffer serves is performed. -/
def Obligations.StoreCompletion : Prop :=
  ∀ (sz : StSize) (rel : Bool) (data base : Src) (off : BitVec 7) (s t : State) (b y : Word),
    let me := s.md.who
    let n := stBytes sz
    let va := b + off.signExtend 64 * wd n
    let i := Instr.st sz rel data base off
    let w := requesterOf t me
    Reads t me base b → Reads t me data y →
    (rel = true → va.toNat % n ≠ 0 → Raises i s t 5 0 va) ∧
    (∀ (ps : List (Nat × Nat)) (u : State), (rel = true → va.toNat % n = 0) → resolve w .w .write va n t = .ok (ps, u) →
      let via := w.via (l1Of me) va u
      let new := withBytes ps (leBytes n y.toNat)
      let v := traceAccess me 2 va u
      let f := (v.ctx me).fl
      let memory := (new.all fun x => isMemory v x.1) = true
      ((v.ctx me).sp.inregion = false → f.pend = [] → ∀ z, drained me v = .ok z →
        Yields i s t (storePieces (masterOf me) via new z)) ∧
      ((v.ctx me).sp.inregion = true → 64 ≤ f.rbuf.length + f.wst.length → Raises i s t 8 0 0) ∧
      ((v.ctx me).sp.inregion = true → f.rbuf.length + f.wst.length < 64 → f.pend = [] →
        Yields i s t (v.updFlight me fun f => { f with rbuf := f.rbuf ++ [.store via new] })) ∧
      (∀ p, f.pend.getLast? = some p →
        ((v.ctx me).sp.inregion = true → f.rbuf.length + f.wst.length < 64) →
        (memory ∨ (v.ctx me).sp.inregion = true →
          Yields i s t (v.updFlight me fun f => { f with wst := f.wst ++ [(p.id, .store via new)] })) ∧
        (¬ memory → (v.ctx me).sp.inregion = false → ∀ z, settled me v = .ok z →
          Yields i s t (storePieces (masterOf me) via new z)))) ∧
    (∀ pa : Nat, t = s → Quiet i me s → (s.ctx me).fl.drain = [] → (rel = true → va.toNat % n = 0) →
      Served w .w .write va n pa s →
      exec i s = .next (retire i me
        (storePieces (masterOf me) (w.via (l1Of me) va s) [(pa, leBytes n y.toNat)] (traceAccess me 2 va s))))

/-- Storing pieces of bytes in ordinary memory, by an agent that is not the security core: every address outside the pieces
reads as before; where the pieces do not overlap, each address of a piece reads its new byte; no register of any context
changes. -/
def Obligations.StoreFrame : Prop :=
  ∀ (via : Via) (ps : List (Nat × List Byte)) (s : State),
    Memory.wf s.mm.mem = true → (∀ p ∈ ps, isMemory s p.1 = true) →
    let u := storePieces .cmd via ps s
    (∀ a, (∀ p ∈ ps, a < p.1 ∨ p.1 + p.2.length ≤ a) → byteAt u a = byteAt s a) ∧
    (ps.Pairwise (fun x y => x.1 + x.2.length ≤ y.1) →
      ∀ p ∈ ps, ∀ k < p.2.length, byteAt u (p.1 + k) = p.2.getD k 0) ∧
    (∀ b : Agent, u.ctx b = s.ctx b)

/-- An amo that issues, its operands read, every access before it performed, its address aligned, translated for a write and
permitted, in memory and not poisoned, completes: one indivisible read and write of 4 or 8 bytes by R215's function, the old value
zero-extended to the destination; the write is performed at the home slice under the leaf's attributes. A cas writes only when the
old value is the expected one, and else only reads. A misaligned amo raises ALIGN. So in a
quiet state with no buffer draining, every amo on bytes that a translation buffer serves completes. -/
def Obligations.AmoResults : Prop :=
  ∀ (wide acq rel : Bool) (d : Dst) (r a : Fin 16) (b : Src) (la : Fin 16) (s t : State) (va y : Word),
    let me := s.md.who
    let n := if wide then 8 else 4
    let k := 8 * n
    let w := requesterOf t me
    let v := BitVec.ofNat k y.toNat
    let back := fun (d : Dst) (old : Nat) (u : State) => windowResult (traceAccess me 1 va u) me la.val d (wd old)
    let write := fun (pa : Nat) (new : BitVec k) (u : State) => writePhys (w.via none va u) pa (leBytes n new.toNat) u
    let seen := fun (pa : Nat) (u : State) => loadEffects (w.via none va u) [(pa, n)] u
    let forms : List (Instr × (BitVec k → BitVec k)) :=
      [(.amoAdd wide acq rel d a b la, fun x => x + v), (.amoAnd wide acq rel d a b la, fun x => x &&& v),
       (.amoOr wide acq rel d a b la, fun x => x ||| v), (.amoXor wide acq rel d a b la, fun x => x ^^^ v),
       (.amoMin wide acq rel d a b la, fun x => if x.toInt < v.toInt then x else v),
       (.amoMax wide acq rel d a b la, fun x => if x.toInt < v.toInt then v else x),
       (.amoMinu wide acq rel d a b la, fun x => if x.toNat < v.toNat then x else v),
       (.amoMaxu wide acq rel d a b la, fun x => if x.toNat < v.toNat then v else x),
       (.amoSwap wide acq rel d a b la, fun _ => v)]
    let cas := Instr.amoCas wide acq rel r a b la
    Reads t me (.n a) va → Reads t me b y →
    (∀ z, drained me t = .ok z → va.toNat % n ≠ 0 →
      (∀ f ∈ forms, Raises f.1 s t 5 0 va) ∧ ∀ e, Reads t me (.n r) e → Raises cas s t 5 0 va) ∧
    (∀ (z u : State) (pa m : Nat) (rest : List (Nat × Nat)), drained me t = .ok z → va.toNat % n = 0 →
      resolve (requesterOf z me) .atomic .write va n z = .ok ((pa, m) :: rest, u) →
      (∀ p ∈ (pa, m) :: rest, isMemory z p.1 = true) → poisoned u ((pa, m) :: rest) = false →
      let old := readPhysN u pa n
      let x := BitVec.ofNat k old
      (∀ f ∈ forms, Yields f.1 s t (back d old (write pa (f.2 x) u))) ∧
      (∀ e, Reads t me (.n r) e →
        (x = BitVec.ofNat k e.toNat → Yields cas s t (back (.n r) old (write pa v u))) ∧
        (x ≠ BitVec.ofNat k e.toNat → Yields cas s t (back (.n r) old (seen pa u))))) ∧
    (∀ pa : Nat, t = s → (s.ctx me).fl.drain = [] → va.toNat % n = 0 → Served w .atomic .write va n pa s →
      let old := readPhysN s pa n
      let x := BitVec.ofNat k old
      (∀ f ∈ forms, Quiet f.1 me s → exec f.1 s = .next (retire f.1 me (back d old (write pa (f.2 x) s)))) ∧
      (∀ e, Reads s me (.n r) e → Quiet cas me s →
        exec cas s = .next (retire cas me (back (.n r) old (if x = BitVec.ofNat k e.toNat then write pa v s else seen pa s)))))

/-- A wait.a that issues, its operands given and every access before it performed, and finds a word that differs from the expected
one writes it and retires; with the expected word it arms the monitor and parks. A wait.p of a request that is not outstanding writes its completion word with STATUS
0; of a cancelled one, the word with STATUS 1, and the entry leaves the list; of a faulted one, the entry leaves the list and the
request's fault is raised; of a running one whose DUE has passed, with a handler and none running, it takes LATE (cause 1) at
itself; of another it parks. What parks or faults does so once the easel forms of its strand have retired. So in a quiet state a wait.a of a word that a translation buffer serves, and that differs, completes,
and so does a wait.p of a request that does not run. -/
def Obligations.WaitCompletions : Prop :=
  ∀ (d : Dst) (a b : Src) (s t : State) (va e : Word) (eng : BitVec 5) (seq : BitVec 11) (due : BitVec 48),
    let me := s.md.who
    let w := requesterOf t me
    let p : Word := eng ++ seq ++ due
    let named := fun (r : OutReq) => r.eng == eng && r.seq == seq
    let off := t.updCtx me fun y => { y with outst := y.outst.filter fun r => !named r }
    let seen := fun (ps : List (Nat × Nat)) (u : State) =>
      clearMonitor (fun x => x.who == .agent me) (traceAccess me 1 va (loadEffects (w.via (l1Of me) va u) ps u))
    let read := fun (ps : List (Nat × Nat)) (u : State) => wd (leNat (ownBytes u me ps))
    let parks := fun (i : Instr) (y : Why) (q : State → Prop) => Stops i s t → ∃ w, exec i s = .next w ∧ (w.ctx me).st = .parked ∧
      (w.ctx me).why = some y ∧ q w
    (Given t me [(a, va), (b, e)] → va.toNat % 8 = 0 →
      (∀ (pa m : Nat) (rest : List (Nat × Nat)) (u v : State), let ps := (pa, m) :: rest
        resolve w .r .read va 8 t = .ok (ps, u) → anyIo u w ps = false → poisoned u ps = false → settled me u = .ok v →
        (read ps v ≠ e → Yields (.waita d a b) s t (writeDst (seen ps v) me d (read ps v))) ∧
        (read ps v = e → parks (.waita d a b) (.waita (pa / 64)) fun w =>
          (w.ctx me).latch = some [va, e] ∧ ∃ x ∈ w.xl.monitors, x.sector = pa / 64 ∧ x.who = .agent me)) ∧
      (∀ pa : Nat, t = s → Quiet (.waita d a b) me s → (s.ctx me).fl.drain = [] → Served w .r .read va 8 pa s → read [(pa, 8)] s ≠ e →
        exec (.waita d a b) s = .next (retire (.waita d a b) me (writeDst (seen [(pa, 8)] s) me d (read [(pa, 8)] s))))) ∧
    (Given t me [(a, p)] → (eng = 0 ∨ eng = 1 ∨ 16 ≤ eng.toNat) →
      ((t.ctx me).outst.find? named = none → Yields (.waitp d a) s t (writeDst t me d (eng ++ seq ++ (0 : BitVec 48)))) ∧
      (∀ r, (t.ctx me).outst.find? named = some r →
        (r.st = .cancelled → Yields (.waitp d a) s t (writeDst off me d (eng ++ seq ++ (1 : BitVec 8) ++ (0 : BitVec 40)))) ∧
        (∀ k c v, r.st = .faulted k c v → Stops (.waitp d a) s t → exec (.waitp d a) s = .next (takeFault me k c v off)) ∧
        (r.st = .running → duePassed t due.toNat = true → lateAllowed t me = true → Stops (.waitp d a) s t →
          ∃ w, exec (.waitp d a) s = .next w ∧ (w.ctx me).sp.trapc = 1 ∧ (w.ctx me).sp.trappc = (t.arch me).pc ∧
            (w.ctx me).sp.intrap = true ∧ (w.arch me).pc = (atStop s).traph me) ∧
        (r.st = .running → (duePassed t due.toNat && lateAllowed t me) = false →
          parks (.waitp d a) (.waitp due) fun w => (w.ctx me).latch = some [p])))

/-- A wait.park that issues, its mask M and its deadline D given: a mask above 16 bits raises ILLEGAL; with neither a mask nor a
deadline it writes 0; with a deposit of the mask landed, or the deadline passed, it writes the landed deposits, clears them in
DEPS and retires; else it parks until a deposit or the deadline, with what it read, once the easel forms of its strand have
retired. -/
def Obligations.ParkForm : Prop :=
  ∀ (d : Dst) (a b : Src) (s t : State) (m due : Word),
    let me := s.md.who
    let i := Instr.park d a b
    let mask : BitVec 16 := m.setWidth 16
    let landed := (t.arch me).deps &&& mask
    let out := due ≠ 0 ∧ due.toNat ≤ t.ctc.toNat
    Given t me [(a, m), (b, due)] →
    (2 ^ 16 ≤ m.toNat → Raises i s t 1 0 0) ∧
    (m = 0 → due = 0 → Yields i s t (writeDst t me d 0)) ∧
    (m.toNat < 2 ^ 16 → landed ≠ 0 ∨ out →
      Yields i s t (writeDst (t.updArch me fun y => { y with deps := y.deps &&& ~~~ mask }) me d (landed.zeroExtend 64))) ∧
    (m.toNat < 2 ^ 16 → ¬ (m = 0 ∧ due = 0) → landed = 0 → ¬ out → Stops i s t →
      ∃ u, exec i s = .next u ∧ (u.ctx me).st = .parked ∧ (u.ctx me).why = some (.deposit due) ∧ (u.ctx me).latch = some [m, due])

/-- A region.begin that issues with the buffer of the region before it drained records the checkpoint, its own registers, and sets
INREGION; a commit in a region clears INREGION, drops the checkpoint and leaves the buffer to drain; a commit outside a region
raises ILLEGAL, and so does each form of R225's table inside one. -/
def Obligations.RegionForms : Prop :=
  ∀ (s t : State),
    let me := s.md.who
    ((t.ctx me).fl.drain = [] → Issues .region s t → ∃ u, exec .region s = .next u ∧
      (u.ctx me).sp.inregion = true ∧ (u.ctx me).fl.ckpt = some (t.arch me) ∧ (u.ctx me).fl.rbuf = []) ∧
    ((t.ctx me).sp.inregion = true → Issues .commit s t → ∃ u, exec .commit s = .next u ∧
      (u.ctx me).sp.inregion = false ∧ (u.ctx me).fl.ckpt = none ∧ (u.ctx me).fl.rbuf = [] ∧
      (u.ctx me).fl.drain = (t.ctx me).fl.drain ++ (t.ctx me).fl.rbuf ∧ .regionBufferDrain me ∈ u.md.inflight) ∧
    ((t.ctx me).sp.inregion = false → Raises .commit s t 1 0 0) ∧
    (∀ i : Instr, regionForbids i = true → (s.ctx me).sp.inregion = true → (s.ctx me).fl.wins = [] → (s.ctx me).fl.pend = [] →
      mayIssue s me = true → dispatchHolds s me (shapeOf i) = false → regionRefused (s.ctx me) = none →
      classStop (Agent.cls me) (shapeOf i).major (isQown i) = none → pcTrigger s me = (s, false) →
      gate i me s = .stop (.fault 1 0 0) s)

/-- A flushr or invr of no bytes, or one whose maintenance has completed, retires; one of a range, with every access before it
performed, does the maintenance of the range's sectors and parks until CACHE_MAINTENANCE_COMPLETE, which is on its way. A pref of
a mapped, permitted address that is not IO takes its sector into the L1, and one of an address that does not translate has no
effect. A fence orders nothing more in program order; a release or full one waits for the stores of a committed region, and an
acquire or full one drops the copies of DEV words that the core does not own.
After a sector's write-back, the memory array holds what agents read at every byte of the sector, every other byte of the
array is as it was, and what agents read has not changed. -/
def Obligations.CacheForms : Prop :=
  (∀ (a b : Src) (s t : State) (x len : Word),
    let me := s.md.who
    let w := requesterOf t me;
    (Reads t me a x → Reads t me b len →
      (len = 0 ∨ (t.ctx me).answer.isSome = true → Yields (.flushr a b) s t t ∧ Yields (.invr a b) s t t) ∧
      (∀ z, len ≠ 0 → (t.ctx me).answer = none → drained me t = .ok z →
        let work := fun (f : Nat → State → State) => maintain f w (rangeEnd x len) (len.toNat / 65536 + 2) x.toNat z
        (Stops (.flushr a b) s t → exec (.flushr a b) s =
          .next (parkAgent me .flush (keepWindows me (pcTrigger s me).1 (post (.cacheMaintenanceComplete me) (work flushSector))))) ∧
        (∀ q c k, me = .strand q c k → Stops (.invr a b) s t → exec (.invr a b) s =
          .next (parkAgent me .flush (keepWindows me (pcTrigger s me).1 (post (.cacheMaintenanceComplete me)
            (work (dropL1 fun q' c' => q' == q && c' == c)))))))) ∧
    (Reads t me a x →
      (∀ (pa : Nat) (u : State), xlatPiece w .read x t = (.ok pa, u) → allowed u w.master w.part w.command .r pa = true →
        domain u w.part pa ≠ .io → Yields (.pref a) s t (lineRead (w.via (l1Of me) x u) (pa / 64) u)) ∧
      (∀ e u, xlatPiece w .read x t = (.error e, u) → Yields (.pref a) s t t)) ∧
    Yields (.fence .acq) s t (dropClean me t) ∧
    (∀ z, drained me t = .ok z → Yields (.fence .rel) s t z ∧ Yields (.fence .full) s t (dropClean me z))) ∧
  (∀ (sector : Nat) (s : State), MemoryWf s →
    let u := flushSector sector s
    u.mm.mem = s.mm.mem ∧
    (∀ k < 64, readCell u.mm.arr (64 * sector + k) = byteAt s (64 * sector + k)) ∧
    (∀ a, a < 64 * sector ∨ 64 * sector + 64 ≤ a → readCell u.mm.arr a = readCell s.mm.arr a))

/-- A sender form that issues on a strand outside a region, its operands read, its target named, everything before it performed and
the easel forms of its strand retired, sends its message with those operands, sealed under the mesh key of its quad's partition, and
parks for the answer. Once the answer is there it alone decides: where it is
no denial the form retires, a frame with the token in its destination; a denial raises PERM cause 3. In a local-time launch a
spark is an event at VT on the own core, and sendt an event of at least max(VT, A) + L on an output channel. In a region a spark
is held in the region buffer, and a send once its check is answered, with the token and the value that were checked. -/
def Obligations.SenderForms : Prop :=
  ∀ (d : Dst) (a b : Src) (reg : Fin 16) (s t z : State) (x w a0 a1 a2 st : Word) (q q' : Fin 64) (c c' : Fin 4) (k : Fin 24),
    let me := s.md.who
    let parks := fun (u : State) => (u.ctx me).st = .parked ∧ (u.ctx me).why = some .answer
    let l := (t.launchOf me).getD noLaunch
    let sends := fun (v : State) (i : Instr) (m : DepMsg) => Stops i s t → ∃ u, exec i s = .next u ∧
      OnWay q m.q l (meshKey v q) (fun h => .deposit { m with hdr := h }) u ∧ parks u
    let sendsCre := fun (i : Instr) (f : CreMsg → Instr) (p : CreMsg → Prop) => Stops i s t → ∃ u m, exec i s = .next u ∧
      OnWay q m.q l (meshKey z q) (fun h => f { m with hdr := h }) u ∧ p m ∧ parks u
    let args := Reads t me (.q 2) a0 ∧ Reads t me (.q 1) a1 ∧ Reads t me (.q 0) a2
    let inrgn := (t.ctx me).sp.inregion
    me = .strand q c k →
    (∀ ans, (t.ctx me).answer = some ans →
      (ans ≠ .denied → Yields (.spark a b) s t t ∧ Yields (.sendt a b) s t t ∧ (inrgn = false → Yields (.send reg a b) s t t)) ∧
      (ans ≠ .denied → inrgn = true → (t.ctx me).latch = some [x, w] → targetCore t me x = .ok (q', c') →
        (t.ctx me).fl.rbuf.length < 64 → ∃ m : DepMsg, m.q = q' ∧ m.c = c' ∧ m.k = bits x 4 0 ∧
          m.gen = BitVec.ofNat 16 (bits x 28 13) ∧ m.reg = reg ∧ m.value = w ∧ m.checkOnly = false ∧
          Yields (.send reg a b) s t (t.updFlight me fun f => { f with rbuf := f.rbuf ++ [.send m] })) ∧
      (∀ token, ans = .accepted token → Yields (.frame d a b) s t (writeDst t me d token)) ∧
      (ans = .denied → ∀ i ∈ [Instr.spark a b, .frame d a b, .send reg a b, .sendt a b], Raises i s t 7 3 0)) ∧
    ((t.ctx me).answer = none → Reads t me a x → Reads t me b w →
      (inrgn = false → drained me t = .ok z →
        (args → targetCore t me w = .ok (q', c') → x.toNat % 2 = 0 →
          (t.ltm me = false → sendsCre (.spark a b) .creationMessage fun m =>
            m.q = q' ∧ m.c = c' ∧ m.entry = x ∧ m.a0 = a0 ∧ m.a1 = a1 ∧ m.a2 = a2 ∧ m.frameK = 0 ∧ m.timed = false) ∧
          (t.ltm me = true → (q', c') = (q, c) → sendsCre (.spark a b) .stampedEvent fun m =>
            m.q = q ∧ m.c = c ∧ m.entry = x ∧ m.a0 = a0 ∧ m.a1 = a1 ∧ m.a2 = a2 ∧ m.stamp = (t.core q c).lt.vt)) ∧
        (t.ltm me = false → targetCore t me w = .ok (q', c') → x.toNat % 2 = 0 → bits w 3 0 ≠ 0 →
          sendsCre (.frame d a b) .creationMessage fun m => m.q = q' ∧ m.c = c' ∧ m.entry = x ∧ m.frameK = bits w 3 0) ∧
        (t.ltm me = false → targetCore t me x = .ok (q', c') → ∃ m : DepMsg, m.q = q' ∧ m.c = c' ∧ m.k = bits x 4 0 ∧
          m.gen = BitVec.ofNat 16 (bits x 28 13) ∧ m.reg = reg ∧ m.value = w ∧ m.checkOnly = false ∧
          sends z (.send reg a b) m) ∧
        (t.ltm me = true → Reads t me (.q 3) st → args → x.toNat % 2 = 0 → ∀ (j : Fin 8) (o : OutCh), w = wd j.val →
          (t.core q c).lt.out.get j = some o →
          max (t.core q c).lt.vt.toNat ((t.core q c).lt.a.get j).toNat + o.l.toNat ≤ st.toNat →
          sendsCre (.sendt a b) .stampedEvent fun m =>
            m.q = o.q ∧ m.c = o.c ∧ m.entry = x ∧ m.a0 = a0 ∧ m.a1 = a1 ∧ m.a2 = a2 ∧ m.stamp = st)) ∧
      (inrgn = true → t.ltm me = false → (t.ctx me).fl.rbuf.length < 64 →
        (args → targetCore t me w = .ok (q', c') → x.toNat % 2 = 0 → ∃ m : CreMsg, m.q = q' ∧ m.c = c' ∧ m.entry = x ∧
          m.a0 = a0 ∧ m.a1 = a1 ∧ m.a2 = a2 ∧ m.frameK = 0 ∧
          Yields (.spark a b) s t (t.updFlight me fun f => { f with rbuf := f.rbuf ++ [.spark m] })) ∧
        (targetCore t me x = .ok (q', c') → ∃ m : DepMsg, m.q = q' ∧ m.c = c' ∧ m.k = bits x 4 0 ∧
          m.gen = BitVec.ofNat 16 (bits x 28 13) ∧ m.checkOnly = true ∧ sends t (.send reg a b) m)))

/-- An exit that issues on a strand, once the buffer of its committed region has drained, leaves its slot FREE, its generation
recorded, every tag of its registers and queue 0, and its core free to select another. While a message of the buffer is on its way
it waits, its slot as it was. -/
def Obligations.ExitForm : Prop :=
  ∀ (s t : State) (q : Fin 64) (c : Fin 4) (k : Fin 24),
    let me := s.md.who
    me = .strand q c k → Issues .exit s t →
    (∀ z, drained me t = .ok z →
      ∃ u, exec .exit s = .next u ∧ (u.ctx me).st = .free ∧ (u.ctx me).lastGen = some (z.ctx me).gen ∧
        (∀ i : Fin 16, ((u.arch me).n.get i).tag = 0 ∧ ((u.arch me).q.get i).tag = 0) ∧ (u.core q c).run ≠ some k) ∧
    (∀ z, drained me t = .error (.wait z) →
      ∃ u, exec .exit s = .next u ∧ (u.ctx me).st = (z.ctx me).st ∧ (u.arch me).pc = (z.arch me).pc ∧
        (u.ctx me).fl.drain = (z.ctx me).fl.drain)

/-- A MIGR that issues on a strand without the lease, outside a local-time launch, whose messages and stores have been performed and
whose requests have all retired with no fault to deliver: without a candidate it writes 1 and its outstanding list is empty; with
candidates it asks each of them and stays RUNNING; once every answer is back it writes 2 when the chosen quad is its own, and
otherwise stands MIGRATING with its image on the way to the chosen core. With a request that runs it waits; with a request fault
to deliver it raises that fault, once. -/
def Obligations.MigrationForms : Prop :=
  ∀ (d : Dst) (a : Src) (s t z u : State) (x : Word) (q : Fin 64) (c : Fin 4) (k : Fin 24) (pa m : Nat)
    (rest : List (Nat × Nat)) (own : Fin 64),
    let me := s.md.who
    let forms : List Instr := [.migrAddr d a, .migrTile d a]
    me = .strand q c k → (t.core q c).holder ≠ some k → t.ltm me = false →
    drained me t = .ok z →
    let l := ((z.ctx me).launch).getD noLaunch
    (∀ i ∈ forms, (∃ r ∈ (z.ctx me).outst, r.st = .running) → Issues i s t →
      exec i s = .next (keepWindows me (pcTrigger s me).1 z)) ∧
    (∀ i ∈ forms, ∀ f l, (∀ r ∈ (z.ctx me).outst, r.st ≠ .running) → undelivered (z.ctx me) = some (f, l) → Stops i s t →
      exec i s = .next (takeFault me f.1 f.2.1 f.2.2 (z.updCtx me fun y => { y with outst := l }))) ∧
    ((∀ r ∈ (z.ctx me).outst, r.st ≠ .running) → undelivered (z.ctx me) = none →
      let asks := fun (i : Instr) (v : State) (cands : List (Fin 64)) => Issues i s t →
        (cands = [] → ∃ r, exec i s = .next r ∧ r = finish me (stayHere i d me 1 v) ∧ ((stayHere i d me 1 v).ctx me).outst = []) ∧
        (cands ≠ [] → ∃ r, exec i s = .next r ∧ (r.ctx me).st = (v.ctx me).st ∧
          (r.ctx me).query = some { cands := cands, answers := [], back := [] } ∧
          ∀ n ∈ cands, OnWay q n l (meshKey v q) (fun h => .migrQuery (h, t.strandId q c k) n) r)
      ((z.ctx me).query = none → Reads z me a x →
        (resolve (requesterOf z me) .r .read x 1 z = .ok ((pa, m) :: rest, u) →
          asks (.migrAddr d a) u (if domain z (requesterOf z me).part pa = .io then [] else addrCands z me pa)) ∧
        (x.toNat < 64 →
          (if launchWide (Fin.ofNat 64 x.toNat) then directory z ((z.launchOf me).getD noLaunch) (Fin.ofNat 64 x.toNat)
            else if ((z.quads.get q).find ((z.launchOf me).getD noLaunch) (Fin.ofNat 64 x.toNat)).isSome then some q else none)
              = some own →
          asks (.migrTile d a) z [own])) ∧
      (∀ y, (z.ctx me).query = some y → y.back.length = y.cands.length →
        ((chooseDest y).1 = q → ∀ i ∈ forms, Issues i s t → exec i s = .next (finish me (stayHere i d me 2 z))) ∧
        ((chooseDest y).1 ≠ q → ∀ i ∈ forms, Issues i s t → ∃ r img, exec i s = .next r ∧ (r.ctx me).st = .migrating ∧
          OnWay q (chooseDest y).1 l (meshKey z q) (fun h => .migrationImage
            { hdr := h, q := (chooseDest y).1, c := (chooseDest y).2, source := z.strandId q c k, image := img }) r)))

/-- vtget writes VT, or 0 outside a local-time launch. vtset raises VT to the least of its operand, the earliest waiting stamp and
the least input bound less 1, never back, writes it and announces it. announce sends its operand on the output channels whose
last announcement it exceeds. Outside a local-time launch vtset and announce raise PERM cause 4. -/
def Obligations.LocalTimeForms : Prop :=
  ∀ (d : Dst) (a : Src) (s t : State) (v : Word) (q : Fin 64) (c : Fin 4) (k : Fin 24),
    let me := s.md.who
    let lt := (t.core q c).lt
    let stamp := match waitingEvents t q c with | e :: _ => e.stamp.toNat | [] => 2 ^ 64 - 1
    let bound := match leastBound lt with | some b => b - 1 | none => 2 ^ 64 - 1
    let nv := wd (max lt.vt.toNat (min v.toNat (min stamp bound)))
    me = .strand q c k →
    Yields (.vtget d) s t (writeDst t me d (if t.ltm me then lt.vt else 0)) ∧
    (Reads t me a v →
      (t.ltm me = true →
        Yields (.vtset d a) s t (announceAll false q c nv
          (writeDst (t.updCore q c fun x => { x with lt := { x.lt with vt := nv } }) me d nv)) ∧
        Yields (.announce a) s t (announceAll false q c v t)) ∧
      (t.ltm me = false → Raises (.vtset d a) s t 7 4 0 ∧ Raises (.announce a) s t 7 4 0))

/-- Announcing V on a core: every output channel whose last announcement lies below V has V as its last announcement, every
other keeps its own, and each raised channel sends V to its receiving core, as an announcement or a null event.
A clock announcement or null event V that its interface takes, on a declared input channel of a core with a local-time launch, raises
the channel's bound to V + L, never back, and not past 2^64 - 1 (the model's limit, log 57). A stamped event that its interface takes, for a live launch, with no scrub under way and a place in the
store, its own or one that no reservation holds, joins the waiting events. The earliest startable event starts: VT becomes its stamp, never back, and a strand with its
entry and arguments stands in a FREE slot. A core blocked for 256 cycles with nothing to start sends V, the least of its earliest
waiting stamp and its input bounds, as a null event on every channel whose last announcement lies below V. A round with an event
waiting and no bound that rose since the last counts, and the sixteenth such round raises ZLA cause 2 in its partition; any other
leaves the count. -/
def Obligations.TimeEvents : Prop :=
  (∀ (nul : Bool) (q : Fin 64) (c : Fin 4) (v : Word) (s : State) (j : Fin 8),
    let u := announceAll nul q c v s
    let lt := (s.core q c).lt;
    ((u.core q c).lt.a.get j =
      if ((lt.out.get j).isSome && (lt.a.get j).ult v) = true then v else lt.a.get j) ∧
    (∀ o, lt.out.get j = some o → (lt.a.get j).toNat < v.toNat →
      OnWay q o.q (lt.launch.getD noLaunch) (meshKey s q)
        (fun h => if nul then .nullEvent (h, o.q) o.c o.ch v else .clockAnnouncement (h, o.q) o.c o.ch v) u) ∧
    (u.core q c).lt.vt = lt.vt ∧ (u.core q c).lt.out = lt.out ∧ u.mm = s.mm) ∧
  ((∀ (h : Header) (q : Fin 64) (c : Fin 4) (ch : Fin 8) (w : Word) (s : State) (l : BitVec 32) (id : LaunchId),
    (s.core q c).lt.launch = some id → (s.core q c).lt.chla.get ch = some l →
    let v := cryptWord (meshKey s q) h w
    ∀ i ∈ [Instr.clockAnnouncement (h, q) c ch w, .nullEvent (h, q) c ch w], intercept h q i s = none →
      ∃ u, exec i s = .next u ∧ ((u.core q c).lt.b.get ch).toNat =
        max ((s.core q c).lt.b.get ch).toNat (min (v.toNat + l.toNat) (2 ^ 64 - 1))) ∧
  (∀ (m : CreMsg) (s : State) (l : Launch), intercept m.hdr m.q (.stampedEvent m) s = none →
    s.launch m.hdr.launch = some l → l.cancelled = false → (s.core m.q m.c).scrubbing = false →
    let p := creCrypt (meshKey s m.q) m
    (s.core m.q m.c).entryOf (.stampedEvent p) ≠ none ∨
      (s.core m.q m.c).lt.store.length + (s.core m.q m.c).storeReserved < 64 →
    ∃ u e, exec (.stampedEvent m) s = .next u ∧ (u.core m.q m.c).lt.store = (s.core m.q m.c).lt.store ++ [e] ∧
      e.stamp = p.stamp ∧ e.entry = p.entry ∧ e.a0 = p.a0 ∧ e.a1 = p.a1 ∧ e.a2 = p.a2 ∧ e.launch = m.hdr.launch) ∧
  (∀ (q : Fin 64) (c : Fin 4) (s : State) (e : Event) (k : Fin 24) (g : Gen), startable s q c = some e →
    (s.core q c).freeSlot (fun _ => true) = some k → (s.core q c).nextCgen = some g →
    ∃ u, exec (.eventStart q c) s = .next u ∧
      (u.core q c).lt.vt.toNat = max (s.core q c).lt.vt.toNat e.stamp.toNat ∧
      (u.ctx (.strand q c k)).st = .ready ∧ (u.ctx (.strand q c k)).gen = g ∧
      (u.ctx (.strand q c k)).arch.pc = e.entry ∧ ((u.ctx (.strand q c k)).arch.n.get 0).data = e.a0) ∧
  (∀ (q : Fin 64) (c : Fin 4) (s : State) (l : LaunchId), (s.core q c).lt.launch = some l → launchStarts s l = true →
    2560 ≤ (s.core q c).lt.blocked → liveEvent s q c = false → startable s q c = none → launchDebugged s l = false →
    let p := pIdx (s.quads.get q).part
    engineStopped s p (.core q c) = false →
    let lt := (s.core q c).lt
    let stamp := match waitingEvents s q c with | e :: _ => e.stamp.toNat | [] => 2 ^ 64 - 1
    let v := wd (min stamp ((leastBound lt).getD (2 ^ 64 - 1)))
    let counted := waitingEvents s q c ≠ [] ∧ lt.bRose = false
    ∃ u, exec (.nullRound q c) s = .next u ∧ (u.core q c).lt.blocked = 0 ∧ (u.core q c).lt.bRose = false ∧
      (counted → (u.core q c).lt.nulls = lt.nulls + 1) ∧ (¬ counted → (u.core q c).lt.nulls = lt.nulls) ∧
      (∀ (j : Fin 8) (o : OutCh), lt.out.get j = some o → (lt.a.get j).toNat < v.toNat →
        (u.core q c).lt.a.get j = v ∧ OnWay q o.q l (meshKey s q) (fun h => .nullEvent (h, o.q) o.c o.ch v) u) ∧
      (¬ counted ∨ lt.nulls < 15 → (u.parts.get p).faults = (s.parts.get p).faults) ∧
      (counted → lt.nulls = 15 → (∃ r ∈ (u.parts.get p).faults, r.kind = 9 ∧ r.cause = 2 ∧ r.strand = none ∧ r.launch = some l) ∧
        (u.parts.get p).line = true ∧ engineStopped u p (.core q c) = true)))

/-- A creation message that its interface takes, for a live launch, at a core that is not scrubbing, with a slot reserved for it or
a FREE one that no reservation holds, and a generation left, creates the strand there: its generation, its launch, its entry as
the PC, its arguments in n0 to n2, READY, or PENDING for a frame. With no such slot it is refused into the FIFO of 16. A deposit that
its interface takes, at a core that is not scrubbing, for a slot whose strand has the named generation and launch, writes the register
with the strand's generation and sets its DEPS bit; a parked strand that waits for deposits is READY then, a PENDING frame is with
its last one, and a READY or RUNNING strand goes on as it is. A context scrub that ends leaves in CGEN the least generation above 0 that no live slot has, for the next strand, and every
tag of a live slot that is not its occupant's generation 0. -/
def Obligations.CreationEvents : Prop :=
  (∀ (m : CreMsg) (s : State) (g : Gen) (k : Fin 24) (l : Launch), intercept m.hdr m.q (.creationMessage m) s = none →
    s.launch m.hdr.launch = some l → l.cancelled = false → (s.core m.q m.c).scrubbing = false →
    let x := s.core m.q m.c
    let p := creCrypt (meshKey s m.q) m
    ((match x.entryOf (.creationMessage p) with | some f => f.resv | none => x.freeSlot fun _ => true) = some k →
      x.nextCgen = some g →
      ∃ u, exec (.creationMessage m) s = .next u ∧
        let y := u.ctx (.strand m.q m.c k)
        y.gen = g ∧ y.launch = some m.hdr.launch ∧ y.arch.pc = p.entry ∧ y.arch.cmask = l.rec_.cmask ∧
        (m.frameK = 0 → y.st = .ready ∧ y.arch.n.get 0 = { data := p.a0, tag := g, scr := false } ∧
          y.arch.n.get 1 = { data := p.a1, tag := g, scr := false } ∧
          y.arch.n.get 2 = { data := p.a2, tag := g, scr := false }) ∧
        (m.frameK ≠ 0 → y.st = .pending ∧ y.awaited = m.frameK)) ∧
    (x.entryOf (.creationMessage p) = none → x.freeSlot (fun _ => true) = none → x.fifo.length < 16 →
      ∃ u, exec (.creationMessage m) s = .next u ∧
        ((u.core m.q m.c).fifo.map fun e => e.msg) = (x.fifo.map fun e => e.msg) ++ [.creationMessage p])) ∧
  (∀ (m : DepMsg) (s : State) (k : Fin 24), intercept m.hdr m.q (.deposit m) s = none → m.k = k.val →
    m.checkOnly = false → (s.core m.q m.c).scrubbing = false →
    let y := s.ctx (.strand m.q m.c k)
    let waits := ∃ due, y.why = some (.deposit due)
    (y.st = .parked ∨ y.st = .pending ∨ y.st = .ready ∨ y.st = .running) → y.gen = m.gen → y.launch = some m.hdr.launch →
    ∃ u, exec (.deposit m) s = .next u ∧
      let z := u.ctx (.strand m.q m.c k)
      z.arch.n.get m.reg = { data := (depCrypt (meshKey s m.q) m).value, tag := m.gen, scr := false } ∧
      z.arch.deps = y.arch.deps ||| BitVec.ofNat 16 (2 ^ m.reg.val) ∧
      (y.st = .parked → (waits → z.st = .ready) ∧ (¬ waits → z.st = .parked)) ∧
      (y.st = .pending → (y.awaited ≤ 1 → z.st = .ready) ∧ (1 < y.awaited → z.st = .pending ∧ z.awaited = y.awaited - 1)) ∧
      (y.st = .ready ∨ y.st = .running → z.st = y.st)) ∧
  (∀ (q : Fin 64) (c : Fin 4) (s : State), (s.core q c).scrubbing = true →
    let live := (s.core q c).liveGens
    ∃ u, exec (.contextScrubComplete q c) s = .next u ∧ (u.core q c).scrubbing = false ∧ (u.core q c).cgenFresh = true ∧
      (u.core q c).cgen ≠ 0 ∧ (u.core q c).cgen ∉ live ∧ (∀ g : Gen, 0 < g → g < (u.core q c).cgen → g ∈ live) ∧
      (∀ (k : Fin 24) (i : Fin 16), ((s.core q c).ctxs.get k).st ≠ .free →
        ((u.ctx (.strand q c k)).arch.n.get i).tag ≠ (s.ctx (.strand q c k)).gen →
        ((u.ctx (.strand q c k)).arch.n.get i).tag = 0))

/-- A FREE place is reserved for the first sender of the refusal FIFO that has none, and its notice goes out to the sender's quad. A
notice that the quad's interface takes lets the sender that waits there send again, except a distributor's message whose slot is
saved; one that waits no more is released. A timeout of a sender that has had its notice and whose message is not on its way sends the
release and keeps the message as one refused with a full FIFO; a release that the core's interface takes takes its sender out; a
resend puts a late message on its way. -/
def Obligations.RefusalEvents : Prop :=
  ∀ (q : Fin 64) (c : Fin 4) (s : State) (e : Refusal19) (h d : Header),
    let x := s.core q c
    let src : Fin 64 := Fin.ofNat 64 h.dest
    let here := Instr.contextFreeNotice (h, q) c
    let back := Instr.refusalRelease (h, q) c
    let first := fun (p : Refusal19 → Bool) => x.fifo.find? p = some e
    let releases := fun (from_ : Fin 64) (l : LaunchId) (u : State) =>
      OnWay from_ q l (meshKey s from_) (fun h => .refusalRelease (h, q) c) u
    let sent := fun (m : Instr) (d : Header) (u : State) =>
      OnWay (Fin.ofNat 64 d.port) (Fin.ofNat 64 d.dest) d.launch (meshKey s (Fin.ofNat 64 d.port)) (fun h => withHeader (fun _ => h) m) u
    (∀ (t : List Refusal19) (k : Fin 24), x.fifo = e :: t → e.resv = none → x.freePlace e.msg = some k →
      headerOf e.msg = some d →
      ((serveFifo q c s).core q c).fifo.head? = some { e with resv := some k } ∧
        OnWay q (Fin.ofNat 64 d.port) d.launch (meshKey s q) (fun h => .contextFreeNotice (h, q) c) (serveFifo q c s)) ∧
    (intercept h src here s = none → first (fun e => e.resv.isSome && !e.noticed && senderPort e == src.val) →
      (e.waiting = false → ∃ u, exec here s = .next u ∧ releases src h.launch u) ∧
      (e.waiting = true → (∀ m, e.msg = .creationMessage m → distributorWaits s m = false) → headerOf e.msg = some d →
        ∃ u, exec here s = .next u ∧ sent e.msg d u)) ∧
    (first (fun e => e.resv.isSome && e.noticed && e.waiting && notOnItsWay s e.msg) →
      ∃ u, exec (.resendTimeout q c) s = .next u ∧
        releases (Fin.ofNat 64 (senderPort e)) ((msgLaunch e.msg).getD noLaunch) u ∧
        (u.core q c).late = x.late ++ [e.msg] ∧
        (u.core q c).fifo = x.fifo.map fun d => if d = e then { e with waiting := false } else d) ∧
    (intercept h q back s = none →
      first (fun e => e.resv.isSome && e.noticed && !e.waiting && senderPort e == h.port) →
      ∃ u, exec back s = .next u ∧ ((u.core q c).fifo.map fun d => d.msg) = (x.fifo.erase e).map fun d => d.msg) ∧
    (∀ m ms, x.late = m :: ms → headerOf m = some d →
      ∃ u, exec (.refusedResend q c) s = .next u ∧ (u.core q c).late = ms ∧ sent m d u)

/-- A query that the candidate quad's interface takes, of a live strand whose MIGR asks, adds the quad's free slots to what the MIGR
keeps and sends the answer back; the answer that the strand's quad takes marks the candidate as heard. An image that its interface
takes, from a MIGRATING strand, at a core that is not scrubbing with a FREE slot whose last generation differs, stands there with the
image's generation, PC and registers, and the old slot is FREE. -/
def Obligations.MigrationEvents : Prop :=
  (∀ (h : Header) (src : StrandId) (quad : Fin 64) (s : State) (w : Query), s.alive src = true →
    (s.ctx (agentOf src)).query = some w →
    (intercept h quad (.migrQuery (h, src) quad) s = none → quad ∈ w.cands → (∀ e ∈ w.answers, e.1 ≠ quad) →
      ∃ u, exec (.migrQuery (h, src) quad) s = .next u ∧
        OnWay quad src.q h.launch (meshKey s quad) (fun h => .migrQueryAnswer (h, src)) u ∧
        (u.ctx (agentOf src)).query = some { w with answers := w.answers ++ [(quad, freeCounts (s.quads.get quad))] }) ∧
    (intercept h src.q (.migrQueryAnswer (h, src)) s = none → h.port = quad.val → quad ∈ w.cands → quad ∉ w.back →
      ∃ u, exec (.migrQueryAnswer (h, src)) s = .next u ∧
        (u.ctx (agentOf src)).query = some { w with back := w.back ++ [quad] })) ∧
  (∀ (m : MigrMsg) (s : State) (l : Launch) (k : Fin 24),
    let x := s.core m.q m.c
    let p := migrCrypt (meshKey s m.q) m
    let g : Gen := BitVec.ofNat 16 (fieldAt p.image 220 2)
    intercept m.hdr m.q (.migrationImage m) s = none → s.launch m.hdr.launch = some l → l.cancelled = false →
    s.alive m.source = true → (s.ctx (agentOf m.source)).st = .migrating → x.scrubbing = false →
    imageSlot x (x.entryOf (.migrationImage p)) g = some k → (x.ctxs.get k).st = .free → fieldAt p.image 223 1 = 0 →
    ∃ u, exec (.migrationImage m) s = .next u ∧
      let y := u.ctx (.strand m.q m.c k)
      y.st = .ready ∧ y.gen = g ∧ y.arch.pc = wordAtOff p.image 224 ∧
      (∀ i : Fin 16, (y.arch.n.get i).data = wordAtOff p.image (8 * i.val) ∧
        (y.arch.n.get i).tag = BitVec.ofNat 16 (fieldAt p.image (128 + 2 * i.val) 2)) ∧
      (u.ctx (agentOf m.source)).st = .free)

/-- An answer other than a refusal that the sender's quad takes, to a live strand that is parked for it, makes the strand READY with
the answer at hand. A core that runs nothing and is not stopped, gated or saved runs its first ready strand with a new quantum. -/
def Obligations.StrandEvents : Prop :=
  (∀ (h : Header) (id : StrandId) (ans : Answer) (s : State), s.alive id = true → (s.ctx (agentOf id)).st = .parked →
    (s.ctx (agentOf id)).why = some .answer → ans ≠ .refused →
    intercept h id.q (.targetAnswer (h, .strand id) ans) s = none →
    ∃ u, exec (.targetAnswer (h, .strand id) ans) s = .next u ∧ (u.ctx (agentOf id)).st = .ready ∧
      (u.ctx (agentOf id)).answer = some (answerCrypt (meshKey s id.q) h ans)) ∧
  (∀ (q : Fin 64) (c : Fin 4) (k : Fin 24) (rest : List (Fin 24)) (s : State),
    (s.core q c).run = none → engineStopped s (pIdx (s.quads.get q).part) (.core q c) = false →
    (s.quads.get q).power ≠ .gated → (s.core q c).ready = k :: rest → frozen s (s.ctx (.strand q c k)) = false →
    ∃ u, exec (.coreSelect q c) s = .next u ∧ (u.core q c).run = some k ∧ (u.core q c).quantum = 0 ∧
      (u.ctx (.strand q c k)).st = .running ∧ (u.core q c).ready = rest.filter fun j => j != k)

/-- Every w form that is granted in the moment it issues, the mask and the vector registers it reads current, completes: each
active lane of its destination takes the element function of its operands' lanes, under FRM where the rounding mode matters,
and FFLG the flags of those lanes. sel writes every lane. An L16 word does what its W32 word does, with its destination as
the first operand and w7 as the factor of mac. -/
def Obligations.LaneResults : Prop :=
  ∀ (ty : LaneTy) (t16 : L16Ty) (m d x y z : Fin 8) (s v : State) (q : Fin 64) (c : Fin 4) (k : Fin 24) (M : BitVec 96)
    (X Y Z D W : Lanes),
    let me : Agent := .strand q c k
    let yields := fun (i : Instr) (u : State) => GrantYields i .lanes [] [] [] q c k s v u
    let put := fun (ty : LaneTy) (f : ElemFn) (A B C : Fin 96 → BitVec 32) =>
      laneResult me M d (fun i => onLane ty f (rmOf v me) (A i) (B i) (C i)) v
    let o : Fin 96 → BitVec 32 := fun _ => 0
    readM v me m = .ok M → readW v me x = .ok X → readW v me y = .ok Y →
    let two := fun (f : ElemFn) => put ty f X.get Y.get o
    let one := fun (f : ElemFn) => put ty f o Y.get o
    let lt := l16Lane t16
    let two16 := fun (f : ElemFn) => put lt f D.get X.get o
    let one16 := fun (f : ElemFn) => put lt f o X.get o
    yields (.wAdd ty m d x y) (two (elemAdd ty)) ∧ yields (.wSub ty m d x y) (two (elemSub ty)) ∧
    yields (.wRsub ty m d x y) (two (elemRsub ty)) ∧ yields (.wMul ty m d x y) (two (elemMul ty)) ∧
    yields (.wMin ty m d x y) (two (elemMinMax false ty)) ∧ yields (.wMax ty m d x y) (two (elemMinMax true ty)) ∧
    yields (.wAnd ty m d x y) (two elemAnd) ∧ yields (.wOr ty m d x y) (two elemOr) ∧
    yields (.wXor ty m d x y) (two elemXor) ∧ yields (.wAndn ty m d x y) (two (elemAndn ty)) ∧
    yields (.wShl ty m d x y) (two (elemShl ty)) ∧ yields (.wShr ty m d x y) (two (elemShr ty)) ∧
    yields (.wMov ty m d y) (one elemMov) ∧ yields (.wAbs ty m d y) (one (elemSign false ty)) ∧
    yields (.wNeg ty m d y) (one (elemSign true ty)) ∧
    yields (.wSel ty m d x y) (writeW me d (BitVec.allOnes 96)
      (Vector.ofFn fun i => if M.getLsbD i.val then X.get i else Y.get i) v) ∧
    (readW v me z = .ok Z → yields (.wFma ty m d x y z) (put ty (elemFma ty) X.get Y.get Z.get)) ∧
    (readW v me d = .ok D →
      yields (.wMac ty m d x y) (put ty (elemFma ty) X.get Y.get D.get) ∧
      yields (.l16Add t16 m d x) (two16 (elemAdd lt)) ∧ yields (.l16Sub t16 m d x) (two16 (elemSub lt)) ∧
      yields (.l16Rsub t16 m d x) (two16 (elemRsub lt)) ∧ yields (.l16Mul t16 m d x) (two16 (elemMul lt)) ∧
      yields (.l16Min t16 m d x) (two16 (elemMinMax false lt)) ∧ yields (.l16Max t16 m d x) (two16 (elemMinMax true lt)) ∧
      yields (.l16And t16 m d x) (two16 elemAnd) ∧ yields (.l16Or t16 m d x) (two16 elemOr) ∧
      yields (.l16Xor t16 m d x) (two16 elemXor) ∧ yields (.l16Andn t16 m d x) (two16 (elemAndn lt)) ∧
      yields (.l16Shl t16 m d x) (two16 (elemShl lt)) ∧ yields (.l16Shr t16 m d x) (two16 (elemShr lt)) ∧
      yields (.l16Mov t16 m d x) (one16 elemMov) ∧ yields (.l16Abs t16 m d x) (one16 (elemSign false lt)) ∧
      yields (.l16Neg t16 m d x) (one16 (elemSign true lt)) ∧
      (readW v me 7 = .ok W → yields (.l16Mac t16 m d x) (put lt (elemFma lt) X.get W.get D.get)))

/-- On an integer type of n bits the element functions are arithmetic modulo 2^n, shifts count modulo n, shr is arithmetic on
signed types and min and max compare by signedness; on a float type each is one rounding of the exact result. Of a 16-bit type
a lane holds two elements, done one by one. A write of a vector register changes the lanes of the mask, fills the rest of a
stale register with zeros, keeps the rest of a current one and every other vector register, mask and context; a mask write is
read back, and m0 takes none. -/
def Obligations.LaneElements : Prop :=
  (∀ (ty : LaneTy) (rm : RM) (x y z : Nat), let n := tyWidth ty
    x < 2 ^ n → y < 2 ^ n → z < 2 ^ n → tyFmt ty = none →
    elemAdd ty rm x y z = ((x + y) % 2 ^ n, 0) ∧ elemSub ty rm x y z = ((x + 2 ^ n - y) % 2 ^ n, 0) ∧
    elemRsub ty rm x y z = ((y + 2 ^ n - x) % 2 ^ n, 0) ∧ elemMul ty rm x y z = (x * y % 2 ^ n, 0) ∧
    elemFma ty rm x y z = ((z + x * y) % 2 ^ n, 0) ∧ elemShl ty rm x y z = (x * 2 ^ (y % n) % 2 ^ n, 0) ∧
    (tySigned ty = false → elemShr ty rm x y z = (x / 2 ^ (y % n), 0) ∧ elemMinMax false ty rm x y z = (min x y, 0) ∧
      elemMinMax true ty rm x y z = (max x y, 0)) ∧
    (tySigned ty = true →
      elemShr ty rm x y z = (((BitVec.ofNat n x).sshiftRight (y % n)).toNat, 0) ∧
      elemMinMax false ty rm x y z = (if (BitVec.ofNat n x).toInt < (BitVec.ofNat n y).toInt then x else y, 0) ∧
      elemMinMax true ty rm x y z = (if (BitVec.ofNat n x).toInt < (BitVec.ofNat n y).toInt then y else x, 0)) ∧
    elemAndn ty rm x y z = (x &&& (BitVec.ofNat n y ^^^ BitVec.allOnes n).toNat, 0) ∧
    elemSign true ty rm x y z = ((2 ^ n - y) % 2 ^ n, 0)) ∧
  (∀ (ty : LaneTy) (f : Fmt) (rm : RM) (x y z : Nat), tyFmt ty = some f →
    elemAdd ty rm x y z = arith f rm (addX rm (f.val x) (f.val y)) ∧
    elemSub ty rm x y z = arith f rm (addX rm (f.val x) (f.val y).neg) ∧
    elemMul ty rm x y z = arith f rm (mulX (f.val x) (f.val y)) ∧
    elemFma ty rm x y z = arith f rm (fmaX rm (f.val z) (f.val x) (f.val y))) ∧
  (∀ (ty : LaneTy) (f : ElemFn) (rm : RM) (x y z : BitVec 32),
    let half := fun (h : Nat) => f rm (x.extractLsb' (16 * h) 16).toNat (y.extractLsb' (16 * h) 16).toNat
      (z.extractLsb' (16 * h) 16).toNat
    (packed16 ty = true →
      (onLane ty f rm x y z).1 = BitVec.ofNat 16 (half 1).1 ++ BitVec.ofNat 16 (half 0).1 ∧
      (onLane ty f rm x y z).2 = (half 0).2 ||| (half 1).2) ∧
    (packed16 ty = false → onLane ty f rm x y z =
      (BitVec.ofNat 32 (f rm x.toNat y.toNat z.toNat).1, (f rm x.toNat y.toNat z.toNat).2))) ∧
  (∀ (q : Fin 64) (c : Fin 4) (k : Fin 24) (d : Fin 8) (M : BitVec 96) (L : Lanes) (s : State),
    let me : Agent := .strand q c k
    let old := (s.core q c).w.get d
    let u := writeW me d M L s
    (∃ R, readW u me d = .ok R ∧ ∀ i : Fin 96, R.get i =
      if M.getLsbD i.val then L.get i else if old.tag = (s.core q c).leaseGen then old.data.get i else 0) ∧
    (∀ e : Fin 8, e ≠ d → (u.core q c).w.get e = (s.core q c).w.get e) ∧
    (u.core q c).m = (s.core q c).m ∧ (∀ b : Agent, u.ctx b = s.ctx b) ∧ u.mm = s.mm ∧
    writeM me 0 M s = s ∧ (d ≠ 0 → readM (writeM me d M s) me d = .ok M ∧
      ∀ e : Fin 8, e ≠ d → ((writeM me d M s).core q c).m.get e = (s.core q c).m.get e))

/-- Every other lane form that is granted in the moment it issues, what it reads current, completes with its result: functions
and conversions lane by lane under the mask with their flags, reductions, topk and pick in every lane, scan, perm, the counter
generators and bcast under the mask, compares and mask operations into the mask register, ext and mpop into a register
destination, and a row transfer between the active lanes and the tile row that its row word names, under a scoreboard entry
for that row. -/
def Obligations.LaneFunctions : Prop :=
  ∀ (ty : LaneTy) (m d x y : Fin 8) (g : Dst) (a : Src) (s v : State) (q : Fin 64) (c : Fin 4) (k : Fin 24) (M P Q : BitVec 96)
    (X Y : Lanes) (w : Word) (p : Nat × Tile) (vs : List (Nat × BitVec 32)),
    let me : Agent := .strand q c k
    let all := BitVec.allOnes 96
    let rm := rmOf v me
    let yields := fun (i : Instr) (u : State) => GrantYields i .lanes [] [] [] q c k s v u
    let reads := fun (i : Instr) (u : State) => GrantYields i .lanes [] [(a, w)] [] q c k s v u
    let hd : Fin 64 := Fin.ofNat 64 (bits w 5 0)
    let moves := fun (i : Instr) (claims : List Claim) (u : State) => GrantYields i .lanes [hd] [(a, w)] claims q c k s v u
    let ts := resolveHandles v me [hd]
    let fill := fun (r : Nat × Flags) => raiseFlags me r.2 (writeW me d all (Vector.replicate 96 (fillLane ty r.1)) v)
    let row := fun (write : Bool) => [({ tile := p.1, gen := p.2.gen, lo := rowOfWord w, hi := rowOfWord w, write := write } : Claim)]
    (readM v me m = .ok M →
      (readM v me x = .ok P → readM v me y = .ok Q →
        yields (.wmaskAnd m d x y) (writeM me d (M &&& (P &&& Q)) v) ∧
        yields (.wmaskOr m d x y) (writeM me d (M &&& (P ||| Q)) v) ∧
        yields (.wmaskXor m d x y) (writeM me d (M &&& (P ^^^ Q)) v)) ∧
      reads (.wmoveBcast m a d) (writeW me d M (Vector.replicate 96 (w.setWidth 32)) v) ∧
      yields (.wmoveMpop m g) (writeDst v me g (mpopWord M)) ∧
      (rowTile ts v me w = .ok p → rowLanes v me p.2 w (active M) = .ok vs → moves (.wmoveTrld m a d) (row false)
        (writeW me d M (Vector.ofFn fun i => (lookupNat vs i.val).getD 0) v)) ∧
      (rowTile ts v me w = .ok p → (v.quads.get q).entry p.1 = some p.2 → readW v me x = .ok X → moves (.wmoveTrst m a x) (row true)
        (v.updQuad q fun z => (active M).foldl (fun z i => putRowLane p.2 w (X.get i) i.val z) z))) ∧
    (readW v me x = .ok X → reads (.wmoveExt g a x)
      (writeDst v me g (if h : w.toNat < 96 then (X[w.toNat]).zeroExtend 64 else 0))) ∧
    (readM v me m = .ok M → readW v me x = .ok X → readW v me y = .ok Y →
    let fn := fun (h : Xr → Xr × Flags) => laneResult me M d (fun i => onLane ty (elemFn ty h) .rne 0 (Y.get i) 0) v
    let cvt := fun (e : ElemFn) => laneResult me M d (fun i => onLane .f32 e rm (X.get i) (Y.get i) 0) v
    let cmp := fun (i : Instr) (e : Fmt → Nat → Nat → Bool × Flags) (o : Int → Int → Bool) =>
      let out := fun (i : Fin 96) => match tyFmt ty with
        | some f => e f (X.get i).toNat (Y.get i).toNat
        | none => (o (intVal ty (X.get i).toNat) (intVal ty (Y.get i).toNat), 0)
      ∃ R : BitVec 96, (∀ i : Fin 96, R.getLsbD i.val = (M.getLsbD i.val && (out i).1)) ∧
        yields i (raiseFlags me ((active M).foldl (fun l i => l ||| (out i).2) 0) (writeM me d R v))
    (yields (.wmathExp2 ty m d y) (fn exp2X) ∧ yields (.wmathLog2 ty m d y) (fn log2X) ∧
      yields (.wmathRecip ty m d y) (fn recipX) ∧ yields (.wmathRsqrt ty m d y) (fn rsqrtX) ∧
      yields (.wmathTanh ty m d y) (fn tanhX) ∧
      yields (.wmathRsum ty m d y) (fill (rsumOf ty rm (activeElems ty M Y))) ∧
      yields (.wmathRmax ty m d y) (fill (rmaxOf ty (activeElems ty M Y))) ∧
      yields (.wmathScan ty m d y) (laneResult me M d (fun i =>
        let upTo := fun (e : Nat) => rsumOf ty rm
          (activeElems ty (M &&& BitVec.ofNat 96 (2 ^ i.val - 1)) Y ++ (laneElems ty (Y.get i)).take (e + 1))
        if packed16 ty then (BitVec.ofNat 16 (upTo 1).1 ++ BitVec.ofNat 16 (upTo 0).1, (upTo 0).2 ||| (upTo 1).2)
        else (BitVec.ofNat 32 (upTo 0).1, (upTo 0).2)) v) ∧
      yields (.wmathPerm ty m d x y)
        (writeW me d M (Vector.ofFn fun i => if h : (Y.get i).toNat < 96 then X[(Y.get i).toNat] else 0) v)) ∧
    (cmp (.wmaskEq ty m d x y) eqF (fun x y => x == y) ∧ cmp (.wmaskLt ty m d x y) ltF (fun x y => decide (x < y)) ∧
      cmp (.wmaskLe ty m d x y) leF (fun x y => decide (x ≤ y))) ∧
    (yields (.wcvtUp ty m d x y) (cvt (cvtElem ty .f32 false)) ∧ yields (.wcvtDown ty m d x y) (cvt (cvtElem .f32 ty false)) ∧
      yields (.wcvtDownsat ty m d x y) (cvt (cvtElem .f32 ty true)) ∧ yields (.wcvtToint ty m d x y) (cvt (cvtElem .f32 ty true)) ∧
      yields (.wcvtFromint ty m d x y) (cvt (cvtElem ty .f32 false))) ∧
    (yields (.wsampTopk m d x y) (writeW me d all (Vector.ofFn fun i =>
        let cand := (active M).filter fun j => !(fF32.val (X.get j).toNat).isNan
        if i ∈ cand ∧ rankOf X cand i < min 96 (Y.get 0).toNat then BitVec.ofNat 32 (rankOf X cand i) else BitVec.allOnes 32) v) ∧
      yields (.wsampCbg m d x y) (writeW me d M (Vector.ofFn fun i => cbg4 (pairWord X) (pairWord Y) i.val) v) ∧
      yields (.wsampDraw m d x y)
        (writeW me d M (Vector.ofFn fun i => BitVec.ofNat 32 (uniformF32 (cbg4 (pairWord X) (pairWord Y) i.val))) v) ∧
      yields (.wsampPick m d x y)
        (raiseFlags me (if (active M).any fun i => (pickWeight (X.get i).toNat).2 then 16 else 0)
          (writeW me d all (Vector.replicate 96 (BitVec.ofNat 32
            (pickIndex (active M) (fun i => (pickWeight (X.get i).toNat).1) (fF32.val (Y.get 0).toNat)))) v))))

/-- With no sweep under way: a tile.alloc of a legal shape for a free handle, with an entry, a place and a generation to be had,
binds the handle there; one of no elements does nothing; an illegal shape or a bound handle raises SHAPE. The count that the tile
takes is the model's own field, by which a form already issued knows it (R268). With room in the scoreboard, a tile.free marks its
tile as being freed and leaves its entry, and a tile.st and a tile.zero leave theirs; a free of an unbound handle and a zero of no
rows do nothing. A tile.ld whose rows may begin pushes its element, or copies its row to the row
of the other tile; behind an earlier access it makes its entries and waits, and takes its effect on the tiles of its entries when
nothing before them holds them back. A form on an unbound handle raises SHAPE. During a sweep each of them waits. -/
def Obligations.TileForms : Prop :=
  ∀ (nw : Src) (h h2 : Fin 64) (la : Fin 16) (s t : State) (q : Fin 64) (c : Fin 4) (k : Fin 24) (l : LaunchId) (w z : Word)
    (e e2 base : Nat) (g : Gen) (tl tl2 : Tile) (bs : List Byte),
    let me := s.md.who
    let x := t.quads.get q
    let tld := Instr.tld nw h h2 la
    me = .strand q c k → t.launchOf me = some l →
    (x.sweeping = true → loadEntries x c k = [] → ∀ i ∈ [tld, .talloc nw h, .tfree h, .tst nw h, .tzero nw h], Issues i s t →
      exec i s = .next (atStop s)) ∧
    (x.sweeping = false →
      (Reads t me nw w →
        (shapeOk w = true → x.find l h = none → shRows w = 0 ∨ shCols w = 0 → Yields (.talloc nw h) s t t) ∧
        (shapeOk w = true → x.find l h = none → shRows w ≠ 0 → shCols w ≠ 0 →
          (launchWide h && (directory t l h).isSome) = false → (x.tiles.filter fun y => y.2.launch == l).length < 64 →
          x.freeEntry = some e → x.place w = some base → nextGen x.liveGens 300 x.qgen.toNat = some g →
          Yields (.talloc nw h) s t (t.updQuad q fun y =>
            { y with qgen := g, tiles := insertNat y.tiles e
                      { launch := l, handle := h, shape := w, base := base, gen := g, freeing := false, serial := y.sbNext }
                     sbNext := y.sbNext + 1 })) ∧
        (shapeOk w = false ∨ (x.find l h).isSome = true → Raises (.talloc nw h) s t 6 0 0)) ∧
      (x.find l h = none → (launchWide h && (directory t l h).isSome) = false → Yields (.tfree h) s t t) ∧
      (x.find l h = some (e, tl) → sbRoom x 1 = true → Yields (.tfree h) s t (commitEntry q e tl.gen 0 (shRows tl.shape - 1) .free
        (t.updQuad q fun y => { y with tiles := insertNat y.tiles e { tl with freeing := true } }))) ∧
      (Reads t me nw w → x.find l h = none →
        (loadEntries x c k = [] → Raises tld s t 6 0 0) ∧ Raises (.tzero nw h) s t 6 0 0 ∧
        (Reads t me (.q 0) z → Raises (.tst nw h) s t 6 0 0)) ∧
      (Reads t me nw w → x.find l h = some (e, tl) →
        let rd : Claim := { tile := e, gen := tl.gen, lo := ewRow w, hi := ewRow w, write := false }
        let waits := fun (n : Nat) => Issues tld s t → ∃ u, exec tld s = .next u ∧
          (loadEntries (u.quads.get q) c k).length = n ∧ (u.ctx me).latch = some [w] ∧ (u.ctx me).arch = (t.ctx me).arch
        (elementOk tl w = true → ewDrow w = 0 → bitAt w 0 = false →
          (h2 = 0 → loadEntries x c k = [] → sbRoom x 1 = true →
            (claimsBegin x [rd] = true → elementValue x (t.strict me) tl w = .ok z →
              Yields tld s t (longResult t me la.val .push z 0)) ∧
            (claimsBegin x [rd] = false → waits 1)) ∧
          (Reads t me (.q 0) z → sbRoom x 1 = true →
            Yields (.tst nw h) s t (commitEntry q e tl.gen (ewRow w) (ewRow w) (.put (ewCol w) z) t))) ∧
        (x.find l h2 = some (e2, tl2) → elementOk tl w = true → bitAt w 0 = true → shPlanes tl2.shape = false →
          ewDrow w < shRows tl2.shape → shAcc tl.shape = false → shAcc tl2.shape = false →
          shType tl.shape = shType tl2.shape → shCols tl.shape = shCols tl2.shape → loadEntries x c k = [] → sbRoom x 2 = true →
          let both := [rd, { tile := e2, gen := tl2.gen, lo := ewDrow w, hi := ewDrow w, write := true }]
          (claimsBegin x both = true →
            readTile x (t.strict me) tl (rowOff tl (ewRow w)) (rowBytes (shCols tl.shape) (tyBits (shType tl.shape))) = .ok bs →
            Yields tld s t (windowResult (t.updQuad q fun y =>
              noteWrite e2 tl2.gen (ewDrow w) (ewDrow w) (writeTile tl2 (rowOff tl2 (ewDrow w)) bs y)) me la.val .drop 0)) ∧
          (claimsBegin x both = false → waits 2)) ∧
        (bits w 63 48 = 0 → bits w 31 16 = 0 → shPlanes tl.shape = false → bits w 47 32 < shRows tl.shape →
          bits w 47 32 + bits w 15 0 ≤ shRows tl.shape →
          (bits w 15 0 = 0 → Yields (.tzero nw h) s t t) ∧
          (bits w 15 0 ≠ 0 → sbRoom x 1 = true → Yields (.tzero nw h) s t
            (commitEntry q e tl.gen (bits w 47 32) (bits w 47 32 + bits w 15 0 - 1) .zero t))))) ∧
    (∀ (p : LoadOps) (u : State), loadEntries x c k ≠ [] → waitedFault (t.ctx me).waited (t.ctx me) = none →
      (loadBegins x c k = true → Given t me [(nw, w)] → waitedOps x w (loadEntries x c k) = .ok p →
        loadEffect q p la.val me t = .ok u → Yields tld s t (dropLoads q c k (dropCancelled me (t.ctx me).waited u))) ∧
      (loadBegins x c k = false → Issues tld s t → exec tld s = .next (atStop s)))

/-- The bytes of one granule that are written into a tile are read back by the tile, every granule outside keeps its contents,
and the rest of a stale granule reads zero. An accumulator entry as it is written carries its 34-bit value and passes its residue
check, and with any one of its 36 bits flipped it does not pass. -/
def Obligations.TileStorage : Prop :=
  (∀ (x : Quad) (t : Tile) (off : Nat) (bs : List Byte) (strict : Bool), 0 < bs.length → off % 64 + bs.length ≤ 64 →
    let y := writeTile t off bs x
    readTile y strict t off bs.length = .ok bs ∧
    (∀ g, g ≠ t.base + off / 64 → y.granule g = x.granule g) ∧
    ((y.granule (t.base + off / 64)).tag = t.gen ∧ (y.granule (t.base + off / 64)).scr = false) ∧
    ((x.granule (t.base + off / 64)).tag ≠ t.gen → ∀ j < 64, j < off % 64 ∨ off % 64 + bs.length ≤ j →
      (granuleBytes (y.granule (t.base + off / 64)).data j 1) = [0])) ∧
  (∀ (v k : Nat), v < 2 ^ 34 →
    (accEntry v).toNat % 2 ^ 34 = v ∧ accOk (accEntry v) = true ∧
    (k < 36 → accOk (accEntry v ^^^ BitVec.ofNat 36 (2 ^ k)) = false))

/-- A canvas or drain form that is granted in the moment it issues, its operand word within the checks of its rule, completes. A
load records the binding at the core and latches the canvas; a pass leaves the accumulator rows of R281, and the canvas as it is
or, where it must reload, latched anew; a pass of no rows does nothing; a drain writes the converted rows, and raises OF for an
integer drain of a row with SAT; a zero clears the rows. That a form has its whole effect at its grant, here in the moment in which
it issues, is the model's reading (DEDUCED, log 6). -/
def Obligations.CanvasForms : Prop :=
  ∀ (nw : Src) (ha hb : Fin 64) (la : Fin 16) (s v : State) (q : Fin 64) (c : Fin 4) (k : Fin 24) (w : Word) (ext : Bool),
    let me : Agent := .strand q c k
    let x := v.quads.get q
    let hs : List (Fin 64) := [ha, hb]
    let hp : List (Fin 64) := [ha, hb, Fin.ofNat 64 (bits w 61 56)]
    let ts := resolveHandles v me hs
    let tp := resolveHandles v me hp
    let yields := fun (i : Instr) (unit : SubUnit) (hs : List (Fin 64)) (claims : List Claim) (u : State) =>
      GrantYields i unit hs [(nw, w)] claims q c k s v u
    (∀ (b : WBind) (l : Window × List Nat), loadBinding ext ha hb w ts me v = .ok b → latch x (v.strict me) b = .ok l →
      metaOk b.shape b.row0 l.1 = true →
      yields (if ext then .canvasxLoad nw ha hb la else .cload nw ha hb la) .canvas hs (bindClaims true b)
        ((v.updCore q c fun y => { y with wbind := b }).updQuad q fun y => { y with canvas := some (canvasOf b l) })) ∧
    (∀ (p : PassOps) (l : Window × List Nat) (rows : List (Nat × AccRow)), passOps ext ha hb w tp me v = .ok p →
      let i := if ext then Instr.canvasxPass nw ha hb la else .cpass nw ha hb la
      let reload := mustReload x p.bind
      (pwRows w = 0 → yields i .canvas hp [] v) ∧
      (pwRows w ≠ 0 → passWeights x (v.strict me) reload p.bind = .ok l →
        passRows x (v.strict me) p (columnWeights p.bind l.1) l.2 w (List.range (pwRows w)) = .ok rows →
        injected x p.blocks = false → x.entry p.acc.1 = some p.acc.2 →
        yields i .canvas hp (passClaims ext ha hb [w] tp me v) (v.updQuad q fun y =>
          { y with canvas := if reload = true then some (canvasOf p.bind l) else y.canvas
                   acc := rows.foldl (fun m e => insertNat m e.1 e.2) y.acc }))) ∧
    (∀ (p : (Nat × Tile) × (Nat × Tile)) (rows : List (Nat × List Byte)), drainOps ha hb w ts me v = .ok p →
      drainRows x p.1.2 p.2.2 w (List.range (dwRows w)) = .ok rows → x.entry p.2.1 = some p.2.2 →
      let sat := (dwKind w == 5 || dwKind w == 6) &&
        (List.range (dwRows w)).any fun r => (readAccRow x p.1.2 (dwRow w + r)).sat
      yields (.cdrain nw ha hb la) .drain hs (drainClaims ha hb [w] ts me v)
        (raiseFlags me (if sat then 4 else 0)
          (v.updQuad q fun y => rows.foldl (fun z e => writeTile p.2.2 e.1 e.2 z) y))) ∧
    (∀ (e : Nat) (t : Tile), drainSource ha w (resolveHandles v me [ha]) me v = .ok (e, t) → bits w 63 19 = 0 →
      (dwRows w = 0 → yields (.czero nw ha la) .drain [ha] [] v) ∧
      (dwRows w ≠ 0 → x.entry e = some t → yields (.czero nw ha la) .drain [ha]
        [{ tile := e, gen := t.gen, lo := dwRow w, hi := dwRow w + dwRows w - 1, write := true }]
        (v.updQuad q (zeroRows t (dwRow w) (dwRow w + dwRows w - 1)))))

/-- An eng form that issues on a strand with no sweep under way, its handles bound, everything before it performed and its records
read, completes with its kick: the promise word of its engine in its destination. A kick that its engine, the scoreboard and the outstanding list have room for, without a barrier tag,
queues one request of the form's kind on the engine, with the engine's next sequence number, and lists it as outstanding. arm
and claim need the launch's own barrier, or a free one to claim; a claim writes 0, 1 or 2; wait retires when nothing is
pending and parks otherwise. -/
def Obligations.EngineForms : Prop :=
  ∀ (d : Dst) (a : Src) (h : Fin 64) (b : Fin 16) (la : Fin 16) (s t : State) (q : Fin 64) (c : Fin 4) (k : Fin 24) (l : Launch)
    (v : Word),
    let me := s.md.who
    me = .strand q c k → Reads t me a v →
    (∀ (kind : Nat) (p act : Nat × Tile) (rs : Rec) (pa : Nat) (z u u' u2 : State) (eng : BitVec 5) (w : Word),
      let i : Instr := match kind with
        | 0 => .cpyIn d a h la | 1 => .cpyOut d a h la | 2 => .gath d a h la | 3 => .scat d a h la | 4 => .coll d a h la
        | _ => .weir d a h la
      let record : Word := if kind = 5 then v &&& ~~~ (0x3F : Word) else v
      kind ≤ 5 → (t.quads.get q).sweeping = false → t.launchRec me = some l → drained me t = .ok z → boundTile t me h = .ok p →
      (if kind = 5 then boundTile t me (Fin.ofNat 64 (bits v 5 0)) = .ok act else act = p) →
      (kind = 4 → launchWide h = false) →
      readRecs kind me (if kind = 5 then record else v &&& ~~~ (0x1F : Word)) z = .ok (rs, pa, u) →
      (if kind = 5 then ∃ n, pickWeir (requesterOf u me) (wd (Rec.base rs)) pa u = .ok (n, u2) ∧ eng = BitVec.ofNat 5 (16 + n.val)
        else eng = BitVec.ofNat 5 (pickHart (u.quads.get q)).val ∧ u2 = u) →
      kick kind q me l record rs p act eng u2 = .ok (w, u') →
      Yields i s t (windowResult u' me la.val d w)) ∧
    (∀ (kind : Nat) (p act : Nat × Tile) (rs : Rec) (record : Word) (eng : BitVec 5) (hart : Hart),
      t.hart (engAgent q eng) = some hart → tagOf kind (t.ctx me).sp.btag = none →
      sbRoom (t.quads.get q) (reqClaims kind (reqRows kind (Rec.rows rs) p.2.shape act.2.shape) p act).length = true →
      hart.queue.length < (if eng.toNat < 16 then 16 else 32) → (t.ctx me).outst.length < 32 →
      ∃ w u r, kick kind q me l record rs p act eng t = .ok (w, u) ∧
        w.toNat / 2 ^ 59 = eng.toNat ∧ w.toNat / 2 ^ 48 % 2 ^ 11 = hart.nextSeq.toNat ∧
        (∃ hart', u.hart (engAgent q eng) = some hart' ∧ hart'.queue = hart.queue ++ [r] ∧ hart'.nextSeq = hart.nextSeq + 1) ∧
        r.kind = kind ∧ r.record = record ∧ r.seq = hart.nextSeq ∧ r.tentry = p.1 ∧ r.tgen = p.2.gen ∧ r.launch = l.id ∧
        (u.ctx me).outst = (t.ctx me).outst ++ [{ eng := eng, seq := hart.nextSeq, st := .running }]) ∧
    (t.launchOf me = some l.id →
      let bar := (t.quads.get q).bars.get b
      let own := fun (o : Option LaunchId) => t.updQuad q fun x => x.updBar b fun y => { y with owner := o }
      (v = 0 → Yields (.barm a b) s t (t.updSpec me fun p => { p with btag := 0 })) ∧
      (v ≠ 0 → bar.owner = some l.id → Yields (.barm a b) s t (t.updSpec me fun p => { p with btag := BitVec.ofNat 5 (16 + b.val) })) ∧
      (v ≠ 0 → bar.owner ≠ some l.id → Raises (.barm a b) s t 7 3 0) ∧
      (v ≠ 0 → bar.owner = none → Yields (.barrClaim d a b) s t (writeDst (own (some l.id)) me d 1)) ∧
      (v ≠ 0 → bar.owner = some l.id → Yields (.barrClaim d a b) s t (writeDst t me d 1)) ∧
      (∀ m, v ≠ 0 → bar.owner = some m → m ≠ l.id → Yields (.barrClaim d a b) s t (writeDst t me d 0)) ∧
      (v = 0 → bar.owner ≠ some l.id → Yields (.barrClaim d a b) s t (writeDst t me d 0)) ∧
      (v = 0 → bar.owner = some l.id → bar.pending ≠ 0 → Yields (.barrClaim d a b) s t (writeDst t me d 2)) ∧
      (v = 0 → bar.owner = some l.id → bar.pending = 0 → Yields (.barrClaim d a b) s t (writeDst (own none) me d 1)) ∧
      (bar.owner ≠ some l.id → Raises (.bwait b) s t 7 3 0) ∧
      (bar.owner = some l.id → bar.pending = 0 → Yields (.bwait b) s t t) ∧
      (bar.owner = some l.id → bar.pending ≠ 0 → Stops (.bwait b) s t → ∃ u, exec (.bwait b) s = .next u ∧
        (u.ctx me).st = .parked ∧ (u.ctx me).why = some (.barrier b)))

/-- On an engine hart or a weir unit, an engx form that issues with its operands in range completes: dmard brings a run of bytes
into the staging buffer or a port, dmawr writes one from the staging buffer or PORT 3, each answering its length; mbox ends the
head request with its STATUS; kwait takes the head request's words into n0 to n3, and parks when there is none; gcmkey loads the key
and salt of a slot granted to the request's partition, and raises PERM for any other; gcmenc and gcmdec replace the staging buffer's text,
gcmdec answering 1 and leaving zeros when the tag differs. -/
def Obligations.MicrocodeForms : Prop :=
  ∀ (d : Dst) (a b : Src) (s t : State) (h : Hart) (x y : Word),
    let me := s.md.who
    let stage := fun (bs : List Byte) (u : State) => u.updHart me fun h => { h with staging := patchBytes h.staging 0 bs }
    t.hart me = some h → Reads t me a x → Reads t me b y →
    (∀ (l : LenWord) (bs : List Byte) (u u' : State), lenWord me false y = .ok l → readLoc me l x t = .ok (bs, u) →
      (l.via = false → Yields (.engxDmard d a b) s t (writeDst (stage bs u) me d (wd l.len))) ∧
      (l.via = true → appendPort me l.port bs u = .ok u' → Yields (.engxDmard d a b) s t (writeDst u' me d (wd l.len)))) ∧
    (∀ (l : LenWord) (u : State), lenWord me true y = .ok l →
      (l.via = false → writeLoc me l x (h.staging.take l.len) t = .ok u →
        Yields (.engxDmawr d a b) s t (writeDst u me d (wd l.len))) ∧
      (l.via = true → drainPort me l x t = .ok u → Yields (.engxDmawr d a b) s t (writeDst u me d (wd l.len)))) ∧
    (h.queue = [] → Yields (.engxMbox a) s t t ∧ (Issues .engxKwait s t → ∃ u, exec .engxKwait s = .next u ∧
      (u.ctx me).st = .parked ∧ (u.ctx me).why = some .request)) ∧
    (∀ (r : Request) (rest : List Request), h.queue = r :: rest →
      (∃ st, Yields (.engxMbox a) s t (endRequest r st (fresh t).2) ∧ (bits x 47 40 = 0 → st = none) ∧
        (bits x 47 40 = 1 → st = some .cancelled) ∧ (bits x 47 40 = 2 → ∃ kind cause v, st = some (.faulted kind cause v))) ∧
      (∃ u, Yields .engxKwait s t u ∧ ∀ i : Fin 16, (u.arch me).n.get i =
        if i.val < 4 then { data := (requestWords t r).getD i.val 0, tag := (t.ctx me).gen, scr := false }
        else (t.arch me).n.get i) ∧
      (bits x 7 0 < 64 → (t.mg.slots.get (Fin.ofNat 64 (bits x 7 0))).grant = some (pIdx (t.partOf me)) →
        Yields (.engxGcmkey a) s t (t.updHart me fun h =>
          { h with gcm := some ((t.mg.slots.get (Fin.ofNat 64 (bits x 7 0))).key, (t.mg.slots.get (Fin.ofNat 64 (bits x 7 0))).salt) })) ∧
      (bits x 7 0 < 64 → (t.mg.slots.get (Fin.ofNat 64 (bits x 7 0))).grant ≠ some (pIdx (t.partOf me)) →
        Raises (.engxGcmkey a) s t 7 3 0)) ∧
    (∀ (key : BitVec 128) (salt : BitVec 32), h.gcm = some (key, salt) → 1 ≤ y.toNat → y.toNat ≤ 4080 →
      let iv := salt.toNat * 2 ^ 64 + x.toNat
      let text := h.staging.take y.toNat
      let tag := (h.staging.drop y.toNat).take 16
      Yields (.engxGcmenc d a b) s t (writeDst (stage ((gcmEncrypt key.toNat iv text).1 ++
        (gcmEncrypt key.toNat iv text).2) t) me d 0) ∧
      (∀ p, gcmDecrypt key.toNat iv text tag = some p → Yields (.engxGcmdec d a b) s t (writeDst (stage p t) me d 0)) ∧
      (gcmDecrypt key.toNat iv text tag = none →
        Yields (.engxGcmdec d a b) s t (writeDst (stage (List.replicate y.toNat 0) t) me d 1)))

/-- On a command core or the security core a priv form that issues with its operand fields in range completes: tlbinv discards
translations, halt raises or releases a partition's line, stoprec answers and clears the count of stop records once none is
awaited, and parks before, cctl writes copies back or, with no write of the partition on its way, retires, pset, everything
before it performed, writes a region register of a partition whose configuration is open. genscrub answers 1 for a quad that is not
idle; for an idle one it begins the scrub and parks, and answers 0 once it is done; qown does the same for the quad it moves, and
answers 1 where R388, R389 or R416 refuses the move, which is the model's choice (DEDUCED, log 33: R389 says only that it retires with
no effect). A pset that changes nothing of a frozen partition is no change, and is not counted. A reserved operand bit raises
ILLEGAL. -/
def Obligations.PrivForms : Prop :=
  ∀ (d : Dst) (a b : Src) (s t : State) (x y : Word),
    let me := s.md.who
    Reads t me a x → Reads t me b y →
    (bits y 63 16 = 0 → bits y 7 2 = 0 →
      let p : BitVec 8 := BitVec.ofNat 8 (bits y 15 8)
      (bits y 1 0 = 0 → Yields (.tlbinv a b) s t (discard p none none false t)) ∧
      (bits y 1 0 = 1 → Yields (.tlbinv a b) s t (discard p none (some (x.toNat / 65536)) false t)) ∧
      (bits y 1 0 = 2 → Yields (.tlbinv a b) s t (discard p none none true t)) ∧
      (bits y 1 0 = 3 → Raises (.tlbinv a b) s t 1 0 0)) ∧
    (x.toNat < 64 →
      let p : Fin 64 := Fin.ofNat 64 x.toNat
      let q : Fin 64 := Fin.ofNat 64 x.toNat
      (y = 1 → Yields (.halt a b) s t (raiseLine p 0 t)) ∧ (y = 0 → Yields (.halt a b) s t (releaseLine p t)) ∧
      (1 < y.toNat → Raises (.halt a b) s t 1 0 0) ∧
      ((t.parts.get p).toStop = [] → Yields (.stoprec d a) s t
        (writeDst (t.updPart p fun z => { z with stopCount := 0 }) me d (wd (t.parts.get p).stopCount))) ∧
      ((t.parts.get p).toStop ≠ [] → Issues (.stoprec d a) s t → ∃ u, exec (.stoprec d a) s = .next u ∧
        (u.ctx me).st = .parked ∧ (u.ctx me).why = some (.stopRecords p)) ∧
      (y = 0 → Yields (.cctl a b) s t (flushQuad q t)) ∧
      (∀ z, y = 2 → homeFence (BitVec.ofNat 8 x.toNat) t = .ok z → Yields (.cctl a b) s t z) ∧
      (y = 1 → Yields (.cctl a b) s t (foldSectors cleanBasin (linesWhere t fun n =>
        target t (64 * n) == .device && ownV (ownerOf t (64 * n)) && ownPart (ownerOf t (64 * n)) == x.toNat) t)) ∧
      (2 < y.toNat → Raises (.cctl a b) s t 1 0 0) ∧
      ((t.ctx me).answer = some .landed → Yields (.genscrub d a) s t (endScrub q (writeDst t me d 0)) ∧
        (qownOk y = true → Yields (.qown d a b) s t (endScrub q (giveQuad q y (writeDst t me d 0))))) ∧
      ((t.ctx me).answer ≠ some .landed → (t.quads.get q).scrubbing = false →
        (quadBusy t q = true → Yields (.genscrub d a) s t (writeDst t me d 1)) ∧
        (quadBusy t q = false → Issues (.genscrub d a) s t → ∃ u, exec (.genscrub d a) s = .next u ∧
          (u.ctx me).st = .parked ∧ (u.ctx me).why = some (.scrub q) ∧ (u.quads.get q).scrubbing = true ∧
          .genscrubComplete q ∈ u.md.inflight) ∧
        (qownOk y = true →
          (∀ u, qownRefused q y t = some u → Yields (.qown d a b) s t (writeDst u me d 1)) ∧
          (qownRefused q y t = none → quadBusy t q = true → Yields (.qown d a b) s t (writeDst t me d 1)) ∧
          (qownRefused q y t = none → quadBusy t q = false → quadTraffic t q = false → Issues (.qown d a b) s t →
            ∃ u, exec (.qown d a b) s = .next u ∧ (u.ctx me).st = .parked ∧ (u.ctx me).why = some (.scrub q) ∧
              (u.quads.get q).scrubbing = true ∧ (u.quads.get q).tlb = [] ∧ .genscrubComplete q ∈ u.md.inflight)))) ∧
    (64 ≤ x.toNat → Raises (.genscrub d a) s t 1 0 0 ∧ Raises (.qown d a b) s t 1 0 0) ∧
    (let reserved := y &&& ~~~ (if bitAt x 16 = true then (0x000F_FFFF_FFFF_0000 : Word) else 0x000F_FFFF_FFFF_0007);
      (bits x 63 17 ≠ 0 ∨ bits x 7 6 ≠ 0 ∨ reserved ≠ 0 → Raises (.pset a b) s t 1 0 0) ∧
      (∀ z, bits x 63 17 = 0 → bits x 7 6 = 0 → bits x 15 8 < 64 → reserved = 0 → drained me t = .ok z →
        let p : Fin 64 := Fin.ofNat 64 (bits x 15 8)
        (isFrozen z p = true → Yields (.pset a b) s t
          (if y = rgnWord (z.parts.get p) (bits x 5 0) (bitAt x 16) then z else refuseConfig p z)) ∧
        (isFrozen z p = false → configClosed z p = true → Yields (.pset a b) s t z) ∧
        (isFrozen z p = false → configClosed z p = false →
          Yields (.pset a b) s t (writeRegion p (bits x 5 0) (bitAt x 16) y z))))

/-- The classes of R176: on a strand a priv form raises PERM cause 3 and an engx form ILLEGAL; on an engine hart a priv form
raises PERM cause 3, and an L16 word, a msg, ltm, lane, tile, canvas, eng or barrier form ILLEGAL; on a command or the security
core those and engx raise ILLEGAL, and priv.qown raises PERM cause 3 on a command core. Every other form passes. An agent that
may issue, of a form that its class refuses, takes that fault whatever its operands hold, with everything before it committed, its
own easel forms among it. -/
def Obligations.CoreClasses : Prop :=
  (∀ (i : Instr), (shapeOf i).major ≠ 0x41 →
    let m := (shapeOf i).major
    let easel := m = 0x40 ∨ (0x1E ≤ m ∧ m ≤ 0x2B) ∨ m = 0x32
    classStop .strand m (isQown i) = (if m = 0x31 then some (.fault 7 3 0) else if m = 0x30 then some (.fault 1 0 0) else none) ∧
    classStop .hart m (isQown i) =
      (if m = 0x31 then some (.fault 7 3 0) else if easel then some (.fault 1 0 0) else none) ∧
    classStop .command m (isQown i) = (if easel ∨ m = 0x30 then some (.fault 1 0 0)
      else if isQown i = true then some (.fault 7 3 0) else none) ∧
    classStop .security m (isQown i) = (if easel ∨ m = 0x30 then some (.fault 1 0 0) else none)) ∧
  (∀ (d : Dst) (a b : Src) (s : State), let me := s.md.who
    mayIssue s me = true → regionRefused (s.ctx me) = none → ownForms s me = false →
    (Agent.cls me = .strand ∨ Agent.cls me = .hart → ∀ i ∈ [Instr.tlbinv a b, .genscrub d a, .qown d a b,
      .halt a b, .stoprec d a, .cctl a b, .pset a b], dispatchHolds s me (shapeOf i) = false →
      exec i s = .next (takeFault me 7 3 0 (commitAll me s))) ∧
    (Agent.cls me = .command → exec (.qown d a b) s = .next (takeFault me 7 3 0 (commitAll me s))))

/-- EASEL_GRANT takes the first eligible head in the round robin, which has its effect on the operands and tiles of its issue. A
sub-unit that completes is free, its form and those done behind it at the head of their core's queue retire, and the completion
of each of its entries is on its way; an entry whose command is done leaves the scoreboard.
A scrub sweep renumbers the live tiles from 1 and sets QGEN to their number. A GENSCRUB that completes leaves no tile, QGEN 1,
and at every core CGEN 1 and every register tag 0, and answers the form that waits for it. A collective whose participants have
all kicked and agree writes its rows to every participant's tile and ends the requests. That a form has its effect at its grant, on
the operands and tiles of its issue, is the model's reading (DEDUCED for the canvas and the drain, log 6); what a row is in a tile of
another layout is free (log 19). -/
def Obligations.EaselEvents : Prop :=
  ∀ (s : State) (q : Fin 64),
    let x := s.quads.get q
    (dqsEmpty x = true → exec (.easelGrant q) s = .next s) ∧
    (∀ (c : Fin 4) (e : DqEnt) (u : State), x.rr = c → eligible q c s = some e →
      waitedFault e.waited (s.ctx (.strand q c e.k)) = none →
      grantForm q c (easelForm e.ins) e.ops e.tiles (.strand q c e.k) s = .ok u →
      let t := dropCancelled (.strand q c e.k) e.waited (u.updCtx (.strand q c e.k) fun y =>
        refreshForm (isLane (shapeOf e.ins).major) (formFlags e (.strand q c e.k) s) y)
      exec (.easelGrant q) s = .next (askGrant q (t.updCore q c fun y => { y with dq := grantFirst y.dq }))) ∧
    (∀ u : SubUnit, u ∈ x.busy → ∃ t, exec (.easelSubunitComplete q u) s = .next t ∧ u ∉ (t.quads.get q).busy ∧
      (∀ v ∈ x.busy, v ≠ u → v ∈ (t.quads.get q).busy) ∧
      (∀ c : Fin 4, (t.core q c).dq = ((s.core q c).dq.map (formDone u)).dropWhile fun e => e.phase == .done) ∧
      ∀ e ∈ x.sb, e.owner = .easel u → .scoreboardEntryComplete q e.id ∈ t.md.inflight) ∧
    (∀ (n : Nat) (e : SbEnt), x.sb.find? (fun e => e.id == n) = some e → entryDone s q e = true →
      ∃ t, exec (.scoreboardEntryComplete q n) s = .next t ∧ ∀ d ∈ (t.quads.get q).sb, d.id ≠ n ∧ d ∈ x.sb) ∧
    (x.sweeping = true → (x.tiles.map Prod.fst).Nodup → ∃ t, exec (.tileScrubSweepComplete q) s = .next t ∧
      (t.quads.get q).sweeping = false ∧ (t.quads.get q).qgen = BitVec.ofNat 16 x.tiles.length ∧
      ∀ (j : Nat) (p : Nat × Tile), x.tiles[j]? = some p →
        (t.quads.get q).tiles[j]? = some (p.1, { p.2 with gen := BitVec.ofNat 16 (j + 1) })) ∧
    (x.scrubbing = true → ∃ t, exec (.genscrubComplete q) s = .next t ∧ (t.quads.get q).tiles = [] ∧ (t.quads.get q).sb = [] ∧
      (t.quads.get q).qgen = 1 ∧
      (∀ (c : Fin 4) (k : Fin 24) (i : Fin 16), (t.core q c).cgen = 1 ∧ ((t.ctx (.strand q c k)).arch.n.get i).tag = 0 ∧
        ((t.ctx (.strand q c k)).arch.q.get i).tag = 0 ∧ (t.ctx (.strand q c k)).st = .free) ∧
      (∀ a, scrubber q s = some a → (t.ctx a).answer = some .landed ∧ (t.ctx a).st = .running)) ∧
    (∀ (l : LaunchId) (cid : Word) (p : Request) (rest : List Request) (tl : Tile) (rows : List CollRow),
      collReady s l cid = true → participants s l cid = p :: rest → reqTile s p = .ok tl →
      (p :: rest).all (collAgree s p tl) = true → collRows s p.recs tl (p :: rest) (List.range p.rows) = .ok rows →
      exec (.collectiveMatch l cid) s = .next ((p :: rest).foldl (fun s r => endRequest r none s)
        ((p :: rest).foldl (fun u r =>
          (rowsFor s (sentTile s p.recs tl (p :: rest)) rows r).foldl (fun u d => putRow r d u) u) (fresh s).2)))

/-- An event that a waiting agent waits for wakes it: a due promise whose trap may be taken, a write to the watched sector or its
eviction, a deadline that has passed, cache maintenance that is complete; one that it does not wait for changes nothing. A region
buffer drains as far as it can. A long-latency result is written to its reserved place with its flags. A response to an outstanding
page request frees its group and answers the waiters; one to none is discarded. The host's read of GRANQ0 takes the head report off
the queue. An ATS invalidation leaves no translation of the range. What the host sends for a confidential partition acts through a
bound stream alone (R395). -/
def Obligations.WaitEvents : Prop :=
  ∀ (s : State) (a : Agent),
    let y := s.ctx a
    (∀ d, y.st = .parked → y.why = some (.waitp d) →
      exec (.promiseDue a) s = .next (if (duePassed s d.toNat && lateAllowed s a) = true then wake a s else s)) ∧
    (∀ t, y.st = .parked → y.why = some (.deposit t) →
      exec (.parkDeadline a) s = .next (if t ≠ 0 ∧ t.toNat ≤ s.ctc.toNat then wake a s else s)) ∧
    (∀ sector, y.st = .parked → y.why = some (.waita sector) →
      let v := if s.md.req.on then evict sector s else s
      (v.xl.monitors.filter fun m => m.sector == sector) = [{ sector := sector, who := .agent a }] →
      exec (.monitorFire sector) s = .next (wake a (clearMonitor
        (fun m => m.sector == sector && (match m.who with | .walk .. => false | .agent _ | .slot _ => true)) v))) ∧
    exec (.regionBufferDrain a) s = .next (drainRegion a s) ∧
    (∀ v ps rest, y.fl.drain = .store v ps :: rest → drainRegion a s =
      drainRegion a (storeAll v ps (s.updFlight a fun f => { f with drain := rest }))) ∧
    (∀ p rest, y.fl.pend = p :: rest → p.form = false → y.fl.wst = [] → ∃ t, exec (.longLatencyCompletion a) s = .next t ∧
      (t.ctx a).arch.fflg = y.arch.fflg ||| p.flags ∧ (t.ctx a).fl.pend.length = rest.length ∧ t.mm = s.mm ∧
      (∀ i, p.dst = .n i → ((t.ctx a).arch.n.get i) = { data := p.val, tag := y.gen, scr := false })) ∧
    (y.st = .parked → y.why = some .flush →
      exec (.cacheMaintenanceComplete a) s = .next (wake a (s.updCtx a fun y => { y with answer := some .landed }))) ∧
    (y.st ≠ .parked → exec (.promiseDue a) s = .next s ∧ exec (.parkDeadline a) s = .next s ∧
      exec (.cacheMaintenanceComplete a) s = .next s ∧ exec (.debugResume a) s = .next s) ∧
    (∀ sector p pasid g, (s.xl.monitors.filter fun m => m.sector == sector) = [{ sector := sector, who := .walk p pasid g }] →
      ∃ t, exec (.walkMonitorFire sector) s = .next (answerPage false p (some pasid) g none t) ∧
        t.xl.monitors = s.xl.monitors.filter fun m => m.sector != sector) ∧
    (let r : PageReq := { part := reqPart s, pasid := s.md.req.pasid, granule := s.md.req.granule, kind := s.md.req.kind };
      (r ∉ s.xl.groups ∨ hostAccepted s (pIdx r.part) .io = false → exec .pageRequestResponse s = .next s) ∧
      (r ∈ s.xl.groups → hostAccepted s (pIdx r.part) .io = true → exec .pageRequestResponse s =
        .next (answerPage (!s.md.req.on) r.part (some r.pasid) r.granule (some r.kind) (freeGroup r s)))) ∧
    (∃ t, exec .granq0Read s = .next t ∧
      ∀ r rest, s.xl.granq = r :: rest → s.xl.granWait = [] → t.xl.granq = rest ∧ t.xl.granOut = s.xl.granOut ++ [r]) ∧
    (let taken := hostAccepted s (pIdx (reqPart s)) .io;
      exec .granrespWalkAgain s = .next (if taken then granAnswer false (reqPart s) s.md.req.granule s else s) ∧
      exec .granrespRefuse s = .next (if taken then granAnswer true (reqPart s) s.md.req.granule s else s)) ∧
    (∃ t, exec .atsInvalidation s = .next t ∧ t.mm = s.mm ∧ ∀ (q : Fin 64) (c : Fin 4),
      let gone := fun (e : TlbEnt) => e.pasid = s.md.req.pasid ∧ hostAccepted s (pIdx e.part) .io = true ∧
        e.va.toNat ≤ s.md.req.granuleHi.toNat ∧ s.md.req.granule.toNat < e.va.toNat + e.count
      (∀ e, e ∈ (t.core q c).tlb ↔ e ∈ (s.core q c).tlb ∧ ¬ gone e) ∧
      ∀ e, e ∈ (t.quads.get q).tlb ↔ e ∈ (s.quads.get q).tlb ∧ ¬ gone e)

/-- An engine that a raised line has reached stops, and is no longer awaited. A hold that is set raises the line of the quad's
partition, and the walk waits for it; a hold that is cleared is off. Once every engine has stopped, with firmware up and no hold,
the walk takes the oldest fault and releases the line after the last. Over the levels of a fault, IGNORE ends the walk, KILL kills
and ends it, KILLPARENT kills and goes up, and RETRY, at a unit or a launch that may still be tried, restarts it. CHLA_WRITE
changes the lookahead of an enabled quad's core, and a strand that the debugger stopped resumes. -/
def Obligations.HaltEvents : Prop :=
  ∀ (s : State) (p : Fin 64) (q : Fin 64),
    (∀ e : Engine, ((List.finRange 64).filter fun p => (s.parts.get p).line && (s.parts.get p).toStop.contains e) = [p] →
      exec (.engineStop e) s = .next (stopEngine p e none s)) ∧
    (∃ t, exec (.haltctlHoldSet q) s = .next t ∧ ((s.quads.get q).enabled = true → (t.quads.get q).halt.hold = true ∧
      ((s.quads.get q).halt.hold = false → (t.parts.get (pIdx (s.quads.get q).part)).line = true))) ∧
    (∃ t, exec (.haltctlHoldClear q) s = .next t ∧ (t.quads.get q).halt.hold = false) ∧
    (let x := s.parts.get p;
      (x.toStop ≠ [] ∨ x.line = false ∨ x.walking = false → exec (.containmentWalk p) s = .next s) ∧
      (x.walking = true → x.line = true → x.toStop = [] → held s p = true → firmwareUp s = true →
        exec (.containmentWalk p) s = .next (s.updPart p fun y => { y with walking := false })) ∧
      (x.walking = true → x.line = true → x.toStop = [] → held s p = false → firmwareUp s = true →
        (x.faults = [] → exec (.containmentWalk p) s = .next (releaseLine p (s.updPart p fun y => { y with walking := false }))) ∧
        (∀ f rest, x.faults = f :: rest →
          let s1 := countFaults p (walkFault p f (s.updPart p fun y => { y with faults := rest }))
          let s2 := (match f.launch with | some l => post (.launchComplete l) s1 | none => s1);
          ((s1.parts.get p).faults ≠ [] → exec (.containmentWalk p) s = .next (post (.containmentWalk p) s2)) ∧
          ((s1.parts.get p).faults = [] →
            exec (.containmentWalk p) s = .next (releaseLine p (s2.updPart p fun y => { y with walking := false })))))) ∧
    (∀ (l : Launch) (id : Option StrandId) (kind cause : Nat) (lv : Level) (rest : List Level),
      let pol := (levelPol l lv).toNat % 4
      let lim := (levelPol l lv).toNat / 4 % 8
      let killed := markLevel l kind cause lv (killLevel l id lv s)
      let walk := walkLevels l id kind cause (lv :: rest) s
      (pol = 0 → walk = ignoreLevel l id kind cause lv s) ∧ (pol = 2 → walk = killed) ∧
      (pol = 3 → walk = walkLevels l id kind cause rest killed) ∧
      (pol = 1 → lv ≠ .unit → lv ≠ .launch → walk = killed) ∧
      (pol = 1 → lv = .launch → l.tries < lim → walk = restartLaunch l.id s) ∧
      (pol = 1 → lv = .launch → lim ≤ l.tries → walk = walkLevels l id kind cause rest killed) ∧
      (∀ x, pol = 1 → lv = .unit → id = some x → (s.ctx (agentOf x)).copy.retriable = true →
        (s.ctx (agentOf x)).copy.tries < lim → walk = restartUnit l.id x s)) ∧
    (∀ (c : Fin 4) (ch : Fin 8) (v : Word), exec (.chlaWrite q c ch v) s =
      .next (if (s.quads.get q).enabled then writeChla q c ch v s else s)) ∧
    (∀ a : Agent, (s.ctx a).st = .parked → (s.ctx a).why = some .debug →
      exec (.debugResume a) s = .next (wake a (s.updCtx a fun y => { y with stepping := true })))

/-- A kick or cancel of a queue that the kick filter does not pass changes nothing but the count of dropped kicks; one of an
unmapped queue sets its pending bit or its cancel mark, one of a mapped queue acts on its slot. A map by firmware leaves the slot with
the queue of its kick filter entry and the state of its QCB, no longer pending. An unmap sets KVAL to KLIM and the slot UNMAPPING; at
its end the fetch state and the shadow registers are stored, PEND passes to the pending bitmap and the slot is FREE, unless a store is
held or refused. A reset cancels the queue's launches, and ends IDLE with KLIM at RPTR. Selection leaves a slot that it keeps as it is,
grants a candidate that overlaps no kept slot and no candidate before it, and grants none that overlaps a kept one. Ageing raises EPRIO
by one; a quantum that ends makes its slot a candidate and selection runs. A save past its deadline lets no strand of the slot's
launches issue, and cancels what it has not committed; a save whose strands and messages are at rest, whose requests have ended and
whose rows pass their residue check is written. A restore that the area does not fit cancels the saved launches; of one that it does
each strand enters when its own place is free. A save charges a launch's residue mismatch once (DESIGN CHOICE, log 49). -/
def Obligations.SlotEvents : Prop :=
  ∀ (s : State) (i : Fin 16) (n : Fin 4096) (v : BitVec 32),
    let x := s.slots.get i
    let filtered := bitAt s.cw.kapbase 0 = false ∨ kftValid s n = false
    let passes := bitAt s.cw.kapbase 0 = true ∧ kftValid s n = true
    (filtered → exec (.kick n v) s = .next { s with cw := { s.cw with dropKicks := s.cw.dropKicks + 1 } } ∧
      exec (.cancelGraph n) s = .next s ∧ exec (.cancelPhase n) s = .next s ∧ exec (.cancelJob n) s = .next s) ∧
    (passes → slotOfQueue s n = none → exec (.kick n v) s = .next (serveKicks (raiseIrq (setPending n (noteKval n v s)))) ∧
      exec (.cancelGraph n) s = .next (cancelUnmapped n 1 s) ∧ exec (.cancelPhase n) s = .next (cancelUnmapped n 2 s) ∧
      exec (.cancelJob n) s = .next (cancelUnmapped n 3 s)) ∧
    (passes → slotOfQueue s n = some i →
      (x.st ≠ .unmapping → exec (.kick n v) s = .next (wakeSlot i (s.updSlot i fun x => { x with q := applyKick v x.q }))) ∧
      (x.st = .unmapping → exec (.kick n v) s = .next (noteKval n v (setPend i s))) ∧
      exec (.cancelGraph n) s = .next (cancelLevel i 1 s) ∧ exec (.cancelPhase n) s = .next (cancelLevel i 2 s) ∧
      exec (.cancelJob n) s = .next (cancelLevel i 3 s)) ∧
    (x.st ≠ .free → exec (.sctlMap i n) s = .next (serveKicks s)) ∧
    (x.st = .free → let t := mapSlot i n s
      ((t.slots.get i).st = .free → exec (.sctlMap i n) s = .next t) ∧
      ((t.slots.get i).st ≠ .free → exec (.sctlMap i n) s = .next (serveKicks t))) ∧
    (∀ bs u, x.st = .free → slotOfQueue s n = none → kftValid s n = true → x.en = false →
      let s1 := (s.updSlot i (HwSlot.named s n)).updSlot i HwSlot.cleared
      plainRead (slotRequester s1 i) (wd (kftField s n 0 8)) 256 s1 = .ok (bs, u) → fieldAt bs 80 8 = 0 →
      let y := (mapSlot i n s).slots.get i
      y.st ≠ .free ∧ y.qid = n ∧ y.qmask = wd (kftField s n 8 8) ∧ y.part = BitVec.ofNat 8 (kftField s n 16 1) ∧
        y.prio = BitVec.ofNat 3 (kftField s n 17 1) ∧ y.quantum = BitVec.ofNat 16 (kftField s n 18 2) ∧
        y.q.qcb = wd (kftField s n 0 8) ∧ y.q.rbase = wd (fieldAt bs 0 8) ∧ y.q.rsize = BitVec.ofNat 32 (fieldAt bs 8 4) ∧
        y.q.rptr = BitVec.ofNat 32 (fieldAt bs 20 4) ∧ y.q.crbase = wd (fieldAt bs 64 8) ∧ y.q.lseq = wd (fieldAt bs 32 8) ∧
        y.q.ldone = wd (fieldAt bs 40 8) ∧ isPending (mapSlot i n s) n = false) ∧
    (x.st = .free ∨ x.st = .unmapping → exec (.sctlUnmap i) s = .next s) ∧
    (x.st ≠ .free → x.st ≠ .unmapping → exec (.sctlUnmap i) s = .next (post .slotSelection (post (.unmapComplete i)
      (setSlot i .unmapping ((setKval x.qid x.q.klim.toNat s).updSlot i fun y =>
        { y with en := false, waitSector := none, holdFetch := none }))))) ∧
    (x.st ≠ .unmapping ∨ outstanding s x.qid = true ∨ x.writesHeld = true → exec (.unmapComplete i) s = .next s) ∧
    (x.st = .unmapping → outstanding s x.qid = false → x.writesHeld = false →
      let s1 := putAll i x.q.qcb (qcbBytes x.q) s
      let s2 := if x.q.shsave == 0 then s1 else putAll i x.q.shsave [(0, x.q.sh.toList.flatMap fun w => leBytes 8 w.toNat)] s1
      let s3 := putQcb i 24 4 (if x.q.err != 0 then 32 + x.q.err.toNat * 256 else 0) (if x.q.pend then setPending x.qid s2 else s2)
      ((s2.slots.get i).writesHeld = true ∨ (s2.slots.get i).st = .error → exec (.unmapComplete i) s = .next s2) ∧
      ((s2.slots.get i).writesHeld = false → (s2.slots.get i).st ≠ .error →
        ((s3.slots.get i).st = .error → exec (.unmapComplete i) s = .next s3) ∧
        ((s3.slots.get i).st ≠ .error → ∃ u, exec (.unmapComplete i) s = .next (serveKicks (post .slotSelection u)) ∧
          (u.slots.get i).st = .free ∧ (u.slots.get i).en = false ∧ u.mm = s3.mm ∧ u.cw.kpend = s3.cw.kpend))) ∧
    (x.st = .free ∨ x.st = .resetting → exec (.sctlReset i) s = .next s) ∧
    (x.st ≠ .free → x.st ≠ .resetting →
      let s1 := (setSlot i .resetting (clearMonitor (fun m => m.who == .slot i) (forgetSaved i s))).updSlot i fun y =>
        { y with holdFetch := none, refused := none, waitSector := none, ended := false }
      (s1.slots.get i).st = .resetting ∧ (s1.slots.get i).saved = false ∧ exec (.sctlReset i) s =
        .next (post .slotSelection (post (.queueResetComplete i) (cancelLaunches (queueLaunches s1 x.qid) s1)))) ∧
    (x.st ≠ .resetting ∨ outstanding s x.qid = true → exec (.queueResetComplete i) s = .next s) ∧
    (x.st = .resetting → outstanding s x.qid = false →
      (∀ t, homeFence x.part s = .error (.wait t) → exec (.queueResetComplete i) s = .next t) ∧
      (∀ t, homeFence x.part s = .ok t → let y := t.slots.get i
        (y.writesHeld = true → exec (.queueResetComplete i) s = .next t) ∧
        (y.st = .resetting → outstanding t y.qid = false → y.writesHeld = false → exec (.queueResetComplete i) s =
          .next (serveKicks (post .slotSelection (setSlot i .idle (t.updSlot i fun z => { z with q := { z.q with
            klim := z.q.rptr, pos := z.q.rptr, ib := [], skip := 0, err := 0, pend := false, stuck := false, ahead := [], half := none
            gpol := 2, ppol := 2, jpol := 2, job := 0, cancelG := [], cancelP := [], jobCancelled := false
            loop := Init.queue.loop } }))))))) ∧
    exec .slotSelection s = .next (select s) ∧
    (let cand := fun (j : Fin 16) => (s.slots.get j).st = .runnable ∨ ((s.slots.get j).st = .running ∧ (s.slots.get j).ended = true)
      let y := (select s).slots.get i;
      (keptSlot s x = true → y = x) ∧
      (cand i → (∀ j, keptSlot s (s.slots.get j) = true → masksOverlap x (s.slots.get j) = false) →
        (∀ j, cand j → before s j i = true → masksOverlap x (s.slots.get j) = false) →
        y.granted = s.ctc ∧ y.ended = false ∧ y.eprio = x.prio ∧ (y.st = .running ∨ y.st = .error) ∧
          (x.saved = true → .restore i ∈ (select s).md.inflight)) ∧
      (∀ j, cand i → keptSlot s (s.slots.get j) = true → masksOverlap x (s.slots.get j) = true →
        (x.st = .runnable → y = x) ∧
        (x.st = .running → (y.st = .preempting ∨ y.st = .error) ∧ .saveComplete i ∈ (select s).md.inflight))) ∧
    (x.st = .runnable → x.eprio.toNat < 7 → x.age.toNat + s.cw.ageint.toNat ≤ s.ctc.toNat → exec (.ageingInterval i) s =
      .next (s.updSlot i fun x => { x with eprio := x.eprio + 1, age := x.age + wd s.cw.ageint.toNat })) ∧
    (quantumDue s i = true →
      exec (.quantumExpiry i) s = .next (select (s.updSlot i fun x => { x with ended := true, since := s.ctc, rsince := s.ctc }))) ∧
    (deadlineDue s i = true → ∃ t, exec (.preemptionDeadline i) s = .next t ∧ (t.slots.get i).deadline = true ∧
      .saveComplete i ∈ t.md.inflight ∧ t = post (.saveComplete i)
        (((queueSlots s x.qid).foldl stopStrand s).updSlot i fun y => { y with deadline := true }) ∧
      ∀ (q : Fin 64) (c : Fin 4) (k : Fin 24) (l : LaunchId), (s.ctx (.strand q c k)).launch = some l → l.hwq = i →
        mayIssue t (.strand q c k) = false ∧
        ((s.ctx (.strand q c k)).st = .running → stopStrand s (q, c, k) = cancelPending (.strand q c k) s)) ∧
    (deadlineDue s i = false → exec (.preemptionDeadline i) s = .next s) ∧
    (x.st ≠ .preempting ∨ strandsStopped s x.qid = false ∨ messagesLand s x.qid = false ∨ x.writesHeld = true →
      exec (.saveComplete i) s = .next s) ∧
    (x.st = .preempting → strandsStopped s x.qid = true → messagesLand s x.qid = true → x.writesHeld = false →
      let s0 := drainQueue x.qid s
      let s1 := recallEasel x.qid (recallMessages x.qid s0)
      let s2 := cancelAllReq (keptRanges s1) ((queueRequests s1 x.qid).filter (saveCancels s1 x.deadline)) s1
      let ended := queueRequests s2 x.qid = [] ∧ boardOpen s2 x.qid = false ∧ (s2.parts.get (pIdx x.part)).faults = []
      (messagesLand s0 x.qid = false → exec (.saveComplete i) s = .next s0) ∧
      (messagesLand s0 x.qid = true →
        (¬ ended → exec (.saveComplete i) s = .next s2) ∧
        (ended → saveMismatch s2 x.qid x.charged = none → exec (.saveComplete i) s = .next (writeSave i s2)) ∧
        (∀ l, ended → saveMismatch s2 x.qid x.charged = some l → exec (.saveComplete i) s = .next (chargeSave i l s2)))) ∧
    (bitAt x.ssave 0 = true → (saveArea i s).1.length ≤ 2 ^ bits x.ssave 9 4 →
      ((writeSave i s).slots.get i).saved = true ∧ ((writeSave i s).slots.get i).keptTiles = (saveArea i s).2) ∧
    (x.saved = false → restoring x = false → exec (.restore i) s = .next s) ∧
    (x.saved = true → x.st ≠ .running → exec (.restore i) s = .next s) ∧
    (x.st = .running → x.saved = true →
      (∀ j, j ≠ i → (s.slots.get j).st = .preempting → masksOverlap x (s.slots.get j) = false) →
      let base := bits x.ssave 51 16 * 65536
      let imgs := (readStrands s (readPhysN s (base + 4) 4) (base + 64)).1
      (readPhysN s base 1 ≠ Config.rev ∨ (s.partQuads x.part).length < readPhysN s (base + 1) 1 →
        exec (.restore i) s = .next (cancelLaunches (queueLaunches s x.qid) (forgetSaved i s))) ∧
      (readPhysN s base 1 = Config.rev → readPhysN s (base + 1) 1 ≤ (s.partQuads x.part).length →
        ∃ t, exec (.restore i) s = .next t ∧ (t.slots.get i).saved = false ∧ ∀ b ∈ (t.slots.get i).restoring, b ∈ imgs)) ∧
    (∀ b, x.saved = false → restoring x = true → waitingImages s i = [b] → ∃ t, exec (.restore i) s = .next t ∧
      (t.slots.get i).restoring = (if placeFree s x.part b then [] else [b]))

/-- A packet that is at its queue's processing pointer and may be processed does what its kind says and moves the pointer on: a
NOP alone; an FFENCE drops what was read ahead; an IBCALL below the third level enters its buffer, and faults at a fourth; a PRED
that holds moves on, and one that does not skips; a LOOP opens, or faults inside another; a SIGNAL stores, adds or ors its value;
a WAITMEM that holds moves on and one that does not watches its sector, the slot WAITING when no launch is left; a DISPATCH and a DELTA load the shadow registers and
dispatch; a LEVEL closes its levels or cancels one. A packet that is not there changes nothing. A read ahead takes one half of a
packet and then the other, appends what it read, and stops at a ring entry that is empty; one whose page is asked for holds it. -/
def Obligations.PacketEvents : Prop :=
  ∀ (s u : State) (p : List Byte),
    let i := s.md.req.slot
    let q := (s.slots.get i).q
    let go := fun (f : List Byte → Bool) (e : Instr) (t : State) => headPacket s f = some p → exec e s = .next t
    (∀ f e, (f, e) ∈ [(isKind 1, Instr.pktNop), (isKind 2, .pktDispatch), (isKind 3, .pktDelta), (isKind 4, .pktIbcall),
        (isKind 5, .pktPred), (isKind 6, .pktLoop), (isKind 7, .pktFfence), (isKind 8, .pktSignal), (isKind 9, .pktWaitmem),
        (isLevel 1, .levelGraph), (isLevel 2, .levelPhase), (isLevel 3, .levelJob), (isLevel 4, .levelCancel)] →
      headPacket s f = none → exec e s = .next s) ∧
    go (isKind 1) .pktNop (moveOn i QueueSt.advance s) ∧
    go (isKind 7) .pktFfence (moveOn i (fun q => { q.advance with ahead := [], half := none, stuck := false }) s) ∧
    (q.ib.length < 3 → go (isKind 4) .pktIbcall (moveOn i (QueueSt.enter (wd (fieldAt p 8 8)) (fieldAt p 16 4)) s)) ∧
    (3 ≤ q.ib.length → go (isKind 4) .pktIbcall (queueFault i 2 s)) ∧
    (∀ v ps, pktWord i (wd (fieldAt p 8 8)) s = .ok (v, ps, u) →
      (pktCond (fieldAt p 2 1) (v &&& wd (fieldAt p 24 8)) (wd (fieldAt p 16 8)) = true →
        go (isKind 5) .pktPred (moveOn i QueueSt.advance u)) ∧
      (pktCond (fieldAt p 2 1) (v &&& wd (fieldAt p 24 8)) (wd (fieldAt p 16 8)) = false →
        go (isKind 5) .pktPred (skipPackets i (fieldAt p 3 1) 1 u))) ∧
    (q.loop.active = true ∨ (∃ n, q.after = some n ∧ n < fieldAt p 2 1) → go (isKind 6) .pktLoop (queueFault i 3 s)) ∧
    (q.loop.active = false → (∀ n, q.after = some n → fieldAt p 2 1 ≤ n) → (q.after = none → fieldAt p 2 1 ≤ q.rsize.toNat) →
      (fieldAt p 4 4 = 0 → go (isKind 6) .pktLoop (skipPackets i (fieldAt p 2 1) 3 s)) ∧
      (fieldAt p 4 4 ≠ 0 → go (isKind 6) .pktLoop (moveOn i (QueueSt.openLoop (fieldAt p 2 1) (fieldAt p 4 4)) s))) ∧
    (signal i (fieldAt p 2 1) (wd (fieldAt p 8 8)) (wd (fieldAt p 16 8)) s = .ok u →
      go (isKind 8) .pktSignal (moveOn i QueueSt.advance u)) ∧
    (∀ sec, waitmemHolds i p s = .ok (true, sec, u) → go (isKind 9) .pktWaitmem (moveOn i QueueSt.advance u)) ∧
    (∀ sec, waitmemHolds i p s = .ok (false, sec, u) → outstanding u (u.slots.get i).qid = true →
      go (isKind 9) .pktWaitmem
        ((setMonitor { sector := sec, who := .slot i } u).updSlot i fun x => { x with waitSector := some sec })) ∧
    (∀ sec, waitmemHolds i p s = .ok (false, sec, u) → outstanding u (u.slots.get i).qid = false →
      go (isKind 9) .pktWaitmem (leaveRunning i .waiting
        ((setMonitor { sector := sec, who := .slot i } u).updSlot i fun x => { x with waitSector := some sec }))) ∧
    go (isKind 2) .pktDispatch (dispatch i (setShadow i (dispatchShadow p) s)) ∧
    go (isKind 3) .pktDelta (dispatch i (setShadow i (deltaShadow p) s)) ∧
    go (isLevel 1) .levelGraph (moveOn i QueueSt.advance (closeGraph i (pktPol p) s)) ∧
    go (isLevel 2) .levelPhase (moveOn i QueueSt.advance (closePhase i (pktPol p) (closeGraph i q.gpol s))) ∧
    (let n := fresh (closePhase i (pktPol p) (closeGraph i q.gpol s))
      let t := n.2.updSlot i fun x =>
        { x with q := { x.q with job := BitVec.ofNat 8 (fieldAt p 4 4), jpol := pktPol p, jobInst := n.1, jobCancelled := false } };
      go (isLevel 3) .levelJob (moveOn i QueueSt.advance
        (setJob (pIdx (t.slots.get i).part) (fieldAt p 4 4) (fun e => { e with pol := pktPol p }) t))) ∧
    go (isLevel 4) .levelCancel (moveOn i QueueSt.advance (cancelLevel i (fieldAt p 4 4) s)) ∧
    (∀ (j : Fin 16) (va : Word) (b : List Byte) (q' : QueueSt) (t : State),
      let y := (s.slots.get j).q
      let on := s.md.req.on
      ((s.slots.get j).st ≠ .running ∨ y.stuck = true ∨ (s.slots.get j).holdFetch.isSome = true → exec (.packetRead j) s = .next s) ∧
      ((s.slots.get j).st = .running → y.stuck = false → (s.slots.get j).holdFetch = none → (aheadOf y).length ≤ 8 →
        walkAhead (aheadOf y) y = some q' → q'.head = some va →
        (y.halfAt va = none → readHalf j va on s = .ok (b, t) →
          (on = true ∨ pktKind b ≠ 0 ∨ q'.ib ≠ [] → exec (.packetRead j) s =
            .next (t.updSlot j fun x => { x with q := { x.q with half := some (on, va, b) } })) ∧
          (on = false → pktKind b = 0 → q'.ib = [] → exec (.packetRead j) s = .next (stickAt j t))) ∧
        (y.halfAt va ≠ none → readPacket j va s = .ok (b, t) → pktKind b ≠ 0 → exec (.packetRead j) s = .next
          (t.updSlot j fun x => { x with q := { x.q with ahead := aheadOf y ++ [(va, b)], half := none } }))))

/-- A launch that its partition's state or its mask does not allow ends REFUSED with KIND 0 and no strand; one whose channel table is
refused ends REFUSED with KIND 6, or with KIND 9 and CAUSE 1 when a cycle of its channels has lookahead sum 0; one whose tiles are
refused ends REFUSED with KIND 6. One that is allowed has its tiles, each under its handle and in its shape, and its distributors may
send, strand by strand in ascending index of each quad. A launch with anything outstanding, or with a write of its slot held, does not
complete; one with nothing left writes its record, and leaves once it is written. -/
def Obligations.LaunchEvents : Prop :=
  ∀ (s : State) (l : LaunchId) (y : Launch), s.launch l = some y →
    let m := y.qmask &&& (s.slots.get l.hwq).qmask
    let begins := y.cancelled = false ∧ y.refused = false ∧ y.accepted = false
    let allowed_ := dispatchAllowed s (pIdx y.part) = true ∧ maskOk s y = true ∧ m ≠ 0
    let refused := fun (kind cause : BitVec 8) => ∃ t, exec (.launchDistribution l) s = .next t ∧
      .launchComplete l ∈ t.md.inflight ∧ (∀ z, t.launch l = some z → z.refused = true ∧ z.accepted = true ∧ z.kind = kind ∧
        z.cause = cause) ∧ ∀ a : Agent, t.ctx a = s.ctx a
    (begins → ¬ allowed_ → refused 0 0) ∧
    (let w := { y with qmask := m }
      let v := s.updLaunch l fun z => { z with qmask := m }
      let qs := launchQuads v w;
      (begins → allowed_ → quadsBusy v w = true ∨ timeTaken v w qs = true → exec (.launchDistribution l) s = .next v) ∧
      (begins → allowed_ → quadsBusy v w = false → timeTaken v w qs = false →
        (y.rec_.ltm = true → chansOk m y.chans = false → refused 6 0) ∧
        (y.rec_.ltm = true → chansOk m y.chans = true → hasZeroCycle y.chans = true → refused 9 1) ∧
        (y.rec_.ltm = false ∨ (chansOk m y.chans = true ∧ hasZeroCycle y.chans = false) →
          (∀ e, allocQuads l y.rec_.tiles true qs v = .error e → refused 6 0) ∧
          (∀ u, allocQuads l y.rec_.tiles true qs v = .ok u → ∃ t, exec (.launchDistribution l) s = .next t ∧
            (∀ z, t.launch l = some z → z.accepted = true ∧ z.refused = false) ∧
            ∀ q ∈ qs, ∀ e ∈ y.rec_.tiles, shRows e.2 ≠ 0 → shCols e.2 ≠ 0 → launchWide e.1 = false ∨ qs.head? = some q →
              ∃ n tl, (t.quads.get q).find l e.1 = some (n, tl) ∧ tl.shape = e.2)))) ∧
    (y.cancelled = true ∨ y.refused = true → ∃ t, exec (.launchDistribution l) s = .next t ∧ .launchComplete l ∈ t.md.inflight) ∧
    (y.cancelled = false → y.refused = false → y.accepted = true → quadsBusy s y = true → exec (.launchDistribution l) s = .next s) ∧
    (y.cancelled = false → y.refused = false → y.accepted = true → quadsBusy s y = false → y.todo = [] → y.rec_.ltm = false →
      let t := sendNext l (launchQuads s y).length (launchQuads s y) 0 s
      exec (.launchDistribution l) s = .next (post (.launchComplete l) (t.updLaunch l fun z =>
        { z with distributed := match t.launch l with | some z => allSent t z | none => true }))) ∧
    (launchBusy s y = true ∨ (s.slots.get l.hwq).writesHeld = true → exec (.launchComplete l) s = .next s) ∧
    (launchBusy s y = false → (s.slots.get l.hwq).writesHeld = false →
      let r := writeRecord { y with framesDropped := y.framesDropped || !(slotsOf s l).isEmpty } s
      (r.1 = true → ∃ t, exec (.launchComplete l) s = .next t ∧ t = endLaunch y r.2 ∧ t.launch l = none) ∧
      (r.1 = false → exec (.launchComplete l) s = .next r.2)) ∧
    (∀ (q : Fin 64) (c : Fin 4) (n : Nat), let m := dispatchMsg y q c n
      m.q = q ∧ m.c = c ∧ m.entry = y.rec_.entry ∧ m.a0 = strandArg y 0 n ∧ m.a1 = strandArg y 1 n ∧ m.a2 = strandArg y 2 n) ∧
    (∀ k n : Nat, (y.rec_.amode.getD k 0 = 0 → strandArg y k n = y.args.getD k 0) ∧
      (y.rec_.amode.getD k 0 = 1 → strandArg y k n = wd n) ∧
      (y.rec_.amode.getD k 0 = 2 → strandArg y k n = y.args.getD k 0 + wd (n * y.rec_.astride.getD k 0)))

/-- A bias command for a granule outside the device memory or already of that bias changes nothing, nor does one while another is in
progress; else the granule flips when the command completes. A refused host request is answered with no data and changes nothing; one
to a granule that a command is flipping to host bias waits; one that is served reads what the home holds, or leaves its bytes there, and
a read-modify-write is one pair at the home, answered with the old bytes. A snoop answers with the data of the sector. A quad that may
sleep enters retention, and one that wakes, where the envelope has room for it, takes its messages; a clock step comes at most every 10
microseconds and within the envelope; EVLOG gives its head up. A write from outside acts on the register that it names; the I3C status
block shows BOOTSTAT; a sector that fails in its channel is failed. A debug read is that of R66; what a debug write leaves is the
model's choice, and so is it which debug mode opens the breakpoint table (DESIGN CHOICE, log 50). A failing command complex
stops alone. -/
def Obligations.HostEvents : Prop :=
  ∀ (s : State) (g : BitVec 36) (b : Bool) (q : Fin 64),
    let h := s.md.req.host
    let x := s.quads.get q
    let answered := fun (bs : List Byte) (t : State) => { t with mg := { t.mg with hostAnswer := bs } }
    (s.cw.biasBusy = true ∨ inHdm s g.toNat = false ∨ hostBias s g.toNat = b → exec (.biascmdGo g b) s = .next s) ∧
    (s.cw.biasBusy = false → inHdm s g.toNat = true → hostBias s g.toNat ≠ b →
      exec (.biascmdGo g b) s = .next (post (.biasFlipComplete g b) { s with cw := { s.cw with biasBusy := true } })) ∧
    (s.cw.biasBusy = true → inHdm s g.toNat = true → ∃ t, exec (.biasFlipComplete g b) s = .next t ∧ t.cw.biasBusy = false ∧
      t.mm = (Machine.flip g.toNat b s).mm) ∧
    (target s h.addr ≠ .device ∨ hostRefused s h = true → exec .hostCxlMemRequest s = .next (answered [] s)) ∧
    (target s h.addr = .device → hostRefused s h = false → flipping s (h.addr / 65536) = true → exec .hostCxlMemRequest s =
      .next { s with md := { s.md with turns := s.md.turns ++ [.input .hostCxlMemRequest s.md.req] } }) ∧
    (target s h.addr = .device → hostRefused s h = false → flipping s (h.addr / 65536) = false → h.write = false → h.rmw = none →
      let v := if hostBias s (h.addr / 65536) = false ∧ s.cw.biasAuto = true then Machine.flip (h.addr / 65536) true s else s
      let w := foldSectors l1Back (sectors h.addr 64) v
      (sectors h.addr 64).any (badSector w) = false →
      ∃ t, exec .hostCxlMemRequest s = .next t ∧ t.mg.hostAnswer = readPhys w h.addr 64 ∧ t.mm.mem = w.mm.mem) ∧
    (target s h.addr = .device → hostRefused s h = false → flipping s (h.addr / 65536) = false → h.write = true → h.rmw = none → Memory.wf s.mm.mem = true →
      ∃ t, exec .hostCxlMemRequest s = .next t ∧ t.mg.hostAnswer = [] ∧
        ∀ k < h.bytes.length, byteAt t (h.addr + k) = h.bytes.getD k 0) ∧
    (∀ op, target s h.addr = .device → hostRefused s h = false → flipping s (h.addr / 65536) = false → h.rmw = some op →
      Memory.wf s.mm.mem = true →
      let n := h.bytes.length
      let v := if hostBias s (h.addr / 65536) = false ∧ s.cw.biasAuto = true then Machine.flip (h.addr / 65536) true s else s
      let w := foldSectors l1Back (sectors h.addr n) v
      (sectors h.addr n).any (badSector w) = false →
      ∃ t, exec .hostCxlMemRequest s = .next t ∧ t.mg.hostAnswer = readPhys w h.addr n ∧
        ∀ k < n, byteAt t (h.addr + k) =
          (leBytes n (hostRmwVal op (8 * n) (leNat (readPhys w h.addr n)) (leNat h.bytes))).getD k 0) ∧
    (target s (64 * s.md.req.sector) ≠ .host → exec .hostSnoop s = .next s) ∧
    (target s (64 * s.md.req.sector) = .host → ∃ t, exec .hostSnoop s = .next t ∧
      t.mg.hostAnswer = readPhys (l1Back s.md.req.sector s) (64 * s.md.req.sector) 64) ∧
    (drowsyDue s q = true → exec (.drowsyEntry q) s = .next (s.updQuad q fun x => { x.drowsed with power := .drowsy })) ∧
    (drowsyDue s q = false → exec (.drowsyEntry q) s = .next s) ∧
    (let spare := fun (j : Fin 64) => j ≠ q ∧ (s.quads.get j).enabled = true ∧ (s.quads.get j).power = .awake ∧
        gateable (s.quads.get j) = true;
      (x.power = .awake ∨ (envelopeQuads s ≤ awakeQuads s ∧ ∀ j, ¬ spare j) → exec (.drowsyWake q) s = .next s) ∧
      (x.power ≠ .awake → awakeQuads s < envelopeQuads s ∨ (∃ j, spare j) →
        ∃ t, exec (.drowsyWake q) s = .next t ∧ (t.quads.get q).power = .awake ∧ (t.quads.get q).held = [] ∧
        (∀ e ∈ x.held, e ∈ t.md.inflight) ∧
        (x.power = .gated → ∀ e ∈ (t.quads.get q).pal, e.2.tag = 0 ∧ e.2.scr = true))) ∧
    (let f := if s.md.req.on then s.clock + 1 else s.clock - 1;
      (s.ctc.toNat < s.lastStep.toNat + 10000 ∨ topClock s < f ∨ f = 0 → exec .clockStep s = .next s) ∧
      (s.lastStep.toNat + 10000 ≤ s.ctc.toNat → f ≤ topClock s → f ≠ 0 →
        exec .clockStep s = .next { s with clock := f, lastStep := s.ctc })) ∧
    (∃ t, exec .evlogRead s = .next t ∧ t.mg.evlog = s.mg.evlog.drop 1) ∧
    (∀ by_ addr bytes, s.md.req.reg = .window by_ addr bytes → exec .registerWrite s = .next (writeWindow by_ addr bytes s)) ∧
    (∀ n e, s.md.req.reg = .ownership n e → exec .registerWrite s = .next (writeOwner n e s)) ∧
    (∀ t m ps r, s.md.req.reg = .accessTable t m ps r → exec .registerWrite s = .next (writeTable t m ps r s)) ∧
    (∀ p addr w, s.md.req.reg = .breakpoint p addr w → debugOpen s p = false → exec .registerWrite s = .next s) ∧
    (∀ p addr w, s.md.req.reg = .breakpoint p addr w → debugOpen s p = true → (s.parts.get p).bps.length < 256 →
      ∃ t, exec .registerWrite s = .next t ∧ (addr, w) ∈ (t.parts.get p).bps) ∧
    (s.md.req.reg = .i3cRead → ∃ t st, exec .registerWrite s = .next t ∧ t.mg.i3cStatus = some st ∧
      st.bootstat = (hostReg s 0x10).getD 0) ∧
    (∀ n code, s.md.req.reg = .channelError n code → target s (64 * n) = .device → ∃ t, exec .registerWrite s = .next t ∧
      badSector t n = true) ∧
    (∀ p image recs, s.md.req.reg = .liveness p image recs →
      ∃ t, exec .registerWrite s = .next t ∧ (image, recs) ∈ (t.parts.get p).live) ∧
    (∀ it, s.md.req.reg = .debugRead it → exec .registerWrite s = .next (debugRead it s)) ∧
    (∀ it v, s.md.req.reg = .debugWrite it v → exec .registerWrite s = .next (debugWrite it v s)) ∧
    (∀ a, cmdWith s .active = some a → ∃ t, exec .commandComplexFailure s = .next t ∧ (t.cmds.get a).role = .failed ∧
      t.quads = s.quads ∧ t.slots = s.slots ∧ t.mm = s.mm) ∧
    (cmdWith s .active = none → exec .commandComplexFailure s = .next s)

/-- Locking an UNLOCKED confidential partition, with a KEYID free, gives it the KEYID and fresh keys and leaves every byte of its
granules zero and every other byte as it was; starting takes a LOCKED one to RUN; stopping takes a LOCKED, RUN or ERROR one to
RELEASING; a partition in another state, or none named, is left alone. The release waits for the queues, then for the quads, and
ends with the quads scrubbed, the memory and the keys given up and the partition UNLOCKED. An IDE stream whose integrity fails takes its
bound interfaces to ERROR; a key message in a complete session sets the stream's key and adds its binding. -/
def Obligations.InterfaceEvents : Prop :=
  ∀ (s : State) (p : Fin 64),
    let x := s.parts.get p
    (s.md.req.part = none → exec .lockInterface s = .next s ∧ exec .startInterface s = .next s ∧ exec .stopInterface s = .next s) ∧
    (s.md.req.part = some p →
      (x.st ≠ .unlocked ∨ partConf s p.val = false ∨ freeKeyid s = none → exec .lockInterface s = .next s) ∧
      (∀ k, x.st = .unlocked → partConf s p.val = true → freeKeyid s = some k → MemoryWf s →
        ∃ t, exec .lockInterface s = .next t ∧ (t.parts.get p).st = .locked ∧ (t.parts.get p).keyid = k ∧
          (t.parts.get p).meshKey.isSome = true ∧ (t.parts.get p).memKey.isSome = true ∧
          (∀ a, a / 65536 ∈ ownedGranules s p → byteAt t a = 0) ∧
          (∀ a, a / 65536 ∉ ownedGranules s p → byteAt t a = byteAt s a)) ∧
      (x.st = .locked → ∃ t, exec .startInterface s = .next t ∧ (t.parts.get p).st = .run) ∧
      (x.st ≠ .locked → exec .startInterface s = .next s) ∧
      (x.st = .locked ∨ x.st = .run ∨ x.st = .error → exec .stopInterface s = .next (beginRelease p s)) ∧
      (x.st = .empty ∨ x.st = .unlocked ∨ x.st = .releasing → exec .stopInterface s = .next s)) ∧
    (x.st ≠ .releasing ∨ queuesReset s p = false → exec (.releaseSequenceComplete p) s = .next s) ∧
    (x.st = .releasing → queuesReset s p = true →
      (x.releaseStep = 0 → exec (.releaseSequenceComplete p) s =
        .next (post (.releaseSequenceComplete p) (s.updPart p fun x => { x with releaseStep := 1 }))) ∧
      (x.releaseStep ≠ 0 → let qs := s.partQuads (BitVec.ofNat 8 p.val);
        (∀ q ∈ qs, quadTraffic s q = false ∧ quadBusy s q = false ∧ (s.quads.get q).scrubbing = false) →
        ∃ t, exec (.releaseSequenceComplete p) s = .next t ∧ t = releaseMemory p (qs.foldl releaseQuad s) ∧
          (t.parts.get p).keyid = 0 ∧ (t.parts.get p).meshKey = none ∧ (t.parts.get p).memKey = none ∧
          (t.parts.get p).st = .unlocked ∧ p ∉ t.mg.release)) ∧
    exec .ideIntegrityFailure s = .next (((s.mg.ide.filter fun e => e.1 == s.md.req.stream).flatMap fun e => e.2.2).foldl
      (fun t p => enterError p t) s) ∧
    ((session s).isSome = true → ∃ t ps, exec .ideKeyManagement s = .next t ∧ (s.md.req.stream, s.md.req.key, ps) ∈ t.mg.ide ∧
      (∀ m, s.md.req.part = some m → m ∈ ps) ∧ ∀ e ∈ t.mg.ide, e.1 ≠ s.md.req.stream → e ∈ s.mg.ide) ∧
    ((session s).isSome = false → ∃ t, exec .ideKeyManagement s = .next t ∧ t.mg.ide = s.mg.ide ∧ t.mg.answers = s.mg.answers ++ [.error])

/-- Every request is answered, in its order, or is pending: the plain ones with what R402 fixes, GET_DIGESTS with the slots'
digests. A request that wants a signature takes the next index, once, and its response is sent with that index; a certificate slot is
rewritten once no response of its is pending, or 50 ms after the rewrite; a chunk of a chain that was rewritten meanwhile is an error.
Session requests act on their session. A copy-in key is set by its own tenant only, and a zero key clears it. An image whose signature
does not verify or whose SVN is below its counter is refused, and changes nothing that runs; firmware of another component than the
command complexes waits for the next reset. A takeover that may proceed makes the standby complex the active one with the staged image,
and a standby that fails is out. That CHALLENGE and GET_MEASUREMENTS come in two parts, that session numbers rise, and what a quiescent
boundary is are the model's choices (DESIGN CHOICE, log 14). -/
def Obligations.SpdmEvents : Prop :=
  ∀ (s : State),
    let q := s.md.req
    let cert := s.mg.certs.get q.cert
    let tells := fun (i : Instr) (a : SpdmAnswer) => ∃ t, exec i s = .next t ∧ t.mg.answers = s.mg.answers ++ [a]
    tells .getVersion (.versions [(1, 2), (1, 3)]) ∧ tells .negotiateAlgorithms (.algorithms .sha3_384 .xmssMt) ∧
    (∃ rs, tells .getCapabilities (.capabilities rs)) ∧
    tells .getDigests (.ok (s.mg.certDigest.toList.flatMap digestWords)) ∧
    (q.offset = 0 → ∃ t ws, exec .getCertificate s = .next t ∧ t.mg.answers = s.mg.answers ++ [.ok ws] ∧
      (q.port, q.cert, cert.epoch) ∈ t.mg.reading) ∧
    (q.offset ≠ 0 → (q.port, q.cert, cert.epoch) ∉ s.mg.reading → tells .getCertificate .error) ∧
    (∀ i ∈ [Instr.challenge, .getMeasurements],
      (q.on = false → s.mg.xmssNext < 2 ^ 40 → ∃ t, exec i s = .next t ∧ t.mg.xmssNext = s.mg.xmssNext + 1 ∧
        (∃ ws, (t.mg.certs.get q.cert).pending = cert.pending ++ [(s.mg.xmssNext, ws)]) ∧ t.mg.answers = s.mg.answers ∧ t.mg.xmssNext ≤ t.mg.xmssEnd) ∧
      (q.on = false → 2 ^ 40 ≤ s.mg.xmssNext → tells i .error) ∧
      (q.on = true → cert.pending = [] → tells i .error) ∧
      (∀ n ws rest, q.on = true → cert.pending = (n, ws) :: rest → ∃ t, exec i s = .next t ∧
        t.mg.answers = s.mg.answers ++ [.ok (ws ++ [Config.freeSignature n])] ∧ (t.mg.certs.get q.cert).pending = rest)) ∧
    (q.cert = 0 ∨ ownerSession s = false → tells .setCertificate .error) ∧
    (q.cert ≠ 0 → ownerSession s = true → ∃ t, exec .setCertificate s = .next t ∧ t.mg.answers = s.mg.answers ++ [.ok []] ∧
      (cert.pending = [] → (t.mg.certs.get q.cert).chain = q.chain ∧ (t.mg.certs.get q.cert).epoch = cert.epoch + 1) ∧
      (cert.pending ≠ [] → (t.mg.certs.get q.cert).chain = cert.chain ∧ (t.mg.certs.get q.cert).rewrite = some q.chain)) ∧
    (∀ ch, cert.rewrite = some ch →
      (s.ctc.toNat < cert.since.toNat + 50000000 → exec .certRewriteTimeout s = .next s) ∧
      (cert.since.toNat + 50000000 ≤ s.ctc.toNat → ∃ t, exec .certRewriteTimeout s = .next t ∧
        (t.mg.certs.get q.cert).chain = ch ∧ (t.mg.certs.get q.cert).pending = [] ∧
        t.mg.answers = s.mg.answers ++ List.replicate cert.pending.length .error)) ∧
    (s.mg.xmssNext < 2 ^ 40 → ∃ t x, exec .keyExchange s = .next t ∧ t.mg.sessions = s.mg.sessions ++ [x] ∧
      x.tenant = q.part ∧ x.finished = false ∧ ∀ y ∈ s.mg.sessions, y.num < x.num) ∧
    (let open_ := fun (b : Bool) => s.mg.sessions.any fun x => x.num == q.session && x.finished == b;
      (open_ false = true → tells .finish (.ok [])) ∧ (open_ false = false → tells .finish .error) ∧
      (∀ i ∈ [Instr.heartbeat, .keyUpdate, .endSession], (open_ true = true → tells i (.ok [])) ∧
        (open_ true = false → tells i .error))) ∧
    (∀ p, tenant s = some p → isFrozen s p = true →
      let g := (s.mg.slots.get q.keySlot).grant;
      (g ≠ none → g ≠ some p → tells .setCopyKey .error) ∧
      (g = none ∨ g = some p → ∃ t, exec .setCopyKey s = .next t ∧ t.mg.answers = s.mg.answers ++ [.ok []] ∧
        (q.key.toNat % 2 ^ 128 = 0 → (t.mg.slots.get q.keySlot).grant = none ∧ (t.mg.slots.get q.keySlot).key = 0) ∧
        (q.key.toNat % 2 ^ 128 ≠ 0 → (t.mg.slots.get q.keySlot).grant = some p ∧
          (t.mg.slots.get q.keySlot).key.toNat = q.key.toNat % 2 ^ 128 ∧ (t.mg.slots.get q.keySlot).salt = q.salt))) ∧
    (tenant s = none → tells .setCopyKey .error ∧ tells .setDebugConsent .error ∧ tells .acknowledgeStaged .error) ∧
    (∀ p, tenant s = some p → s.mg.allowDebug = true → ∃ t, exec .setDebugConsent s = .next t ∧
      ∀ n : Fin 64, (s.quads.get n).part.toNat = p.val → (s.quads.get n).owner.toNat % 2 = 1 →
        (t.quads.get n).owner.getLsbD 2 = q.on) ∧
    (let im := q.image
      let good := im.sig.param = Config.xmssParam ∧ (im.sig.key ∈ s.mg.romKeys ∨ im.sig.key ∈ s.mg.blobKeys) ∧ im.sig.verifies = true
      let newer := (s.mg.svn.get im.comp).toNat ≤ im.svn.toNat;
      (im.comp ∉ updatable ∨ ¬ good ∨ ¬ newer → tells .stageUpdate .error) ∧
      (im.comp ∈ updatable → good → newer → ∃ t, exec .stageUpdate s = .next t ∧ t.cmds = s.cmds ∧ t.mg.flash = s.mg.flash ∧
        t.mg.svn = s.mg.svn ∧
        (im.comp = 3 → t.mg.update.staged = some im ∧ ∀ p : Fin 64, (t.parts.get p).acked = false) ∧
        (im.comp ≠ 3 → im ∈ t.mg.update.others ∧ t.mg.update.staged = s.mg.update.staged))) ∧
    (ownerSession s = true → s.mg.update.staged.isSome = true → ∃ t, exec .activationRequest s = .next t ∧
      t.mg.update.wanted = q.on ∧
      (q.on = true → (∀ p : Fin 64, (s.parts.get p).st = .run → (s.parts.get p).acked = true) → t.mg.update.reading = true)) ∧
    (ownerSession s = false ∨ s.mg.update.staged = none → tells .activationRequest .error) ∧
    (∀ p, tenant s = some p → (s.parts.get p).st = .run → s.mg.update.staged.isSome = true →
      ∃ t, exec .acknowledgeStaged s = .next t ∧ (t.parts.get p).acked = true) ∧
    (∀ im a b, s.mg.update.staged = some im → cmdWith s .active = some a → cmdWith s .standby = some b →
      (s.mg.update.reading = false ∨ activationReady s = false → exec .liveUpdateTakeover s = .next (bootStandby s)) ∧
      (s.mg.update.reading = true → activationReady s = true → im.version ≠ Config.tableVersion →
        ∃ t, exec .liveUpdateTakeover s = .next t ∧ t.cmds = s.cmds ∧ t.mg.update.wanted = false) ∧
      (s.mg.update.reading = true → activationReady s = true → im.version = Config.tableVersion → quiescent s = false →
        exec .liveUpdateTakeover s = .next s) ∧
      (s.mg.update.reading = true → activationReady s = true → im.version = Config.tableVersion → quiescent s = true →
        ∃ t, exec .liveUpdateTakeover s = .next t ∧ (t.cmds.get b).role = .active ∧ (t.cmds.get b).fw = im.number ∧
          (t.cmds.get a).role = .standby ∧ t.mg.update.staged = none ∧
          t.mg.flash.get im.comp = im ∧ (t.mg.svn.get im.comp).toNat = max im.svn.toNat (s.mg.svn.get im.comp).toNat)) ∧
    (∀ b, cmdWith s .standby = some b → ∃ t, exec .standbyFailure s = .next t ∧ (t.cmds.get b).role = .failed ∧
      t.mg.update.reading = false) ∧
    (cmdWith s .standby = none → exec .standbyFailure s = .next s)

/-- At reset every quad has CGEN 1 at its cores, QGEN 1 and no tile, every SCRUBBED bit is 1, every slot is FREE, AGEINT is 50,000,
PDEADLINE 200,000 and AUTO 1, and memory lists nothing. That the time counter is 0 there and after a reset (log 13), that every tag is 0
(log 1) and that the one thing on its way is the cold reset (log 25) are the model's choices (DESIGN CHOICE). A cold or a warm reset
leaves every slot FREE, no launch and no session, keeps the index of the attestation key and every SVN counter from ever going back, and
its memory lists nothing but host memory; a warm reset keeps the security core's identity. Each boot stage does what it does, and stops
the boot with its error, reported also on I3C, or is passed; a boot with no error has passed stage 9 with the link up. Too few quads, a
link without a module, a channel that does not train or a PUF reading that cannot be corrected stops it. A link reset keeps everything
but the answer to the host's request and what the training of the link leaves: both modules up, or one when the other fails. -/
def Obligations.ResetEvents : Prop :=
  (let r := State.reset;
    r.ctc = 0 ∧ (∀ (q : Fin 64) (c : Fin 4) (k : Fin 24) (i : Fin 16), (r.core q c).cgen = 1 ∧ (r.quads.get q).qgen = 1 ∧
      (r.quads.get q).tiles = [] ∧ ((r.arch (.strand q c k)).n.get i).tag = 0 ∧ ((r.arch (.strand q c k)).n.get i).scr = true ∧
      ((r.arch (.strand q c k)).q.get i).tag = 0 ∧ (r.ctx (.strand q c k)).st = .free) ∧
    (∀ i : Fin 16, (r.slots.get i).st = .free) ∧ r.cw.ageint = 50000 ∧ r.cw.pdeadline = 200000 ∧ r.cw.biasAuto = true ∧
    r.launches = [] ∧ r.mm.mem = [] ∧ r.mm.arr = [] ∧ MemoryWf r ∧ r.md.inflight = [.coldReset] ∧ r.md.turns = []) ∧
  (∀ s : State, ∀ i ∈ [Instr.coldReset, .warmReset], ∃ t, exec i s = .next t ∧ t.ctc = 0 ∧ (∀ n : Fin 16, (t.slots.get n).st = .free) ∧
    t.launches = [] ∧ t.mg.sessions = [] ∧ s.mg.xmssNext ≤ t.mg.xmssNext ∧ s.mg.xmssEnd ≤ t.mg.xmssNext ∧
    (∀ c ∈ t.mm.mem, target s c.1 = .host ∧ c ∈ s.mm.arr) ∧
    (∀ n : Fin 8, (s.mg.svn.get n).toNat ≤ (t.mg.svn.get n).toNat) ∧
    (i = .warmReset → t.mg.identity = s.mg.identity) ∧
    (t.mg.bootErr = 0 → t.mg.bootStage = 9 ∧ t.mg.linkUp = (if s.md.req.index = 10 then 1 else 2)) ∧
    (t.mg.bootErr ≠ 0 → t.mg.i3cFailure = some (t.mg.bootErr, t.mg.bootDetail)) ∧
    (s.md.req.index = 9 ∨ ((List.finRange 64).filter fun n => !s.md.req.key.getLsbD n.val).length < envelopeQuads s →
      t.mg.bootErr ≠ 0) ∧
    (i = .coldReset → s.md.req.index = 2 ∨ s.md.req.index = 5 → t.mg.bootErr ≠ 0) ∧
    t = runStages (if i = .coldReset then [1, 2, 3, 4, 5, 6, 7, 8, 9] else [4, 6, 7, 8, 9])
      (bootFlash (clearMachine (i == .coldReset) s))) ∧
  (∀ (n : Nat) (rest : List Nat) (u : State), let v := bootStage n { u with mg := { u.mg with bootStage := n } }
    (stageError n v = none → runStages (n :: rest) u = runStages rest (stagePassed n v)) ∧
    (∀ e d, stageError n v = some (e, d) → runStages (n :: rest) u =
      { v with mg := { v.mg with bootErr := e, bootDetail := d, i3cFailure := some (e, d) } })) ∧
  (∀ s : State, exec .linkReset s = .next { s with mg := { s.mg with
    hostAnswer := []
    linkUp := if s.md.req.index = 10 then 1 else 2
    bootDetail := if s.md.req.index = 10 then s.md.req.offset % 16 else s.mg.bootDetail } })

/-- When the next turn is an agent's own and the agent may issue, the step fetches its word: the one that a breakpoint displaced,
or the one at the PC. If the word decodes, the step is that instruction's exec; a word that its core may not execute, one that
does not decode and a fetch that fails stop the agent as their rules say, once no easel form of its own is outstanding. An agent that
may not issue does nothing, unless a debug stop waits for it. With no turn queued the step plans a round, and a turn that delivers
executes what was on its way (log 2), one of the same path after those before it (log 59). -/
def Obligations.StepRunsDecoded : Prop :=
  ∀ (s s1 : State) (a : Agent) (rest : List Turn) (w : Nat),
    let s0 : State := { s with md := { s.md with turns := rest, who := a } }
    (s.md.turns = .run a :: rest →
      (mayIssue s0 a = false → step s = .next (notIssuing a s0) ∧ ((s0.ctx a).why ≠ some .debug → step s = .next s0)) ∧
      (mayIssue s0 a = true →
        ((∃ d, (s0.ctx a).displaced = some d ∧ w = d.toNat ∧ s1 = s0) ∨
          ((s0.ctx a).displaced = none ∧ fetchWord a s0 = .ok (w, s1)) →
          (∀ e, rawStop a w = some e → step s = if ownForms s1 a then .next s1 else stopped a e s1) ∧
          (rawStop a w = none →
            (∀ i bs, decode (leBytes 4 w) = .ok (i, bs) → step s = exec i s1) ∧
            (∀ r, decode (leBytes 4 w) = .error r →
              step s = if ownForms s1 a then .next s1 else stopped a (.fault 1 0 0) s1))) ∧
        (∀ e, (s0.ctx a).displaced = none → fetchWord a s0 = .error e →
          step s = if ownForms s0 a then .next s0 else stopped a e s0))) ∧
    (s.md.turns = [] → step s = .next { s with md := { s.md with turns := plan s } }) ∧
    (∀ n e, s.md.turns = .deliver n :: rest → s.md.inflight[n]? = some e → overtakes s n e = false → step s = exec e
      { s with md := { s.md with turns := rest, inflight := s.md.inflight.eraseIdx n, req := { s.md.req with on := false } } })

/-- Each word of the section 'Worked encodings' decodes to the instruction of its source line; the halfword 0 and a word of a
reserved major do not decode. -/
def Obligations.DecodeWords : Prop :=
  decodeWord 0x000A3201 = .ok (.aluAdd (.n 4) (.n 3) (.n 5)) ∧
  decodeWord 0x3058F1B1 = .ok (.ld .s32 true (.n 3) (.n 15) 2 3) ∧
  decodeWord 0xFFA200A1 = .ok (.br .ne (.n 1) (.n 0) 0xFFA) ∧
  decodeWord 0x264D92B5 = .ok (.amoCas true false true 5 9 (.n 6) 2) ∧
  decodeWord 0x880068C1 = .ok (.wFma .f32 0 1 2 3 4) ∧
  decodeWord 0x0560 = .ok (.l16Add .f32 0 3 5) ∧
  decodeWord 0x2C48 = .ok (.l16Mac .bf16 1 2 4) ∧
  (decodeWord 0).toOption = none ∧ (decodeWord 0x1B).toOption = none

/-- Every well-formed instruction that has a word decodes back from its word, with every operand at every value that the encoding
admits; and every word that decodes gives a well-formed instruction, whose own word is that word. -/
def Obligations.EncodeDecode : Prop :=
  (∀ (i : Instr) (n w : Nat), i.wf = true → encode i = some (n, w) →
    decodeWord w = .ok i ∧ decodeTableWord n w = some i ∧ w < 2 ^ n ∧ n = 8 * wordBytes w) ∧
  (∀ (w : Nat) (i : Instr), decodeWord w = .ok i → i.wf = true ∧ encode i = some (8 * wordBytes w, w % 2 ^ (8 * wordBytes w)))

/-- In every state whose memories list strictly rising addresses and no byte that an unlisted address reads as, whatever step
comes next, its next state's memories do. -/
def Obligations.MemoryCanonical : Prop := ∀ s t : State, MemoryWf s → step s = .next t → MemoryWf t

/-- A form of the majors 0x00 to 0x0C without lookahead, that nothing holds back and whose sources are read, not at the end of an
active loop and not single-stepped, changes nothing but its own agent's context: no memory, no other agent, no translation, no
queue. In that context the PC goes to the next word; every special register, the loop registers, the masks and the deposits are
unchanged; every named register but its destination is; the operand queue is unless it pushes; and FFLG is unless it is a float
form. -/
def Obligations.RegisterFrame : Prop :=
  ∀ (i : Instr) (s : State), let me := s.md.who
    let sh := shapeOf i
    let old := s.ctx me
    Quiet i me s → sh.major ≤ 0x0C → sh.la = 0 → (∀ f ∈ sh.srcs, ∃ x, Reads s me f x) →
    old.arch.atEnd 0 = false → old.arch.atEnd 1 = false → old.sp.sstep = false →
    ∃ y, exec i s = .next (s.updCtx me fun _ => y) ∧
      y.sp = old.sp ∧ y.st = old.st ∧ y.gen = old.gen ∧ y.outst = old.outst ∧ y.arch.loops = old.arch.loops ∧
      y.arch.act = old.arch.act ∧ y.arch.cmask = old.arch.cmask ∧ y.arch.frm = old.arch.frm ∧ y.arch.deps = old.arch.deps ∧
      y.arch.pc = old.arch.pc + 4 ∧
      (∀ j : Fin 16, sh.dst ≠ some (.n j) → y.arch.n.get j = old.arch.n.get j) ∧
      (sh.dst ≠ some .push → y.arch.q = old.arch.q) ∧
      (sh.major ≠ 0x0B → sh.major ≠ 0x0C → y.arch.fflg = old.arch.fflg)
end

