-- ==== Sys2Proof/Laws/Perform.lean ====
section
/-! SUPPORT. What becomes of an instruction that issues, by what its body answers: the lemmas that every statement about an
instruction rests on. -/

namespace Sys2Proof.Machine

open Sys2Proof.Safety

theorem ok_bind {α β : Type} (x : α) (f : α → Except Stop β) : ((.ok x : Except Stop α) >>= f) = f x := rfl

theorem error_bind {α β : Type} (e : Stop) (f : α → Except Stop β) : ((.error e : Except Stop α) >>= f) = .error e := rfl

/-- A check that holds goes on, and one that does not ends the body. -/
theorem check_true (e : Except Stop Unit) : check true e = .ok () := rfl

theorem check_false (e : Except Stop Unit) : check false e = e := rfl

/-- Where the agent may issue, its core executes the form and no trigger, window, outstanding result or region stands in the
way, a form that closes no window goes on from the state with its windows one instruction on. -/
theorem gate_open {i : Instr} {a : Agent} {s : State} (issues : mayIssue s a = true)
    (free : dispatchHolds s a (shapeOf i) = false) (cls : classStop (Agent.cls a) (shapeOf i).major (isQown i) = none)
    (trig : pcTrigger s a = (s, false)) (closed : closes (shapeOf i).major = false) (back : (s.arch a).backEdge = false)
    (wins : (s.ctx a).fl.wins = []) (pend : (s.ctx a).fl.pend = []) (region : (s.ctx a).sp.inregion = false)
    (refused : regionRefused (s.ctx a) = none) :
    gate i a s = .go (tickWindows a s) := by
  simp [gate, issues, free, refused, cls, trig, closed, back, wins, pend, region]

/-- A form that closes windows goes on from the state as it is, where there is none to close. -/
theorem gate_closing {i : Instr} {a : Agent} {s : State} (issues : mayIssue s a = true)
    (free : dispatchHolds s a (shapeOf i) = false) (cls : classStop (Agent.cls a) (shapeOf i).major (isQown i) = none)
    (trig : pcTrigger s a = (s, false)) (closed : closes (shapeOf i).major = true)
    (wins : (s.ctx a).fl.wins = []) (pend : (s.ctx a).fl.pend = []) (region : (s.ctx a).sp.inregion = false)
    (refused : regionRefused (s.ctx a) = none) :
    gate i a s = .go s := by
  simp [gate, issues, free, refused, cls, trig, closed, wins, pend, region]

/-- An instruction that issues and whose body answers a state retires from it. -/
theorem perform_ok {i : Instr} {body : Agent → Act} {s t u : State} (h : gate i s.md.who s = .go t) (hb : body s.md.who t = .ok u) :
    perform i body s = .next (retire i s.md.who u) := by
  simp only [perform, h, hb, retire]

/-- Where no easel form of the strand is outstanding, a stop is what `stopped` makes of it. -/
theorem stopBehind_alone {a : Agent} {e : Stop} {s t : State} (h : ownForms s a = false) : stopBehind a e t s = stopped a e t := by
  simp [stopBehind, h]

/-- A stop that only waits is what `stopped` makes of it, too. -/
theorem stopBehind_waits {a : Agent} {e : Stop} {s t : State} (h : e.waits = true) : stopBehind a e t s = stopped a e t := by
  simp [stopBehind, h]

/-- An instruction that issues and whose body does not complete comes to what `stopBehind` makes of the reason. -/
theorem perform_error {i : Instr} {body : Agent → Act} {s t : State} {e : Stop} (h : gate i s.md.who s = .go t)
    (hb : body s.md.who t = .error e) :
    perform i body s = stopBehind s.md.who e (pcTrigger s s.md.who).1 s := by
  simp only [perform, h, hb]

theorem performJump_ok {i : Instr} {body : Agent → Act} {s t u : State} (h : gate i s.md.who s = .go t) (hb : body s.md.who t = .ok u) :
    performJump i body s = .next (finish s.md.who u) := by
  simp only [performJump, h, hb]

theorem performJump_error {i : Instr} {body : Agent → Act} {s t : State} {e : Stop} (h : gate i s.md.who s = .go t)
    (hb : body s.md.who t = .error e) :
    performJump i body s = stopBehind s.md.who e (pcTrigger s s.md.who).1 s := by
  simp only [performJump, h, hb]

/-- All that `perform` can answer. -/
theorem perform_cases (i : Instr) (body : Agent → Act) (s : State) :
    (∃ t, gate i s.md.who s = .stall t ∧ perform i body s = .next t) ∨
    (∃ e t, gate i s.md.who s = .stop e t ∧ perform i body s = stopBehind s.md.who e t s) ∨
    (∃ t u, gate i s.md.who s = .go t ∧ body s.md.who t = .ok u ∧ perform i body s = .next (retire i s.md.who u)) ∨
    (∃ t e, gate i s.md.who s = .go t ∧ body s.md.who t = .error e ∧ perform i body s = stopBehind s.md.who e (pcTrigger s s.md.who).1 s) := by
  rcases hg : gate i s.md.who s with t | ⟨e, t⟩ | t
  · exact .inl ⟨t, rfl, by simp only [perform, hg]⟩
  · exact .inr (.inl ⟨e, t, rfl, by simp only [perform, hg]⟩)
  · rcases hb : body s.md.who t with e | u
    · exact .inr (.inr (.inr ⟨t, e, rfl, hb, perform_error hg hb⟩))
    · exact .inr (.inr (.inl ⟨t, u, rfl, hb, perform_ok hg hb⟩))

/-- All that `performJump` can answer. -/
theorem performJump_cases (i : Instr) (body : Agent → Act) (s : State) :
    (∃ t, gate i s.md.who s = .stall t ∧ performJump i body s = .next t) ∨
    (∃ e t, gate i s.md.who s = .stop e t ∧ performJump i body s = stopBehind s.md.who e t s) ∨
    (∃ t u, gate i s.md.who s = .go t ∧ body s.md.who t = .ok u ∧ performJump i body s = .next (finish s.md.who u)) ∨
    (∃ t e, gate i s.md.who s = .go t ∧ body s.md.who t = .error e ∧ performJump i body s = stopBehind s.md.who e (pcTrigger s s.md.who).1 s) := by
  rcases hg : gate i s.md.who s with t | ⟨e, t⟩ | t
  · exact .inl ⟨t, rfl, by simp only [performJump, hg]⟩
  · exact .inr (.inl ⟨e, t, rfl, by simp only [performJump, hg]⟩)
  · rcases hb : body s.md.who t with e | u
    · exact .inr (.inr (.inr ⟨t, e, rfl, hb, performJump_error hg hb⟩))
    · exact .inr (.inr (.inl ⟨t, u, rfl, hb, performJump_ok hg hb⟩))

/-! ## The bodies of the scalar forms -/

theorem alu2_ok {d : Dst} {a b : Src} {f : Word → Word → Word} {ag : Agent} {s : State} {x y : Word}
    (hx : Reads s ag a x) (hy : Reads s ag b y) : alu2 d a b f ag s = .ok (writeDst s ag d (f x y)) := by
  unfold Reads at hx hy
  simp only [alu2, hx, hy]
  rfl

theorem alu1_ok {d : Dst} {a : Src} {f : Word → Word} {ag : Agent} {s : State} {x : Word} (hx : Reads s ag a x) :
    alu1 d a f ag s = .ok (writeDst s ag d (f x)) := by
  unfold Reads at hx
  simp only [alu1, hx]
  rfl

theorem long2_ok {d : Dst} {a b : Src} {la : Fin 16} {f : Word → Word → Word} {ag : Agent} {s : State} {x y : Word}
    (hx : Reads s ag a x) (hy : Reads s ag b y) : long2 d a b la f ag s = .ok (longResult s ag la.val d (f x y) 0) := by
  unfold Reads at hx hy
  simp only [long2, hx, hy]
  rfl

theorem fpuForm2_ok {d : Dst} {a b : Src} {f : RM → Word → Word → Word × Flags} {ag : Agent} {s : State} {x y : Word}
    (hx : Reads s ag a x) (hy : Reads s ag b y) :
    fpuForm2 d a b f ag s = .ok (raiseFlags ag (f (rmOf s ag) x y).2 (writeDst s ag d (f (rmOf s ag) x y).1)) := by
  unfold Reads at hx hy
  simp only [fpuForm2, hx, hy]
  rfl

theorem fpuForm1_ok {d : Dst} {a : Src} {f : RM → Word → Word × Flags} {ag : Agent} {s : State} {x : Word}
    (hx : Reads s ag a x) :
    fpuForm1 d a f ag s = .ok (raiseFlags ag (f (rmOf s ag) x).2 (writeDst s ag d (f (rmOf s ag) x).1)) := by
  unfold Reads at hx
  simp only [fpuForm1, hx]
  rfl

theorem fplForm2_ok {d : Dst} {a b : Src} {la : Fin 16} {f : RM → Word → Word → Word × Flags} {ag : Agent} {s : State}
    {x y : Word} (hx : Reads s ag a x) (hy : Reads s ag b y) :
    fplForm2 d a b la f ag s =
      .ok (longResult s ag la.val d (f (rmOf s ag) x y).1 (f (rmOf s ag) x y).2) := by
  unfold Reads at hx hy
  simp only [fplForm2, hx, hy]
  rfl

end Sys2Proof.Machine
end

