-- ==== Sys2Proof/Laws/Access.lean ====
section
/-! SUPPORT. What an access comes to whose granule a translation buffer of the agent's serves (R126, R210, R359). -/

namespace Sys2Proof.Machine

open Sys2Proof.Safety

/-- An access that lies within 32 bytes is one piece. -/
theorem splits_one {va : Word} {n : Nat} (h0 : 0 < n) (h : va.toNat % 32 + n ≤ 32) : splits va n = [(0, n)] := by
  have hm : min n (32 - va.toNat % 32) = n := by omega
  have hp : pieces (n / 32 + 2) va.toNat n = [(va.toNat, n)] := by
    have hn : n ≠ 0 := by omega
    simp [pieces, hm, hn]
  simp [splits, hp]

/-- A served access is translated to its one piece, and the state stays as it is. -/
theorem resolve_served {w : Requester} {right : Right} {need : Access} {va : Word} {n pa : Nat} {s : State}
    (h : Served w right need va n pa s) : resolve w right need va n s = .ok ([(pa, n)], s) := by
  obtain ⟨hv, h0, hp, ⟨sp, e, hs, hf, rfl⟩, hm, ha, hc, -⟩ := h
  have hx : xlatPiece w need va s = (.ok ((e.pa.toNat + (va.toNat / 65536 - e.va.toNat)) * 65536 + va.toNat % 65536), s) := by
    simp [xlatPiece, hv, hs, translate, hf]
  have he : (target s ((e.pa.toNat + (va.toNat / 65536 - e.va.toNat)) * 65536 + va.toNat % 65536) == .engWindow) = false := by
    revert hm
    simp only [isMemory]
    cases target s ((e.pa.toNat + (va.toNat / 65536 - e.va.toNat)) * 65536 + va.toNat % 65536) <;> simp
  have hi : hostIo s w.part ((e.pa.toNat + (va.toNat / 65536 - e.va.toNat)) * 65536 + va.toNat % 65536) = false := by
    simp [hostIo, hc]
  simp [resolve, splits_one h0 hp, xlatPieces, hx, okPas, firstError, he, ha, hi]

end Sys2Proof.Machine
end

