-- ==== Sys2Proof/Laws/State.lean ====
section
/-! SUPPORT. The fields of the state under each update: what the update does not name stays. -/

namespace Sys2Proof.Machine

@[simp] theorem State.updQuad_ctc (s : State) (q : Fin 64) (g : Quad → Quad) : (s.updQuad q g).ctc = s.ctc := rfl
@[simp] theorem State.updQuad_clock (s : State) (q : Fin 64) (g : Quad → Quad) : (s.updQuad q g).clock = s.clock := rfl
@[simp] theorem State.updQuad_lastStep (s : State) (q : Fin 64) (g : Quad → Quad) : (s.updQuad q g).lastStep = s.lastStep := rfl
@[simp] theorem State.updQuad_weirs (s : State) (q : Fin 64) (g : Quad → Quad) : (s.updQuad q g).weirs = s.weirs := rfl
@[simp] theorem State.updQuad_launches (s : State) (q : Fin 64) (g : Quad → Quad) : (s.updQuad q g).launches = s.launches := rfl
@[simp] theorem State.updQuad_slots (s : State) (q : Fin 64) (g : Quad → Quad) : (s.updQuad q g).slots = s.slots := rfl
@[simp] theorem State.updQuad_parts (s : State) (q : Fin 64) (g : Quad → Quad) : (s.updQuad q g).parts = s.parts := rfl
@[simp] theorem State.updQuad_cw (s : State) (q : Fin 64) (g : Quad → Quad) : (s.updQuad q g).cw = s.cw := rfl
@[simp] theorem State.updQuad_xl (s : State) (q : Fin 64) (g : Quad → Quad) : (s.updQuad q g).xl = s.xl := rfl
@[simp] theorem State.updQuad_mm (s : State) (q : Fin 64) (g : Quad → Quad) : (s.updQuad q g).mm = s.mm := rfl
@[simp] theorem State.updQuad_cmds (s : State) (q : Fin 64) (g : Quad → Quad) : (s.updQuad q g).cmds = s.cmds := rfl
@[simp] theorem State.updQuad_sec (s : State) (q : Fin 64) (g : Quad → Quad) : (s.updQuad q g).sec = s.sec := rfl
@[simp] theorem State.updQuad_mg (s : State) (q : Fin 64) (g : Quad → Quad) : (s.updQuad q g).mg = s.mg := rfl
@[simp] theorem State.updQuad_md (s : State) (q : Fin 64) (g : Quad → Quad) : (s.updQuad q g).md = s.md := rfl

@[simp] theorem State.updCore_ctc (s : State) (q : Fin 64) (c : Fin 4) (g : Core → Core) : (s.updCore q c g).ctc = s.ctc := rfl
@[simp] theorem State.updCore_clock (s : State) (q : Fin 64) (c : Fin 4) (g : Core → Core) : (s.updCore q c g).clock = s.clock := rfl
@[simp] theorem State.updCore_lastStep (s : State) (q : Fin 64) (c : Fin 4) (g : Core → Core) : (s.updCore q c g).lastStep = s.lastStep := rfl
@[simp] theorem State.updCore_weirs (s : State) (q : Fin 64) (c : Fin 4) (g : Core → Core) : (s.updCore q c g).weirs = s.weirs := rfl
@[simp] theorem State.updCore_launches (s : State) (q : Fin 64) (c : Fin 4) (g : Core → Core) : (s.updCore q c g).launches = s.launches := rfl
@[simp] theorem State.updCore_slots (s : State) (q : Fin 64) (c : Fin 4) (g : Core → Core) : (s.updCore q c g).slots = s.slots := rfl
@[simp] theorem State.updCore_parts (s : State) (q : Fin 64) (c : Fin 4) (g : Core → Core) : (s.updCore q c g).parts = s.parts := rfl
@[simp] theorem State.updCore_cw (s : State) (q : Fin 64) (c : Fin 4) (g : Core → Core) : (s.updCore q c g).cw = s.cw := rfl
@[simp] theorem State.updCore_xl (s : State) (q : Fin 64) (c : Fin 4) (g : Core → Core) : (s.updCore q c g).xl = s.xl := rfl
@[simp] theorem State.updCore_mm (s : State) (q : Fin 64) (c : Fin 4) (g : Core → Core) : (s.updCore q c g).mm = s.mm := rfl
@[simp] theorem State.updCore_cmds (s : State) (q : Fin 64) (c : Fin 4) (g : Core → Core) : (s.updCore q c g).cmds = s.cmds := rfl
@[simp] theorem State.updCore_sec (s : State) (q : Fin 64) (c : Fin 4) (g : Core → Core) : (s.updCore q c g).sec = s.sec := rfl
@[simp] theorem State.updCore_mg (s : State) (q : Fin 64) (c : Fin 4) (g : Core → Core) : (s.updCore q c g).mg = s.mg := rfl
@[simp] theorem State.updCore_md (s : State) (q : Fin 64) (c : Fin 4) (g : Core → Core) : (s.updCore q c g).md = s.md := rfl

@[simp] theorem State.updHart_ctc (s : State) (a : Agent) (g : Hart → Hart) : (s.updHart a g).ctc = s.ctc := by
  cases a <;> rfl
@[simp] theorem State.updHart_clock (s : State) (a : Agent) (g : Hart → Hart) : (s.updHart a g).clock = s.clock := by
  cases a <;> rfl
@[simp] theorem State.updHart_lastStep (s : State) (a : Agent) (g : Hart → Hart) : (s.updHart a g).lastStep = s.lastStep := by
  cases a <;> rfl
@[simp] theorem State.updHart_launches (s : State) (a : Agent) (g : Hart → Hart) : (s.updHart a g).launches = s.launches := by
  cases a <;> rfl
@[simp] theorem State.updHart_slots (s : State) (a : Agent) (g : Hart → Hart) : (s.updHart a g).slots = s.slots := by
  cases a <;> rfl
@[simp] theorem State.updHart_parts (s : State) (a : Agent) (g : Hart → Hart) : (s.updHart a g).parts = s.parts := by
  cases a <;> rfl
@[simp] theorem State.updHart_cw (s : State) (a : Agent) (g : Hart → Hart) : (s.updHart a g).cw = s.cw := by
  cases a <;> rfl
@[simp] theorem State.updHart_xl (s : State) (a : Agent) (g : Hart → Hart) : (s.updHart a g).xl = s.xl := by
  cases a <;> rfl
@[simp] theorem State.updHart_mm (s : State) (a : Agent) (g : Hart → Hart) : (s.updHart a g).mm = s.mm := by
  cases a <;> rfl
@[simp] theorem State.updHart_cmds (s : State) (a : Agent) (g : Hart → Hart) : (s.updHart a g).cmds = s.cmds := by
  cases a <;> rfl
@[simp] theorem State.updHart_sec (s : State) (a : Agent) (g : Hart → Hart) : (s.updHart a g).sec = s.sec := by
  cases a <;> rfl
@[simp] theorem State.updHart_mg (s : State) (a : Agent) (g : Hart → Hart) : (s.updHart a g).mg = s.mg := by
  cases a <;> rfl
@[simp] theorem State.updHart_md (s : State) (a : Agent) (g : Hart → Hart) : (s.updHart a g).md = s.md := by
  cases a <;> rfl

@[simp] theorem State.updCtx_ctc (s : State) (a : Agent) (g : Ctx → Ctx) : (s.updCtx a g).ctc = s.ctc := by
  cases a <;> rfl
@[simp] theorem State.updCtx_clock (s : State) (a : Agent) (g : Ctx → Ctx) : (s.updCtx a g).clock = s.clock := by
  cases a <;> rfl
@[simp] theorem State.updCtx_lastStep (s : State) (a : Agent) (g : Ctx → Ctx) : (s.updCtx a g).lastStep = s.lastStep := by
  cases a <;> rfl
@[simp] theorem State.updCtx_launches (s : State) (a : Agent) (g : Ctx → Ctx) : (s.updCtx a g).launches = s.launches := by
  cases a <;> rfl
@[simp] theorem State.updCtx_slots (s : State) (a : Agent) (g : Ctx → Ctx) : (s.updCtx a g).slots = s.slots := by
  cases a <;> rfl
@[simp] theorem State.updCtx_parts (s : State) (a : Agent) (g : Ctx → Ctx) : (s.updCtx a g).parts = s.parts := by
  cases a <;> rfl
@[simp] theorem State.updCtx_cw (s : State) (a : Agent) (g : Ctx → Ctx) : (s.updCtx a g).cw = s.cw := by
  cases a <;> rfl
@[simp] theorem State.updCtx_xl (s : State) (a : Agent) (g : Ctx → Ctx) : (s.updCtx a g).xl = s.xl := by
  cases a <;> rfl
@[simp] theorem State.updCtx_mm (s : State) (a : Agent) (g : Ctx → Ctx) : (s.updCtx a g).mm = s.mm := by
  cases a <;> rfl
@[simp] theorem State.updCtx_mg (s : State) (a : Agent) (g : Ctx → Ctx) : (s.updCtx a g).mg = s.mg := by
  cases a <;> rfl
@[simp] theorem State.updCtx_md (s : State) (a : Agent) (g : Ctx → Ctx) : (s.updCtx a g).md = s.md := by
  cases a <;> rfl

@[simp] theorem State.updArch_ctc (s : State) (a : Agent) (g : Arch → Arch) : (s.updArch a g).ctc = s.ctc := by
  cases a <;> rfl
@[simp] theorem State.updArch_clock (s : State) (a : Agent) (g : Arch → Arch) : (s.updArch a g).clock = s.clock := by
  cases a <;> rfl
@[simp] theorem State.updArch_lastStep (s : State) (a : Agent) (g : Arch → Arch) : (s.updArch a g).lastStep = s.lastStep := by
  cases a <;> rfl
@[simp] theorem State.updArch_launches (s : State) (a : Agent) (g : Arch → Arch) : (s.updArch a g).launches = s.launches := by
  cases a <;> rfl
@[simp] theorem State.updArch_slots (s : State) (a : Agent) (g : Arch → Arch) : (s.updArch a g).slots = s.slots := by
  cases a <;> rfl
@[simp] theorem State.updArch_parts (s : State) (a : Agent) (g : Arch → Arch) : (s.updArch a g).parts = s.parts := by
  cases a <;> rfl
@[simp] theorem State.updArch_cw (s : State) (a : Agent) (g : Arch → Arch) : (s.updArch a g).cw = s.cw := by
  cases a <;> rfl
@[simp] theorem State.updArch_xl (s : State) (a : Agent) (g : Arch → Arch) : (s.updArch a g).xl = s.xl := by
  cases a <;> rfl
@[simp] theorem State.updArch_mm (s : State) (a : Agent) (g : Arch → Arch) : (s.updArch a g).mm = s.mm := by
  cases a <;> rfl
@[simp] theorem State.updArch_mg (s : State) (a : Agent) (g : Arch → Arch) : (s.updArch a g).mg = s.mg := by
  cases a <;> rfl
@[simp] theorem State.updArch_md (s : State) (a : Agent) (g : Arch → Arch) : (s.updArch a g).md = s.md := by
  cases a <;> rfl

@[simp] theorem State.updSpec_ctc (s : State) (a : Agent) (g : Spec → Spec) : (s.updSpec a g).ctc = s.ctc := by
  cases a <;> rfl
@[simp] theorem State.updSpec_clock (s : State) (a : Agent) (g : Spec → Spec) : (s.updSpec a g).clock = s.clock := by
  cases a <;> rfl
@[simp] theorem State.updSpec_lastStep (s : State) (a : Agent) (g : Spec → Spec) : (s.updSpec a g).lastStep = s.lastStep := by
  cases a <;> rfl
@[simp] theorem State.updSpec_launches (s : State) (a : Agent) (g : Spec → Spec) : (s.updSpec a g).launches = s.launches := by
  cases a <;> rfl
@[simp] theorem State.updSpec_slots (s : State) (a : Agent) (g : Spec → Spec) : (s.updSpec a g).slots = s.slots := by
  cases a <;> rfl
@[simp] theorem State.updSpec_parts (s : State) (a : Agent) (g : Spec → Spec) : (s.updSpec a g).parts = s.parts := by
  cases a <;> rfl
@[simp] theorem State.updSpec_cw (s : State) (a : Agent) (g : Spec → Spec) : (s.updSpec a g).cw = s.cw := by
  cases a <;> rfl
@[simp] theorem State.updSpec_xl (s : State) (a : Agent) (g : Spec → Spec) : (s.updSpec a g).xl = s.xl := by
  cases a <;> rfl
@[simp] theorem State.updSpec_mm (s : State) (a : Agent) (g : Spec → Spec) : (s.updSpec a g).mm = s.mm := by
  cases a <;> rfl
@[simp] theorem State.updSpec_mg (s : State) (a : Agent) (g : Spec → Spec) : (s.updSpec a g).mg = s.mg := by
  cases a <;> rfl
@[simp] theorem State.updSpec_md (s : State) (a : Agent) (g : Spec → Spec) : (s.updSpec a g).md = s.md := by
  cases a <;> rfl

@[simp] theorem State.updFlight_ctc (s : State) (a : Agent) (g : Flight → Flight) : (s.updFlight a g).ctc = s.ctc := by
  cases a <;> rfl
@[simp] theorem State.updFlight_clock (s : State) (a : Agent) (g : Flight → Flight) : (s.updFlight a g).clock = s.clock := by
  cases a <;> rfl
@[simp] theorem State.updFlight_lastStep (s : State) (a : Agent) (g : Flight → Flight) : (s.updFlight a g).lastStep = s.lastStep := by
  cases a <;> rfl
@[simp] theorem State.updFlight_launches (s : State) (a : Agent) (g : Flight → Flight) : (s.updFlight a g).launches = s.launches := by
  cases a <;> rfl
@[simp] theorem State.updFlight_slots (s : State) (a : Agent) (g : Flight → Flight) : (s.updFlight a g).slots = s.slots := by
  cases a <;> rfl
@[simp] theorem State.updFlight_parts (s : State) (a : Agent) (g : Flight → Flight) : (s.updFlight a g).parts = s.parts := by
  cases a <;> rfl
@[simp] theorem State.updFlight_cw (s : State) (a : Agent) (g : Flight → Flight) : (s.updFlight a g).cw = s.cw := by
  cases a <;> rfl
@[simp] theorem State.updFlight_xl (s : State) (a : Agent) (g : Flight → Flight) : (s.updFlight a g).xl = s.xl := by
  cases a <;> rfl
@[simp] theorem State.updFlight_mm (s : State) (a : Agent) (g : Flight → Flight) : (s.updFlight a g).mm = s.mm := by
  cases a <;> rfl
@[simp] theorem State.updFlight_mg (s : State) (a : Agent) (g : Flight → Flight) : (s.updFlight a g).mg = s.mg := by
  cases a <;> rfl
@[simp] theorem State.updFlight_md (s : State) (a : Agent) (g : Flight → Flight) : (s.updFlight a g).md = s.md := by
  cases a <;> rfl

@[simp] theorem State.updPart_ctc (s : State) (p : Fin 64) (g : Part → Part) : (s.updPart p g).ctc = s.ctc := rfl
@[simp] theorem State.updPart_clock (s : State) (p : Fin 64) (g : Part → Part) : (s.updPart p g).clock = s.clock := rfl
@[simp] theorem State.updPart_lastStep (s : State) (p : Fin 64) (g : Part → Part) : (s.updPart p g).lastStep = s.lastStep := rfl
@[simp] theorem State.updPart_quads (s : State) (p : Fin 64) (g : Part → Part) : (s.updPart p g).quads = s.quads := rfl
@[simp] theorem State.updPart_weirs (s : State) (p : Fin 64) (g : Part → Part) : (s.updPart p g).weirs = s.weirs := rfl
@[simp] theorem State.updPart_launches (s : State) (p : Fin 64) (g : Part → Part) : (s.updPart p g).launches = s.launches := rfl
@[simp] theorem State.updPart_slots (s : State) (p : Fin 64) (g : Part → Part) : (s.updPart p g).slots = s.slots := rfl
@[simp] theorem State.updPart_cw (s : State) (p : Fin 64) (g : Part → Part) : (s.updPart p g).cw = s.cw := rfl
@[simp] theorem State.updPart_xl (s : State) (p : Fin 64) (g : Part → Part) : (s.updPart p g).xl = s.xl := rfl
@[simp] theorem State.updPart_mm (s : State) (p : Fin 64) (g : Part → Part) : (s.updPart p g).mm = s.mm := rfl
@[simp] theorem State.updPart_cmds (s : State) (p : Fin 64) (g : Part → Part) : (s.updPart p g).cmds = s.cmds := rfl
@[simp] theorem State.updPart_sec (s : State) (p : Fin 64) (g : Part → Part) : (s.updPart p g).sec = s.sec := rfl
@[simp] theorem State.updPart_mg (s : State) (p : Fin 64) (g : Part → Part) : (s.updPart p g).mg = s.mg := rfl
@[simp] theorem State.updPart_md (s : State) (p : Fin 64) (g : Part → Part) : (s.updPart p g).md = s.md := rfl

@[simp] theorem State.updSlot_ctc (s : State) (i : Fin 16) (g : HwSlot → HwSlot) : (s.updSlot i g).ctc = s.ctc := rfl
@[simp] theorem State.updSlot_clock (s : State) (i : Fin 16) (g : HwSlot → HwSlot) : (s.updSlot i g).clock = s.clock := rfl
@[simp] theorem State.updSlot_lastStep (s : State) (i : Fin 16) (g : HwSlot → HwSlot) : (s.updSlot i g).lastStep = s.lastStep := rfl
@[simp] theorem State.updSlot_quads (s : State) (i : Fin 16) (g : HwSlot → HwSlot) : (s.updSlot i g).quads = s.quads := rfl
@[simp] theorem State.updSlot_weirs (s : State) (i : Fin 16) (g : HwSlot → HwSlot) : (s.updSlot i g).weirs = s.weirs := rfl
@[simp] theorem State.updSlot_launches (s : State) (i : Fin 16) (g : HwSlot → HwSlot) : (s.updSlot i g).launches = s.launches := rfl
@[simp] theorem State.updSlot_parts (s : State) (i : Fin 16) (g : HwSlot → HwSlot) : (s.updSlot i g).parts = s.parts := rfl
@[simp] theorem State.updSlot_cw (s : State) (i : Fin 16) (g : HwSlot → HwSlot) : (s.updSlot i g).cw = s.cw := rfl
@[simp] theorem State.updSlot_xl (s : State) (i : Fin 16) (g : HwSlot → HwSlot) : (s.updSlot i g).xl = s.xl := rfl
@[simp] theorem State.updSlot_mm (s : State) (i : Fin 16) (g : HwSlot → HwSlot) : (s.updSlot i g).mm = s.mm := rfl
@[simp] theorem State.updSlot_cmds (s : State) (i : Fin 16) (g : HwSlot → HwSlot) : (s.updSlot i g).cmds = s.cmds := rfl
@[simp] theorem State.updSlot_sec (s : State) (i : Fin 16) (g : HwSlot → HwSlot) : (s.updSlot i g).sec = s.sec := rfl
@[simp] theorem State.updSlot_mg (s : State) (i : Fin 16) (g : HwSlot → HwSlot) : (s.updSlot i g).mg = s.mg := rfl
@[simp] theorem State.updSlot_md (s : State) (i : Fin 16) (g : HwSlot → HwSlot) : (s.updSlot i g).md = s.md := rfl

@[simp] theorem State.updLaunch_ctc (s : State) (l : LaunchId) (g : Launch → Launch) : (s.updLaunch l g).ctc = s.ctc := rfl
@[simp] theorem State.updLaunch_clock (s : State) (l : LaunchId) (g : Launch → Launch) : (s.updLaunch l g).clock = s.clock := rfl
@[simp] theorem State.updLaunch_lastStep (s : State) (l : LaunchId) (g : Launch → Launch) : (s.updLaunch l g).lastStep = s.lastStep := rfl
@[simp] theorem State.updLaunch_quads (s : State) (l : LaunchId) (g : Launch → Launch) : (s.updLaunch l g).quads = s.quads := rfl
@[simp] theorem State.updLaunch_weirs (s : State) (l : LaunchId) (g : Launch → Launch) : (s.updLaunch l g).weirs = s.weirs := rfl
@[simp] theorem State.updLaunch_slots (s : State) (l : LaunchId) (g : Launch → Launch) : (s.updLaunch l g).slots = s.slots := rfl
@[simp] theorem State.updLaunch_parts (s : State) (l : LaunchId) (g : Launch → Launch) : (s.updLaunch l g).parts = s.parts := rfl
@[simp] theorem State.updLaunch_cw (s : State) (l : LaunchId) (g : Launch → Launch) : (s.updLaunch l g).cw = s.cw := rfl
@[simp] theorem State.updLaunch_xl (s : State) (l : LaunchId) (g : Launch → Launch) : (s.updLaunch l g).xl = s.xl := rfl
@[simp] theorem State.updLaunch_mm (s : State) (l : LaunchId) (g : Launch → Launch) : (s.updLaunch l g).mm = s.mm := rfl
@[simp] theorem State.updLaunch_cmds (s : State) (l : LaunchId) (g : Launch → Launch) : (s.updLaunch l g).cmds = s.cmds := rfl
@[simp] theorem State.updLaunch_sec (s : State) (l : LaunchId) (g : Launch → Launch) : (s.updLaunch l g).sec = s.sec := rfl
@[simp] theorem State.updLaunch_mg (s : State) (l : LaunchId) (g : Launch → Launch) : (s.updLaunch l g).mg = s.mg := rfl
@[simp] theorem State.updLaunch_md (s : State) (l : LaunchId) (g : Launch → Launch) : (s.updLaunch l g).md = s.md := rfl

@[simp] theorem post_ctc (e : Instr) (s : State) : (post e s).ctc = s.ctc := rfl
@[simp] theorem post_clock (e : Instr) (s : State) : (post e s).clock = s.clock := rfl
@[simp] theorem post_lastStep (e : Instr) (s : State) : (post e s).lastStep = s.lastStep := rfl
@[simp] theorem post_quads (e : Instr) (s : State) : (post e s).quads = s.quads := rfl
@[simp] theorem post_weirs (e : Instr) (s : State) : (post e s).weirs = s.weirs := rfl
@[simp] theorem post_launches (e : Instr) (s : State) : (post e s).launches = s.launches := rfl
@[simp] theorem post_slots (e : Instr) (s : State) : (post e s).slots = s.slots := rfl
@[simp] theorem post_parts (e : Instr) (s : State) : (post e s).parts = s.parts := rfl
@[simp] theorem post_cw (e : Instr) (s : State) : (post e s).cw = s.cw := rfl
@[simp] theorem post_xl (e : Instr) (s : State) : (post e s).xl = s.xl := rfl
@[simp] theorem post_mm (e : Instr) (s : State) : (post e s).mm = s.mm := rfl
@[simp] theorem post_cmds (e : Instr) (s : State) : (post e s).cmds = s.cmds := rfl
@[simp] theorem post_sec (e : Instr) (s : State) : (post e s).sec = s.sec := rfl
@[simp] theorem post_mg (e : Instr) (s : State) : (post e s).mg = s.mg := rfl
@[simp] theorem post_md_who (e : Instr) (s : State) : (post e s).md.who = s.md.who := rfl
@[simp] theorem post_md_req (e : Instr) (s : State) : (post e s).md.req = s.md.req := rfl
@[simp] theorem post_md_turns (e : Instr) (s : State) : (post e s).md.turns = s.md.turns := rfl
@[simp] theorem post_md_freeCtr (e : Instr) (s : State) : (post e s).md.freeCtr = s.md.freeCtr := rfl
@[simp] theorem post_md_inflight (e : Instr) (s : State) : (post e s).md.inflight = s.md.inflight ++ [e] := rfl

/-! ## What an update puts in its place -/

theorem vget_set {α : Type} {n : Nat} (v : Vector α n) (i j : Fin n) (x : α) :
    (v.set i.val x i.isLt).get j = if j = i then x else v.get j := by
  rw [Vector.get_eq_getElem, Vector.getElem_set, Vector.get_eq_getElem]
  by_cases h : j = i
  · simp [h]
  · have h' : i.val ≠ j.val := fun e => h (Fin.ext e.symm)
    simp [h, h']

theorem State.quads_updQuad (s : State) (q r : Fin 64) (g : Quad → Quad) :
    (s.updQuad q g).quads.get r = if r = q then g (s.quads.get q) else s.quads.get r := by
  simp only [State.updQuad, vget_set]

theorem State.core_updCore (s : State) (q r : Fin 64) (c d : Fin 4) (g : Core → Core) :
    (s.updCore q c g).core r d = if r = q ∧ d = c then g (s.core q c) else s.core r d := by
  simp only [State.core, State.updCore, State.quads_updQuad]
  by_cases h : r = q
  · subst h
    simp only [if_true, Quad.updCore, vget_set, true_and]
  · simp [h]

@[simp] theorem State.core_updCore_same (s : State) (q : Fin 64) (c : Fin 4) (g : Core → Core) :
    (s.updCore q c g).core q c = g (s.core q c) := by
  simp [State.core_updCore]

theorem Core.ctxs_updCtx (x : Core) (k j : Fin 24) (g : Ctx → Ctx) :
    (x.updCtx k g).ctxs.get j = if j = k then g (x.ctxs.get k) else x.ctxs.get j := by
  simp only [Core.updCtx, vget_set]

/-- An agent's context after an update of an agent's context. -/
theorem State.ctx_updCtx (s : State) (a b : Agent) (g : Ctx → Ctx) :
    (s.updCtx a g).ctx b = if b = a then g (s.ctx a) else s.ctx b := by
  rcases a with ⟨q, c, k⟩ | ⟨q, h⟩ | u | x | _
  · rcases b with ⟨q', c', k'⟩ | ⟨q', h'⟩ | _ | _ | _ <;> try rfl
    · simp only [State.updCtx, State.ctx, State.core_updCore, Agent.strand.injEq]
      by_cases e : q' = q ∧ c' = c
      · obtain ⟨rfl, rfl⟩ := e
        simp [Core.ctxs_updCtx]
      · have e' : ¬ (q' = q ∧ c' = c ∧ k' = k) := fun x => e ⟨x.1, x.2.1⟩
        simp [e, e']
    · simp only [State.updCtx, State.ctx, State.updCore, State.quads_updQuad, reduceCtorEq, if_false]
      by_cases e : q' = q
      · subst e
        simp [Quad.updCore]
      · simp [e]
  · rcases b with ⟨q', c', k'⟩ | ⟨q', h'⟩ | _ | _ | _ <;> try rfl
    · simp only [State.updCtx, State.ctx, State.updHart, State.core, State.quads_updQuad, reduceCtorEq, if_false]
      by_cases e : q' = q
      · subst e
        simp
      · simp [e]
    · simp only [State.updCtx, State.ctx, State.updHart, State.quads_updQuad, Agent.hart.injEq]
      by_cases e : q' = q
      · subst e
        by_cases e2 : h' = h
        · subst e2
          simp [vget_set]
        · simp [e2, vget_set]
      · simp [e]
  · rcases b with _ | _ | u' | _ | _ <;> try rfl
    simp only [State.updCtx, State.ctx, State.updHart, Agent.weir.injEq, vget_set]
    by_cases e : u' = u
    · subst e
      simp
    · simp [e]
  · rcases b with _ | _ | _ | x' | _ <;> try rfl
    simp only [State.updCtx, State.ctx, Agent.cmd.injEq, vget_set]
    by_cases e : x' = x
    · subst e
      simp
    · simp [e]
  · rcases b with _ | _ | _ | _ | _ <;> rfl

@[simp] theorem State.ctx_updCtx_same (s : State) (a : Agent) (g : Ctx → Ctx) : (s.updCtx a g).ctx a = g (s.ctx a) := by
  simp [State.ctx_updCtx]

theorem State.ctx_updCtx_ne (s : State) {a b : Agent} (g : Ctx → Ctx) (h : b ≠ a) : (s.updCtx a g).ctx b = s.ctx b := by
  simp [State.ctx_updCtx, h]

@[simp] theorem State.ctx_updArch_same (s : State) (a : Agent) (g : Arch → Arch) :
    (s.updArch a g).ctx a = { s.ctx a with arch := g (s.ctx a).arch } := by
  simp [State.updArch]

@[simp] theorem State.arch_updArch_same (s : State) (a : Agent) (g : Arch → Arch) : (s.updArch a g).arch a = g (s.arch a) := by
  simp [State.arch, State.updArch]

@[simp] theorem State.arch_updSpec (s : State) (a b : Agent) (g : Spec → Spec) : (s.updSpec a g).arch b = s.arch b := by
  by_cases h : b = a
  · subst h
    simp [State.arch, State.updSpec]
  · simp [State.arch, State.updSpec, State.ctx_updCtx_ne, h]

@[simp] theorem State.arch_updFlight (s : State) (a b : Agent) (g : Flight → Flight) :
    (s.updFlight a g).arch b = s.arch b := by
  by_cases h : b = a
  · subst h
    simp [State.arch, State.updFlight]
  · simp [State.arch, State.updFlight, State.ctx_updCtx_ne, h]

@[simp] theorem post_ctx (e : Instr) (s : State) (a : Agent) : (post e s).ctx a = s.ctx a := by
  cases a <;> rfl

@[simp] theorem post_core (e : Instr) (s : State) (q : Fin 64) (c : Fin 4) : (post e s).core q c = s.core q c := rfl

/-- An update of a core that keeps the slots' contexts keeps every agent's context. -/
theorem State.ctx_updCore_keep (s : State) (q : Fin 64) (c : Fin 4) (g : Core → Core) (h : ∀ x, (g x).ctxs = x.ctxs)
    (a : Agent) : (s.updCore q c g).ctx a = s.ctx a := by
  rcases a with ⟨q', c', k'⟩ | ⟨q', h'⟩ | u' | x' | _
  · simp only [State.ctx, State.core_updCore]
    by_cases e : q' = q ∧ c' = c
    · obtain ⟨rfl, rfl⟩ := e
      simp [h]
    · simp [e]
  · simp only [State.ctx, State.updCore, State.quads_updQuad]
    by_cases e : q' = q
    · subst e
      simp [Quad.updCore]
    · simp [e]
  · rfl
  · rfl
  · rfl

/-! ## Updates that change nothing -/

theorem vset_get_self {α : Type} {n : Nat} (v : Vector α n) (i : Fin n) : v.set i.val (v.get i) i.isLt = v := by
  rw [Vector.get_eq_getElem, Vector.set_getElem_self]

theorem State.updQuad_self {s : State} {q : Fin 64} {g : Quad → Quad} (h : g (s.quads.get q) = s.quads.get q) :
    s.updQuad q g = s := by
  simp only [State.updQuad, h, vset_get_self]

theorem State.updCore_self {s : State} {q : Fin 64} {c : Fin 4} {g : Core → Core} (h : g (s.core q c) = s.core q c) :
    s.updCore q c g = s := by
  unfold State.core at h
  exact State.updQuad_self (by simp only [Quad.updCore, h, vset_get_self])

/-- An update that leaves the context as it is leaves the state as it is. -/
theorem State.updCtx_self {s : State} {a : Agent} {g : Ctx → Ctx} (h : g (s.ctx a) = s.ctx a) : s.updCtx a g = s := by
  rcases a with ⟨q, c, k⟩ | ⟨q, i⟩ | u | x | _ <;> simp only [State.ctx] at h <;> simp only [State.updCtx]
  · exact State.updCore_self (by simp only [Core.updCtx, h, vset_get_self])
  · simp only [State.updHart]
    exact State.updQuad_self (by
      simp only [h]
      exact congrArg (fun v => { s.quads.get q with harts := v }) (vset_get_self (s.quads.get q).harts i))
  · simp only [State.updHart, h]
    exact congrArg (fun v => { s with weirs := v }) (vset_get_self s.weirs u)
  · simp only [h]
    exact congrArg (fun v => { s with cmds := v }) (vset_get_self s.cmds x)
  · simp only [h]

theorem State.updArch_self {s : State} {a : Agent} {g : Arch → Arch} (h : g (s.arch a) = s.arch a) : s.updArch a g = s :=
  State.updCtx_self (by unfold State.arch at h; simp only [h])

theorem State.updFlight_self {s : State} {a : Agent} {g : Flight → Flight} (h : g (s.ctx a).fl = (s.ctx a).fl) :
    s.updFlight a g = s := State.updCtx_self (by simp only [h])

end Sys2Proof.Machine
end

