-- ==== Sys2Proof/Laws/Frames.lean ====
section
/-! SUPPORT. What the operations around an instruction leave as it was: tracing, parking, the retire. -/

namespace Sys2Proof.Machine

/-! ## Tracing -/

/-- A trace record changes the trace of its core and nothing else. -/
theorem traceRec_only (q : Fin 64) (c : Fin 4) (ty p : Nat) (s : State) :
    ∃ t, traceRec q c ty p s = s ∨ traceRec q c ty p s = s.updCore q c fun x => { x with trc := t } := by
  simp only [traceRec]
  split
  · exact ⟨(s.core q c).trc, .inl rfl⟩
  · exact ⟨_, .inr rfl⟩

theorem traceIf_only (a : Agent) (on : Trace → Bool) (ty p : Nat) (s : State) :
    traceIf a on ty p s = s ∨ ∃ q c k t, a = .strand q c k ∧ traceIf a on ty p s = s.updCore q c fun x => { x with trc := t } := by
  cases a <;> simp only [traceIf]
  case strand q c k =>
    split
    · obtain ⟨t, h | h⟩ := traceRec_only q c ty p s
      · exact .inl h
      · exact .inr ⟨q, c, k, t, rfl, h⟩
    · exact .inl rfl
  all_goals exact .inl trivial

@[simp] theorem traceRec_ctx (q : Fin 64) (c : Fin 4) (ty p : Nat) (s : State) (a : Agent) :
    (traceRec q c ty p s).ctx a = s.ctx a := by
  obtain ⟨t, h | h⟩ := traceRec_only q c ty p s
  · rw [h]
  · rw [h]
    apply State.ctx_updCore_keep
    intro x
    rfl

@[simp] theorem traceIf_ctx (a b : Agent) (on : Trace → Bool) (ty p : Nat) (s : State) :
    (traceIf a on ty p s).ctx b = s.ctx b := by
  cases a <;> simp only [traceIf]
  split <;> simp

@[simp] theorem traceIf_arch (a b : Agent) (on : Trace → Bool) (ty p : Nat) (s : State) :
    (traceIf a on ty p s).arch b = s.arch b := by
  simp [State.arch]

/-! ## Leaving a core -/

@[simp] theorem askSelect_ctx (q : Fin 64) (c : Fin 4) (s : State) (a : Agent) : (askSelect q c s).ctx a = s.ctx a := by
  simp only [askSelect]
  split <;> simp

@[simp] theorem leaveCore_ctx (q : Fin 64) (c : Fin 4) (k : Fin 24) (s : State) (a : Agent) :
    (leaveCore q c k s).ctx a = s.ctx a := by
  simp only [leaveCore]
  split
  · rw [askSelect_ctx]
    apply State.ctx_updCore_keep
    intro x
    rfl
  · rfl

@[simp] theorem fresh_ctx (s : State) (a : Agent) : (fresh s).2.ctx a = s.ctx a := by
  cases a <;> rfl

/-- Parking changes an agent's standing and nothing else of any context. -/
theorem parkAgent_ctx (a b : Agent) (w : Why) (s : State) :
    (parkAgent a w s).ctx b =
      if b = a then { s.ctx a with st := .parked, why := some w, parkedAt := s.md.freeCtr } else s.ctx b := by
  cases a <;> simp only [parkAgent, leaveCore_ctx, State.ctx_updCtx, fresh_ctx] <;> rfl

@[simp] theorem parkAgent_arch (a b : Agent) (w : Why) (s : State) : (parkAgent a w s).arch b = s.arch b := by
  simp only [State.arch, parkAgent_ctx]
  split
  · rename_i h
    rw [h]
  · rfl

@[simp] theorem parkAgent_sp (a b : Agent) (w : Why) (s : State) : ((parkAgent a w s).ctx b).sp = (s.ctx b).sp := by
  simp only [parkAgent_ctx]
  split
  · rename_i h
    rw [h]
  · rfl

/-- The registers after the PC has moved on (R199). -/
@[simp] theorem advance_arch (i : Instr) (a : Agent) (s : State) :
    (advance i a s).arch a = (s.arch a).advance (shapeOf i).len (s.ctx a).gen := by
  simp only [advance]
  split <;> simp [State.arch]

end Sys2Proof.Machine
end

