-- ==== Sys2Proof/Laws/Mem.lean ====
section
/-! SUPPORT. Memory: what a read answers after a write, and that every operation on a memory keeps its canonical form. -/

namespace Sys2Proof.Machine

open Sys2Proof.Safety

/-! ## The canonical form -/

@[simp] theorem cellsAbove_nil (lo : Nat) : cellsAbove lo [] = true := rfl

theorem cellsAbove_cons {lo a : Nat} {b : Byte} {t : List Host.Cell} :
    cellsAbove lo ((a, b) :: t) = true ↔ lo ≤ a ∧ b ≠ unlisted ∧ cellsAbove (a + 1) t = true := by
  simp [cellsAbove, and_assoc]

theorem cellsAbove_mono {lo lo' : Nat} (le : lo' ≤ lo) {m : List Host.Cell} (h : cellsAbove lo m = true) :
    cellsAbove lo' m = true := by
  cases m with
  | nil => rfl
  | cons p t =>
    obtain ⟨a, b⟩ := p
    rw [cellsAbove_cons] at h ⊢
    exact ⟨le.trans h.1, h.2⟩

/-- Below its first cell a canonical memory reads as unlisted. -/
theorem readCell_below {lo a : Nat} (lt : a < lo) {m : List Host.Cell} (h : cellsAbove lo m = true) :
    readCell m a = unlisted := by
  cases m with
  | nil => rfl
  | cons p t =>
    obtain ⟨a', b⟩ := p
    rw [cellsAbove_cons] at h
    simp [readCell, show a ≠ a' by omega, show a < a' by omega]

/-! ## One byte -/

theorem cellsAbove_writeCell {lo a : Nat} (v : Byte) (le : lo ≤ a) {m : List Host.Cell} (h : cellsAbove lo m = true) :
    cellsAbove lo (writeCell m a v) = true := by
  induction m generalizing lo with
  | nil => by_cases hv : v = unlisted <;> simp [writeCell, hv, cellsAbove, le]
  | cons p t ih =>
    obtain ⟨a', b⟩ := p
    have ht := cellsAbove_cons.mp h
    simp only [writeCell]
    split
    · split
      · exact h
      · rename_i hv
        exact cellsAbove_cons.mpr ⟨le, hv, cellsAbove_cons.mpr ⟨by omega, ht.2⟩⟩
    · split
      · split
        · exact cellsAbove_mono (by omega) ht.2.2
        · rename_i ha hv
          exact cellsAbove_cons.mpr ⟨le, hv, ha ▸ ht.2.2⟩
      · exact cellsAbove_cons.mpr ⟨ht.1, ht.2.1, ih (by omega) ht.2.2⟩

/-- Writing a byte keeps the form. -/
theorem wf_writeCell {m : List Host.Cell} (a : Nat) (v : Byte) (h : Memory.wf m = true) : Memory.wf (writeCell m a v) = true :=
  cellsAbove_writeCell v (Nat.zero_le a) h

theorem readCell_writeCell_above {lo : Nat} {m : List Host.Cell} (a b : Nat) (v : Byte) (h : cellsAbove lo m = true) :
    readCell (writeCell m a v) b = if b = a then v else readCell m b := by
  induction m generalizing lo with
  | nil =>
    by_cases hv : v = unlisted
    · simp [writeCell, readCell, hv]
    · simp [writeCell, readCell, hv]
  | cons p t ih =>
    obtain ⟨a', c⟩ := p
    have ht := cellsAbove_cons.mp h
    have below : b ≤ a' → readCell t b = unlisted := fun hb => readCell_below (by omega) ht.2.2
    simp only [writeCell]
    split
    · rename_i lt
      split
      · rename_i hv
        subst hv
        by_cases hb : b = a
        · subst hb
          simp [readCell, show b ≠ a' by omega, lt]
        · simp [hb]
      · by_cases hb : b = a
        · simp [readCell, hb]
        · by_cases hlt : b < a
          · simp [readCell, hb, hlt, show b ≠ a' by omega, show b < a' by omega]
          · simp [readCell, hb, hlt]
    · split
      · rename_i ha
        subst ha
        split
        · rename_i hv
          subst hv
          by_cases hb : b = a
          · subst hb
            simp [below]
          · by_cases hlt : b < a
            · simp [readCell, hb, hlt, below (by omega)]
            · simp [readCell, hb, hlt]
        · by_cases hb : b = a <;> simp [readCell, hb]
      · rename_i hnlt hne
        simp only [readCell]
        by_cases hb : b = a'
        · simp [hb, Ne.symm hne]
        · by_cases hlt : b < a'
          · simp [hb, hlt, show b ≠ a by omega]
          · simp [hb, hlt, ih ht.2.2]

/-- A byte written is read back at its address, and every other address reads as before. -/
theorem readCell_writeCell {m : List Host.Cell} (a b : Nat) (v : Byte) (h : Memory.wf m = true) :
    readCell (writeCell m a v) b = if b = a then v else readCell m b := readCell_writeCell_above a b v h

/-! ## A run of bytes -/

/-- Writing a run of bytes keeps the form. -/
theorem wf_writeCells {m : List Host.Cell} (a : Nat) (bs : List Byte) (h : Memory.wf m = true) :
    Memory.wf (writeCells m a bs) = true := by
  induction bs generalizing m a with
  | nil => exact h
  | cons b t ih => exact ih (a + 1) (wf_writeCell a b h)

/-- What each address reads as after a run of bytes is written. -/
theorem readCell_writeCells {m : List Host.Cell} (a b : Nat) (bs : List Byte) (h : Memory.wf m = true) :
    readCell (writeCells m a bs) b = if a ≤ b ∧ b < a + bs.length then bs.getD (b - a) 0 else readCell m b := by
  induction bs generalizing m a with
  | nil => simp [writeCells, show ¬(a ≤ b ∧ b < a) by omega]
  | cons v t ih =>
    rw [writeCells, ih (a + 1) (wf_writeCell a v h), readCell_writeCell a b v h]
    by_cases hb : b = a
    · simp [hb, show ¬(a + 1 ≤ a) by omega]
    · by_cases hi : a + 1 ≤ b ∧ b < a + 1 + t.length
      · simp only [hb, hi, and_self, if_true, if_pos (show a ≤ b ∧ b < a + (v :: t).length by simp; omega)]
        rw [show b - a = b - (a + 1) + 1 by omega, List.getD_cons_succ]
      · simp only [if_neg hi, if_neg hb, if_neg (show ¬(a ≤ b ∧ b < a + (v :: t).length) by simp; omega)]

theorem readCells_eq (m : List Host.Cell) (a n : Nat) : readCells m a n = (List.range n).map fun i => readCell m (a + i) := by
  induction n generalizing a with
  | zero => rfl
  | succ k ih =>
    rw [readCells, ih, List.range_succ_eq_map, List.map_cons, List.map_map]
    congr 1
    apply List.map_congr_left
    intro i _
    simp only [Function.comp]
    congr 1
    omega

/-! ## Taking cells out -/

theorem cellsAbove_filter {lo : Nat} {m : List Host.Cell} (p : Host.Cell → Bool) (h : cellsAbove lo m = true) :
    cellsAbove lo (m.filter p) = true := by
  induction m generalizing lo with
  | nil => rfl
  | cons c t ih =>
    obtain ⟨a, b⟩ := c
    have ht := cellsAbove_cons.mp h
    rw [List.filter_cons]
    split
    · exact cellsAbove_cons.mpr ⟨ht.1, ht.2.1, ih ht.2.2⟩
    · exact ih (cellsAbove_mono (by omega) ht.2.2)

theorem wf_filter {m : List Host.Cell} (p : Host.Cell → Bool) (h : Memory.wf m = true) : Memory.wf (m.filter p) = true :=
  cellsAbove_filter p h

/-! ## The operations of the machine -/

theorem reset_memoryWf : MemoryWf State.reset := ⟨rfl, rfl⟩

@[simp] theorem postAll_mm (es : List Instr) (s : State) : (postAll es s).mm = s.mm := by
  induction es generalizing s with
  | nil => rfl
  | cons e t ih => rw [postAll, ih, post_mm]

@[simp] theorem putLine_mem (l : Line) (s : State) : (putLine l s).mm.mem = s.mm.mem := rfl
@[simp] theorem putLine_arr (l : Line) (s : State) : (putLine l s).mm.arr = s.mm.arr := rfl

/-- An operation on each sector in turn keeps whatever each of its uses keeps. -/
theorem foldSectors_keeps {α : Type} (g : State → α) {f : Nat → State → State} (hf : ∀ x s, g (f x s) = g s) (l : List Nat)
    (s : State) : g (foldSectors f l s) = g s := by
  induction l generalizing s with
  | nil => rfl
  | cons x t ih => rw [foldSectors, ih, hf]

/-- A sector written back to the array keeps the form. -/
theorem arrBack_wf {x : Nat} {s : State} (h : MemoryWf s) : MemoryWf (arrBack x s) := by
  simp only [MemoryWf, arrBack]
  exact ⟨h.1, wf_writeCells (64 * x) (readPhys s (64 * x) 64) h.2⟩

@[simp] theorem arrBack_mem (x : Nat) (s : State) : (arrBack x s).mm.mem = s.mm.mem := by
  simp only [arrBack]

@[simp] theorem dropWalks_mm (a n : Nat) (s : State) : (dropWalks a n s).mm = s.mm := by
  simp only [dropWalks]
  split <;> rfl

/-- A write's effect on a sector's copies leaves what agents read. -/
theorem lineWritten_mem (v : Via) (x : Nat) (s : State) : (lineWritten v x s).mm.mem = s.mm.mem := by
  unfold lineWritten
  split
  · rw [putLine_mem, arrBack_mem]
  · split <;> rw [putLine_mem]

theorem lineWritten_wf {v : Via} {x : Nat} {s : State} (h : MemoryWf s) : MemoryWf (lineWritten v x s) := by
  have h' := arrBack_wf (x := x) h
  unfold lineWritten
  simp only [MemoryWf] at h h' ⊢
  split
  · rw [putLine_mem, putLine_arr]
    exact h'
  · split <;> rw [putLine_mem, putLine_arr] <;> exact h

theorem foldSectors_wf {f : Nat → State → State} (hf : ∀ x s, MemoryWf s → MemoryWf (f x s)) (l : List Nat) {s : State}
    (h : MemoryWf s) : MemoryWf (foldSectors f l s) := by
  induction l generalizing s with
  | nil => exact h
  | cons x t ih => exact ih (hf x s h)

theorem writePhys_mem (v : Via) (pa : Nat) (bs : List Byte) (s : State) :
    (writePhys v pa bs s).mm.mem = writeCells s.mm.mem pa bs := by
  simp only [writePhys, postAll_mm]
  rw [foldSectors_keeps (fun s => s.mm.mem) (fun x s => lineWritten_mem v x s), dropWalks_mm]

/-- A write of memory keeps the form. -/
theorem writePhys_wf {v : Via} {pa : Nat} {bs : List Byte} {s : State} (h : MemoryWf s) : MemoryWf (writePhys v pa bs s) := by
  simp only [writePhys, MemoryWf, postAll_mm]
  refine foldSectors_wf (fun _ _ => lineWritten_wf) _ ?_
  simp only [MemoryWf, dropWalks_mm]
  exact ⟨wf_writeCells pa bs h.1, h.2⟩

theorem kickStore_mm (pa : Nat) (bs : List Byte) (s : State) : (kickStore pa bs s).mm = s.mm := by
  simp only [kickStore]
  repeat' split
  all_goals rfl

/-- A store performed keeps the form. -/
theorem storeAt_wf {v : Via} {whole : Bool} {pa : Nat} {bs : List Byte} {s : State} (h : MemoryWf s) :
    MemoryWf (storeAt v whole pa bs s) := by
  simp only [storeAt]
  split
  · exact writePhys_wf h
  · exact writePhys_wf h
  · split
    · rw [MemoryWf, kickStore_mm]; exact h
    · exact h
  all_goals exact h

theorem flushSector_wf {x : Nat} {s : State} (h : MemoryWf s) : MemoryWf (flushSector x s) := by
  have h' := arrBack_wf (x := x) h
  simp only [MemoryWf, flushSector, putLine_mem, putLine_arr]
  exact h'

/-- A granule erased keeps the form. -/
theorem zeroGranules_wf {g : Nat → Bool} {s : State} (h : MemoryWf s) : MemoryWf (zeroGranules g s) :=
  ⟨wf_filter _ h.1, wf_filter _ h.2⟩

/-- A reset keeps the form. -/
theorem clearMachine_wf {cold : Bool} {s : State} (h : MemoryWf s) : MemoryWf (clearMachine cold s) :=
  ⟨wf_filter _ h.2, wf_filter _ h.2⟩

end Sys2Proof.Machine
end

