-- ==== Sys2Proof/Laws/Commit.lean ====
section
/-! SUPPORT. What a store that is performed leaves as it was, and what the commit of the results behind lookahead windows
leaves as it was (R172). -/

namespace Sys2Proof.Machine

/-- Two states that differ in memory, in the translation unit's walk cache and in the events on their way, and in nothing else. -/
def SameButMemory (s t : State) : Prop :=
  ∃ m x f, t = { s with mm := m, xl := x, md := { s.md with inflight := f } }

theorem SameButMemory.refl (s : State) : SameButMemory s s := ⟨s.mm, s.xl, s.md.inflight, rfl⟩

theorem SameButMemory.trans {s t u : State} (h : SameButMemory s t) (k : SameButMemory t u) : SameButMemory s u := by
  obtain ⟨m, x, f, rfl⟩ := h
  obtain ⟨m', x', f', rfl⟩ := k
  exact ⟨m', x', f', rfl⟩

theorem SameButMemory.ctx {s t : State} (h : SameButMemory s t) (a : Agent) : t.ctx a = s.ctx a := by
  obtain ⟨m, x, f, rfl⟩ := h
  cases a <;> rfl

theorem SameButMemory.fields {s t : State} (h : SameButMemory s t) :
    t.quads = s.quads ∧ t.weirs = s.weirs ∧ t.launches = s.launches ∧ t.slots = s.slots ∧ t.parts = s.parts ∧ t.ctc = s.ctc ∧
    t.cw = s.cw ∧ t.mg = s.mg ∧ t.cmds = s.cmds ∧ t.sec = s.sec ∧ t.md.who = s.md.who ∧ t.md.req = s.md.req := by
  obtain ⟨m, x, f, rfl⟩ := h
  exact ⟨rfl, rfl, rfl, rfl, rfl, rfl, rfl, rfl, rfl, rfl, rfl, rfl⟩

theorem post_same (e : Instr) (s : State) : SameButMemory s (post e s) := ⟨s.mm, s.xl, _, rfl⟩

theorem postAll_same (es : List Instr) (s : State) : SameButMemory s (postAll es s) := by
  induction es generalizing s with
  | nil => exact .refl s
  | cons e t ih => exact (post_same e s).trans (ih (post e s))

theorem putLine_same (l : Line) (s : State) : SameButMemory s (putLine l s) := ⟨_, s.xl, s.md.inflight, rfl⟩

theorem arrBack_same (x : Nat) (s : State) : SameButMemory s (arrBack x s) := ⟨_, s.xl, s.md.inflight, rfl⟩

theorem lineWritten_same (v : Via) (x : Nat) (s : State) : SameButMemory s (lineWritten v x s) := by
  unfold lineWritten
  split
  · exact (arrBack_same x s).trans (putLine_same _ _)
  · split <;> exact putLine_same _ s

theorem lineRead_same (v : Via) (x : Nat) (s : State) : SameButMemory s (lineRead v x s) := by
  simp only [lineRead]
  repeat' split
  all_goals first | exact .refl s | exact putLine_same _ s

theorem foldSectors_same {f : Nat → State → State} (hf : ∀ x s, SameButMemory s (f x s)) (l : List Nat) (s : State) :
    SameButMemory s (foldSectors f l s) := by
  induction l generalizing s with
  | nil => exact .refl s
  | cons x t ih => exact .trans (hf x s) (ih (f x s))

theorem dropWalks_same (a n : Nat) (s : State) : SameButMemory s (dropWalks a n s) := by
  simp only [dropWalks]
  split
  · exact .refl s
  · exact ⟨s.mm, _, s.md.inflight, rfl⟩

/-- A write of memory changes memory, drops walk-cache entries and sends the events of the monitors that it fires. -/
theorem writePhys_same (v : Via) (pa : Nat) (bs : List Byte) (s : State) : SameButMemory s (writePhys v pa bs s) := by
  unfold writePhys
  refine .trans ?_ (postAll_same _ _)
  refine .trans ?_ (foldSectors_same (lineWritten_same v) _ _)
  exact .trans (t := { s with mm := { s.mm with mem := writeCells s.mm.mem pa bs } }) ⟨_, s.xl, s.md.inflight, rfl⟩ (dropWalks_same ..)

theorem kickStore_same (pa : Nat) (bs : List Byte) (s : State) : SameButMemory s (kickStore pa bs s) := by
  simp only [kickStore]
  repeat' split
  all_goals first | exact .refl s | exact post_same _ s

/-- A store performed changes memory, or sends what a kick page sends. -/
theorem storeAt_same (v : Via) (whole : Bool) (pa : Nat) (bs : List Byte) (s : State) :
    SameButMemory s (storeAt v whole pa bs s) := by
  simp only [storeAt]
  split
  · exact writePhys_same ..
  · exact writePhys_same ..
  · split
    · exact kickStore_same ..
    · exact .refl s
  all_goals exact .refl s

theorem storeAll_same (v : Via) (ps : List (Nat × List Byte)) (s : State) : SameButMemory s (storeAll v ps s) := by
  have h : ∀ (l : List (Nat × List Byte)) (b : Bool) (s : State),
      SameButMemory s (l.foldl (fun s p => storeAt v b p.1 p.2 s) s) := by
    intro l b
    induction l with
    | nil => exact fun s => .refl s
    | cons p t ih => exact fun s => (storeAt_same v b p.1 p.2 s).trans (ih _)
  exact h ps _ s

/-! ## The commit (R172) -/

/-- What a commit keeps of the context whose results it writes: all but the registers, the flags and the lists of work
in flight. -/
structure CommitKeeps (y z : Ctx) : Prop where
  pc : z.arch.pc = y.arch.pc
  act : z.arch.act = y.arch.act
  sact : z.arch.sact = y.arch.sact
  loops : z.arch.loops = y.arch.loops
  cmask : z.arch.cmask = y.arch.cmask
  frm : z.arch.frm = y.arch.frm
  deps : z.arch.deps = y.arch.deps
  gen : z.gen = y.gen
  sp : z.sp = y.sp
  outst : z.outst = y.outst
  st : z.st = y.st
  launch : z.launch = y.launch
  displaced : z.displaced = y.displaced

theorem CommitKeeps.refl (y : Ctx) : CommitKeeps y y := ⟨rfl, rfl, rfl, rfl, rfl, rfl, rfl, rfl, rfl, rfl, rfl, rfl, rfl⟩

theorem CommitKeeps.trans {x y z : Ctx} (h : CommitKeeps x y) (k : CommitKeeps y z) : CommitKeeps x z :=
  ⟨k.pc.trans h.pc, k.act.trans h.act, k.sact.trans h.sact, k.loops.trans h.loops, k.cmask.trans h.cmask, k.frm.trans h.frm,
    k.deps.trans h.deps, k.gen.trans h.gen, k.sp.trans h.sp, k.outst.trans h.outst, k.st.trans h.st, k.launch.trans h.launch,
    k.displaced.trans h.displaced⟩

/-- A commit of agent `a` from `s` to `t`: its context keeps all but its registers, flags and work in flight, every other
context stays, and so do the launches, the partitions and the clock. -/
structure Committed (a : Agent) (s t : State) : Prop where
  own : CommitKeeps (s.ctx a) (t.ctx a)
  other : ∀ b, b ≠ a → t.ctx b = s.ctx b
  launches : t.launches = s.launches
  parts : t.parts = s.parts
  ctc : t.ctc = s.ctc
  who : t.md.who = s.md.who

theorem Committed.refl (a : Agent) (s : State) : Committed a s s := ⟨.refl _, fun _ _ => rfl, rfl, rfl, rfl, rfl⟩

theorem Committed.trans {a : Agent} {s t u : State} (h : Committed a s t) (k : Committed a t u) : Committed a s u :=
  ⟨h.own.trans k.own, fun b hb => (k.other b hb).trans (h.other b hb), k.launches.trans h.launches, k.parts.trans h.parts,
    k.ctc.trans h.ctc, k.who.trans h.who⟩

theorem SameButMemory.committed {s t : State} (a : Agent) (h : SameButMemory s t) : Committed a s t := by
  have hc := h.ctx
  obtain ⟨m, x, f, rfl⟩ := h
  exact ⟨hc a ▸ .refl _, fun b _ => hc b, rfl, rfl, rfl, rfl⟩

theorem updFlight_committed (a : Agent) (g : Flight → Flight) (s : State) : Committed a s (s.updFlight a g) := by
  refine ⟨?_, ?_, by simp, by simp, by simp, by simp⟩
  · simp only [State.updFlight, State.ctx_updCtx_same]
    exact ⟨rfl, rfl, rfl, rfl, rfl, rfl, rfl, rfl, rfl, rfl, rfl, rfl, rfl⟩
  · intro b hb
    simp only [State.updFlight, State.ctx_updCtx_ne _ _ hb]

theorem performHeld_committed (a : Agent) (e : BufEnt) (s : State) : Committed a s (performHeld a e s) := by
  simp only [performHeld]
  split
  · exact updFlight_committed ..
  · split
    · exact updFlight_committed ..
    · split
      · exact (storeAll_same _ _ _).committed a
      all_goals exact .refl a s

theorem performAll_committed (a : Agent) (es : List BufEnt) (s : State) : Committed a s (performAll a es s) := by
  induction es generalizing s with
  | nil => exact .refl a s
  | cons e t ih => exact (performHeld_committed a e s).trans (ih _)

theorem Arch.fill_keeps (y : Arch) (d : PDst) (v : Word) (g : Gen) :
    (y.fill d v g).pc = y.pc ∧ (y.fill d v g).act = y.act ∧ (y.fill d v g).sact = y.sact ∧ (y.fill d v g).loops = y.loops ∧
    (y.fill d v g).cmask = y.cmask ∧ (y.fill d v g).frm = y.frm ∧ (y.fill d v g).deps = y.deps := by
  cases d <;> simp [Arch.fill, Arch.setN]

theorem commitOne_committed (a : Agent) (s : State) : Committed a s (commitOne a s) := by
  simp only [commitOne]
  split
  · exact .refl a s
  split
  · exact .refl a s
  · refine .trans ?_ (performAll_committed a _ _)
    refine ⟨?_, ?_, by simp, by simp, by simp, by simp⟩
    · rw [State.ctx_updCtx_same]
      obtain ⟨h1, h2, h3, h4, h5, h6, h7⟩ := Arch.fill_keeps (s.ctx a).arch _ _ _
      exact ⟨h1, h2, h3, h4, h5, h6, h7, rfl, rfl, rfl, rfl, rfl, rfl⟩
    · intro b hb
      exact State.ctx_updCtx_ne _ _ hb

theorem commitN_committed (a : Agent) (n : Nat) (s : State) : Committed a s (commitN a n s) := by
  induction n generalizing s with
  | zero => exact .refl a s
  | succ n ih => exact (commitOne_committed a s).trans (ih _)

/-- Committing everything outstanding. -/
theorem commitAll_committed (a : Agent) (s : State) : Committed a s (commitAll a s) := commitN_committed ..

/-- With nothing outstanding there is nothing to commit. -/
theorem commitAll_none {a : Agent} {s : State} (h : (s.ctx a).fl.pend = []) : commitAll a s = s := by
  simp [commitAll, h, commitN]

/-! ## The retire -/

/-- What is used up as an instruction retires is none of its context's registers, trap frame or standing. -/
theorem used_ctx (a b : Agent) (s : State) :
    ((used a s).ctx b).arch = (s.ctx b).arch ∧ ((used a s).ctx b).sp = (s.ctx b).sp ∧ ((used a s).ctx b).st = (s.ctx b).st ∧
    ((used a s).ctx b).gen = (s.ctx b).gen ∧ ((used a s).ctx b).fl = (s.ctx b).fl := by
  simp only [used, State.ctx_updCtx]
  split
  · rename_i e
    subst e
    exact ⟨rfl, rfl, rfl, rfl, rfl⟩
  · exact ⟨rfl, rfl, rfl, rfl, rfl⟩

@[simp] theorem used_arch (a b : Agent) (s : State) : (used a s).arch b = s.arch b := (used_ctx a b s).1

/-- Without an armed single step a retire leaves the state as what is used up leaves it. -/
theorem finish_used {a : Agent} {s : State} (h : (s.ctx a).sp.sstep = false) : finish a s = used a s := by
  have k := (used_ctx a a s).2.1
  cases a <;> simp only [finish, endStep]
  simp [k, h]

/-- Without an armed single step a retire changes no register of any context. -/
theorem finish_arch {a : Agent} {s : State} (b : Agent) (h : (s.ctx a).sp.sstep = false) : (finish a s).arch b = s.arch b := by
  rw [finish_used h, used_arch]

/-- With nothing outstanding a retire changes no register of any context, an armed single step or not. -/
theorem finish_arch_none {a : Agent} {s : State} (b : Agent) (h : (s.ctx a).fl.pend = []) : (finish a s).arch b = s.arch b := by
  have k := (used_ctx a a s).2.2.2.2
  have hn : commitAll a (used a s) = used a s := commitAll_none (by rw [k, h])
  cases a <;> simp only [finish, endStep]
  · split
    · rw [hn, parkAgent_arch, State.arch_updSpec, used_arch]
    · rw [used_arch]
  all_goals rw [used_arch]

/-- A retire leaves the trap frame and the region bit. -/
theorem finish_sp (a b : Agent) (s : State) :
    ((finish a s).ctx b).sp = (s.ctx b).sp ∨ ((finish a s).ctx b).sp = { (s.ctx b).sp with sstep := false } := by
  have k := used_ctx a b s
  cases a <;> simp only [finish, endStep]
  · split
    · rename_i q c n _
      have hc := commitAll_committed (.strand q c n) (used (.strand q c n) s)
      rw [parkAgent_sp]
      simp only [State.updSpec, State.ctx_updCtx]
      split
      · rename_i e
        subst e
        right
        simp only [hc.own.sp, k.2.1]
      · rename_i e
        left
        rw [hc.other b e, k.2.1]
    · exact .inl k.2.1
  all_goals exact .inl k.2.1

end Sys2Proof.Machine
end

