-- ==== Sys2Proof/Laws/Exec.lean ====
section
/-! SUPPORT. Each arm of `exec` by name: the meaning that it calls. -/

namespace Sys2Proof.Machine

@[simp] theorem exec_aluAdd {d a b s} : exec (.aluAdd d a b) s = execAluAdd d a b s := rfl
@[simp] theorem exec_aluSub {d a b s} : exec (.aluSub d a b) s = execAluSub d a b s := rfl
@[simp] theorem exec_aluAnd {d a b s} : exec (.aluAnd d a b) s = execAluAnd d a b s := rfl
@[simp] theorem exec_aluOr {d a b s} : exec (.aluOr d a b) s = execAluOr d a b s := rfl
@[simp] theorem exec_aluXor {d a b s} : exec (.aluXor d a b) s = execAluXor d a b s := rfl
@[simp] theorem exec_aluSll {d a b s} : exec (.aluSll d a b) s = execAluSll d a b s := rfl
@[simp] theorem exec_aluSrl {d a b s} : exec (.aluSrl d a b) s = execAluSrl d a b s := rfl
@[simp] theorem exec_aluSra {d a b s} : exec (.aluSra d a b) s = execAluSra d a b s := rfl
@[simp] theorem exec_aluSlt {d a b s} : exec (.aluSlt d a b) s = execAluSlt d a b s := rfl
@[simp] theorem exec_aluSltu {d a b s} : exec (.aluSltu d a b) s = execAluSltu d a b s := rfl
@[simp] theorem exec_aluMin {d a b s} : exec (.aluMin d a b) s = execAluMin d a b s := rfl
@[simp] theorem exec_aluMax {d a b s} : exec (.aluMax d a b) s = execAluMax d a b s := rfl
@[simp] theorem exec_aluMinu {d a b s} : exec (.aluMinu d a b) s = execAluMinu d a b s := rfl
@[simp] theorem exec_aluMaxu {d a b s} : exec (.aluMaxu d a b) s = execAluMaxu d a b s := rfl
@[simp] theorem exec_mulMul {d a b la s} : exec (.mulMul d a b la) s = execMulMul d a b la s := rfl
@[simp] theorem exec_mulMulh {d a b la s} : exec (.mulMulh d a b la) s = execMulMulh d a b la s := rfl
@[simp] theorem exec_mulMulhu {d a b la s} : exec (.mulMulhu d a b la) s = execMulMulhu d a b la s := rfl
@[simp] theorem exec_mulDiv {d a b la s} : exec (.mulDiv d a b la) s = execMulDiv d a b la s := rfl
@[simp] theorem exec_mulDivu {d a b la s} : exec (.mulDivu d a b la) s = execMulDivu d a b la s := rfl
@[simp] theorem exec_mulRem {d a b la s} : exec (.mulRem d a b la) s = execMulRem d a b la s := rfl
@[simp] theorem exec_mulRemu {d a b la s} : exec (.mulRemu d a b la) s = execMulRemu d a b la s := rfl
@[simp] theorem exec_addi {d a imm s} : exec (.addi d a imm) s = execAddi d a imm s := rfl
@[simp] theorem exec_andi {d a imm s} : exec (.andi d a imm) s = execAndi d a imm s := rfl
@[simp] theorem exec_ori {d a imm s} : exec (.ori d a imm) s = execOri d a imm s := rfl
@[simp] theorem exec_xori {d a imm s} : exec (.xori d a imm) s = execXori d a imm s := rfl
@[simp] theorem exec_shiSll {d a count s} : exec (.shiSll d a count) s = execShiSll d a count s := rfl
@[simp] theorem exec_shiSrl {d a count s} : exec (.shiSrl d a count) s = execShiSrl d a count s := rfl
@[simp] theorem exec_shiSra {d a count s} : exec (.shiSra d a count) s = execShiSra d a count s := rfl
@[simp] theorem exec_cmpi {c d a imm s} : exec (.cmpi c d a imm) s = execCmpi c d a imm s := rfl
@[simp] theorem exec_lui {d imm s} : exec (.lui d imm) s = execLui d imm s := rfl
@[simp] theorem exec_auipc {d imm s} : exec (.auipc d imm) s = execAuipc d imm s := rfl
@[simp] theorem exec_bitsExt {d a pos len1 s} : exec (.bitsExt d a pos len1) s = execBitsExt d a pos len1 s := rfl
@[simp] theorem exec_bitsExtu {d a pos len1 s} : exec (.bitsExtu d a pos len1) s = execBitsExtu d a pos len1 s := rfl
@[simp] theorem exec_bitsIns {d a pos len1 s} : exec (.bitsIns d a pos len1) s = execBitsIns d a pos len1 s := rfl
@[simp] theorem exec_fpuAdd {d a b s} : exec (.fpuAdd d a b) s = execFpuAdd d a b s := rfl
@[simp] theorem exec_fpuSub {d a b s} : exec (.fpuSub d a b) s = execFpuSub d a b s := rfl
@[simp] theorem exec_fpuMul {d a b s} : exec (.fpuMul d a b) s = execFpuMul d a b s := rfl
@[simp] theorem exec_fpuMin {d a b s} : exec (.fpuMin d a b) s = execFpuMin d a b s := rfl
@[simp] theorem exec_fpuMax {d a b s} : exec (.fpuMax d a b) s = execFpuMax d a b s := rfl
@[simp] theorem exec_fpuCvts {d a s} : exec (.fpuCvts d a) s = execFpuCvts d a s := rfl
@[simp] theorem exec_fpuCvtf {d a s} : exec (.fpuCvtf d a) s = execFpuCvtf d a s := rfl
@[simp] theorem exec_fpuEq {d a b s} : exec (.fpuEq d a b) s = execFpuEq d a b s := rfl
@[simp] theorem exec_fpuLt {d a b s} : exec (.fpuLt d a b) s = execFpuLt d a b s := rfl
@[simp] theorem exec_fpuLe {d a b s} : exec (.fpuLe d a b) s = execFpuLe d a b s := rfl
@[simp] theorem exec_fplDiv {d a b la s} : exec (.fplDiv d a b la) s = execFplDiv d a b la s := rfl
@[simp] theorem exec_fplSqrt {d a la s} : exec (.fplSqrt d a la) s = execFplSqrt d a la s := rfl
@[simp] theorem exec_fplFma {d a b la s} : exec (.fplFma d a b la) s = execFplFma d a b la s := rfl
@[simp] theorem exec_br {c a b off s} : exec (.br c a b off) s = execBr c a b off s := rfl
@[simp] theorem exec_jalCall {off s} : exec (.jalCall off) s = execJalCall off s := rfl
@[simp] theorem exec_jalJump {off s} : exec (.jalJump off) s = execJalJump off s := rfl
@[simp] theorem exec_jrJump {a s} : exec (.jrJump a) s = execJrJump a s := rfl
@[simp] theorem exec_jrCall {a s} : exec (.jrCall a) s = execJrCall a s := rfl
@[simp] theorem exec_loopSet {k a stop s} : exec (.loopSet k a stop) s = execLoopSet k a stop s := rfl
@[simp] theorem exec_gets {d num s} : exec (.gets d num) s = execGets d num s := rfl
@[simp] theorem exec_sets {a num s} : exec (.sets a num) s = execSets a num s := rfl
@[simp] theorem exec_trap {a code s} : exec (.trap a code) s = execTrap a code s := rfl
@[simp] theorem exec_brk {a code s} : exec (.brk a code) s = execBrk a code s := rfl
@[simp] theorem exec_sysc {a code s} : exec (.sysc a code) s = execSysc a code s := rfl
@[simp] theorem exec_yieldPt {index s} : exec (.yieldPt index) s = execYieldPt index s := rfl
@[simp] theorem exec_ld {sz acq d base off la s} : exec (.ld sz acq d base off la) s = execLd sz acq d base off la s := rfl
@[simp] theorem exec_st {sz rel data base off s} : exec (.st sz rel data base off) s = execSt sz rel data base off s := rfl
@[simp] theorem exec_amoAdd {wide acq rel d a b la s} : exec (.amoAdd wide acq rel d a b la) s = execAmoAdd wide acq rel d a b la s := rfl
@[simp] theorem exec_amoAnd {wide acq rel d a b la s} : exec (.amoAnd wide acq rel d a b la) s = execAmoAnd wide acq rel d a b la s := rfl
@[simp] theorem exec_amoOr {wide acq rel d a b la s} : exec (.amoOr wide acq rel d a b la) s = execAmoOr wide acq rel d a b la s := rfl
@[simp] theorem exec_amoXor {wide acq rel d a b la s} : exec (.amoXor wide acq rel d a b la) s = execAmoXor wide acq rel d a b la s := rfl
@[simp] theorem exec_amoMin {wide acq rel d a b la s} : exec (.amoMin wide acq rel d a b la) s = execAmoMin wide acq rel d a b la s := rfl
@[simp] theorem exec_amoMax {wide acq rel d a b la s} : exec (.amoMax wide acq rel d a b la) s = execAmoMax wide acq rel d a b la s := rfl
@[simp] theorem exec_amoMinu {wide acq rel d a b la s} : exec (.amoMinu wide acq rel d a b la) s = execAmoMinu wide acq rel d a b la s := rfl
@[simp] theorem exec_amoMaxu {wide acq rel d a b la s} : exec (.amoMaxu wide acq rel d a b la) s = execAmoMaxu wide acq rel d a b la s := rfl
@[simp] theorem exec_amoSwap {wide acq rel d a b la s} : exec (.amoSwap wide acq rel d a b la) s = execAmoSwap wide acq rel d a b la s := rfl
@[simp] theorem exec_amoCas {wide acq rel d a b la s} : exec (.amoCas wide acq rel d a b la) s = execAmoCas wide acq rel d a b la s := rfl
@[simp] theorem exec_waita {d a b s} : exec (.waita d a b) s = execWaita d a b s := rfl
@[simp] theorem exec_waitp {d a s} : exec (.waitp d a) s = execWaitp d a s := rfl
@[simp] theorem exec_park {d a b s} : exec (.park d a b) s = execPark d a b s := rfl
@[simp] theorem exec_flushr {a b s} : exec (.flushr a b) s = execFlushr a b s := rfl
@[simp] theorem exec_invr {a b s} : exec (.invr a b) s = execInvr a b s := rfl
@[simp] theorem exec_pref {a s} : exec (.pref a) s = execPref a s := rfl
@[simp] theorem exec_fence {kind s} : exec (.fence kind) s = execFence kind s := rfl
@[simp] theorem exec_spark {a b s} : exec (.spark a b) s = execSpark a b s := rfl
@[simp] theorem exec_frame {d a b s} : exec (.frame d a b) s = execFrame d a b s := rfl
@[simp] theorem exec_migrAddr {d a s} : exec (.migrAddr d a) s = execMigrAddr d a s := rfl
@[simp] theorem exec_migrTile {d a s} : exec (.migrTile d a) s = execMigrTile d a s := rfl
@[simp] theorem exec_send {reg a b s} : exec (.send reg a b) s = execSend reg a b s := rfl
@[simp] theorem exec_vtget {d s} : exec (.vtget d) s = execVtget d s := rfl
@[simp] theorem exec_vtset {d a s} : exec (.vtset d a) s = execVtset d a s := rfl
@[simp] theorem exec_announce {a s} : exec (.announce a) s = execAnnounce a s := rfl
@[simp] theorem exec_sendt {a b s} : exec (.sendt a b) s = execSendt a b s := rfl
@[simp] theorem exec_wAdd {ty m d a b s} : exec (.wAdd ty m d a b) s = execWAdd ty m d a b s := rfl
@[simp] theorem exec_wSub {ty m d a b s} : exec (.wSub ty m d a b) s = execWSub ty m d a b s := rfl
@[simp] theorem exec_wRsub {ty m d a b s} : exec (.wRsub ty m d a b) s = execWRsub ty m d a b s := rfl
@[simp] theorem exec_wMul {ty m d a b s} : exec (.wMul ty m d a b) s = execWMul ty m d a b s := rfl
@[simp] theorem exec_wMac {ty m d a b s} : exec (.wMac ty m d a b) s = execWMac ty m d a b s := rfl
@[simp] theorem exec_wMin {ty m d a b s} : exec (.wMin ty m d a b) s = execWMin ty m d a b s := rfl
@[simp] theorem exec_wMax {ty m d a b s} : exec (.wMax ty m d a b) s = execWMax ty m d a b s := rfl
@[simp] theorem exec_wAnd {ty m d a b s} : exec (.wAnd ty m d a b) s = execWAnd ty m d a b s := rfl
@[simp] theorem exec_wOr {ty m d a b s} : exec (.wOr ty m d a b) s = execWOr ty m d a b s := rfl
@[simp] theorem exec_wXor {ty m d a b s} : exec (.wXor ty m d a b) s = execWXor ty m d a b s := rfl
@[simp] theorem exec_wAndn {ty m d a b s} : exec (.wAndn ty m d a b) s = execWAndn ty m d a b s := rfl
@[simp] theorem exec_wShl {ty m d a b s} : exec (.wShl ty m d a b) s = execWShl ty m d a b s := rfl
@[simp] theorem exec_wShr {ty m d a b s} : exec (.wShr ty m d a b) s = execWShr ty m d a b s := rfl
@[simp] theorem exec_wMov {ty m d b s} : exec (.wMov ty m d b) s = execWMov ty m d b s := rfl
@[simp] theorem exec_wAbs {ty m d b s} : exec (.wAbs ty m d b) s = execWAbs ty m d b s := rfl
@[simp] theorem exec_wNeg {ty m d b s} : exec (.wNeg ty m d b) s = execWNeg ty m d b s := rfl
@[simp] theorem exec_wFma {ty m d a b c s} : exec (.wFma ty m d a b c) s = execWFma ty m d a b c s := rfl
@[simp] theorem exec_wSel {ty m d a b s} : exec (.wSel ty m d a b) s = execWSel ty m d a b s := rfl
@[simp] theorem exec_l16Add {ty m d src s} : exec (.l16Add ty m d src) s = execL16Add ty m d src s := rfl
@[simp] theorem exec_l16Sub {ty m d src s} : exec (.l16Sub ty m d src) s = execL16Sub ty m d src s := rfl
@[simp] theorem exec_l16Rsub {ty m d src s} : exec (.l16Rsub ty m d src) s = execL16Rsub ty m d src s := rfl
@[simp] theorem exec_l16Mul {ty m d src s} : exec (.l16Mul ty m d src) s = execL16Mul ty m d src s := rfl
@[simp] theorem exec_l16Mac {ty m d src s} : exec (.l16Mac ty m d src) s = execL16Mac ty m d src s := rfl
@[simp] theorem exec_l16Min {ty m d src s} : exec (.l16Min ty m d src) s = execL16Min ty m d src s := rfl
@[simp] theorem exec_l16Max {ty m d src s} : exec (.l16Max ty m d src) s = execL16Max ty m d src s := rfl
@[simp] theorem exec_l16And {ty m d src s} : exec (.l16And ty m d src) s = execL16And ty m d src s := rfl
@[simp] theorem exec_l16Or {ty m d src s} : exec (.l16Or ty m d src) s = execL16Or ty m d src s := rfl
@[simp] theorem exec_l16Xor {ty m d src s} : exec (.l16Xor ty m d src) s = execL16Xor ty m d src s := rfl
@[simp] theorem exec_l16Andn {ty m d src s} : exec (.l16Andn ty m d src) s = execL16Andn ty m d src s := rfl
@[simp] theorem exec_l16Shl {ty m d src s} : exec (.l16Shl ty m d src) s = execL16Shl ty m d src s := rfl
@[simp] theorem exec_l16Shr {ty m d src s} : exec (.l16Shr ty m d src) s = execL16Shr ty m d src s := rfl
@[simp] theorem exec_l16Mov {ty m d src s} : exec (.l16Mov ty m d src) s = execL16Mov ty m d src s := rfl
@[simp] theorem exec_l16Abs {ty m d src s} : exec (.l16Abs ty m d src) s = execL16Abs ty m d src s := rfl
@[simp] theorem exec_l16Neg {ty m d src s} : exec (.l16Neg ty m d src) s = execL16Neg ty m d src s := rfl
@[simp] theorem exec_wmathExp2 {ty m d b s} : exec (.wmathExp2 ty m d b) s = execWmathExp2 ty m d b s := rfl
@[simp] theorem exec_wmathLog2 {ty m d b s} : exec (.wmathLog2 ty m d b) s = execWmathLog2 ty m d b s := rfl
@[simp] theorem exec_wmathRecip {ty m d b s} : exec (.wmathRecip ty m d b) s = execWmathRecip ty m d b s := rfl
@[simp] theorem exec_wmathRsqrt {ty m d b s} : exec (.wmathRsqrt ty m d b) s = execWmathRsqrt ty m d b s := rfl
@[simp] theorem exec_wmathTanh {ty m d b s} : exec (.wmathTanh ty m d b) s = execWmathTanh ty m d b s := rfl
@[simp] theorem exec_wmathRsum {ty m d b s} : exec (.wmathRsum ty m d b) s = execWmathRsum ty m d b s := rfl
@[simp] theorem exec_wmathRmax {ty m d b s} : exec (.wmathRmax ty m d b) s = execWmathRmax ty m d b s := rfl
@[simp] theorem exec_wmathScan {ty m d b s} : exec (.wmathScan ty m d b) s = execWmathScan ty m d b s := rfl
@[simp] theorem exec_wmathPerm {ty m d a b s} : exec (.wmathPerm ty m d a b) s = execWmathPerm ty m d a b s := rfl
@[simp] theorem exec_wmaskEq {ty m d a b s} : exec (.wmaskEq ty m d a b) s = execWmaskEq ty m d a b s := rfl
@[simp] theorem exec_wmaskLt {ty m d a b s} : exec (.wmaskLt ty m d a b) s = execWmaskLt ty m d a b s := rfl
@[simp] theorem exec_wmaskLe {ty m d a b s} : exec (.wmaskLe ty m d a b) s = execWmaskLe ty m d a b s := rfl
@[simp] theorem exec_wmaskAnd {m d a b s} : exec (.wmaskAnd m d a b) s = execWmaskAnd m d a b s := rfl
@[simp] theorem exec_wmaskOr {m d a b s} : exec (.wmaskOr m d a b) s = execWmaskOr m d a b s := rfl
@[simp] theorem exec_wmaskXor {m d a b s} : exec (.wmaskXor m d a b) s = execWmaskXor m d a b s := rfl
@[simp] theorem exec_wmoveBcast {m a b s} : exec (.wmoveBcast m a b) s = execWmoveBcast m a b s := rfl
@[simp] theorem exec_wmoveExt {d a b s} : exec (.wmoveExt d a b) s = execWmoveExt d a b s := rfl
@[simp] theorem exec_wmoveTrld {m a b s} : exec (.wmoveTrld m a b) s = execWmoveTrld m a b s := rfl
@[simp] theorem exec_wmoveTrst {m a b s} : exec (.wmoveTrst m a b) s = execWmoveTrst m a b s := rfl
@[simp] theorem exec_wmoveMpop {m d s} : exec (.wmoveMpop m d) s = execWmoveMpop m d s := rfl
@[simp] theorem exec_wcvtUp {ty m d a b s} : exec (.wcvtUp ty m d a b) s = execWcvtUp ty m d a b s := rfl
@[simp] theorem exec_wcvtDown {ty m d a b s} : exec (.wcvtDown ty m d a b) s = execWcvtDown ty m d a b s := rfl
@[simp] theorem exec_wcvtDownsat {ty m d a b s} : exec (.wcvtDownsat ty m d a b) s = execWcvtDownsat ty m d a b s := rfl
@[simp] theorem exec_wcvtToint {ty m d a b s} : exec (.wcvtToint ty m d a b) s = execWcvtToint ty m d a b s := rfl
@[simp] theorem exec_wcvtFromint {ty m d a b s} : exec (.wcvtFromint ty m d a b) s = execWcvtFromint ty m d a b s := rfl
@[simp] theorem exec_wsampTopk {m d a b s} : exec (.wsampTopk m d a b) s = execWsampTopk m d a b s := rfl
@[simp] theorem exec_wsampCbg {m d a b s} : exec (.wsampCbg m d a b) s = execWsampCbg m d a b s := rfl
@[simp] theorem exec_wsampDraw {m d a b s} : exec (.wsampDraw m d a b) s = execWsampDraw m d a b s := rfl
@[simp] theorem exec_wsampPick {m d a b s} : exec (.wsampPick m d a b) s = execWsampPick m d a b s := rfl
@[simp] theorem exec_talloc {nw h s} : exec (.talloc nw h) s = execTalloc nw h s := rfl
@[simp] theorem exec_tfree {h s} : exec (.tfree h) s = execTfree h s := rfl
@[simp] theorem exec_tld {nw ha hb la s} : exec (.tld nw ha hb la) s = execTld nw ha hb la s := rfl
@[simp] theorem exec_tst {nw h s} : exec (.tst nw h) s = execTst nw h s := rfl
@[simp] theorem exec_tzero {nw h s} : exec (.tzero nw h) s = execTzero nw h s := rfl
@[simp] theorem exec_cload {nw ha hb la s} : exec (.cload nw ha hb la) s = execCload nw ha hb la s := rfl
@[simp] theorem exec_cpass {nw ha hb la s} : exec (.cpass nw ha hb la) s = execCpass nw ha hb la s := rfl
@[simp] theorem exec_cdrain {nw ha hb la s} : exec (.cdrain nw ha hb la) s = execCdrain nw ha hb la s := rfl
@[simp] theorem exec_czero {nw ha la s} : exec (.czero nw ha la) s = execCzero nw ha la s := rfl
@[simp] theorem exec_canvasxLoad {nw ha hb la s} : exec (.canvasxLoad nw ha hb la) s = execCanvasxLoad nw ha hb la s := rfl
@[simp] theorem exec_canvasxPass {nw ha hb la s} : exec (.canvasxPass nw ha hb la) s = execCanvasxPass nw ha hb la s := rfl
@[simp] theorem exec_cpyIn {d a h la s} : exec (.cpyIn d a h la) s = execCpyIn d a h la s := rfl
@[simp] theorem exec_cpyOut {d a h la s} : exec (.cpyOut d a h la) s = execCpyOut d a h la s := rfl
@[simp] theorem exec_gath {d a h la s} : exec (.gath d a h la) s = execGath d a h la s := rfl
@[simp] theorem exec_scat {d a h la s} : exec (.scat d a h la) s = execScat d a h la s := rfl
@[simp] theorem exec_coll {d a h la s} : exec (.coll d a h la) s = execColl d a h la s := rfl
@[simp] theorem exec_weir {d a h la s} : exec (.weir d a h la) s = execWeir d a h la s := rfl
@[simp] theorem exec_barm {a b s} : exec (.barm a b) s = execBarm a b s := rfl
@[simp] theorem exec_barrClaim {d a b s} : exec (.barrClaim d a b) s = execBarrClaim d a b s := rfl
@[simp] theorem exec_bwait {b s} : exec (.bwait b) s = execBwait b s := rfl
@[simp] theorem exec_engxDmard {d a b s} : exec (.engxDmard d a b) s = execEngxDmard d a b s := rfl
@[simp] theorem exec_engxDmawr {d a b s} : exec (.engxDmawr d a b) s = execEngxDmawr d a b s := rfl
@[simp] theorem exec_engxMbox {a s} : exec (.engxMbox a) s = execEngxMbox a s := rfl
@[simp] theorem exec_engxGcmkey {a s} : exec (.engxGcmkey a) s = execEngxGcmkey a s := rfl
@[simp] theorem exec_engxGcmenc {d a b s} : exec (.engxGcmenc d a b) s = execEngxGcmenc d a b s := rfl
@[simp] theorem exec_engxGcmdec {d a b s} : exec (.engxGcmdec d a b) s = execEngxGcmdec d a b s := rfl
@[simp] theorem exec_tlbinv {a b s} : exec (.tlbinv a b) s = execTlbinv a b s := rfl
@[simp] theorem exec_genscrub {d a s} : exec (.genscrub d a) s = execGenscrub d a s := rfl
@[simp] theorem exec_qown {d a b s} : exec (.qown d a b) s = execQown d a b s := rfl
@[simp] theorem exec_halt {a b s} : exec (.halt a b) s = execHalt a b s := rfl
@[simp] theorem exec_stoprec {d a s} : exec (.stoprec d a) s = execStoprec d a s := rfl
@[simp] theorem exec_cctl {a b s} : exec (.cctl a b) s = execCctl a b s := rfl
@[simp] theorem exec_pset {a b s} : exec (.pset a b) s = execPset a b s := rfl
@[simp] theorem exec_creationMessage {m s} : exec (.creationMessage m) s = execCreationMessage m s := rfl
@[simp] theorem exec_contextScrubComplete {q c s} : exec (.contextScrubComplete q c) s = execContextScrubComplete q c s := rfl
@[simp] theorem exec_contextFreeNotice {q c s} : exec (.contextFreeNotice q c) s = execContextFreeNotice q c s := rfl
@[simp] theorem exec_resendTimeout {q c s} : exec (.resendTimeout q c) s = execResendTimeout q c s := rfl
@[simp] theorem exec_refusalRelease {q c s} : exec (.refusalRelease q c) s = execRefusalRelease q c s := rfl
@[simp] theorem exec_refusedResend {q c s} : exec (.refusedResend q c) s = execRefusedResend q c s := rfl
@[simp] theorem exec_migrQuery {src quad s} : exec (.migrQuery src quad) s = execMigrQuery src quad s := rfl
@[simp] theorem exec_migrQueryAnswer {src s} : exec (.migrQueryAnswer src) s = execMigrQueryAnswer src s := rfl
@[simp] theorem exec_migrationImage {m s} : exec (.migrationImage m) s = execMigrationImage m s := rfl
@[simp] theorem exec_targetAnswer {dest ans s} : exec (.targetAnswer dest ans) s = execTargetAnswer dest ans s := rfl
@[simp] theorem exec_deposit {m s} : exec (.deposit m) s = execDeposit m s := rfl
@[simp] theorem exec_coreSelect {q c s} : exec (.coreSelect q c) s = execCoreSelect q c s := rfl
@[simp] theorem exec_clockAnnouncement {q c ch v s} : exec (.clockAnnouncement q c ch v) s = execClockAnnouncement q c ch v s := rfl
@[simp] theorem exec_nullEvent {q c ch v s} : exec (.nullEvent q c ch v) s = execNullEvent q c ch v s := rfl
@[simp] theorem exec_stampedEvent {m s} : exec (.stampedEvent m) s = execStampedEvent m s := rfl
@[simp] theorem exec_eventStart {q c s} : exec (.eventStart q c) s = execEventStart q c s := rfl
@[simp] theorem exec_nullRound {q c s} : exec (.nullRound q c) s = execNullRound q c s := rfl
@[simp] theorem exec_easelGrant {q s} : exec (.easelGrant q) s = execEaselGrant q s := rfl
@[simp] theorem exec_easelSubunitComplete {q unit s} : exec (.easelSubunitComplete q unit) s = execEaselSubunitComplete q unit s := rfl
@[simp] theorem exec_scoreboardEntryComplete {q entry s} : exec (.scoreboardEntryComplete q entry) s = execScoreboardEntryComplete q entry s := rfl
@[simp] theorem exec_tileScrubSweepComplete {q s} : exec (.tileScrubSweepComplete q) s = execTileScrubSweepComplete q s := rfl
@[simp] theorem exec_genscrubComplete {q s} : exec (.genscrubComplete q) s = execGenscrubComplete q s := rfl
@[simp] theorem exec_collectiveMatch {launch cid s} : exec (.collectiveMatch launch cid) s = execCollectiveMatch launch cid s := rfl
@[simp] theorem exec_promiseDue {a s} : exec (.promiseDue a) s = execPromiseDue a s := rfl
@[simp] theorem exec_monitorFire {sector s} : exec (.monitorFire sector) s = execMonitorFire sector s := rfl
@[simp] theorem exec_parkDeadline {a s} : exec (.parkDeadline a) s = execParkDeadline a s := rfl
@[simp] theorem exec_regionBufferDrain {a s} : exec (.regionBufferDrain a) s = execRegionBufferDrain a s := rfl
@[simp] theorem exec_walkMonitorFire {sector s} : exec (.walkMonitorFire sector) s = execWalkMonitorFire sector s := rfl
@[simp] theorem exec_engineStop {e s} : exec (.engineStop e) s = execEngineStop e s := rfl
@[simp] theorem exec_containmentWalk {part s} : exec (.containmentWalk part) s = execContainmentWalk part s := rfl
@[simp] theorem exec_haltctlHoldSet {q s} : exec (.haltctlHoldSet q) s = execHaltctlHoldSet q s := rfl
@[simp] theorem exec_haltctlHoldClear {q s} : exec (.haltctlHoldClear q) s = execHaltctlHoldClear q s := rfl
@[simp] theorem exec_chlaWrite {q c ch v s} : exec (.chlaWrite q c ch v) s = execChlaWrite q c ch v s := rfl
@[simp] theorem exec_preemptionDeadline {slot s} : exec (.preemptionDeadline slot) s = execPreemptionDeadline slot s := rfl
@[simp] theorem exec_saveComplete {slot s} : exec (.saveComplete slot) s = execSaveComplete slot s := rfl
@[simp] theorem exec_restore {slot s} : exec (.restore slot) s = execRestore slot s := rfl
@[simp] theorem exec_debugResume {a s} : exec (.debugResume a) s = execDebugResume a s := rfl
@[simp] theorem exec_kick {queue v s} : exec (.kick queue v) s = execKick queue v s := rfl
@[simp] theorem exec_cancelGraph {queue s} : exec (.cancelGraph queue) s = execCancelGraph queue s := rfl
@[simp] theorem exec_cancelPhase {queue s} : exec (.cancelPhase queue) s = execCancelPhase queue s := rfl
@[simp] theorem exec_cancelJob {queue s} : exec (.cancelJob queue) s = execCancelJob queue s := rfl
@[simp] theorem exec_packetRead {slot s} : exec (.packetRead slot) s = execPacketRead slot s := rfl
@[simp] theorem exec_launchDistribution {l s} : exec (.launchDistribution l) s = execLaunchDistribution l s := rfl
@[simp] theorem exec_launchComplete {l s} : exec (.launchComplete l) s = execLaunchComplete l s := rfl
@[simp] theorem exec_ageingInterval {slot s} : exec (.ageingInterval slot) s = execAgeingInterval slot s := rfl
@[simp] theorem exec_quantumExpiry {slot s} : exec (.quantumExpiry slot) s = execQuantumExpiry slot s := rfl
@[simp] theorem exec_sctlMap {slot queue s} : exec (.sctlMap slot queue) s = execSctlMap slot queue s := rfl
@[simp] theorem exec_sctlUnmap {slot s} : exec (.sctlUnmap slot) s = execSctlUnmap slot s := rfl
@[simp] theorem exec_unmapComplete {slot s} : exec (.unmapComplete slot) s = execUnmapComplete slot s := rfl
@[simp] theorem exec_sctlReset {slot s} : exec (.sctlReset slot) s = execSctlReset slot s := rfl
@[simp] theorem exec_queueResetComplete {slot s} : exec (.queueResetComplete slot) s = execQueueResetComplete slot s := rfl
@[simp] theorem exec_biascmdGo {granule target s} : exec (.biascmdGo granule target) s = execBiascmdGo granule target s := rfl
@[simp] theorem exec_biasFlipComplete {granule target s} : exec (.biasFlipComplete granule target) s = execBiasFlipComplete granule target s := rfl
@[simp] theorem exec_releaseSequenceComplete {part s} : exec (.releaseSequenceComplete part) s = execReleaseSequenceComplete part s := rfl
@[simp] theorem exec_drowsyEntry {q s} : exec (.drowsyEntry q) s = execDrowsyEntry q s := rfl
@[simp] theorem exec_drowsyWake {q s} : exec (.drowsyWake q) s = execDrowsyWake q s := rfl
@[simp] theorem exec_longLatencyCompletion {a s} : exec (.longLatencyCompletion a) s = execLongLatencyCompletion a s := rfl
@[simp] theorem exec_cacheMaintenanceComplete {a s} : exec (.cacheMaintenanceComplete a) s = execCacheMaintenanceComplete a s := rfl
@[simp] theorem exec_jrRet {s} : exec (.jrRet) s = execJrRet s := rfl
@[simp] theorem exec_rte {s} : exec (.rte) s = execRte s := rfl
@[simp] theorem exec_region {s} : exec (.region) s = execRegion s := rfl
@[simp] theorem exec_commit {s} : exec (.commit) s = execCommit s := rfl
@[simp] theorem exec_exit {s} : exec (.exit) s = execExit s := rfl
@[simp] theorem exec_engxKwait {s} : exec (.engxKwait) s = execEngxKwait s := rfl
@[simp] theorem exec_pageRequestResponse {s} : exec (.pageRequestResponse) s = execPageRequestResponse s := rfl
@[simp] theorem exec_granq0Read {s} : exec (.granq0Read) s = execGranq0Read s := rfl
@[simp] theorem exec_granrespWalkAgain {s} : exec (.granrespWalkAgain) s = execGranrespWalkAgain s := rfl
@[simp] theorem exec_granrespRefuse {s} : exec (.granrespRefuse) s = execGranrespRefuse s := rfl
@[simp] theorem exec_atsInvalidation {s} : exec (.atsInvalidation) s = execAtsInvalidation s := rfl
@[simp] theorem exec_pktNop {s} : exec (.pktNop) s = execPktNop s := rfl
@[simp] theorem exec_pktDispatch {s} : exec (.pktDispatch) s = execPktDispatch s := rfl
@[simp] theorem exec_pktDelta {s} : exec (.pktDelta) s = execPktDelta s := rfl
@[simp] theorem exec_pktIbcall {s} : exec (.pktIbcall) s = execPktIbcall s := rfl
@[simp] theorem exec_pktPred {s} : exec (.pktPred) s = execPktPred s := rfl
@[simp] theorem exec_pktLoop {s} : exec (.pktLoop) s = execPktLoop s := rfl
@[simp] theorem exec_pktFfence {s} : exec (.pktFfence) s = execPktFfence s := rfl
@[simp] theorem exec_pktSignal {s} : exec (.pktSignal) s = execPktSignal s := rfl
@[simp] theorem exec_pktWaitmem {s} : exec (.pktWaitmem) s = execPktWaitmem s := rfl
@[simp] theorem exec_levelGraph {s} : exec (.levelGraph) s = execLevelGraph s := rfl
@[simp] theorem exec_levelPhase {s} : exec (.levelPhase) s = execLevelPhase s := rfl
@[simp] theorem exec_levelJob {s} : exec (.levelJob) s = execLevelJob s := rfl
@[simp] theorem exec_levelCancel {s} : exec (.levelCancel) s = execLevelCancel s := rfl
@[simp] theorem exec_slotSelection {s} : exec (.slotSelection) s = execSlotSelection s := rfl
@[simp] theorem exec_hostCxlMemRequest {s} : exec (.hostCxlMemRequest) s = execHostCxlMemRequest s := rfl
@[simp] theorem exec_hostSnoop {s} : exec (.hostSnoop) s = execHostSnoop s := rfl
@[simp] theorem exec_lockInterface {s} : exec (.lockInterface) s = execLockInterface s := rfl
@[simp] theorem exec_startInterface {s} : exec (.startInterface) s = execStartInterface s := rfl
@[simp] theorem exec_stopInterface {s} : exec (.stopInterface) s = execStopInterface s := rfl
@[simp] theorem exec_ideIntegrityFailure {s} : exec (.ideIntegrityFailure) s = execIdeIntegrityFailure s := rfl
@[simp] theorem exec_getVersion {s} : exec (.getVersion) s = execGetVersion s := rfl
@[simp] theorem exec_getCapabilities {s} : exec (.getCapabilities) s = execGetCapabilities s := rfl
@[simp] theorem exec_negotiateAlgorithms {s} : exec (.negotiateAlgorithms) s = execNegotiateAlgorithms s := rfl
@[simp] theorem exec_getDigests {s} : exec (.getDigests) s = execGetDigests s := rfl
@[simp] theorem exec_getCertificate {s} : exec (.getCertificate) s = execGetCertificate s := rfl
@[simp] theorem exec_challenge {s} : exec (.challenge) s = execChallenge s := rfl
@[simp] theorem exec_getMeasurements {s} : exec (.getMeasurements) s = execGetMeasurements s := rfl
@[simp] theorem exec_keyExchange {s} : exec (.keyExchange) s = execKeyExchange s := rfl
@[simp] theorem exec_finish {s} : exec (.finish) s = execFinish s := rfl
@[simp] theorem exec_heartbeat {s} : exec (.heartbeat) s = execHeartbeat s := rfl
@[simp] theorem exec_keyUpdate {s} : exec (.keyUpdate) s = execKeyUpdate s := rfl
@[simp] theorem exec_endSession {s} : exec (.endSession) s = execEndSession s := rfl
@[simp] theorem exec_setCertificate {s} : exec (.setCertificate) s = execSetCertificate s := rfl
@[simp] theorem exec_certRewriteTimeout {s} : exec (.certRewriteTimeout) s = execCertRewriteTimeout s := rfl
@[simp] theorem exec_setCopyKey {s} : exec (.setCopyKey) s = execSetCopyKey s := rfl
@[simp] theorem exec_setDebugConsent {s} : exec (.setDebugConsent) s = execSetDebugConsent s := rfl
@[simp] theorem exec_stageUpdate {s} : exec (.stageUpdate) s = execStageUpdate s := rfl
@[simp] theorem exec_activationRequest {s} : exec (.activationRequest) s = execActivationRequest s := rfl
@[simp] theorem exec_acknowledgeStaged {s} : exec (.acknowledgeStaged) s = execAcknowledgeStaged s := rfl
@[simp] theorem exec_liveUpdateTakeover {s} : exec (.liveUpdateTakeover) s = execLiveUpdateTakeover s := rfl
@[simp] theorem exec_standbyFailure {s} : exec (.standbyFailure) s = execStandbyFailure s := rfl
@[simp] theorem exec_coldReset {s} : exec (.coldReset) s = execColdReset s := rfl
@[simp] theorem exec_warmReset {s} : exec (.warmReset) s = execWarmReset s := rfl
@[simp] theorem exec_linkReset {s} : exec (.linkReset) s = execLinkReset s := rfl
@[simp] theorem exec_clockStep {s} : exec (.clockStep) s = execClockStep s := rfl
@[simp] theorem exec_evlogRead {s} : exec (.evlogRead) s = execEvlogRead s := rfl
@[simp] theorem exec_registerWrite {s} : exec (.registerWrite) s = execRegisterWrite s := rfl
@[simp] theorem exec_commandComplexFailure {s} : exec (.commandComplexFailure) s = execCommandComplexFailure s := rfl
@[simp] theorem exec_ideKeyManagement {s} : exec (.ideKeyManagement) s = execIdeKeyManagement s := rfl

end Sys2Proof.Machine
end

