-- ==== Sys2Proof/Laws/Easel.lean ====
section
/-! SUPPORT. What an easel form comes to that is granted in the moment it issues, and what a lane operation leaves (R123,
R245, R246). -/

namespace Sys2Proof.Machine

open Sys2Proof.Safety

/-- Sources that each read a word are read in order. -/
theorem readAll_reads {t : State} {a : Agent} {ops : List (Src × Word)} (h : ∀ p ∈ ops, Reads t a p.1 p.2) :
    readAll t a (ops.map Prod.fst) = .ok (ops.map Prod.snd) := by
  induction ops with
  | nil => rfl
  | cons p ps ih =>
    have hp : readSrc t a p.1 = .ok p.2 := h p (by simp)
    have hs := ih fun r hr => h r (by simp [hr])
    simp only [List.map_cons, readAll, hp, hs]
    rfl

/-- With no form waiting on a quad there is room in each of its cores' queues. -/
theorem waiting_of_empty {v : State} {q : Fin 64} (c : Fin 4) (h : dqsEmpty (v.quads.get q) = true) :
    waitingForms (v.core q c) = [] := by
  simp only [dqsEmpty, List.all_eq_true, Vector.mem_toList_iff, List.isEmpty_iff] at h
  exact h _ (Vector.getElem_mem c.isLt)

/-- A form that is granted in the moment it issues takes its effect, its entries made and its sub-unit busy. -/
theorem performEasel_granted {i : Instr} {f : EForm} {ops : List (Src × Word)} {claims : List Claim} {q : Fin 64} {c : Fin 4}
    {k : Fin 24} {s t v u : State} (hw : s.md.who = .strand q c k) (hi : gate i s.md.who s = .go t)
    (hl : takeLease q c k (isLane (shapeOf i).major) t = some v) (hr : ∀ p ∈ ops, Reads v (.strand q c k) p.1 p.2)
    (hf : dqsEmpty (v.quads.get q) = true) (hu : unitReady q f.unit claims v) (hs : f.srcs = ops.map Prod.fst)
    (hc : f.claims (ops.map Prod.snd) (resolveHandles v (.strand q c k) (f.handles (ops.map Prod.snd))) (.strand q c k) v = claims)
    (he : f.effect (ops.map Prod.snd) (resolveHandles v (.strand q c k) (f.handles (ops.map Prod.snd))) (.strand q c k) v = .ok u) :
    performEasel i f s =
      .next (granted i f.unit (ops.map Prod.snd) (resolveHandles v (.strand q c k) (f.handles (ops.map Prod.snd))) claims q c k s u) := by
  obtain ⟨hn, hb, hst, hcl, hsb⟩ := hu
  rw [hw] at hi
  unfold performEasel
  simp only [hw, hi, hl, hs, readAll_reads hr, placeForm, waiting_of_empty c hf, hf]
  simp [grantable, hn, hb, hst, hc, hcl, hsb, grantForm, he, granted, ok_bind]

/-- A lane operation whose mask and fields are current writes the lanes of its mask, with their flags (R245). -/
theorem laneOp_ok {ty : LaneTy} {rmf : State → Agent → RM} {m d : Fin 8} {x y z : Option (Fin 8)} {f : ElemFn} {a : Agent}
    {v : State} {M : BitVec 96} {X Y Z : Lanes} (hM : readM v a m = .ok M) (hX : readWOpt v a x = .ok X)
    (hY : readWOpt v a y = .ok Y) (hZ : readWOpt v a z = .ok Z) :
    laneOp ty rmf m d x y z f a v =
      .ok (laneResult a M d (fun i => onLane ty f (rmf v a) (X.get i) (Y.get i) (Z.get i)) v) := by
  simp only [laneOp, hM, hX, hY, hZ, ok_bind]
  rfl

end Sys2Proof.Machine
end

