-- ==== Sys2Proof/Laws/PerInstr.lean ====
section
/-! SUPPORT. What every instruction's word is, constructor by constructor: it fits its length, its length is the one that its
first bit announces (R154), and it is the length by which the PC moves on (R199). -/

namespace Sys2Proof.Laws

/-- The word of an instruction, if it has one, fits its length, announces it, and moves the PC by it. -/
def Encoding.Statement (i : Instr) : Prop :=
  ∀ n w, encode i = some (n, w) → w < 2 ^ n ∧ 8 * wordBytes w = n ∧ 8 * (Machine.shapeOf i).len = n

theorem src_code_lt (f : Src) : f.code < 32 := by
  cases f with
  | n i => have := i.isLt; simp only [Src.code]; omega
  | q i => have := i.isLt; simp only [Src.code]; omega

theorem dst_code_lt (d : Dst) : d.code < 32 := by
  cases d with
  | n i => have := i.isLt; simp only [Dst.code]; omega
  | push => decide
  | drop => decide

theorem cond_code_lt (c : Cond) : c.code < 8 := by cases c <;> decide
theorem ldSize_code_lt (c : LdSize) : c.code < 8 := by cases c <;> decide
theorem stSize_code_lt (c : StSize) : c.code < 8 := by cases c <;> decide
theorem fenceKind_code_lt (c : FenceKind) : c.code < 4 := by cases c <;> decide
theorem laneTy_code_lt (t : LaneTy) : t.code < 16 := by cases t <;> decide
theorem l16Ty_code_lt (t : L16Ty) : t.code < 4 := by cases t <;> decide

/-- A word of 32 bits, bit 0 set. -/
theorem word32 {n w v : Nat} (h : some (32, v) = some (n, w)) (odd : v % 2 = 1) (lt : v < 2 ^ 32) :
    w < 2 ^ n ∧ 8 * wordBytes w = n ∧ 8 * 4 = n := by
  simp only [Option.some.injEq, Prod.mk.injEq] at h
  obtain ⟨rfl, rfl⟩ := h
  refine ⟨lt, ?_, rfl⟩
  unfold wordBytes
  rw [if_neg (by omega)]

/-- A word of 16 bits, bit 0 clear. -/
theorem word16 {n w v : Nat} (h : some (16, v) = some (n, w)) (even : v % 2 = 0) (lt : v < 2 ^ 16) :
    w < 2 ^ n ∧ 8 * wordBytes w = n ∧ 8 * 2 = n := by
  simp only [Option.some.injEq, Prod.mk.injEq] at h
  obtain ⟨rfl, rfl⟩ := h
  refine ⟨lt, ?_, rfl⟩
  unfold wordBytes
  rw [if_pos even]

theorem Encoding.aluAdd (d : Dst) (a : Src) (b : Src) : Statement (.aluAdd d a b) := by
  intro nbits word henc
  have lt0 := dst_code_lt d
  have lt1 := src_code_lt a
  have lt2 := src_code_lt b
  exact word32 henc (by omega) (by omega)

theorem Encoding.aluSub (d : Dst) (a : Src) (b : Src) : Statement (.aluSub d a b) := by
  intro nbits word henc
  have lt0 := dst_code_lt d
  have lt1 := src_code_lt a
  have lt2 := src_code_lt b
  exact word32 henc (by omega) (by omega)

theorem Encoding.aluAnd (d : Dst) (a : Src) (b : Src) : Statement (.aluAnd d a b) := by
  intro nbits word henc
  have lt0 := dst_code_lt d
  have lt1 := src_code_lt a
  have lt2 := src_code_lt b
  exact word32 henc (by omega) (by omega)

theorem Encoding.aluOr (d : Dst) (a : Src) (b : Src) : Statement (.aluOr d a b) := by
  intro nbits word henc
  have lt0 := dst_code_lt d
  have lt1 := src_code_lt a
  have lt2 := src_code_lt b
  exact word32 henc (by omega) (by omega)

theorem Encoding.aluXor (d : Dst) (a : Src) (b : Src) : Statement (.aluXor d a b) := by
  intro nbits word henc
  have lt0 := dst_code_lt d
  have lt1 := src_code_lt a
  have lt2 := src_code_lt b
  exact word32 henc (by omega) (by omega)

theorem Encoding.aluSll (d : Dst) (a : Src) (b : Src) : Statement (.aluSll d a b) := by
  intro nbits word henc
  have lt0 := dst_code_lt d
  have lt1 := src_code_lt a
  have lt2 := src_code_lt b
  exact word32 henc (by omega) (by omega)

theorem Encoding.aluSrl (d : Dst) (a : Src) (b : Src) : Statement (.aluSrl d a b) := by
  intro nbits word henc
  have lt0 := dst_code_lt d
  have lt1 := src_code_lt a
  have lt2 := src_code_lt b
  exact word32 henc (by omega) (by omega)

theorem Encoding.aluSra (d : Dst) (a : Src) (b : Src) : Statement (.aluSra d a b) := by
  intro nbits word henc
  have lt0 := dst_code_lt d
  have lt1 := src_code_lt a
  have lt2 := src_code_lt b
  exact word32 henc (by omega) (by omega)

theorem Encoding.aluSlt (d : Dst) (a : Src) (b : Src) : Statement (.aluSlt d a b) := by
  intro nbits word henc
  have lt0 := dst_code_lt d
  have lt1 := src_code_lt a
  have lt2 := src_code_lt b
  exact word32 henc (by omega) (by omega)

theorem Encoding.aluSltu (d : Dst) (a : Src) (b : Src) : Statement (.aluSltu d a b) := by
  intro nbits word henc
  have lt0 := dst_code_lt d
  have lt1 := src_code_lt a
  have lt2 := src_code_lt b
  exact word32 henc (by omega) (by omega)

theorem Encoding.aluMin (d : Dst) (a : Src) (b : Src) : Statement (.aluMin d a b) := by
  intro nbits word henc
  have lt0 := dst_code_lt d
  have lt1 := src_code_lt a
  have lt2 := src_code_lt b
  exact word32 henc (by omega) (by omega)

theorem Encoding.aluMax (d : Dst) (a : Src) (b : Src) : Statement (.aluMax d a b) := by
  intro nbits word henc
  have lt0 := dst_code_lt d
  have lt1 := src_code_lt a
  have lt2 := src_code_lt b
  exact word32 henc (by omega) (by omega)

theorem Encoding.aluMinu (d : Dst) (a : Src) (b : Src) : Statement (.aluMinu d a b) := by
  intro nbits word henc
  have lt0 := dst_code_lt d
  have lt1 := src_code_lt a
  have lt2 := src_code_lt b
  exact word32 henc (by omega) (by omega)

theorem Encoding.aluMaxu (d : Dst) (a : Src) (b : Src) : Statement (.aluMaxu d a b) := by
  intro nbits word henc
  have lt0 := dst_code_lt d
  have lt1 := src_code_lt a
  have lt2 := src_code_lt b
  exact word32 henc (by omega) (by omega)

theorem Encoding.mulMul (d : Dst) (a : Src) (b : Src) (la : Fin 16) : Statement (.mulMul d a b la) := by
  intro nbits word henc
  have lt0 := dst_code_lt d
  have lt1 := src_code_lt a
  have lt2 := src_code_lt b
  have lt3 := la.isLt
  exact word32 henc (by omega) (by omega)

theorem Encoding.mulMulh (d : Dst) (a : Src) (b : Src) (la : Fin 16) : Statement (.mulMulh d a b la) := by
  intro nbits word henc
  have lt0 := dst_code_lt d
  have lt1 := src_code_lt a
  have lt2 := src_code_lt b
  have lt3 := la.isLt
  exact word32 henc (by omega) (by omega)

theorem Encoding.mulMulhu (d : Dst) (a : Src) (b : Src) (la : Fin 16) : Statement (.mulMulhu d a b la) := by
  intro nbits word henc
  have lt0 := dst_code_lt d
  have lt1 := src_code_lt a
  have lt2 := src_code_lt b
  have lt3 := la.isLt
  exact word32 henc (by omega) (by omega)

theorem Encoding.mulDiv (d : Dst) (a : Src) (b : Src) (la : Fin 16) : Statement (.mulDiv d a b la) := by
  intro nbits word henc
  have lt0 := dst_code_lt d
  have lt1 := src_code_lt a
  have lt2 := src_code_lt b
  have lt3 := la.isLt
  exact word32 henc (by omega) (by omega)

theorem Encoding.mulDivu (d : Dst) (a : Src) (b : Src) (la : Fin 16) : Statement (.mulDivu d a b la) := by
  intro nbits word henc
  have lt0 := dst_code_lt d
  have lt1 := src_code_lt a
  have lt2 := src_code_lt b
  have lt3 := la.isLt
  exact word32 henc (by omega) (by omega)

theorem Encoding.mulRem (d : Dst) (a : Src) (b : Src) (la : Fin 16) : Statement (.mulRem d a b la) := by
  intro nbits word henc
  have lt0 := dst_code_lt d
  have lt1 := src_code_lt a
  have lt2 := src_code_lt b
  have lt3 := la.isLt
  exact word32 henc (by omega) (by omega)

theorem Encoding.mulRemu (d : Dst) (a : Src) (b : Src) (la : Fin 16) : Statement (.mulRemu d a b la) := by
  intro nbits word henc
  have lt0 := dst_code_lt d
  have lt1 := src_code_lt a
  have lt2 := src_code_lt b
  have lt3 := la.isLt
  exact word32 henc (by omega) (by omega)

theorem Encoding.addi (d : Dst) (a : Src) (imm : BitVec 15) : Statement (.addi d a imm) := by
  intro nbits word henc
  have lt0 := dst_code_lt d
  have lt1 := src_code_lt a
  have lt2 := imm.isLt
  exact word32 henc (by omega) (by omega)

theorem Encoding.andi (d : Dst) (a : Src) (imm : BitVec 15) : Statement (.andi d a imm) := by
  intro nbits word henc
  have lt0 := dst_code_lt d
  have lt1 := src_code_lt a
  have lt2 := imm.isLt
  exact word32 henc (by omega) (by omega)

theorem Encoding.ori (d : Dst) (a : Src) (imm : BitVec 15) : Statement (.ori d a imm) := by
  intro nbits word henc
  have lt0 := dst_code_lt d
  have lt1 := src_code_lt a
  have lt2 := imm.isLt
  exact word32 henc (by omega) (by omega)

theorem Encoding.xori (d : Dst) (a : Src) (imm : BitVec 15) : Statement (.xori d a imm) := by
  intro nbits word henc
  have lt0 := dst_code_lt d
  have lt1 := src_code_lt a
  have lt2 := imm.isLt
  exact word32 henc (by omega) (by omega)

theorem Encoding.shiSll (d : Dst) (a : Src) (count : BitVec 6) : Statement (.shiSll d a count) := by
  intro nbits word henc
  have lt0 := dst_code_lt d
  have lt1 := src_code_lt a
  have lt2 := count.isLt
  exact word32 henc (by omega) (by omega)

theorem Encoding.shiSrl (d : Dst) (a : Src) (count : BitVec 6) : Statement (.shiSrl d a count) := by
  intro nbits word henc
  have lt0 := dst_code_lt d
  have lt1 := src_code_lt a
  have lt2 := count.isLt
  exact word32 henc (by omega) (by omega)

theorem Encoding.shiSra (d : Dst) (a : Src) (count : BitVec 6) : Statement (.shiSra d a count) := by
  intro nbits word henc
  have lt0 := dst_code_lt d
  have lt1 := src_code_lt a
  have lt2 := count.isLt
  exact word32 henc (by omega) (by omega)

theorem Encoding.cmpi (c : Cond) (d : Dst) (a : Src) (imm : BitVec 12) : Statement (.cmpi c d a imm) := by
  intro nbits word henc
  have lt0 := cond_code_lt c
  have lt1 := dst_code_lt d
  have lt2 := src_code_lt a
  have lt3 := imm.isLt
  exact word32 henc (by omega) (by omega)

theorem Encoding.lui (d : Dst) (imm : BitVec 20) : Statement (.lui d imm) := by
  intro nbits word henc
  have lt0 := dst_code_lt d
  have lt1 := imm.isLt
  exact word32 henc (by omega) (by omega)

theorem Encoding.auipc (d : Dst) (imm : BitVec 20) : Statement (.auipc d imm) := by
  intro nbits word henc
  have lt0 := dst_code_lt d
  have lt1 := imm.isLt
  exact word32 henc (by omega) (by omega)

theorem Encoding.bitsExt (d : Dst) (a : Src) (pos : BitVec 6) (len1 : BitVec 6) : Statement (.bitsExt d a pos len1) := by
  intro nbits word henc
  have lt0 := dst_code_lt d
  have lt1 := src_code_lt a
  have lt2 := pos.isLt
  have lt3 := len1.isLt
  exact word32 henc (by omega) (by omega)

theorem Encoding.bitsExtu (d : Dst) (a : Src) (pos : BitVec 6) (len1 : BitVec 6) : Statement (.bitsExtu d a pos len1) := by
  intro nbits word henc
  have lt0 := dst_code_lt d
  have lt1 := src_code_lt a
  have lt2 := pos.isLt
  have lt3 := len1.isLt
  exact word32 henc (by omega) (by omega)

theorem Encoding.bitsIns (d : Fin 16) (a : Src) (pos : BitVec 6) (len1 : BitVec 6) : Statement (.bitsIns d a pos len1) := by
  intro nbits word henc
  have lt0 := d.isLt
  have lt1 := src_code_lt a
  have lt2 := pos.isLt
  have lt3 := len1.isLt
  exact word32 henc (by omega) (by omega)

theorem Encoding.fpuAdd (d : Dst) (a : Src) (b : Src) : Statement (.fpuAdd d a b) := by
  intro nbits word henc
  have lt0 := dst_code_lt d
  have lt1 := src_code_lt a
  have lt2 := src_code_lt b
  exact word32 henc (by omega) (by omega)

theorem Encoding.fpuSub (d : Dst) (a : Src) (b : Src) : Statement (.fpuSub d a b) := by
  intro nbits word henc
  have lt0 := dst_code_lt d
  have lt1 := src_code_lt a
  have lt2 := src_code_lt b
  exact word32 henc (by omega) (by omega)

theorem Encoding.fpuMul (d : Dst) (a : Src) (b : Src) : Statement (.fpuMul d a b) := by
  intro nbits word henc
  have lt0 := dst_code_lt d
  have lt1 := src_code_lt a
  have lt2 := src_code_lt b
  exact word32 henc (by omega) (by omega)

theorem Encoding.fpuMin (d : Dst) (a : Src) (b : Src) : Statement (.fpuMin d a b) := by
  intro nbits word henc
  have lt0 := dst_code_lt d
  have lt1 := src_code_lt a
  have lt2 := src_code_lt b
  exact word32 henc (by omega) (by omega)

theorem Encoding.fpuMax (d : Dst) (a : Src) (b : Src) : Statement (.fpuMax d a b) := by
  intro nbits word henc
  have lt0 := dst_code_lt d
  have lt1 := src_code_lt a
  have lt2 := src_code_lt b
  exact word32 henc (by omega) (by omega)

theorem Encoding.fpuCvts (d : Dst) (a : Src) : Statement (.fpuCvts d a) := by
  intro nbits word henc
  have lt0 := dst_code_lt d
  have lt1 := src_code_lt a
  exact word32 henc (by omega) (by omega)

theorem Encoding.fpuCvtf (d : Dst) (a : Src) : Statement (.fpuCvtf d a) := by
  intro nbits word henc
  have lt0 := dst_code_lt d
  have lt1 := src_code_lt a
  exact word32 henc (by omega) (by omega)

theorem Encoding.fpuEq (d : Dst) (a : Src) (b : Src) : Statement (.fpuEq d a b) := by
  intro nbits word henc
  have lt0 := dst_code_lt d
  have lt1 := src_code_lt a
  have lt2 := src_code_lt b
  exact word32 henc (by omega) (by omega)

theorem Encoding.fpuLt (d : Dst) (a : Src) (b : Src) : Statement (.fpuLt d a b) := by
  intro nbits word henc
  have lt0 := dst_code_lt d
  have lt1 := src_code_lt a
  have lt2 := src_code_lt b
  exact word32 henc (by omega) (by omega)

theorem Encoding.fpuLe (d : Dst) (a : Src) (b : Src) : Statement (.fpuLe d a b) := by
  intro nbits word henc
  have lt0 := dst_code_lt d
  have lt1 := src_code_lt a
  have lt2 := src_code_lt b
  exact word32 henc (by omega) (by omega)

theorem Encoding.fplDiv (d : Dst) (a : Src) (b : Src) (la : Fin 16) : Statement (.fplDiv d a b la) := by
  intro nbits word henc
  have lt0 := dst_code_lt d
  have lt1 := src_code_lt a
  have lt2 := src_code_lt b
  have lt3 := la.isLt
  exact word32 henc (by omega) (by omega)

theorem Encoding.fplSqrt (d : Dst) (a : Src) (la : Fin 16) : Statement (.fplSqrt d a la) := by
  intro nbits word henc
  have lt0 := dst_code_lt d
  have lt1 := src_code_lt a
  have lt2 := la.isLt
  exact word32 henc (by omega) (by omega)

theorem Encoding.fplFma (d : Fin 16) (a : Src) (b : Src) (la : Fin 16) : Statement (.fplFma d a b la) := by
  intro nbits word henc
  have lt0 := d.isLt
  have lt1 := src_code_lt a
  have lt2 := src_code_lt b
  have lt3 := la.isLt
  exact word32 henc (by omega) (by omega)

theorem Encoding.br (c : Cond) (a : Src) (b : Src) (off : BitVec 12) : Statement (.br c a b off) := by
  intro nbits word henc
  have lt0 := cond_code_lt c
  have lt1 := src_code_lt a
  have lt2 := src_code_lt b
  have lt3 := off.isLt
  exact word32 henc (by omega) (by omega)

theorem Encoding.jalCall (off : BitVec 20) : Statement (.jalCall off) := by
  intro nbits word henc
  have lt0 := off.isLt
  exact word32 henc (by omega) (by omega)

theorem Encoding.jalJump (off : BitVec 20) : Statement (.jalJump off) := by
  intro nbits word henc
  have lt0 := off.isLt
  exact word32 henc (by omega) (by omega)

theorem Encoding.jrJump (a : Src) : Statement (.jrJump a) := by
  intro nbits word henc
  have lt0 := src_code_lt a
  exact word32 henc (by omega) (by omega)

theorem Encoding.jrCall (a : Src) : Statement (.jrCall a) := by
  intro nbits word henc
  have lt0 := src_code_lt a
  exact word32 henc (by omega) (by omega)

theorem Encoding.jrRet : Statement .jrRet := by
  intro nbits word henc
  exact word32 henc (by omega) (by omega)

theorem Encoding.loopSet (k : Fin 2) (a : Fin 16) (stop : BitVec 15) : Statement (.loopSet k a stop) := by
  intro nbits word henc
  have lt0 := k.isLt
  have lt1 := a.isLt
  have lt2 := stop.isLt
  exact word32 henc (by omega) (by omega)

theorem Encoding.gets (d : Dst) (num : BitVec 12) : Statement (.gets d num) := by
  intro nbits word henc
  have lt0 := dst_code_lt d
  have lt1 := num.isLt
  exact word32 henc (by omega) (by omega)

theorem Encoding.sets (a : Src) (num : BitVec 12) : Statement (.sets a num) := by
  intro nbits word henc
  have lt0 := src_code_lt a
  have lt1 := num.isLt
  exact word32 henc (by omega) (by omega)

theorem Encoding.trap (a : Src) (code : BitVec 12) : Statement (.trap a code) := by
  intro nbits word henc
  have lt0 := src_code_lt a
  have lt1 := code.isLt
  exact word32 henc (by omega) (by omega)

theorem Encoding.rte : Statement .rte := by
  intro nbits word henc
  exact word32 henc (by omega) (by omega)

theorem Encoding.brk (a : Src) (code : BitVec 12) : Statement (.brk a code) := by
  intro nbits word henc
  have lt0 := src_code_lt a
  have lt1 := code.isLt
  exact word32 henc (by omega) (by omega)

theorem Encoding.sysc (a : Src) (code : BitVec 12) : Statement (.sysc a code) := by
  intro nbits word henc
  have lt0 := src_code_lt a
  have lt1 := code.isLt
  exact word32 henc (by omega) (by omega)

theorem Encoding.yieldPt (index : BitVec 12) : Statement (.yieldPt index) := by
  intro nbits word henc
  have lt0 := index.isLt
  exact word32 henc (by omega) (by omega)

theorem Encoding.ld (sz : LdSize) (acq : Bool) (d : Dst) (base : Src) (off : BitVec 7) (la : Fin 16) : Statement (.ld sz acq d base off la) := by
  intro nbits word henc
  have lt0 := ldSize_code_lt sz
  have lt1 := Bool.toNat_lt acq
  have lt2 := dst_code_lt d
  have lt3 := src_code_lt base
  have lt4 := off.isLt
  have lt5 := la.isLt
  exact word32 henc (by omega) (by omega)

theorem Encoding.st (sz : StSize) (rel : Bool) (data : Src) (base : Src) (off : BitVec 7) : Statement (.st sz rel data base off) := by
  intro nbits word henc
  have lt0 := stSize_code_lt sz
  have lt1 := Bool.toNat_lt rel
  have lt2 := src_code_lt data
  have lt3 := src_code_lt base
  have lt4 := off.isLt
  exact word32 henc (by omega) (by omega)

theorem Encoding.amoAdd (wide : Bool) (acq : Bool) (rel : Bool) (d : Dst) (a : Fin 16) (b : Src) (la : Fin 16) : Statement (.amoAdd wide acq rel d a b la) := by
  intro nbits word henc
  have lt0 := Bool.toNat_lt wide
  have lt1 := Bool.toNat_lt acq
  have lt2 := Bool.toNat_lt rel
  have lt3 := dst_code_lt d
  have lt4 := a.isLt
  have lt5 := src_code_lt b
  have lt6 := la.isLt
  exact word32 henc (by omega) (by omega)

theorem Encoding.amoAnd (wide : Bool) (acq : Bool) (rel : Bool) (d : Dst) (a : Fin 16) (b : Src) (la : Fin 16) : Statement (.amoAnd wide acq rel d a b la) := by
  intro nbits word henc
  have lt0 := Bool.toNat_lt wide
  have lt1 := Bool.toNat_lt acq
  have lt2 := Bool.toNat_lt rel
  have lt3 := dst_code_lt d
  have lt4 := a.isLt
  have lt5 := src_code_lt b
  have lt6 := la.isLt
  exact word32 henc (by omega) (by omega)

theorem Encoding.amoOr (wide : Bool) (acq : Bool) (rel : Bool) (d : Dst) (a : Fin 16) (b : Src) (la : Fin 16) : Statement (.amoOr wide acq rel d a b la) := by
  intro nbits word henc
  have lt0 := Bool.toNat_lt wide
  have lt1 := Bool.toNat_lt acq
  have lt2 := Bool.toNat_lt rel
  have lt3 := dst_code_lt d
  have lt4 := a.isLt
  have lt5 := src_code_lt b
  have lt6 := la.isLt
  exact word32 henc (by omega) (by omega)

theorem Encoding.amoXor (wide : Bool) (acq : Bool) (rel : Bool) (d : Dst) (a : Fin 16) (b : Src) (la : Fin 16) : Statement (.amoXor wide acq rel d a b la) := by
  intro nbits word henc
  have lt0 := Bool.toNat_lt wide
  have lt1 := Bool.toNat_lt acq
  have lt2 := Bool.toNat_lt rel
  have lt3 := dst_code_lt d
  have lt4 := a.isLt
  have lt5 := src_code_lt b
  have lt6 := la.isLt
  exact word32 henc (by omega) (by omega)

theorem Encoding.amoMin (wide : Bool) (acq : Bool) (rel : Bool) (d : Dst) (a : Fin 16) (b : Src) (la : Fin 16) : Statement (.amoMin wide acq rel d a b la) := by
  intro nbits word henc
  have lt0 := Bool.toNat_lt wide
  have lt1 := Bool.toNat_lt acq
  have lt2 := Bool.toNat_lt rel
  have lt3 := dst_code_lt d
  have lt4 := a.isLt
  have lt5 := src_code_lt b
  have lt6 := la.isLt
  exact word32 henc (by omega) (by omega)

theorem Encoding.amoMax (wide : Bool) (acq : Bool) (rel : Bool) (d : Dst) (a : Fin 16) (b : Src) (la : Fin 16) : Statement (.amoMax wide acq rel d a b la) := by
  intro nbits word henc
  have lt0 := Bool.toNat_lt wide
  have lt1 := Bool.toNat_lt acq
  have lt2 := Bool.toNat_lt rel
  have lt3 := dst_code_lt d
  have lt4 := a.isLt
  have lt5 := src_code_lt b
  have lt6 := la.isLt
  exact word32 henc (by omega) (by omega)

theorem Encoding.amoMinu (wide : Bool) (acq : Bool) (rel : Bool) (d : Dst) (a : Fin 16) (b : Src) (la : Fin 16) : Statement (.amoMinu wide acq rel d a b la) := by
  intro nbits word henc
  have lt0 := Bool.toNat_lt wide
  have lt1 := Bool.toNat_lt acq
  have lt2 := Bool.toNat_lt rel
  have lt3 := dst_code_lt d
  have lt4 := a.isLt
  have lt5 := src_code_lt b
  have lt6 := la.isLt
  exact word32 henc (by omega) (by omega)

theorem Encoding.amoMaxu (wide : Bool) (acq : Bool) (rel : Bool) (d : Dst) (a : Fin 16) (b : Src) (la : Fin 16) : Statement (.amoMaxu wide acq rel d a b la) := by
  intro nbits word henc
  have lt0 := Bool.toNat_lt wide
  have lt1 := Bool.toNat_lt acq
  have lt2 := Bool.toNat_lt rel
  have lt3 := dst_code_lt d
  have lt4 := a.isLt
  have lt5 := src_code_lt b
  have lt6 := la.isLt
  exact word32 henc (by omega) (by omega)

theorem Encoding.amoSwap (wide : Bool) (acq : Bool) (rel : Bool) (d : Dst) (a : Fin 16) (b : Src) (la : Fin 16) : Statement (.amoSwap wide acq rel d a b la) := by
  intro nbits word henc
  have lt0 := Bool.toNat_lt wide
  have lt1 := Bool.toNat_lt acq
  have lt2 := Bool.toNat_lt rel
  have lt3 := dst_code_lt d
  have lt4 := a.isLt
  have lt5 := src_code_lt b
  have lt6 := la.isLt
  exact word32 henc (by omega) (by omega)

theorem Encoding.amoCas (wide : Bool) (acq : Bool) (rel : Bool) (d : Fin 16) (a : Fin 16) (b : Src) (la : Fin 16) : Statement (.amoCas wide acq rel d a b la) := by
  intro nbits word henc
  have lt0 := Bool.toNat_lt wide
  have lt1 := Bool.toNat_lt acq
  have lt2 := Bool.toNat_lt rel
  have lt3 := d.isLt
  have lt4 := a.isLt
  have lt5 := src_code_lt b
  have lt6 := la.isLt
  exact word32 henc (by omega) (by omega)

theorem Encoding.waita (d : Dst) (a : Src) (b : Src) : Statement (.waita d a b) := by
  intro nbits word henc
  have lt0 := dst_code_lt d
  have lt1 := src_code_lt a
  have lt2 := src_code_lt b
  exact word32 henc (by omega) (by omega)

theorem Encoding.waitp (d : Dst) (a : Src) : Statement (.waitp d a) := by
  intro nbits word henc
  have lt0 := dst_code_lt d
  have lt1 := src_code_lt a
  exact word32 henc (by omega) (by omega)

theorem Encoding.park (d : Dst) (a : Src) (b : Src) : Statement (.park d a b) := by
  intro nbits word henc
  have lt0 := dst_code_lt d
  have lt1 := src_code_lt a
  have lt2 := src_code_lt b
  exact word32 henc (by omega) (by omega)

theorem Encoding.region : Statement .region := by
  intro nbits word henc
  exact word32 henc (by omega) (by omega)

theorem Encoding.commit : Statement .commit := by
  intro nbits word henc
  exact word32 henc (by omega) (by omega)

theorem Encoding.flushr (a : Src) (b : Src) : Statement (.flushr a b) := by
  intro nbits word henc
  have lt0 := src_code_lt a
  have lt1 := src_code_lt b
  exact word32 henc (by omega) (by omega)

theorem Encoding.invr (a : Src) (b : Src) : Statement (.invr a b) := by
  intro nbits word henc
  have lt0 := src_code_lt a
  have lt1 := src_code_lt b
  exact word32 henc (by omega) (by omega)

theorem Encoding.pref (a : Src) : Statement (.pref a) := by
  intro nbits word henc
  have lt0 := src_code_lt a
  exact word32 henc (by omega) (by omega)

theorem Encoding.fence (kind : FenceKind) : Statement (.fence kind) := by
  intro nbits word henc
  have lt0 := fenceKind_code_lt kind
  exact word32 henc (by omega) (by omega)

theorem Encoding.spark (a : Src) (b : Src) : Statement (.spark a b) := by
  intro nbits word henc
  have lt0 := src_code_lt a
  have lt1 := src_code_lt b
  exact word32 henc (by omega) (by omega)

theorem Encoding.frame (d : Dst) (a : Src) (b : Src) : Statement (.frame d a b) := by
  intro nbits word henc
  have lt0 := dst_code_lt d
  have lt1 := src_code_lt a
  have lt2 := src_code_lt b
  exact word32 henc (by omega) (by omega)

theorem Encoding.migrAddr (d : Dst) (a : Src) : Statement (.migrAddr d a) := by
  intro nbits word henc
  have lt0 := dst_code_lt d
  have lt1 := src_code_lt a
  exact word32 henc (by omega) (by omega)

theorem Encoding.migrTile (d : Dst) (a : Src) : Statement (.migrTile d a) := by
  intro nbits word henc
  have lt0 := dst_code_lt d
  have lt1 := src_code_lt a
  exact word32 henc (by omega) (by omega)

theorem Encoding.exit : Statement .exit := by
  intro nbits word henc
  exact word32 henc (by omega) (by omega)

theorem Encoding.send (reg : Fin 16) (a : Src) (b : Src) : Statement (.send reg a b) := by
  intro nbits word henc
  have lt0 := reg.isLt
  have lt1 := src_code_lt a
  have lt2 := src_code_lt b
  exact word32 henc (by omega) (by omega)

theorem Encoding.vtget (d : Dst) : Statement (.vtget d) := by
  intro nbits word henc
  have lt0 := dst_code_lt d
  exact word32 henc (by omega) (by omega)

theorem Encoding.vtset (d : Dst) (a : Src) : Statement (.vtset d a) := by
  intro nbits word henc
  have lt0 := dst_code_lt d
  have lt1 := src_code_lt a
  exact word32 henc (by omega) (by omega)

theorem Encoding.announce (a : Src) : Statement (.announce a) := by
  intro nbits word henc
  have lt0 := src_code_lt a
  exact word32 henc (by omega) (by omega)

theorem Encoding.sendt (a : Src) (b : Src) : Statement (.sendt a b) := by
  intro nbits word henc
  have lt0 := src_code_lt a
  have lt1 := src_code_lt b
  exact word32 henc (by omega) (by omega)

theorem Encoding.wAdd (ty : LaneTy) (m : Fin 8) (d : Fin 8) (a : Fin 8) (b : Fin 8) : Statement (.wAdd ty m d a b) := by
  intro nbits word henc
  have lt0 := laneTy_code_lt ty
  have lt1 := m.isLt
  have lt2 := d.isLt
  have lt3 := a.isLt
  have lt4 := b.isLt
  exact word32 henc (by omega) (by omega)

theorem Encoding.wSub (ty : LaneTy) (m : Fin 8) (d : Fin 8) (a : Fin 8) (b : Fin 8) : Statement (.wSub ty m d a b) := by
  intro nbits word henc
  have lt0 := laneTy_code_lt ty
  have lt1 := m.isLt
  have lt2 := d.isLt
  have lt3 := a.isLt
  have lt4 := b.isLt
  exact word32 henc (by omega) (by omega)

theorem Encoding.wRsub (ty : LaneTy) (m : Fin 8) (d : Fin 8) (a : Fin 8) (b : Fin 8) : Statement (.wRsub ty m d a b) := by
  intro nbits word henc
  have lt0 := laneTy_code_lt ty
  have lt1 := m.isLt
  have lt2 := d.isLt
  have lt3 := a.isLt
  have lt4 := b.isLt
  exact word32 henc (by omega) (by omega)

theorem Encoding.wMul (ty : LaneTy) (m : Fin 8) (d : Fin 8) (a : Fin 8) (b : Fin 8) : Statement (.wMul ty m d a b) := by
  intro nbits word henc
  have lt0 := laneTy_code_lt ty
  have lt1 := m.isLt
  have lt2 := d.isLt
  have lt3 := a.isLt
  have lt4 := b.isLt
  exact word32 henc (by omega) (by omega)

theorem Encoding.wMac (ty : LaneTy) (m : Fin 8) (d : Fin 8) (a : Fin 8) (b : Fin 8) : Statement (.wMac ty m d a b) := by
  intro nbits word henc
  have lt0 := laneTy_code_lt ty
  have lt1 := m.isLt
  have lt2 := d.isLt
  have lt3 := a.isLt
  have lt4 := b.isLt
  exact word32 henc (by omega) (by omega)

theorem Encoding.wMin (ty : LaneTy) (m : Fin 8) (d : Fin 8) (a : Fin 8) (b : Fin 8) : Statement (.wMin ty m d a b) := by
  intro nbits word henc
  have lt0 := laneTy_code_lt ty
  have lt1 := m.isLt
  have lt2 := d.isLt
  have lt3 := a.isLt
  have lt4 := b.isLt
  exact word32 henc (by omega) (by omega)

theorem Encoding.wMax (ty : LaneTy) (m : Fin 8) (d : Fin 8) (a : Fin 8) (b : Fin 8) : Statement (.wMax ty m d a b) := by
  intro nbits word henc
  have lt0 := laneTy_code_lt ty
  have lt1 := m.isLt
  have lt2 := d.isLt
  have lt3 := a.isLt
  have lt4 := b.isLt
  exact word32 henc (by omega) (by omega)

theorem Encoding.wAnd (ty : LaneTy) (m : Fin 8) (d : Fin 8) (a : Fin 8) (b : Fin 8) : Statement (.wAnd ty m d a b) := by
  intro nbits word henc
  have lt0 := laneTy_code_lt ty
  have lt1 := m.isLt
  have lt2 := d.isLt
  have lt3 := a.isLt
  have lt4 := b.isLt
  exact word32 henc (by omega) (by omega)

theorem Encoding.wOr (ty : LaneTy) (m : Fin 8) (d : Fin 8) (a : Fin 8) (b : Fin 8) : Statement (.wOr ty m d a b) := by
  intro nbits word henc
  have lt0 := laneTy_code_lt ty
  have lt1 := m.isLt
  have lt2 := d.isLt
  have lt3 := a.isLt
  have lt4 := b.isLt
  exact word32 henc (by omega) (by omega)

theorem Encoding.wXor (ty : LaneTy) (m : Fin 8) (d : Fin 8) (a : Fin 8) (b : Fin 8) : Statement (.wXor ty m d a b) := by
  intro nbits word henc
  have lt0 := laneTy_code_lt ty
  have lt1 := m.isLt
  have lt2 := d.isLt
  have lt3 := a.isLt
  have lt4 := b.isLt
  exact word32 henc (by omega) (by omega)

theorem Encoding.wAndn (ty : LaneTy) (m : Fin 8) (d : Fin 8) (a : Fin 8) (b : Fin 8) : Statement (.wAndn ty m d a b) := by
  intro nbits word henc
  have lt0 := laneTy_code_lt ty
  have lt1 := m.isLt
  have lt2 := d.isLt
  have lt3 := a.isLt
  have lt4 := b.isLt
  exact word32 henc (by omega) (by omega)

theorem Encoding.wShl (ty : LaneTy) (m : Fin 8) (d : Fin 8) (a : Fin 8) (b : Fin 8) : Statement (.wShl ty m d a b) := by
  intro nbits word henc
  have lt0 := laneTy_code_lt ty
  have lt1 := m.isLt
  have lt2 := d.isLt
  have lt3 := a.isLt
  have lt4 := b.isLt
  exact word32 henc (by omega) (by omega)

theorem Encoding.wShr (ty : LaneTy) (m : Fin 8) (d : Fin 8) (a : Fin 8) (b : Fin 8) : Statement (.wShr ty m d a b) := by
  intro nbits word henc
  have lt0 := laneTy_code_lt ty
  have lt1 := m.isLt
  have lt2 := d.isLt
  have lt3 := a.isLt
  have lt4 := b.isLt
  exact word32 henc (by omega) (by omega)

theorem Encoding.wMov (ty : LaneTy) (m : Fin 8) (d : Fin 8) (b : Fin 8) : Statement (.wMov ty m d b) := by
  intro nbits word henc
  have lt0 := laneTy_code_lt ty
  have lt1 := m.isLt
  have lt2 := d.isLt
  have lt3 := b.isLt
  exact word32 henc (by omega) (by omega)

theorem Encoding.wAbs (ty : LaneTy) (m : Fin 8) (d : Fin 8) (b : Fin 8) : Statement (.wAbs ty m d b) := by
  intro nbits word henc
  have lt0 := laneTy_code_lt ty
  have lt1 := m.isLt
  have lt2 := d.isLt
  have lt3 := b.isLt
  exact word32 henc (by omega) (by omega)

theorem Encoding.wNeg (ty : LaneTy) (m : Fin 8) (d : Fin 8) (b : Fin 8) : Statement (.wNeg ty m d b) := by
  intro nbits word henc
  have lt0 := laneTy_code_lt ty
  have lt1 := m.isLt
  have lt2 := d.isLt
  have lt3 := b.isLt
  exact word32 henc (by omega) (by omega)

theorem Encoding.wFma (ty : LaneTy) (m : Fin 8) (d : Fin 8) (a : Fin 8) (b : Fin 8) (c : Fin 8) : Statement (.wFma ty m d a b c) := by
  intro nbits word henc
  have lt0 := laneTy_code_lt ty
  have lt1 := m.isLt
  have lt2 := d.isLt
  have lt3 := a.isLt
  have lt4 := b.isLt
  have lt5 := c.isLt
  exact word32 henc (by omega) (by omega)

theorem Encoding.wSel (ty : LaneTy) (m : Fin 8) (d : Fin 8) (a : Fin 8) (b : Fin 8) : Statement (.wSel ty m d a b) := by
  intro nbits word henc
  have lt0 := laneTy_code_lt ty
  have lt1 := m.isLt
  have lt2 := d.isLt
  have lt3 := a.isLt
  have lt4 := b.isLt
  exact word32 henc (by omega) (by omega)

theorem Encoding.l16Add (ty : L16Ty) (m : Fin 8) (d : Fin 8) (s : Fin 8) : Statement (.l16Add ty m d s) := by
  intro nbits word henc
  have lt0 := l16Ty_code_lt ty
  have lt1 := m.isLt
  have lt2 := d.isLt
  have lt3 := s.isLt
  exact word16 henc (by omega) (by omega)

theorem Encoding.l16Sub (ty : L16Ty) (m : Fin 8) (d : Fin 8) (s : Fin 8) : Statement (.l16Sub ty m d s) := by
  intro nbits word henc
  have lt0 := l16Ty_code_lt ty
  have lt1 := m.isLt
  have lt2 := d.isLt
  have lt3 := s.isLt
  exact word16 henc (by omega) (by omega)

theorem Encoding.l16Rsub (ty : L16Ty) (m : Fin 8) (d : Fin 8) (s : Fin 8) : Statement (.l16Rsub ty m d s) := by
  intro nbits word henc
  have lt0 := l16Ty_code_lt ty
  have lt1 := m.isLt
  have lt2 := d.isLt
  have lt3 := s.isLt
  exact word16 henc (by omega) (by omega)

theorem Encoding.l16Mul (ty : L16Ty) (m : Fin 8) (d : Fin 8) (s : Fin 8) : Statement (.l16Mul ty m d s) := by
  intro nbits word henc
  have lt0 := l16Ty_code_lt ty
  have lt1 := m.isLt
  have lt2 := d.isLt
  have lt3 := s.isLt
  exact word16 henc (by omega) (by omega)

theorem Encoding.l16Mac (ty : L16Ty) (m : Fin 8) (d : Fin 8) (s : Fin 8) : Statement (.l16Mac ty m d s) := by
  intro nbits word henc
  have lt0 := l16Ty_code_lt ty
  have lt1 := m.isLt
  have lt2 := d.isLt
  have lt3 := s.isLt
  exact word16 henc (by omega) (by omega)

theorem Encoding.l16Min (ty : L16Ty) (m : Fin 8) (d : Fin 8) (s : Fin 8) : Statement (.l16Min ty m d s) := by
  intro nbits word henc
  have lt0 := l16Ty_code_lt ty
  have lt1 := m.isLt
  have lt2 := d.isLt
  have lt3 := s.isLt
  exact word16 henc (by omega) (by omega)

theorem Encoding.l16Max (ty : L16Ty) (m : Fin 8) (d : Fin 8) (s : Fin 8) : Statement (.l16Max ty m d s) := by
  intro nbits word henc
  have lt0 := l16Ty_code_lt ty
  have lt1 := m.isLt
  have lt2 := d.isLt
  have lt3 := s.isLt
  exact word16 henc (by omega) (by omega)

theorem Encoding.l16And (ty : L16Ty) (m : Fin 8) (d : Fin 8) (s : Fin 8) : Statement (.l16And ty m d s) := by
  intro nbits word henc
  have lt0 := l16Ty_code_lt ty
  have lt1 := m.isLt
  have lt2 := d.isLt
  have lt3 := s.isLt
  exact word16 henc (by omega) (by omega)

theorem Encoding.l16Or (ty : L16Ty) (m : Fin 8) (d : Fin 8) (s : Fin 8) : Statement (.l16Or ty m d s) := by
  intro nbits word henc
  have lt0 := l16Ty_code_lt ty
  have lt1 := m.isLt
  have lt2 := d.isLt
  have lt3 := s.isLt
  exact word16 henc (by omega) (by omega)

theorem Encoding.l16Xor (ty : L16Ty) (m : Fin 8) (d : Fin 8) (s : Fin 8) : Statement (.l16Xor ty m d s) := by
  intro nbits word henc
  have lt0 := l16Ty_code_lt ty
  have lt1 := m.isLt
  have lt2 := d.isLt
  have lt3 := s.isLt
  exact word16 henc (by omega) (by omega)

theorem Encoding.l16Andn (ty : L16Ty) (m : Fin 8) (d : Fin 8) (s : Fin 8) : Statement (.l16Andn ty m d s) := by
  intro nbits word henc
  have lt0 := l16Ty_code_lt ty
  have lt1 := m.isLt
  have lt2 := d.isLt
  have lt3 := s.isLt
  exact word16 henc (by omega) (by omega)

theorem Encoding.l16Shl (ty : L16Ty) (m : Fin 8) (d : Fin 8) (s : Fin 8) : Statement (.l16Shl ty m d s) := by
  intro nbits word henc
  have lt0 := l16Ty_code_lt ty
  have lt1 := m.isLt
  have lt2 := d.isLt
  have lt3 := s.isLt
  exact word16 henc (by omega) (by omega)

theorem Encoding.l16Shr (ty : L16Ty) (m : Fin 8) (d : Fin 8) (s : Fin 8) : Statement (.l16Shr ty m d s) := by
  intro nbits word henc
  have lt0 := l16Ty_code_lt ty
  have lt1 := m.isLt
  have lt2 := d.isLt
  have lt3 := s.isLt
  exact word16 henc (by omega) (by omega)

theorem Encoding.l16Mov (ty : L16Ty) (m : Fin 8) (d : Fin 8) (s : Fin 8) : Statement (.l16Mov ty m d s) := by
  intro nbits word henc
  have lt0 := l16Ty_code_lt ty
  have lt1 := m.isLt
  have lt2 := d.isLt
  have lt3 := s.isLt
  exact word16 henc (by omega) (by omega)

theorem Encoding.l16Abs (ty : L16Ty) (m : Fin 8) (d : Fin 8) (s : Fin 8) : Statement (.l16Abs ty m d s) := by
  intro nbits word henc
  have lt0 := l16Ty_code_lt ty
  have lt1 := m.isLt
  have lt2 := d.isLt
  have lt3 := s.isLt
  exact word16 henc (by omega) (by omega)

theorem Encoding.l16Neg (ty : L16Ty) (m : Fin 8) (d : Fin 8) (s : Fin 8) : Statement (.l16Neg ty m d s) := by
  intro nbits word henc
  have lt0 := l16Ty_code_lt ty
  have lt1 := m.isLt
  have lt2 := d.isLt
  have lt3 := s.isLt
  exact word16 henc (by omega) (by omega)

theorem Encoding.wmathExp2 (ty : LaneTy) (m : Fin 8) (d : Fin 8) (b : Fin 8) : Statement (.wmathExp2 ty m d b) := by
  intro nbits word henc
  have lt0 := laneTy_code_lt ty
  have lt1 := m.isLt
  have lt2 := d.isLt
  have lt3 := b.isLt
  exact word32 henc (by omega) (by omega)

theorem Encoding.wmathLog2 (ty : LaneTy) (m : Fin 8) (d : Fin 8) (b : Fin 8) : Statement (.wmathLog2 ty m d b) := by
  intro nbits word henc
  have lt0 := laneTy_code_lt ty
  have lt1 := m.isLt
  have lt2 := d.isLt
  have lt3 := b.isLt
  exact word32 henc (by omega) (by omega)

theorem Encoding.wmathRecip (ty : LaneTy) (m : Fin 8) (d : Fin 8) (b : Fin 8) : Statement (.wmathRecip ty m d b) := by
  intro nbits word henc
  have lt0 := laneTy_code_lt ty
  have lt1 := m.isLt
  have lt2 := d.isLt
  have lt3 := b.isLt
  exact word32 henc (by omega) (by omega)

theorem Encoding.wmathRsqrt (ty : LaneTy) (m : Fin 8) (d : Fin 8) (b : Fin 8) : Statement (.wmathRsqrt ty m d b) := by
  intro nbits word henc
  have lt0 := laneTy_code_lt ty
  have lt1 := m.isLt
  have lt2 := d.isLt
  have lt3 := b.isLt
  exact word32 henc (by omega) (by omega)

theorem Encoding.wmathTanh (ty : LaneTy) (m : Fin 8) (d : Fin 8) (b : Fin 8) : Statement (.wmathTanh ty m d b) := by
  intro nbits word henc
  have lt0 := laneTy_code_lt ty
  have lt1 := m.isLt
  have lt2 := d.isLt
  have lt3 := b.isLt
  exact word32 henc (by omega) (by omega)

theorem Encoding.wmathRsum (ty : LaneTy) (m : Fin 8) (d : Fin 8) (b : Fin 8) : Statement (.wmathRsum ty m d b) := by
  intro nbits word henc
  have lt0 := laneTy_code_lt ty
  have lt1 := m.isLt
  have lt2 := d.isLt
  have lt3 := b.isLt
  exact word32 henc (by omega) (by omega)

theorem Encoding.wmathRmax (ty : LaneTy) (m : Fin 8) (d : Fin 8) (b : Fin 8) : Statement (.wmathRmax ty m d b) := by
  intro nbits word henc
  have lt0 := laneTy_code_lt ty
  have lt1 := m.isLt
  have lt2 := d.isLt
  have lt3 := b.isLt
  exact word32 henc (by omega) (by omega)

theorem Encoding.wmathScan (ty : LaneTy) (m : Fin 8) (d : Fin 8) (b : Fin 8) : Statement (.wmathScan ty m d b) := by
  intro nbits word henc
  have lt0 := laneTy_code_lt ty
  have lt1 := m.isLt
  have lt2 := d.isLt
  have lt3 := b.isLt
  exact word32 henc (by omega) (by omega)

theorem Encoding.wmathPerm (ty : LaneTy) (m : Fin 8) (d : Fin 8) (a : Fin 8) (b : Fin 8) : Statement (.wmathPerm ty m d a b) := by
  intro nbits word henc
  have lt0 := laneTy_code_lt ty
  have lt1 := m.isLt
  have lt2 := d.isLt
  have lt3 := a.isLt
  have lt4 := b.isLt
  exact word32 henc (by omega) (by omega)

theorem Encoding.wmaskEq (ty : LaneTy) (m : Fin 8) (d : Fin 8) (a : Fin 8) (b : Fin 8) : Statement (.wmaskEq ty m d a b) := by
  intro nbits word henc
  have lt0 := laneTy_code_lt ty
  have lt1 := m.isLt
  have lt2 := d.isLt
  have lt3 := a.isLt
  have lt4 := b.isLt
  exact word32 henc (by omega) (by omega)

theorem Encoding.wmaskLt (ty : LaneTy) (m : Fin 8) (d : Fin 8) (a : Fin 8) (b : Fin 8) : Statement (.wmaskLt ty m d a b) := by
  intro nbits word henc
  have lt0 := laneTy_code_lt ty
  have lt1 := m.isLt
  have lt2 := d.isLt
  have lt3 := a.isLt
  have lt4 := b.isLt
  exact word32 henc (by omega) (by omega)

theorem Encoding.wmaskLe (ty : LaneTy) (m : Fin 8) (d : Fin 8) (a : Fin 8) (b : Fin 8) : Statement (.wmaskLe ty m d a b) := by
  intro nbits word henc
  have lt0 := laneTy_code_lt ty
  have lt1 := m.isLt
  have lt2 := d.isLt
  have lt3 := a.isLt
  have lt4 := b.isLt
  exact word32 henc (by omega) (by omega)

theorem Encoding.wmaskAnd (m : Fin 8) (d : Fin 8) (a : Fin 8) (b : Fin 8) : Statement (.wmaskAnd m d a b) := by
  intro nbits word henc
  have lt0 := m.isLt
  have lt1 := d.isLt
  have lt2 := a.isLt
  have lt3 := b.isLt
  exact word32 henc (by omega) (by omega)

theorem Encoding.wmaskOr (m : Fin 8) (d : Fin 8) (a : Fin 8) (b : Fin 8) : Statement (.wmaskOr m d a b) := by
  intro nbits word henc
  have lt0 := m.isLt
  have lt1 := d.isLt
  have lt2 := a.isLt
  have lt3 := b.isLt
  exact word32 henc (by omega) (by omega)

theorem Encoding.wmaskXor (m : Fin 8) (d : Fin 8) (a : Fin 8) (b : Fin 8) : Statement (.wmaskXor m d a b) := by
  intro nbits word henc
  have lt0 := m.isLt
  have lt1 := d.isLt
  have lt2 := a.isLt
  have lt3 := b.isLt
  exact word32 henc (by omega) (by omega)

theorem Encoding.wmoveBcast (m : Fin 8) (a : Src) (b : Fin 8) : Statement (.wmoveBcast m a b) := by
  intro nbits word henc
  have lt0 := m.isLt
  have lt1 := src_code_lt a
  have lt2 := b.isLt
  exact word32 henc (by omega) (by omega)

theorem Encoding.wmoveExt (d : Dst) (a : Src) (b : Fin 8) : Statement (.wmoveExt d a b) := by
  intro nbits word henc
  have lt0 := dst_code_lt d
  have lt1 := src_code_lt a
  have lt2 := b.isLt
  exact word32 henc (by omega) (by omega)

theorem Encoding.wmoveTrld (m : Fin 8) (a : Src) (b : Fin 8) : Statement (.wmoveTrld m a b) := by
  intro nbits word henc
  have lt0 := m.isLt
  have lt1 := src_code_lt a
  have lt2 := b.isLt
  exact word32 henc (by omega) (by omega)

theorem Encoding.wmoveTrst (m : Fin 8) (a : Src) (b : Fin 8) : Statement (.wmoveTrst m a b) := by
  intro nbits word henc
  have lt0 := m.isLt
  have lt1 := src_code_lt a
  have lt2 := b.isLt
  exact word32 henc (by omega) (by omega)

theorem Encoding.wmoveMpop (m : Fin 8) (d : Dst) : Statement (.wmoveMpop m d) := by
  intro nbits word henc
  have lt0 := m.isLt
  have lt1 := dst_code_lt d
  exact word32 henc (by omega) (by omega)

theorem Encoding.wcvtUp (ty : LaneTy) (m : Fin 8) (d : Fin 8) (a : Fin 8) (b : Fin 8) : Statement (.wcvtUp ty m d a b) := by
  intro nbits word henc
  have lt0 := laneTy_code_lt ty
  have lt1 := m.isLt
  have lt2 := d.isLt
  have lt3 := a.isLt
  have lt4 := b.isLt
  exact word32 henc (by omega) (by omega)

theorem Encoding.wcvtDown (ty : LaneTy) (m : Fin 8) (d : Fin 8) (a : Fin 8) (b : Fin 8) : Statement (.wcvtDown ty m d a b) := by
  intro nbits word henc
  have lt0 := laneTy_code_lt ty
  have lt1 := m.isLt
  have lt2 := d.isLt
  have lt3 := a.isLt
  have lt4 := b.isLt
  exact word32 henc (by omega) (by omega)

theorem Encoding.wcvtDownsat (ty : LaneTy) (m : Fin 8) (d : Fin 8) (a : Fin 8) (b : Fin 8) : Statement (.wcvtDownsat ty m d a b) := by
  intro nbits word henc
  have lt0 := laneTy_code_lt ty
  have lt1 := m.isLt
  have lt2 := d.isLt
  have lt3 := a.isLt
  have lt4 := b.isLt
  exact word32 henc (by omega) (by omega)

theorem Encoding.wcvtToint (ty : LaneTy) (m : Fin 8) (d : Fin 8) (a : Fin 8) (b : Fin 8) : Statement (.wcvtToint ty m d a b) := by
  intro nbits word henc
  have lt0 := laneTy_code_lt ty
  have lt1 := m.isLt
  have lt2 := d.isLt
  have lt3 := a.isLt
  have lt4 := b.isLt
  exact word32 henc (by omega) (by omega)

theorem Encoding.wcvtFromint (ty : LaneTy) (m : Fin 8) (d : Fin 8) (a : Fin 8) (b : Fin 8) : Statement (.wcvtFromint ty m d a b) := by
  intro nbits word henc
  have lt0 := laneTy_code_lt ty
  have lt1 := m.isLt
  have lt2 := d.isLt
  have lt3 := a.isLt
  have lt4 := b.isLt
  exact word32 henc (by omega) (by omega)

theorem Encoding.wsampTopk (m : Fin 8) (d : Fin 8) (a : Fin 8) (b : Fin 8) : Statement (.wsampTopk m d a b) := by
  intro nbits word henc
  have lt0 := m.isLt
  have lt1 := d.isLt
  have lt2 := a.isLt
  have lt3 := b.isLt
  exact word32 henc (by omega) (by omega)

theorem Encoding.wsampCbg (m : Fin 8) (d : Fin 8) (a : Fin 8) (b : Fin 8) : Statement (.wsampCbg m d a b) := by
  intro nbits word henc
  have lt0 := m.isLt
  have lt1 := d.isLt
  have lt2 := a.isLt
  have lt3 := b.isLt
  exact word32 henc (by omega) (by omega)

theorem Encoding.wsampDraw (m : Fin 8) (d : Fin 8) (a : Fin 8) (b : Fin 8) : Statement (.wsampDraw m d a b) := by
  intro nbits word henc
  have lt0 := m.isLt
  have lt1 := d.isLt
  have lt2 := a.isLt
  have lt3 := b.isLt
  exact word32 henc (by omega) (by omega)

theorem Encoding.wsampPick (m : Fin 8) (d : Fin 8) (a : Fin 8) (b : Fin 8) : Statement (.wsampPick m d a b) := by
  intro nbits word henc
  have lt0 := m.isLt
  have lt1 := d.isLt
  have lt2 := a.isLt
  have lt3 := b.isLt
  exact word32 henc (by omega) (by omega)

theorem Encoding.talloc (nw : Src) (h : Fin 64) : Statement (.talloc nw h) := by
  intro nbits word henc
  have lt0 := src_code_lt nw
  have lt1 := h.isLt
  exact word32 henc (by omega) (by omega)

theorem Encoding.tfree (h : Fin 64) : Statement (.tfree h) := by
  intro nbits word henc
  have lt0 := h.isLt
  exact word32 henc (by omega) (by omega)

theorem Encoding.tld (nw : Src) (ha : Fin 64) (hb : Fin 64) (la : Fin 16) : Statement (.tld nw ha hb la) := by
  intro nbits word henc
  have lt0 := src_code_lt nw
  have lt1 := ha.isLt
  have lt2 := hb.isLt
  have lt3 := la.isLt
  exact word32 henc (by omega) (by omega)

theorem Encoding.tst (nw : Src) (h : Fin 64) : Statement (.tst nw h) := by
  intro nbits word henc
  have lt0 := src_code_lt nw
  have lt1 := h.isLt
  exact word32 henc (by omega) (by omega)

theorem Encoding.tzero (nw : Src) (h : Fin 64) : Statement (.tzero nw h) := by
  intro nbits word henc
  have lt0 := src_code_lt nw
  have lt1 := h.isLt
  exact word32 henc (by omega) (by omega)

theorem Encoding.cload (nw : Src) (ha : Fin 64) (hb : Fin 64) (la : Fin 16) : Statement (.cload nw ha hb la) := by
  intro nbits word henc
  have lt0 := src_code_lt nw
  have lt1 := ha.isLt
  have lt2 := hb.isLt
  have lt3 := la.isLt
  exact word32 henc (by omega) (by omega)

theorem Encoding.cpass (nw : Src) (ha : Fin 64) (hb : Fin 64) (la : Fin 16) : Statement (.cpass nw ha hb la) := by
  intro nbits word henc
  have lt0 := src_code_lt nw
  have lt1 := ha.isLt
  have lt2 := hb.isLt
  have lt3 := la.isLt
  exact word32 henc (by omega) (by omega)

theorem Encoding.cdrain (nw : Src) (ha : Fin 64) (hb : Fin 64) (la : Fin 16) : Statement (.cdrain nw ha hb la) := by
  intro nbits word henc
  have lt0 := src_code_lt nw
  have lt1 := ha.isLt
  have lt2 := hb.isLt
  have lt3 := la.isLt
  exact word32 henc (by omega) (by omega)

theorem Encoding.czero (nw : Src) (ha : Fin 64) (la : Fin 16) : Statement (.czero nw ha la) := by
  intro nbits word henc
  have lt0 := src_code_lt nw
  have lt1 := ha.isLt
  have lt2 := la.isLt
  exact word32 henc (by omega) (by omega)

theorem Encoding.canvasxLoad (nw : Src) (ha : Fin 64) (hb : Fin 64) (la : Fin 16) : Statement (.canvasxLoad nw ha hb la) := by
  intro nbits word henc
  have lt0 := src_code_lt nw
  have lt1 := ha.isLt
  have lt2 := hb.isLt
  have lt3 := la.isLt
  exact word32 henc (by omega) (by omega)

theorem Encoding.canvasxPass (nw : Src) (ha : Fin 64) (hb : Fin 64) (la : Fin 16) : Statement (.canvasxPass nw ha hb la) := by
  intro nbits word henc
  have lt0 := src_code_lt nw
  have lt1 := ha.isLt
  have lt2 := hb.isLt
  have lt3 := la.isLt
  exact word32 henc (by omega) (by omega)

theorem Encoding.cpyIn (d : Dst) (a : Src) (h : Fin 64) (la : Fin 16) : Statement (.cpyIn d a h la) := by
  intro nbits word henc
  have lt0 := dst_code_lt d
  have lt1 := src_code_lt a
  have lt2 := h.isLt
  have lt3 := la.isLt
  exact word32 henc (by omega) (by omega)

theorem Encoding.cpyOut (d : Dst) (a : Src) (h : Fin 64) (la : Fin 16) : Statement (.cpyOut d a h la) := by
  intro nbits word henc
  have lt0 := dst_code_lt d
  have lt1 := src_code_lt a
  have lt2 := h.isLt
  have lt3 := la.isLt
  exact word32 henc (by omega) (by omega)

theorem Encoding.gath (d : Dst) (a : Src) (h : Fin 64) (la : Fin 16) : Statement (.gath d a h la) := by
  intro nbits word henc
  have lt0 := dst_code_lt d
  have lt1 := src_code_lt a
  have lt2 := h.isLt
  have lt3 := la.isLt
  exact word32 henc (by omega) (by omega)

theorem Encoding.scat (d : Dst) (a : Src) (h : Fin 64) (la : Fin 16) : Statement (.scat d a h la) := by
  intro nbits word henc
  have lt0 := dst_code_lt d
  have lt1 := src_code_lt a
  have lt2 := h.isLt
  have lt3 := la.isLt
  exact word32 henc (by omega) (by omega)

theorem Encoding.coll (d : Dst) (a : Src) (h : Fin 64) (la : Fin 16) : Statement (.coll d a h la) := by
  intro nbits word henc
  have lt0 := dst_code_lt d
  have lt1 := src_code_lt a
  have lt2 := h.isLt
  have lt3 := la.isLt
  exact word32 henc (by omega) (by omega)

theorem Encoding.weir (d : Dst) (a : Src) (h : Fin 64) (la : Fin 16) : Statement (.weir d a h la) := by
  intro nbits word henc
  have lt0 := dst_code_lt d
  have lt1 := src_code_lt a
  have lt2 := h.isLt
  have lt3 := la.isLt
  exact word32 henc (by omega) (by omega)

theorem Encoding.barm (a : Src) (b : Fin 16) : Statement (.barm a b) := by
  intro nbits word henc
  have lt0 := src_code_lt a
  have lt1 := b.isLt
  exact word32 henc (by omega) (by omega)

theorem Encoding.barrClaim (d : Dst) (a : Src) (b : Fin 16) : Statement (.barrClaim d a b) := by
  intro nbits word henc
  have lt0 := dst_code_lt d
  have lt1 := src_code_lt a
  have lt2 := b.isLt
  exact word32 henc (by omega) (by omega)

theorem Encoding.bwait (b : Fin 16) : Statement (.bwait b) := by
  intro nbits word henc
  have lt0 := b.isLt
  exact word32 henc (by omega) (by omega)

theorem Encoding.engxDmard (d : Dst) (a : Src) (b : Src) : Statement (.engxDmard d a b) := by
  intro nbits word henc
  have lt0 := dst_code_lt d
  have lt1 := src_code_lt a
  have lt2 := src_code_lt b
  exact word32 henc (by omega) (by omega)

theorem Encoding.engxDmawr (d : Dst) (a : Src) (b : Src) : Statement (.engxDmawr d a b) := by
  intro nbits word henc
  have lt0 := dst_code_lt d
  have lt1 := src_code_lt a
  have lt2 := src_code_lt b
  exact word32 henc (by omega) (by omega)

theorem Encoding.engxMbox (a : Src) : Statement (.engxMbox a) := by
  intro nbits word henc
  have lt0 := src_code_lt a
  exact word32 henc (by omega) (by omega)

theorem Encoding.engxKwait : Statement .engxKwait := by
  intro nbits word henc
  exact word32 henc (by omega) (by omega)

theorem Encoding.engxGcmkey (a : Src) : Statement (.engxGcmkey a) := by
  intro nbits word henc
  have lt0 := src_code_lt a
  exact word32 henc (by omega) (by omega)

theorem Encoding.engxGcmenc (d : Dst) (a : Src) (b : Src) : Statement (.engxGcmenc d a b) := by
  intro nbits word henc
  have lt0 := dst_code_lt d
  have lt1 := src_code_lt a
  have lt2 := src_code_lt b
  exact word32 henc (by omega) (by omega)

theorem Encoding.engxGcmdec (d : Dst) (a : Src) (b : Src) : Statement (.engxGcmdec d a b) := by
  intro nbits word henc
  have lt0 := dst_code_lt d
  have lt1 := src_code_lt a
  have lt2 := src_code_lt b
  exact word32 henc (by omega) (by omega)

theorem Encoding.tlbinv (a : Src) (b : Src) : Statement (.tlbinv a b) := by
  intro nbits word henc
  have lt0 := src_code_lt a
  have lt1 := src_code_lt b
  exact word32 henc (by omega) (by omega)

theorem Encoding.genscrub (d : Dst) (a : Src) : Statement (.genscrub d a) := by
  intro nbits word henc
  have lt0 := dst_code_lt d
  have lt1 := src_code_lt a
  exact word32 henc (by omega) (by omega)

theorem Encoding.qown (d : Dst) (a : Src) (b : Src) : Statement (.qown d a b) := by
  intro nbits word henc
  have lt0 := dst_code_lt d
  have lt1 := src_code_lt a
  have lt2 := src_code_lt b
  exact word32 henc (by omega) (by omega)

theorem Encoding.halt (a : Src) (b : Src) : Statement (.halt a b) := by
  intro nbits word henc
  have lt0 := src_code_lt a
  have lt1 := src_code_lt b
  exact word32 henc (by omega) (by omega)

theorem Encoding.stoprec (d : Dst) (a : Src) : Statement (.stoprec d a) := by
  intro nbits word henc
  have lt0 := dst_code_lt d
  have lt1 := src_code_lt a
  exact word32 henc (by omega) (by omega)

theorem Encoding.cctl (a : Src) (b : Src) : Statement (.cctl a b) := by
  intro nbits word henc
  have lt0 := src_code_lt a
  have lt1 := src_code_lt b
  exact word32 henc (by omega) (by omega)

theorem Encoding.pset (a : Src) (b : Src) : Statement (.pset a b) := by
  intro nbits word henc
  have lt0 := src_code_lt a
  have lt1 := src_code_lt b
  exact word32 henc (by omega) (by omega)

theorem Encoding.creationMessage (x0 : CreMsg) : Statement (.creationMessage x0) := fun _ _ h => nomatch h

theorem Encoding.contextScrubComplete (x0 : Fin 64) (x1 : Fin 4) : Statement (.contextScrubComplete x0 x1) := fun _ _ h => nomatch h

theorem Encoding.contextFreeNotice (x0 : Mailed (Fin 64)) (x1 : Fin 4) : Statement (.contextFreeNotice x0 x1) := fun _ _ h => nomatch h

theorem Encoding.resendTimeout (x0 : Fin 64) (x1 : Fin 4) : Statement (.resendTimeout x0 x1) := fun _ _ h => nomatch h

theorem Encoding.refusalRelease (x0 : Mailed (Fin 64)) (x1 : Fin 4) : Statement (.refusalRelease x0 x1) := fun _ _ h => nomatch h

theorem Encoding.refusedResend (x0 : Fin 64) (x1 : Fin 4) : Statement (.refusedResend x0 x1) := fun _ _ h => nomatch h

theorem Encoding.migrQuery (x0 : Mailed StrandId) (x1 : Fin 64) : Statement (.migrQuery x0 x1) := fun _ _ h => nomatch h

theorem Encoding.migrQueryAnswer (x0 : Mailed StrandId) : Statement (.migrQueryAnswer x0) := fun _ _ h => nomatch h

theorem Encoding.migrationImage (x0 : MigrMsg) : Statement (.migrationImage x0) := fun _ _ h => nomatch h

theorem Encoding.targetAnswer (x0 : Mailed Sender) (x1 : Answer) : Statement (.targetAnswer x0 x1) := fun _ _ h => nomatch h

theorem Encoding.deposit (x0 : DepMsg) : Statement (.deposit x0) := fun _ _ h => nomatch h

theorem Encoding.coreSelect (x0 : Fin 64) (x1 : Fin 4) : Statement (.coreSelect x0 x1) := fun _ _ h => nomatch h

theorem Encoding.clockAnnouncement (x0 : Mailed (Fin 64)) (x1 : Fin 4) (x2 : Fin 8) (x3 : Word) : Statement (.clockAnnouncement x0 x1 x2 x3) := fun _ _ h => nomatch h

theorem Encoding.nullEvent (x0 : Mailed (Fin 64)) (x1 : Fin 4) (x2 : Fin 8) (x3 : Word) : Statement (.nullEvent x0 x1 x2 x3) := fun _ _ h => nomatch h

theorem Encoding.stampedEvent (x0 : CreMsg) : Statement (.stampedEvent x0) := fun _ _ h => nomatch h

theorem Encoding.eventStart (x0 : Fin 64) (x1 : Fin 4) : Statement (.eventStart x0 x1) := fun _ _ h => nomatch h

theorem Encoding.nullRound (x0 : Fin 64) (x1 : Fin 4) : Statement (.nullRound x0 x1) := fun _ _ h => nomatch h

theorem Encoding.easelGrant (x0 : Fin 64) : Statement (.easelGrant x0) := fun _ _ h => nomatch h

theorem Encoding.easelSubunitComplete (x0 : Fin 64) (x1 : SubUnit) : Statement (.easelSubunitComplete x0 x1) := fun _ _ h => nomatch h

theorem Encoding.scoreboardEntryComplete (x0 : Fin 64) (x1 : Nat) : Statement (.scoreboardEntryComplete x0 x1) := fun _ _ h => nomatch h

theorem Encoding.tileScrubSweepComplete (x0 : Fin 64) : Statement (.tileScrubSweepComplete x0) := fun _ _ h => nomatch h

theorem Encoding.genscrubComplete (x0 : Fin 64) : Statement (.genscrubComplete x0) := fun _ _ h => nomatch h

theorem Encoding.collectiveMatch (x0 : LaunchId) (x1 : Word) : Statement (.collectiveMatch x0 x1) := fun _ _ h => nomatch h

theorem Encoding.promiseDue (x0 : Agent) : Statement (.promiseDue x0) := fun _ _ h => nomatch h

theorem Encoding.monitorFire (x0 : Nat) : Statement (.monitorFire x0) := fun _ _ h => nomatch h

theorem Encoding.parkDeadline (x0 : Agent) : Statement (.parkDeadline x0) := fun _ _ h => nomatch h

theorem Encoding.regionBufferDrain (x0 : Agent) : Statement (.regionBufferDrain x0) := fun _ _ h => nomatch h

theorem Encoding.walkMonitorFire (x0 : Nat) : Statement (.walkMonitorFire x0) := fun _ _ h => nomatch h

theorem Encoding.pageRequestResponse : Statement .pageRequestResponse := fun _ _ h => nomatch h

theorem Encoding.granq0Read : Statement .granq0Read := fun _ _ h => nomatch h

theorem Encoding.granrespWalkAgain : Statement .granrespWalkAgain := fun _ _ h => nomatch h

theorem Encoding.granrespRefuse : Statement .granrespRefuse := fun _ _ h => nomatch h

theorem Encoding.atsInvalidation : Statement .atsInvalidation := fun _ _ h => nomatch h

theorem Encoding.engineStop (x0 : Engine) : Statement (.engineStop x0) := fun _ _ h => nomatch h

theorem Encoding.containmentWalk (x0 : Fin 64) : Statement (.containmentWalk x0) := fun _ _ h => nomatch h

theorem Encoding.haltctlHoldSet (x0 : Fin 64) : Statement (.haltctlHoldSet x0) := fun _ _ h => nomatch h

theorem Encoding.haltctlHoldClear (x0 : Fin 64) : Statement (.haltctlHoldClear x0) := fun _ _ h => nomatch h

theorem Encoding.chlaWrite (x0 : Fin 64) (x1 : Fin 4) (x2 : Fin 8) (x3 : Word) : Statement (.chlaWrite x0 x1 x2 x3) := fun _ _ h => nomatch h

theorem Encoding.preemptionDeadline (x0 : Fin 16) : Statement (.preemptionDeadline x0) := fun _ _ h => nomatch h

theorem Encoding.saveComplete (x0 : Fin 16) : Statement (.saveComplete x0) := fun _ _ h => nomatch h

theorem Encoding.restore (x0 : Fin 16) : Statement (.restore x0) := fun _ _ h => nomatch h

theorem Encoding.debugResume (x0 : Agent) : Statement (.debugResume x0) := fun _ _ h => nomatch h

theorem Encoding.kick (x0 : Fin 4096) (x1 : BitVec 32) : Statement (.kick x0 x1) := fun _ _ h => nomatch h

theorem Encoding.cancelGraph (x0 : Fin 4096) : Statement (.cancelGraph x0) := fun _ _ h => nomatch h

theorem Encoding.cancelPhase (x0 : Fin 4096) : Statement (.cancelPhase x0) := fun _ _ h => nomatch h

theorem Encoding.cancelJob (x0 : Fin 4096) : Statement (.cancelJob x0) := fun _ _ h => nomatch h

theorem Encoding.packetRead (x0 : Fin 16) : Statement (.packetRead x0) := fun _ _ h => nomatch h

theorem Encoding.pktNop : Statement .pktNop := fun _ _ h => nomatch h

theorem Encoding.pktDispatch : Statement .pktDispatch := fun _ _ h => nomatch h

theorem Encoding.pktDelta : Statement .pktDelta := fun _ _ h => nomatch h

theorem Encoding.pktIbcall : Statement .pktIbcall := fun _ _ h => nomatch h

theorem Encoding.pktPred : Statement .pktPred := fun _ _ h => nomatch h

theorem Encoding.pktLoop : Statement .pktLoop := fun _ _ h => nomatch h

theorem Encoding.pktFfence : Statement .pktFfence := fun _ _ h => nomatch h

theorem Encoding.pktSignal : Statement .pktSignal := fun _ _ h => nomatch h

theorem Encoding.pktWaitmem : Statement .pktWaitmem := fun _ _ h => nomatch h

theorem Encoding.levelGraph : Statement .levelGraph := fun _ _ h => nomatch h

theorem Encoding.levelPhase : Statement .levelPhase := fun _ _ h => nomatch h

theorem Encoding.levelJob : Statement .levelJob := fun _ _ h => nomatch h

theorem Encoding.levelCancel : Statement .levelCancel := fun _ _ h => nomatch h

theorem Encoding.launchDistribution (x0 : LaunchId) : Statement (.launchDistribution x0) := fun _ _ h => nomatch h

theorem Encoding.launchComplete (x0 : LaunchId) : Statement (.launchComplete x0) := fun _ _ h => nomatch h

theorem Encoding.slotSelection : Statement .slotSelection := fun _ _ h => nomatch h

theorem Encoding.ageingInterval (x0 : Fin 16) : Statement (.ageingInterval x0) := fun _ _ h => nomatch h

theorem Encoding.quantumExpiry (x0 : Fin 16) : Statement (.quantumExpiry x0) := fun _ _ h => nomatch h

theorem Encoding.sctlMap (x0 : Fin 16) (x1 : Fin 4096) : Statement (.sctlMap x0 x1) := fun _ _ h => nomatch h

theorem Encoding.sctlUnmap (x0 : Fin 16) : Statement (.sctlUnmap x0) := fun _ _ h => nomatch h

theorem Encoding.unmapComplete (x0 : Fin 16) : Statement (.unmapComplete x0) := fun _ _ h => nomatch h

theorem Encoding.sctlReset (x0 : Fin 16) : Statement (.sctlReset x0) := fun _ _ h => nomatch h

theorem Encoding.queueResetComplete (x0 : Fin 16) : Statement (.queueResetComplete x0) := fun _ _ h => nomatch h

theorem Encoding.biascmdGo (x0 : BitVec 36) (x1 : Bool) : Statement (.biascmdGo x0 x1) := fun _ _ h => nomatch h

theorem Encoding.biasFlipComplete (x0 : BitVec 36) (x1 : Bool) : Statement (.biasFlipComplete x0 x1) := fun _ _ h => nomatch h

theorem Encoding.hostCxlMemRequest : Statement .hostCxlMemRequest := fun _ _ h => nomatch h

theorem Encoding.hostSnoop : Statement .hostSnoop := fun _ _ h => nomatch h

theorem Encoding.lockInterface : Statement .lockInterface := fun _ _ h => nomatch h

theorem Encoding.startInterface : Statement .startInterface := fun _ _ h => nomatch h

theorem Encoding.stopInterface : Statement .stopInterface := fun _ _ h => nomatch h

theorem Encoding.releaseSequenceComplete (x0 : Fin 64) : Statement (.releaseSequenceComplete x0) := fun _ _ h => nomatch h

theorem Encoding.ideIntegrityFailure : Statement .ideIntegrityFailure := fun _ _ h => nomatch h

theorem Encoding.getVersion : Statement .getVersion := fun _ _ h => nomatch h

theorem Encoding.getCapabilities : Statement .getCapabilities := fun _ _ h => nomatch h

theorem Encoding.negotiateAlgorithms : Statement .negotiateAlgorithms := fun _ _ h => nomatch h

theorem Encoding.getDigests : Statement .getDigests := fun _ _ h => nomatch h

theorem Encoding.getCertificate : Statement .getCertificate := fun _ _ h => nomatch h

theorem Encoding.challenge : Statement .challenge := fun _ _ h => nomatch h

theorem Encoding.getMeasurements : Statement .getMeasurements := fun _ _ h => nomatch h

theorem Encoding.keyExchange : Statement .keyExchange := fun _ _ h => nomatch h

theorem Encoding.finish : Statement .finish := fun _ _ h => nomatch h

theorem Encoding.heartbeat : Statement .heartbeat := fun _ _ h => nomatch h

theorem Encoding.keyUpdate : Statement .keyUpdate := fun _ _ h => nomatch h

theorem Encoding.endSession : Statement .endSession := fun _ _ h => nomatch h

theorem Encoding.setCertificate : Statement .setCertificate := fun _ _ h => nomatch h

theorem Encoding.certRewriteTimeout : Statement .certRewriteTimeout := fun _ _ h => nomatch h

theorem Encoding.setCopyKey : Statement .setCopyKey := fun _ _ h => nomatch h

theorem Encoding.setDebugConsent : Statement .setDebugConsent := fun _ _ h => nomatch h

theorem Encoding.stageUpdate : Statement .stageUpdate := fun _ _ h => nomatch h

theorem Encoding.activationRequest : Statement .activationRequest := fun _ _ h => nomatch h

theorem Encoding.acknowledgeStaged : Statement .acknowledgeStaged := fun _ _ h => nomatch h

theorem Encoding.liveUpdateTakeover : Statement .liveUpdateTakeover := fun _ _ h => nomatch h

theorem Encoding.standbyFailure : Statement .standbyFailure := fun _ _ h => nomatch h

theorem Encoding.coldReset : Statement .coldReset := fun _ _ h => nomatch h

theorem Encoding.warmReset : Statement .warmReset := fun _ _ h => nomatch h

theorem Encoding.linkReset : Statement .linkReset := fun _ _ h => nomatch h

theorem Encoding.clockStep : Statement .clockStep := fun _ _ h => nomatch h

theorem Encoding.drowsyEntry (x0 : Fin 64) : Statement (.drowsyEntry x0) := fun _ _ h => nomatch h

theorem Encoding.drowsyWake (x0 : Fin 64) : Statement (.drowsyWake x0) := fun _ _ h => nomatch h

theorem Encoding.evlogRead : Statement .evlogRead := fun _ _ h => nomatch h

theorem Encoding.registerWrite : Statement .registerWrite := fun _ _ h => nomatch h

theorem Encoding.longLatencyCompletion (x0 : Agent) : Statement (.longLatencyCompletion x0) := fun _ _ h => nomatch h

theorem Encoding.cacheMaintenanceComplete (x0 : Agent) : Statement (.cacheMaintenanceComplete x0) := fun _ _ h => nomatch h

theorem Encoding.commandComplexFailure : Statement .commandComplexFailure := fun _ _ h => nomatch h

theorem Encoding.ideKeyManagement : Statement .ideKeyManagement := fun _ _ h => nomatch h

end Sys2Proof.Laws
end

