-- ==== Sys2Proof/Laws/Trap.lean ====
section
/-! SUPPORT. What taking a recoverable trap does, and what each way of not completing comes to (R203, R365, R366). -/

namespace Sys2Proof.Machine

/-- The context that takes a trap (R203). -/
theorem enterTrap_ctx (a : Agent) (cause : Nat) (v ret : Word) (s : State) :
    (enterTrap a cause v ret s).ctx a =
      { s.ctx a with
        sp := { (s.ctx a).sp with trapc := BitVec.ofNat 8 cause, trapv := v, trappc := ret, intrap := true }
        arch := { (s.ctx a).arch with sact := (s.ctx a).arch.act, act := 0, pc := s.traph a } } := by
  simp only [enterTrap, traceIf_ctx, State.ctx_updCtx_same]

/-- A trap leaves every other context. -/
theorem enterTrap_other {a b : Agent} (h : b ≠ a) (cause : Nat) (v ret : Word) (s : State) :
    (enterTrap a cause v ret s).ctx b = s.ctx b := by
  simp only [enterTrap, traceIf_ctx, State.ctx_updCtx_ne _ _ h]

/-- A form that traps commits what came before it, and answers a next state in which the trap is taken: the trap frame and the
PC are as R203 says, and every other register is as the commit left it. Under a single step the strand stops besides, unless the
trap is LATE. -/
theorem stopped_trap (a : Agent) (cause : Nat) (v ret : Word) (s : State) :
    ∃ u, stopped a (.trap cause v ret) s = .next u ∧
      u.arch a = { (commitAll a s).arch a with
        sact := ((commitAll a s).arch a).act, act := 0, pc := (commitAll a s).traph a } ∧
      (u.ctx a).sp.trapc = BitVec.ofNat 8 cause ∧ (u.ctx a).sp.trapv = v ∧ (u.ctx a).sp.trappc = ret ∧
      (u.ctx a).sp.intrap = true ∧ (u.ctx a).gen = (s.ctx a).gen ∧ (u.ctx a).displaced = none ∧ (u.ctx a).fl.wins = [] ∧
      ∀ b, b ≠ a → u.ctx b = s.ctx b := by
  have k := commitAll_committed a s
  refine ⟨_, rfl, ?_⟩
  split
  · refine ⟨?_, ?_, ?_, ?_, ?_, ?_, ?_, ?_, ?_⟩
    case refine_9 =>
      intro b hb
      rw [parkAgent_ctx, if_neg hb]
      simp only [State.updSpec, State.ctx_updCtx_ne _ _ hb, enterTrap_other hb, k.other b hb]
    case refine_6 => simpa [parkAgent_ctx, State.updSpec, enterTrap_ctx] using k.own.gen
    all_goals simp [State.arch, parkAgent_ctx, State.updSpec, enterTrap_ctx]
  · refine ⟨?_, ?_, ?_, ?_, ?_, ?_, ?_, ?_, ?_⟩
    case refine_9 =>
      intro b hb
      simp only [State.ctx_updCtx_ne _ _ hb, enterTrap_other hb, k.other b hb]
    case refine_6 => simpa [enterTrap_ctx] using k.own.gen
    all_goals simp [State.arch, enterTrap_ctx]

/-- A form that parks: what came before it is committed, and the agent waits. -/
theorem stopped_park (a : Agent) (w : Why) (s : State) :
    ∃ u, stopped a (.park w) s = .next u ∧ (u.ctx a).st = .parked ∧ (u.ctx a).why = some w ∧
      u.arch a = (commitAll a s).arch a ∧ ∀ b, b ≠ a → u.ctx b = s.ctx b := by
  refine ⟨_, rfl, ?_, ?_, ?_, ?_⟩
  · simp [parkAgent_ctx]
  · simp [parkAgent_ctx]
  · simp
  · intro b hb
    rw [parkAgent_ctx, if_neg hb]
    exact (commitAll_committed a s).other b hb

/-- A form that parks with an effect of its own in `t`: the agent waits, its registers as they stand in `t`. -/
theorem stopped_hold (a : Agent) (w : Why) (s t : State) :
    ∃ u, stopped a (.hold w t) s = .next u ∧ (u.ctx a).st = .parked ∧ (u.ctx a).why = some w ∧ u.arch a = t.arch a ∧
      u.xl = (parkAgent a w (keepWindows a s t)).xl := by
  refine ⟨_, rfl, ?_, ?_, ?_, rfl⟩
  · simp [parkAgent_ctx]
  · simp [parkAgent_ctx]
  · simp [keepWindows]

/-- A form that does not complete stays in the machine: only an address that no register names ends the run. -/
theorem stopped_next (a : Agent) (e : Stop) (s : State) (h : ∀ n, e ≠ .noAddress n) : ∃ u, stopped a e s = .next u := by
  cases e with
  | noAddress n => exact absurd rfl (h n)
  | absent g k ea => simp only [stopped]; split <;> exact ⟨_, rfl⟩
  | granule g k => simp only [stopped]; split <;> exact ⟨_, rfl⟩
  | _ => exact ⟨_, rfl⟩

end Sys2Proof.Machine
end

