-- ==== Sys2Proof/Tests/Slice0.lean ====
section
/-! SUPPORT. Tests: terms that the well-formedness check refuses, words written out from the encodings of spec/06, the
effect of single instructions against values worked out from the rules, and for each statement states that meet its
hypotheses. -/

namespace Sys2Proof.Tests

open Sys2Proof.Machine Sys2Proof.Safety

set_option maxRecDepth 8000
set_option linter.unusedTactic false
set_option linter.unreachableTactic false
set_option exponentiation.threshold 600

/-- What decides that nothing stands in an instruction's way. -/
theorem quiet_of {i : Instr} {a : Agent} {s : State}
    (h : (mayIssue s a = true ∧ dispatchHolds s a (shapeOf i) = false ∧ classStop (Agent.cls a) (shapeOf i).major (isQown i) = none) ∧
      (s.ctx a).fl.wins = [] ∧ (s.ctx a).fl.pend = [] ∧ (s.ctx a).sp.inregion = false ∧ regionRefused (s.ctx a) = none)
    (triggers : pcTrigger s a = (s, false)) : Quiet i a s :=
  ⟨h.1.1, h.1.2.1, h.1.2.2, h.2.1, h.2.2.1, h.2.2.2.1, h.2.2.2.2, triggers⟩

theorem given1 {t : State} {a : Agent} {f : Src} {x : Word} (h : (t.ctx a).latch = none) (hx : Reads t a f x) : Given t a [(f, x)] :=
  .inl ⟨h, by simp [hx]⟩

theorem given2 {t : State} {a : Agent} {f g : Src} {x y : Word} (h : (t.ctx a).latch = none) (hx : Reads t a f x)
    (hy : Reads t a g y) : Given t a [(f, x), (g, y)] := .inl ⟨h, by simp [hx, hy]⟩

/-! ## Ill-formed terms -/

theorem test_wf_bits : (Instr.bitsExt (.n 0) (.n 0) 60 4).wf = false ∧ (Instr.bitsExt (.n 0) (.n 0) 60 3).wf = true ∧
    (Instr.bitsExtu .drop (.q 0) 63 1).wf = false ∧ (Instr.bitsIns 3 (.n 0) 1 63).wf = false := by decide
theorem test_wf_loop : (Instr.loopSet 0 3 1).wf = false ∧ (Instr.loopSet 0 3 2).wf = true := by decide
theorem test_wf_lane_arith : (Instr.wAdd .s8 0 1 2 3).wf = false ∧ (Instr.wMac .bs12 0 1 2 3).wf = false ∧
    (Instr.wFma .e4m3 0 1 2 3 4).wf = false ∧ (Instr.wSel .s4 0 1 2 3).wf = false ∧ (Instr.wAdd .f16 0 1 2 3).wf = true := by decide
theorem test_wf_lane_int : (Instr.wShl .f32 0 1 2 3).wf = false ∧ (Instr.wShr .bf16 0 1 2 3).wf = false ∧
    (Instr.l16Shl .f32 0 1 2).wf = false ∧ (Instr.l16Shr .bf16 0 1 2).wf = false ∧ (Instr.wShl .z16 0 1 2 3).wf = true := by decide
theorem test_wf_lane_signed : (Instr.wAbs .z32 0 1 2).wf = false ∧ (Instr.wNeg .z16 0 1 2).wf = false ∧
    (Instr.wNeg .s16 0 1 2).wf = true := by decide
theorem test_wf_l16_zero : (Instr.l16Add .f32 0 0 0).wf = false ∧ (Instr.l16Add .bf16 0 0 0).wf = true := by decide
theorem test_wf_wmath : (Instr.wmathExp2 .f16 0 1 2).wf = false ∧ (Instr.wmathTanh .s32 0 1 2).wf = false ∧
    (Instr.wmathRsum .z8 0 1 2).wf = false ∧ (Instr.wmathPerm .s16 0 1 2 3).wf = false := by decide
theorem test_wf_wmask : (Instr.wmaskEq .bf16 0 1 2 3).wf = false ∧ (Instr.wmaskLe .s16 0 1 2 3).wf = false := by decide
theorem test_wf_wcvt : (Instr.wcvtUp .f32 0 1 2 3).wf = false ∧ (Instr.wcvtDownsat .s8 0 1 2 3).wf = false ∧
    (Instr.wcvtToint .f16 0 1 2 3).wf = false ∧ (Instr.wcvtFromint .bf16 0 1 2 3).wf = false := by decide

/-! ## Words written out from the encodings (R157 to R168, R175) -/

theorem test_decode_alu_sub : decodeTableWord 32 0b0000_000001_11111_01111_10000_000000_1 =
    some (.aluSub .push (.n 15) (.q 15)) := by decide
theorem test_decode_mul_rem : decodeTableWord 32 0b1111_000101_00110_00101_00100_000001_1 =
    some (.mulRem (.n 4) (.n 5) (.n 6) 15) := by decide
theorem test_decode_addi : decodeTableWord 32 0b111111111111111_00011_11111_000010_1 =
    some (.addi .drop (.n 3) 0x7FFF) := by decide
theorem test_decode_xori : decodeTableWord 32 0b100000000000001_00010_00001_000101_1 =
    some (.xori (.n 1) (.n 2) 0x4001) := by decide
theorem test_decode_shi_sra : decodeTableWord 32 0b000000010111111_00001_00000_000110_1 =
    some (.shiSra (.n 0) (.n 1) 63) := by decide
theorem test_decode_cmpi_ltu : decodeTableWord 32 0b100000000001100_01001_01000_000111_1 =
    some (.cmpi .ltu (.n 8) (.n 9) 0x801) := by decide
theorem test_decode_lui : decodeTableWord 32 0b10000000000000000001_00111_001000_1 =
    some (.lui (.n 7) 0x80001) := by decide
theorem test_decode_auipc : decodeTableWord 32 0b00000000000000000001_00111_001001_1 =
    some (.auipc (.n 7) 1) := by decide
theorem test_decode_bits_ins : decodeTableWord 32 0b010011111100000_10010_00101_001010_1 =
    some (.bitsIns 5 (.q 2) 32 31) := by decide
theorem test_decode_fpu_cvtf : decodeTableWord 32 0b0000_000110_00000_00010_00001_001011_1 =
    some (.fpuCvtf (.n 1) (.n 2)) := by decide
theorem test_decode_fpl_fma : decodeTableWord 32 0b0001_000010_00011_00010_00001_001100_1 =
    some (.fplFma 1 (.n 2) (.n 3) 1) := by decide
theorem test_decode_br_geu : decodeTableWord 32 0b100000000000_101_00010_10001_010000_1 =
    some (.br .geu (.q 1) (.n 2) 0x800) := by decide
theorem test_decode_jal_call : decodeTableWord 32 0b11111111111111111111_01110_010001_1 =
    some (.jalCall 0xFFFFF) := by decide
theorem test_decode_jr_ret : decodeTableWord 32 0b0000_000010_00000_00000_00000_010010_1 =
    some (.jrRet) := by decide
theorem test_decode_loop : decodeTableWord 32 0b000000000000010_01100_00001_010011_1 =
    some (.loopSet 1 12 2) := by decide
theorem test_decode_sys_sets : decodeTableWord 32 0b001000000011001_00110_00000_010100_1 =
    some (.sets (.n 6) 0x019) := by decide
theorem test_decode_sys_rte : decodeTableWord 32 0b011000000000000_00000_00000_010100_1 =
    some (.rte) := by decide
theorem test_decode_yield : decodeTableWord 32 0b000111111111111_00000_00000_010101_1 =
    some (.yieldPt 0xFFF) := by decide
theorem test_decode_ld : decodeTableWord 32 0b0010_1000000_1_110_01111_00011_011000_1 =
    some (.ld .d64 true (.n 3) (.n 15) 0x40 2) := by decide
theorem test_decode_st : decodeTableWord 32 0b0000_0111111_1_100_00010_10001_011001_1 =
    some (.st .b4 true (.q 1) (.n 2) 0x3F) := by decide
theorem test_decode_amo_swap : decodeTableWord 32 0b0001_0_1_1000_00110_1_1001_00101_011010_1 =
    some (.amoSwap true false true (.n 5) 9 (.n 6) 1) := by decide
theorem test_decode_wait_a : decodeTableWord 32 0b0000_000000_00011_00010_00001_011011_1 =
    some (.waita (.n 1) (.n 2) (.n 3)) := by decide
theorem test_decode_region_commit : decodeTableWord 32 0b0000_000001_00000_00000_00000_011100_1 =
    some (.commit) := by decide
theorem test_decode_cache_fence : decodeTableWord 32 0b0000_000011_00010_00000_00000_011101_1 =
    some (.fence .rel) := by decide
theorem test_decode_cache_invr : decodeTableWord 32 0b0000_000001_00101_00100_00000_011101_1 =
    some (.invr (.n 4) (.n 5)) := by decide
theorem test_decode_msg_send : decodeTableWord 32 0b0000_011101_00101_00100_00000_011110_1 =
    some (.send 13 (.n 4) (.n 5)) := by decide
theorem test_decode_msg_exit : decodeTableWord 32 0b0000_000100_00000_00000_00000_011110_1 =
    some (.exit) := by decide
theorem test_decode_ltm_vtset : decodeTableWord 32 0b0000_000001_00000_00010_00001_011111_1 =
    some (.vtset (.n 1) (.n 2)) := by decide
theorem test_decode_w_sel : decodeTableWord 32 0b000_010001_0000_101_010_011_100_100000_1 =
    some (.wSel .f32 5 4 3 2) := by decide
theorem test_decode_w_shr : decodeTableWord 32 0b000_001100_0011_001_010_011_100_100000_1 =
    some (.wShr .s16 1 4 3 2) := by decide
theorem test_decode_wmath_perm : decodeTableWord 32 0b000_001000_0100_111_001_010_011_100001_1 =
    some (.wmathPerm .z32 7 3 2 1) := by decide
theorem test_decode_wmask_and : decodeTableWord 32 0b000_000011_0000_111_110_101_100_100010_1 =
    some (.wmaskAnd 7 4 5 6) := by decide
theorem test_decode_wmove_trst : decodeTableWord 32 0b0000_110_011_00_101_00010_00000_100011_1 =
    some (.wmoveTrst 6 (.n 2) 5) := by decide
theorem test_decode_wcvt_downsat : decodeTableWord 32 0b000_000010_1001_001_010_011_100_100100_1 =
    some (.wcvtDownsat .e4m3 1 4 3 2) := by decide
theorem test_decode_wsamp_cbg : decodeTableWord 32 0b000_000001_0100_000_010_011_100_100101_1 =
    some (.wsampCbg 0 4 3 2) := by decide
theorem test_decode_tile_alloc : decodeTableWord 32 0b0000_0000_000000_111111_00010_101000_1 =
    some (.talloc (.n 2) 63) := by decide
theorem test_decode_tile_ld : decodeTableWord 32 0b0100_0010_000001_000010_00011_101000_1 =
    some (.tld (.n 3) 2 1 4) := by decide
theorem test_decode_canvas_pass : decodeTableWord 32 0b0001_0001_100001_100010_00101_101001_1 =
    some (.cpass (.n 5) 34 33 1) := by decide
theorem test_decode_eng_coll : decodeTableWord 32 0b0011_00100_101000_00010_00001_101010_1 =
    some (.coll (.n 1) (.n 2) 40 3) := by decide
theorem test_decode_barr_claim : decodeTableWord 32 0b0000_000001_01111_00010_00001_101011_1 =
    some (.barrClaim (.n 1) (.n 2) 15) := by decide
theorem test_decode_engx_gcmdec : decodeTableWord 32 0b0000_000110_00011_00010_00001_110000_1 =
    some (.engxGcmdec (.n 1) (.n 2) (.n 3)) := by decide
theorem test_decode_priv_pset : decodeTableWord 32 0b0000_000110_00011_00010_00000_110001_1 =
    some (.pset (.n 2) (.n 3)) := by decide
theorem test_decode_canvasx_load : decodeTableWord 32 0b0000_0000_000001_000010_00011_110010_1 =
    some (.canvasxLoad (.n 3) 2 1 0) := by decide
theorem test_decode_l16_shl : decodeTableWord 16 0b001_11_010_100_1011_0 =
    some (.l16Shl .s16 1 4 2) := by decide
theorem test_decode_l16_neg : decodeTableWord 16 0b111_01_110_101_1111_0 =
    some (.l16Neg .bf16 7 5 6) := by decide
theorem test_refuse_zero_halfword : decodeTableWord 16 0b000_00_000_000_0000_0 = none := by decide
theorem test_refuse_l16_shl_float : decodeTableWord 16 0b001_00_010_100_1011_0 = none := by decide
theorem test_refuse_reserved_major : decodeTableWord 32 0b0000_000000_00000_00000_00000_001101_1 = none := by decide
theorem test_refuse_alu_fn : decodeTableWord 32 0b0000_001110_00000_00000_00000_000000_1 = none := by decide
theorem test_refuse_alu_la : decodeTableWord 32 0b0001_000000_00000_00000_00000_000000_1 = none := by decide
theorem test_refuse_dst_17 : decodeTableWord 32 0b0000_000000_00000_00000_10001_000000_1 = none := by decide
theorem test_refuse_bits_too_long : decodeTableWord 32 0b001111111000001_00000_00000_001010_1 = none := by decide
theorem test_refuse_cond_6 : decodeTableWord 32 0b000000000010_110_00000_00000_010000_1 = none := by decide
theorem test_refuse_jal_dst : decodeTableWord 32 0b00000000000000000010_01101_010001_1 = none := by decide
theorem test_refuse_loop_end : decodeTableWord 32 0b000000000000001_00000_00000_010011_1 = none := by decide
theorem test_refuse_st_size : decodeTableWord 32 0b0000_0000000_0_001_00000_00000_011001_1 = none := by decide
theorem test_refuse_fence_0 : decodeTableWord 32 0b0000_000011_00000_00000_00000_011101_1 = none := by decide
theorem test_refuse_w_type : decodeTableWord 32 0b000_000000_0110_000_000_000_000_100000_1 = none := by decide
theorem test_refuse_wsamp_type : decodeTableWord 32 0b000_000000_0001_000_000_000_000_100101_1 = none := by decide

/-! ## A small state: the strand of slot 0 runs a placed word -/

/-- The strand. -/
def me : Agent := .strand 0 0 0

/-- The state after reset with a word placed for the strand. -/
def s0 : State := placeWord State.reset 1

/-- The same, with its context changed. -/
def withCtx (f : Ctx → Ctx) : State := s0.updCtx me f

/-- The same, with its launch changed. -/
def withLaunch (f : Launch → Launch) : State := { s0 with launches := s0.launches.map f }

/-- n0 holds 2, n1 holds 1, n14 holds 6. -/
def s1 : State := writeDst (writeDst (writeDst s0 me (.n 0) 2) me (.n 1) 1) me (.n 14) 6

/-- The register contents that a completed instruction leaves. -/
def after (i : Instr) (s : State) (n : Fin 16) : Option Word :=
  match exec i s with
  | .next t => some ((t.arch s.md.who).n.get n).data
  | .fault _ | .refused _ => none

/-- The PC that a completed instruction leaves. -/
def pcAfter (i : Instr) (s : State) : Option Word :=
  match exec i s with
  | .next t => some (t.arch s.md.who).pc
  | .fault _ | .refused _ => none

/-! ## Effects, from the rules -/

theorem test_add_wraps : after (.aluAdd (.n 2) (.n 0) (.n 1)) (writeDst s1 me (.n 0) (BitVec.allOnes 64)) 2 = some 0 := by decide
theorem test_sll_modulo_64 : after (.aluSll (.n 2) (.n 1) (.n 0)) (writeDst s1 me (.n 0) 65) 2 = some 2 := by decide
theorem test_div_by_zero : after (.mulDiv (.n 2) (.n 0) (.n 3) 0) s1 2 = some (BitVec.allOnes 64) := by decide
theorem test_rem_sign : after (.mulRem (.n 2) (.n 0) (.n 1) 0) (writeDst (writeDst s0 me (.n 0) (0 - 7)) me (.n 1) 2) 2 =
    some (0 - 1) := by decide
theorem test_ori_zero_extends : after (.ori (.n 2) (.n 3) 0x7FFF) s1 2 = some 0x7FFF := by decide
theorem test_xori_sign_extends : after (.xori (.n 2) (.n 3) 0x7FFF) s1 2 = some (BitVec.allOnes 64) := by decide
theorem test_extu_top_bit : after (.bitsExtu (.n 2) (.n 0) 63 0) (writeDst s0 me (.n 0) (BitVec.ofNat 64 (2 ^ 63))) 2 = some 1 := by
  decide
theorem test_float_ordinary : fpuMinMaxR false 0x3F800000 0xC0000000 = (0xC0000000, 0) ∧ fpuMinMaxR true 0 0x80000000 = (0, 0) ∧
    fpuCmpR ltF 0xC0000000 0x3F800000 = (1, 0) ∧ fpuCvtsR .rne 0x40200000 = (2, 1) ∧ fpuCvtsR .rup 0x40200000 = (3, 1) ∧
    fpuCvtfR .rne 3 = (0x40400000, 0) := by decide
theorem test_branch_taken : pcAfter (.br .lt (.n 1) (.n 0) 0x800) s1 = some (0 - 4096) := by decide
theorem test_branch_not_taken : pcAfter (.br .eq (.n 1) (.n 0) 0x800) s1 = some 4 := by decide
theorem test_call_links : after (.jalCall 4) s1 14 = some 4 := by decide
theorem test_push : (match exec (.aluAdd .push (.n 0) (.n 0)) s1 with
    | .next t => some ((t.arch me).q.get 0).data | .fault _ | .refused _ => none) = some 4 := by decide

/-- A lane form of the strand's, as it waits in the dispatch queue of its core. -/
def lateAdd : DqEnt :=
  { k := 0, ins := .wAdd .s32 0 3 1 2, ops := [], tiles := [], loops := (s0.arch me).loops, act := 0, pc := 0, wins := [], waited := []
    phase := .waiting }

/-! ## States that meet the hypotheses: scalar forms and control -/

theorem test_hyp_RegisterFields :
    ((s1.arch me).n.get 0).tag = (s1.ctx me).gen ∧ ((s0.arch me).n.get 15).tag ≠ (s0.ctx me).gen ∧ s0.strict me = false ∧
    ((s0.arch me).q.get 15).tag ≠ (s0.ctx me).gen ∧
    (withLaunch fun y => { y with rec_ := { y.rec_ with strict := true } }).strict me = true ∧
    (((withLaunch fun y => { y with rec_ := { y.rec_ with strict := true } }).arch me).n.get 0).tag ≠ (s0.ctx me).gen ∧
    Agent.sec ≠ me := by decide

/-- A lane form of the strand waits for its grant. -/
def held1 : State := s0.updCore 0 0 fun x => { x with dq := [lateAdd] }

theorem test_hyp_QuietIssues : Quiet (.aluAdd (.n 2) (.n 0) (.n 1)) s1.md.who s1 ∧
    mayIssue (withCtx fun y => { y with st := .parked }) me = false ∧ mayIssue held1 held1.md.who = true ∧
    dispatchHolds held1 held1.md.who (shapeOf (.aluAdd (.n 2) (.n 0) (.n 1))) = true := by
  repeat' apply And.intro
  all_goals first | exact Or.inl ⟨quiet_of (by decide) rfl, rfl⟩ | exact Or.inr rfl | exact quiet_of (by decide) rfl | exact given2 (by decide) rfl rfl | exact given1 (by decide) rfl | decide | rfl

theorem test_hyp_AluResults : Quiet (.aluMaxu (.n 2) (.n 0) (.n 1)) s1.md.who s1 ∧ Issues (.aluMaxu (.n 2) (.n 0) (.n 1)) s1 s1 ∧
    Reads s1 s1.md.who (.n 0) 2 ∧ Reads s1 s1.md.who (.n 1) 1 := by
  repeat' apply And.intro
  all_goals first | exact Or.inl ⟨quiet_of (by decide) rfl, rfl⟩ | exact Or.inr rfl | exact quiet_of (by decide) rfl | exact given2 (by decide) rfl rfl | exact given1 (by decide) rfl | decide | rfl

theorem test_hyp_MulResults : Issues (.mulDivu (.n 2) (.n 0) (.n 1) 15) s1 s1 ∧ Issues (.mulRem (.n 2) (.n 0) (.n 3) 0) s1 s1 ∧
    Reads s1 s1.md.who (.n 0) 2 ∧ Reads s1 s1.md.who (.n 1) 1 ∧ Reads s1 s1.md.who (.n 3) 0 := by
  repeat' apply And.intro
  all_goals first | exact Or.inl ⟨quiet_of (by decide) rfl, rfl⟩ | exact Or.inr rfl | exact quiet_of (by decide) rfl | exact given2 (by decide) rfl rfl | exact given1 (by decide) rfl | decide | rfl

theorem test_hyp_ImmediateResults : Issues (.lui (.n 2) 1) s1 s1 ∧ Issues (.cmpi .geu .push (.n 0) 3) s1 s1 ∧
    Reads s1 s1.md.who (.n 0) 2 := by
  repeat' apply And.intro
  all_goals first | exact Or.inl ⟨quiet_of (by decide) rfl, rfl⟩ | exact Or.inr rfl | exact quiet_of (by decide) rfl | exact given2 (by decide) rfl rfl | exact given1 (by decide) rfl | decide | rfl

theorem test_hyp_BitFieldResults : (63 : BitVec 6).toNat + (0 : BitVec 6).toNat + 1 ≤ 64 ∧
    (0 : BitVec 6).toNat + (63 : BitVec 6).toNat + 1 ≤ 64 ∧ Issues (.bitsIns 1 (.n 0) 63 0) s1 s1 ∧
    Reads s1 s1.md.who (.n 0) 2 ∧ Reads s1 s1.md.who (.n 1) 1 := by
  repeat' apply And.intro
  all_goals first | exact Or.inl ⟨quiet_of (by decide) rfl, rfl⟩ | exact Or.inr rfl | exact quiet_of (by decide) rfl | exact given2 (by decide) rfl rfl | exact given1 (by decide) rfl | decide | rfl

theorem test_hyp_FloatResults : Issues (.fpuAdd (.n 2) (.n 0) (.n 1)) s1 s1 ∧ Issues (.fplFma 2 (.n 0) (.n 1) 3) s1 s1 ∧
    Reads s1 s1.md.who (.n 0) 2 ∧ Reads s1 s1.md.who (.n 1) 1 ∧ Reads s1 s1.md.who (.n 2) 0 := by
  repeat' apply And.intro
  all_goals first | exact Or.inl ⟨quiet_of (by decide) rfl, rfl⟩ | exact Or.inr rfl | exact quiet_of (by decide) rfl | exact given2 (by decide) rfl rfl | exact given1 (by decide) rfl | decide | rfl

theorem test_hyp_FloatSpecialCases : (∃ q, fF32.val 0x7FC00000 = .nan q) ∧ fF32.val 0x3F800000 = .fin false (2 ^ 23) (2 ^ 23) ∧
    (∃ e, fF32.val 0x80000000 = .fin true 0 e) ∧ (∃ n d, fF32.val 0xC0000000 = .fin true n d) ∧ ((2 : Word).setWidth 32).toInt = 2 :=
  ⟨⟨_, rfl⟩, rfl, ⟨_, rfl⟩, ⟨_, _, rfl⟩, rfl⟩

theorem test_hyp_BranchesAndJumps : Issues (.br .eq (.n 0) (.n 0) 2) s1 s1 ∧ Issues (.jalCall 2) s1 s1 ∧ Issues (.jrJump (.n 0)) s1 s1 ∧
    Issues (.jrCall (.n 1)) s1 s1 ∧ Issues .jrRet s1 s1 ∧ Reads s1 s1.md.who (.n 0) 2 ∧ Reads s1 s1.md.who (.n 1) 1 ∧
    Reads s1 s1.md.who (.n 14) 6 ∧ Reads (writeDst s1 me (.n 14) 7) me (.n 14) 7 ∧ Issues .jrRet (writeDst s1 me (.n 14) 7) (writeDst s1 me (.n 14) 7) ∧
    (6 : Word).toNat % 2 = 0 ∧ (7 : Word).toNat % 2 = 1 ∧ condHolds .eq 2 2 = true ∧ condHolds .ne 2 2 = false := by
  repeat' apply And.intro
  all_goals first | exact Or.inl ⟨quiet_of (by decide) rfl, rfl⟩ | exact Or.inr rfl | exact quiet_of (by decide) rfl | exact given2 (by decide) rfl rfl | exact given1 (by decide) rfl | decide | rfl

/-- Both loops are active and end at the PC, with these counts. -/
def looping (c0 c1 : Word) : Arch :=
  { Init.arch with act := 3, pc := 8
                   loops := #v[{ data := c0, tag := 1, scr := false }, { data := c1, tag := 1, scr := false },
                     { data := 4, tag := 1, scr := false }, { data := 0, tag := 1, scr := false },
                     { data := 8, tag := 1, scr := false }, { data := 8, tag := 1, scr := false }] }

theorem test_hyp_LoopBackEdge : (looping 2 2).atEnd 0 = true ∧ (looping 2 2).atEnd 1 = true ∧
    ((looping 2 1).advance 4 1).pc = 4 ∧ ((looping 2 2).advance 4 1).pc = 0 ∧ ((looping 1 1).advance 4 1).pc = 12 ∧
    ({ looping 1 1 with act := 1 } : Arch).atEnd 1 = false := by decide

theorem test_hyp_LoopSetup : Issues (.loopSet 1 0 2) s1 s1 ∧ Issues (.loopSet 1 3 2) s1 s1 ∧ Reads s1 s1.md.who (.n 0) 2 ∧
    Reads s1 s1.md.who (.n 3) 0 ∧ (match codeHalf s1.md.who ((s1.arch me).pc + 4) s1 with
      | .ok (h, t) => h == 0 && t.ctx s1.md.who == s1.ctx s1.md.who
      | .error _ => false) = true := by
  repeat' apply And.intro
  all_goals first | exact Or.inl ⟨quiet_of (by decide) rfl, rfl⟩ | exact Or.inr rfl | exact quiet_of (by decide) rfl | exact given2 (by decide) rfl rfl | exact given1 (by decide) rfl | decide | rfl

/-- Both loops end at the strand's PC. -/
def ending : State := s1.updCtx me fun y => { y with arch := looping 2 1 }

theorem test_hyp_SpecialRegisters : readReg s1 s1.md.who 0x001 = .ok 0xFFFF00F8 ∧ Issues (.gets (.n 2) 0x001) s1 s1 ∧
    Issues (.sets (.n 0) 0x018) s1 s1 ∧ Reads s1 s1.md.who (.n 0) 2 ∧ (writeReg s1.md.who 0x018 2 s1).toOption.isSome = true ∧
    (s1.arch me).backEdge = false ∧ (s1.arch me).atEnd 0 = false ∧ (s1.arch me).atEnd 1 = false ∧
    (ending.arch me).backEdge = true ∧ Issues (.sets (.n 0) 0x018) ending ending ∧ Reads ending me (.n 0) 0 ∧
    (writeReg me 0x018 0 ending).toOption.isSome = true ∧
    (writeReg me 0x018 0 (advance (.sets (.n 0) 0x018) me ending)).toOption.isSome = true ∧ Issues (.sets (.n 0) 0x100) s1 s1 ∧
    Issues (.gets (.n 0) 0x009) s1 s1 ∧ cselOf s1 s1.md.who = none ∧
    (0x100 : BitVec 12).toNat = 0x100 ∧ lowReg s1 s1.md.who 0x009 = none := by
  repeat' apply And.intro
  all_goals first | exact Or.inl ⟨quiet_of (by decide) rfl, rfl⟩ | exact Or.inr rfl | exact quiet_of (by decide) rfl | exact given2 (by decide) rfl rfl | exact given1 (by decide) rfl | decide | rfl

/-- A strand whose launch names a handler. -/
def handled (f : Spec → Spec) : State :=
  ({ s1 with launches := s1.launches.map fun y => { y with rec_ := { y.rec_ with trap := 0x200 } } } : State).updCtx me fun y =>
    { y with sp := f y.sp }

theorem test_hyp_TrapEntry : Quiet (.sysc (.n 0) 7) me (handled id) ∧ Quiet (.brk (.n 0) 7) me (handled id) ∧
    Quiet (.trap (.n 0) 7) me (handled id) ∧ (handled id).md.who = me ∧ Reads (handled id) me (.n 0) 2 ∧ (2 : Word) ≠ 0 ∧
    Reads (handled id) me (.n 3) 0 ∧ Issues (.trap (.n 3) 7) (handled id) (handled id) ∧ noTrap (handled id) me = false ∧
    atBreakpoint (handled id) me = false ∧ ownForms (handled id) me = false ∧ ownForms held1 me = true := by
  repeat' apply And.intro
  all_goals first | exact Or.inl ⟨quiet_of (by decide) rfl, rfl⟩ | exact Or.inr rfl | exact quiet_of (by decide) rfl | exact given2 (by decide) rfl rfl | exact given1 (by decide) rfl | decide | rfl

theorem test_hyp_TrapRefused : Reads s1 s1.md.who (.n 0) 2 ∧ s1.traph me = 0 ∧ atBreakpoint s1 me = false ∧ Issues (.trap (.n 0) 7) s1 s1 ∧
    Issues (.sysc (.n 0) 7) (handled fun p => { p with intrap := true }) (handled fun p => { p with intrap := true }) ∧
    ((handled fun p => { p with intrap := true }).ctx me).sp.intrap = true ∧
    Reads (handled fun p => { p with intrap := true }) me (.n 0) 2 ∧
    ((handled fun p => { p with inregion := true }).ctx me).sp.inregion = true := by
  repeat' apply And.intro
  all_goals first | exact Or.inl ⟨quiet_of (by decide) rfl, rfl⟩ | exact Or.inr rfl | exact quiet_of (by decide) rfl | exact given2 (by decide) rfl rfl | exact given1 (by decide) rfl | decide | rfl

theorem test_hyp_TrapReturn : (s1.ctx me).sp.intrap = false ∧ Issues .rte s1 s1 ∧
    Issues .rte (handled fun p => { p with intrap := true, trappc := 6 }) (handled fun p => { p with intrap := true, trappc := 6 }) ∧
    Issues .rte (handled fun p => { p with intrap := true, trappc := 7 }) (handled fun p => { p with intrap := true, trappc := 7 }) ∧
    ((handled fun p => { p with intrap := true, trappc := 7 }).ctx me).sp.trappc.toNat % 2 = 1 ∧
    ((handled fun p => { p with intrap := true, trappc := 6 }).ctx me).sp.trappc.toNat % 2 = 0 := by
  repeat' apply And.intro
  all_goals first | exact Or.inl ⟨quiet_of (by decide) rfl, rfl⟩ | exact Or.inr rfl | exact quiet_of (by decide) rfl | exact given2 (by decide) rfl rfl | exact given1 (by decide) rfl | decide | rfl

/-- Another strand is ready and the quantum is used up. -/
def crowded : State := s0.updCore 0 0 fun x => { x with ready := [1], quantum := 40960 }

/-- The queue's slot is being saved. -/
def preempted : State := s0.updSlot 0 fun x => { x with st := .preempting }

theorem test_hyp_YieldPoints : s0.md.who = .strand 0 0 0 ∧ (s0.launchRec s0.md.who).isSome = true ∧ Issues (.yieldPt 0xFFF) s0 s0 ∧
    Issues (.yieldPt 0) s0 s0 ∧ (s0.launchRec s0.md.who).all (fun l => (liveRecords s0 l).length = 0) = true ∧
    preemptedSlot s0 s0.md.who = none ∧ (s0.core 0 0).quantum < 40960 ∧
    Issues (.yieldPt 0xFFF) crowded crowded ∧ 40960 ≤ (crowded.core 0 0).quantum ∧ (crowded.core 0 0).ready ≠ [] ∧
    preemptedSlot crowded me = none ∧ (crowded.core 0 0).holder ≠ some 0 ∧ ((handled fun p => { p with inregion := true }).ctx me).sp.inregion = true ∧
    Issues (.yieldPt 0xFFF) preempted preempted ∧ (preempted.ctx me).sp.inregion = false ∧ preemptedSlot preempted me = some 0 ∧
    (placeWord State.reset 0x63).launchRec .sec = none ∧ (placeWord State.reset 0x63).md.who = .sec ∧
    Issues (.yieldPt 0xFFF) (placeWord State.reset 0x63) (placeWord State.reset 0x63) := by
  repeat' apply And.intro
  all_goals first | exact Or.inl ⟨quiet_of (by decide) rfl, rfl⟩ | exact Or.inr rfl | exact quiet_of (by decide) rfl | exact given2 (by decide) rfl rfl | exact given1 (by decide) rfl | decide | rfl
/-! ## Memory forms -/

/-- n0 holds the address 0x40, n1 the value 0x99, n2 the address 0x41. -/
def sm : State := writeDst (writeDst (writeDst s0 me (.n 0) 0x40) me (.n 1) 0x99) me (.n 2) 0x41

/-- The state that an access comes to, with the pieces that it resolves to. -/
def resolved (right : Right) (k : Access) (va : Word) (n : Nat) (s : State) : List (Nat × Nat) × State :=
  match resolve (requesterOf s me) right k va n s with
  | .ok r => r
  | .error _ => ([], s)

theorem test_store_then_load : (match exec (.st .b2 false (.n 1) (.n 0) 0) sm with
    | .next t => readPhys t (placePa + 0x40) 3 | .fault _ | .refused _ => []) = [0x99, 0, 0] := by decide

theorem test_load_sign_extends : after (.ld .s8 false (.n 3) (.n 0) 0 0) (writePhys (.home 0) (placePa + 0x40) [0x99, 0x7F] sm) 3 =
    some (0 - 0x67) := by decide

theorem test_amo_swap_32 : after (.amoSwap false false false (.n 3) 0 (.n 1) 0)
    (writePhys (.home 0) (placePa + 0x40) [1, 2, 3, 0x84, 5] sm) 3 = some 0x84030201 := by decide

theorem test_hyp_MemoryBytes : Memory.wf [(3, 1), (5, 2)] = true ∧ Memory.wf [] = true ∧ Memory.wf [(3, 0)] = false ∧
    Memory.wf [(5, 1), (3, 1)] = false ∧ (31 : Nat) % 32 + 1 ≤ 32 := by decide

/-- The eight bytes at 0x40 are served to the strand for each kind of access. -/
theorem test_served : ∀ p ∈ [(Right.r, Access.read), (.w, .write), (.atomic, .write)],
    Served (requesterOf sm me) p.1 p.2 0x40 8 (placePa + 0x40) sm := by
  intro p hp
  simp only [List.mem_cons, List.not_mem_nil, or_false] at hp
  rcases hp with rfl | rfl | rfl <;>
    exact ⟨by decide, by decide, by decide, ⟨_, _, rfl, rfl, by decide⟩, by decide, by decide, by decide, by decide⟩

/-- The access resolves, its pieces are sound, no IO location lies in them, and everything before it can be performed. -/
def sound (right : Right) (k : Access) (va : Word) (n : Nat) (s : State) : Bool :=
  match resolve (requesterOf s me) right k va n s with
  | .ok (ps, u) => !ps.isEmpty && !poisoned u ps && !anyIo u (requesterOf s me) ps && (settled me u).toOption.isSome
  | .error _ => false

theorem test_hyp_LoadForms : Issues (.ld .d64 true (.n 3) (.n 0) 0 2) sm sm ∧ Quiet (.ld .d64 true (.n 3) (.n 0) 0 2) me sm ∧
    sm.md.who = me ∧ Reads sm me (.n 0) 0x40 ∧ Issues (.ld .d64 true (.n 3) (.n 2) 0 0) sm sm ∧ Reads sm me (.n 2) 0x41 ∧
    (0x41 : Word).toNat % 8 ≠ 0 ∧ sound .r .read 0x40 8 sm = true ∧
    (resolved .r .read 0x3C 8 sm).1 = [(placePa + 0x3C, 4), (placePa + 0x40, 4)] ∧ (sm.ctx me).fl.drain = [] ∧
    heldStores sm me = [] ∧ isMemory sm (placePa + 0x40) = true := by
  repeat' apply And.intro
  all_goals first | exact Or.inl ⟨quiet_of (by decide) rfl, rfl⟩ | exact Or.inr rfl | exact quiet_of (by decide) rfl | exact given2 (by decide) rfl rfl | exact given1 (by decide) rfl | decide | rfl

/-- In a region whose buffer holds `n` entries. -/
def inRegion (n : Nat) : State := sm.updCtx me fun y =>
  { y with sp := { y.sp with inregion := true }, fl := { y.fl with ckpt := some y.arch, rbuf := List.replicate n (.store (.home 0) []) } }

/-- A multiplication is not yet committed. -/
def waiting : State :=
  match exec (.mulMul (.n 5) (.n 0) (.n 1) 15) sm with
  | .next t => t
  | .fault _ | .refused _ => sm

theorem test_hyp_StoreCompletion : Issues (.st .b8 true (.n 1) (.n 0) 0) sm sm ∧ Quiet (.st .b8 true (.n 1) (.n 0) 0) me sm ∧
    Reads sm me (.n 0) 0x40 ∧ Reads sm me (.n 1) 0x99 ∧ Reads sm me (.n 2) 0x41 ∧ Issues (.st .b8 true (.n 1) (.n 2) 0) sm sm ∧
    sound .w .write 0x40 8 sm = true ∧ (sm.ctx me).sp.inregion = false ∧ (sm.ctx me).fl.pend = [] ∧ (drained me sm).toOption.isSome = true ∧
    Issues (.st .b8 true (.n 1) (.n 0) 0) (inRegion 63) (inRegion 63) ∧ Reads (inRegion 63) me (.n 1) 0x99 ∧
    sound .w .write 0x40 8 (inRegion 63) = true ∧ ((inRegion 63).ctx me).sp.inregion = true ∧
    ((inRegion 63).ctx me).fl.rbuf.length + ((inRegion 63).ctx me).fl.wst.length < 64 ∧
    Issues (.st .b8 true (.n 1) (.n 0) 0) (inRegion 64) (inRegion 64) ∧ sound .w .write 0x40 8 (inRegion 64) = true ∧
    64 ≤ ((inRegion 64).ctx me).fl.rbuf.length := by
  repeat' apply And.intro
  all_goals first | exact Or.inl ⟨quiet_of (by decide) rfl, rfl⟩ | exact Or.inr rfl | exact quiet_of (by decide) rfl | exact given2 (by decide) rfl rfl | exact given1 (by decide) rfl | decide | rfl

/-- A granule that the strand has mapped is the kick aperture. -/
def kicking : State :=
  let s := waiting.updCore 0 0 fun x => { x with tlb := { part := 0, pasid := 0, va := 2, pa := 2 ^ 28, count := 1, write := true
                                                          exec := false, dirty := true, attr := 0 } :: x.tlb }
  let s1 := { s with cw := { s.cw with kapbase := 1 + 2 ^ 44 } }
  writeDst { s1 with mg := { s1.mg with tables := ((targetNos s1 (2 ^ 44)).map fun t => (t, 0, 1, 31)) ++ s1.mg.tables } } me (.n 0) 0x20000

theorem test_hyp_StoreCompletion_behind : (match gate (.st .b8 true (.n 1) (.n 0) 0) me waiting with
      | .go t => (t.ctx me).fl.pend.length == 1 && sound .w .write 0x40 8 t
      | .stall _ | .stop .. => false) = true ∧
    (match gate (.st .b8 true (.n 1) (.n 0) 0) me kicking with
      | .go t => (t.ctx me).fl.pend.length == 1 && !isMemory t (2 ^ 44) &&
          (match resolve (requesterOf t me) .w .write 0x20000 8 t with
            | .ok (ps, u) => ps == [(2 ^ 44, 8)] && (settled me u).toOption.isSome
            | .error _ => false)
      | .stall _ | .stop .. => false) = true := by
  repeat' apply And.intro
  all_goals first | exact Or.inl ⟨quiet_of (by decide) rfl, rfl⟩ | exact Or.inr rfl | exact quiet_of (by decide) rfl | exact given2 (by decide) rfl rfl | exact given1 (by decide) rfl | decide | rfl

theorem test_hyp_StoreFrame : Memory.wf sm.mm.mem = true ∧ isMemory sm placePa = true ∧ isMemory sm (placePa + 4) = true ∧
    [((placePa : Nat), ([1, 2] : List Byte)), (placePa + 4, [3])].Pairwise (fun x y => x.1 + x.2.length ≤ y.1) := by decide

theorem test_hyp_AmoResults : Issues (.amoCas true true true 1 0 (.n 1) 2) sm sm ∧ Quiet (.amoCas true true true 1 0 (.n 1) 2) me sm ∧
    Quiet (.amoMinu true false false (.n 3) 0 (.n 1) 0) me sm ∧ Reads sm me (.n 0) 0x40 ∧ Reads sm me (.n 1) 0x99 ∧
    Reads sm me (.n 2) 0x41 ∧ Issues (.amoAdd false false false (.n 3) 2 (.n 1) 0) sm sm ∧ Reads sm me (.n 3) 0 ∧
    sound .atomic .write 0x40 8 sm = true ∧ (drained me sm).toOption.isSome = true ∧ (sm.ctx me).fl.drain = [] ∧
    isMemory sm (placePa + 0x40) = true ∧ readPhysN sm (placePa + 0x40) 8 = 0 := by
  repeat' apply And.intro
  all_goals first | exact Or.inl ⟨quiet_of (by decide) rfl, rfl⟩ | exact Or.inr rfl | exact quiet_of (by decide) rfl | exact given2 (by decide) rfl rfl | exact given1 (by decide) rfl | decide | rfl

/-- n0 names request 0 of engine 0, which is outstanding with this standing; its DUE is `due`. -/
def promised (st : ReqSt) (due : Word) : State :=
  (writeDst (handled id) me (.n 0) due).updCtx me fun y => { y with outst := [{ eng := 0, seq := 0, st := st }] }

theorem test_hyp_WaitCompletions : Quiet (.waita (.n 3) (.n 0) (.n 1)) me sm ∧ Given sm me [(.n 0, 0x40), (.n 1, 0x99)] ∧
    sound .r .read 0x40 8 sm = true ∧ readPhysN sm (placePa + 0x40) 8 = 0 ∧ Given sm me [(.n 0, 0x40), (.n 4, 0)] ∧
    Issues (.waita (.n 3) (.n 0) (.n 4)) sm sm ∧
    Quiet (.waitp (.n 3) (.n 0)) me (promised .running 0) ∧ Given (promised .running 0) me [(.n 0, 0)] ∧
    Given (promised .cancelled 5) me [(.n 0, 5)] ∧ Issues (.waitp (.n 3) (.n 0)) (promised (.faulted 7 1 0) 5) (promised (.faulted 7 1 0) 5) ∧
    (sm.ctx me).outst.find? (fun r => r.eng == 0 && r.seq == 0) = none ∧ Issues (.waitp (.n 3) (.n 4)) sm sm ∧
    duePassed (promised .running 0) 0 = true ∧ lateAllowed (promised .running 0) me = true ∧ duePassed (promised .running 9) 9 = false := by
  repeat' apply And.intro
  all_goals first | exact Or.inl ⟨quiet_of (by decide) rfl, rfl⟩ | exact Or.inr rfl | exact quiet_of (by decide) rfl | exact given2 (by decide) rfl rfl | exact given1 (by decide) rfl | decide | rfl

/-- A breakpoint is armed at the PC. -/
def armed : State := (handled id).updPart 0 fun x => { x with bps := [(((handled id).arch me).pc, 0)] }

theorem test_hyp_TrapEntry_late : noTrap (promised .running 0) me = false ∧ Issues (.waitp (.n 3) (.n 0)) (promised .running 0) (promised .running 0) ∧
    ((promised .running 0).ctx me).outst.find? (fun r => r.eng == 0 && r.seq == 0) = some { eng := 0, seq := 0, st := .running } ∧
    ((promised .running 0).ctx me).latch = none ∧ duePassed (promised .running 0) 0 = true ∧
    atBreakpoint armed armed.md.who = true ∧ (armed.ctx me).displaced = none ∧ Issues (.brk (.n 0) 7) armed armed ∧
    Issues (.trap (.n 0) 7) armed armed ∧ Reads armed armed.md.who (.n 0) 2 ∧ noTrap armed me = false := by
  repeat' apply And.intro
  all_goals first | exact Or.inl ⟨quiet_of (by decide) rfl, rfl⟩ | exact Or.inr rfl | exact quiet_of (by decide) rfl | exact given2 (by decide) rfl rfl | exact given1 (by decide) rfl | decide | rfl

/-- A deposit has landed in n2. -/
def deposited : State := (writeDst sm me (.n 0) 4).updArch me fun y => { y with deps := 4 }

theorem test_hyp_ParkForm : Issues (.park (.n 3) (.n 0) (.n 1)) deposited deposited ∧ Given deposited me [(.n 0, 4), (.n 1, 0x99)] ∧
    deposited.ctc.toNat = 0 ∧ (deposited.arch me).deps &&& 4 ≠ 0 ∧ Issues (.park (.n 3) (.n 5) (.n 5)) sm sm ∧
    Given sm me [(.n 5, 0), (.n 5, 0)] ∧ Given (writeDst sm me (.n 0) 0x10000) me [(.n 0, 0x10000), (.n 1, 0x99)] ∧
    Issues (.park (.n 3) (.n 0) (.n 1)) (writeDst sm me (.n 0) 0x10000) (writeDst sm me (.n 0) 0x10000) ∧
    (sm.arch me).deps = 0 ∧ Issues (.park (.n 3) (.n 2) (.n 1)) sm sm ∧ Given sm me [(.n 2, 0x41), (.n 1, 0x99)] ∧
    ¬ ((0x99 : Word).toNat ≤ ({ sm with ctc := 0x98 } : State).ctc.toNat) ∧
    (0x99 : Word).toNat ≤ ({ sm with ctc := 0x99 } : State).ctc.toNat := by
  repeat' apply And.intro
  all_goals first | exact Or.inl ⟨quiet_of (by decide) rfl, rfl⟩ | exact Or.inr rfl | exact quiet_of (by decide) rfl | exact given2 (by decide) rfl rfl | exact given1 (by decide) rfl | decide | rfl

theorem test_hyp_RegionForms : pcTrigger (inRegion 1) me = (inRegion 1, false) ∧ Issues .region sm sm ∧ (sm.ctx me).fl.drain = [] ∧ (sm.ctx me).sp.inregion = false ∧ Issues .commit sm sm ∧
    Issues .commit (inRegion 1) (inRegion 1) ∧ ((inRegion 1).ctx me).sp.inregion = true ∧ regionForbids .region = true ∧
    mayIssue (inRegion 1) (inRegion 1).md.who = true ∧ dispatchHolds (inRegion 1) me (shapeOf .region) = false ∧
    regionRefused ((inRegion 1).ctx me) = none ∧ classStop (Agent.cls me) 0x1C false = none ∧ ((inRegion 1).ctx me).fl.wins = [] ∧
    ((inRegion 1).ctx me).fl.pend = [] :=
  ⟨rfl, .inr rfl, by decide, by decide, .inr rfl, .inr rfl, by decide, by decide, by decide, by decide, by decide, by decide, by decide,
    by decide⟩

theorem test_hyp_CacheForms : Issues (.flushr (.n 0) (.n 1)) sm sm ∧ Issues (.invr (.n 0) (.n 1)) sm sm ∧ Issues (.flushr (.n 0) (.n 3)) sm sm ∧
    Issues (.pref (.n 0)) sm sm ∧ Issues (.fence .full) sm sm ∧ Reads sm me (.n 0) 0x40 ∧ Reads sm me (.n 1) 0x99 ∧ Reads sm me (.n 3) 0 ∧
    (sm.ctx me).answer = none ∧ (drained me sm).toOption.isSome = true ∧
    ((sm.updCtx me fun y => { y with answer := some .landed }).ctx me).answer.isSome = true ∧
    (xlatPiece (requesterOf sm me) .read 0x40 sm).1.toOption = some (placePa + 0x40) ∧
    allowed sm (requesterOf sm me).master (requesterOf sm me).part (requesterOf sm me).command .r (placePa + 0x40) = true ∧
    domain sm (requesterOf sm me).part (placePa + 0x40) ≠ .io ∧
    (xlatPiece (requesterOf sm me) .read 0x20000 sm).1.toOption = none ∧ MemoryWf sm := by
  repeat' apply And.intro
  all_goals first | exact Or.inl ⟨quiet_of (by decide) rfl, rfl⟩ | exact Or.inr rfl | exact quiet_of (by decide) rfl | exact given2 (by decide) rfl rfl | exact given1 (by decide) rfl | decide | rfl
/-! ## Messages, migration, local time -/

/-- The launch may use its quad; the strand has no answer, or this one. -/
def answered (a : Option Answer) : State := withCtx fun y => { y with answer := a }

/-- The core serves the launch in local time, at VT 100, with an output channel 2 to core 1 of lookahead 7. -/
def timed : State :=
  ({ s0 with launches := s0.launches.map fun y => { y with rec_ := { y.rec_ with ltm := true } } } : State).updCore 0 0 fun x =>
    { x with lt := { x.lt with launch := some noLaunch, vt := 100, out := x.lt.out.set 2 (some { q := 0, c := 1, ch := 3, l := 7 }) } }

/-- Event operands: q4 a stamp, q3 to q1 zero; channel 2 in n1. -/
def bounded (st : Word) : State :=
  writeDst (writeDst (writeDst (writeDst (writeDst timed me .push st) me .push 0) me .push 0) me .push 0) me (.n 1) 2

theorem test_hyp_SenderForms : s0.md.who = me ∧ Issues (.spark (.n 0) (.n 1)) s0 s0 ∧ Issues (.frame (.n 2) (.n 0) (.n 1)) s0 s0 ∧
    Issues (.send 5 (.n 0) (.n 1)) s0 s0 ∧ (s0.ctx me).answer = none ∧ Reads s0 me (.n 0) 0 ∧ Reads s0 me (.q 3) 0 ∧ Reads s0 me (.q 2) 0 ∧
    Reads s0 me (.q 1) 0 ∧ Reads s0 me (.q 0) 0 ∧ (drained me s0).toOption.isSome = true ∧ (0 : Word).toNat % 2 = 0 ∧
    Reads (writeDst s0 me (.n 1) 0x61) me (.n 1) 0x61 ∧ (targetCore (writeDst s0 me (.n 1) 0x61) me 0x61).toOption = some (0, 3) ∧
    bits 0x61 3 0 = 1 ∧ (targetCore s0 me 0).toOption = some (0, 0) ∧ s0.ltm me = false ∧ (s0.ctx me).sp.inregion = false ∧
    Issues (.spark (.n 0) (.n 1)) (answered (some .landed)) (answered (some .landed)) ∧ ((answered (some .landed)).ctx me).answer = some .landed ∧
    Issues (.frame (.n 2) (.n 0) (.n 1)) (answered (some (.accepted 9))) (answered (some (.accepted 9))) ∧
    Issues (.send 5 (.n 0) (.n 1)) (answered (some .denied)) (answered (some .denied)) := by
  repeat' apply And.intro
  all_goals first | exact Or.inl ⟨quiet_of (by decide) rfl, rfl⟩ | exact Or.inr rfl | exact quiet_of (by decide) rfl | exact given2 (by decide) rfl rfl | exact given1 (by decide) rfl | decide | rfl

/-- The strand is in a region, and the target of its send with these operands has answered. -/
def checked : State :=
  (answered (some .landed)).updCtx me fun y => { y with sp := { y.sp with inregion := true }, latch := some [0, 5] }

theorem test_hyp_SenderForms_more : timed.ltm me = true ∧ Issues (.sendt (.n 0) (.n 1)) (bounded 107) (bounded 107) ∧
    (bounded 107).ltm me = true ∧ Reads (bounded 107) me (.q 3) 107 ∧ Reads (bounded 107) me (.q 2) 0 ∧ Reads (bounded 107) me (.n 1) 2 ∧
    Reads (bounded 107) me (.n 0) 0 ∧ (drained me (bounded 107)).toOption.isSome = true ∧
    ((bounded 107).core 0 0).lt.out.get 2 = some { q := 0, c := 1, ch := 3, l := 7 } ∧
    max ((bounded 107).core 0 0).lt.vt.toNat (((bounded 107).core 0 0).lt.a.get 2).toNat + 7 ≤ (107 : Word).toNat ∧
    Issues (.spark (.n 0) (.n 1)) timed timed ∧ (targetCore timed me 0).toOption = some (0, 0) ∧ Reads timed me (.n 1) 0 ∧
    Issues (.spark (.n 0) (.n 1)) (inRegion 63) (inRegion 63) ∧ ((inRegion 63).ctx me).fl.rbuf.length < 64 ∧
    (inRegion 63).ltm me = false ∧ ((inRegion 63).ctx me).answer = none ∧ (targetCore (inRegion 63) me 0x40).toOption.isSome = true ∧
    Issues (.send 5 (.n 0) (.n 1)) checked checked ∧ (checked.ctx me).latch = some [0, 5] ∧ (targetCore checked me 0).toOption.isSome = true ∧
    (checked.ctx me).fl.rbuf.length < 64 := by
  repeat' apply And.intro
  all_goals first | exact Or.inl ⟨quiet_of (by decide) rfl, rfl⟩ | exact Or.inr rfl | exact quiet_of (by decide) rfl | exact given2 (by decide) rfl rfl | exact given1 (by decide) rfl | decide | rfl

/-- The buffer of the strand's committed region still holds a message that is on its way. -/
def draining : State := s0.updFlight me fun f =>
  { f with drain := [.send { hdr := { part := 0, launch := noLaunch, port := 0, dest := 0, seq := 0, tag := 0, taken := false }, q := 0, c := 1, k := 0, gen := 1
                             reg := 0, value := 0, sender := some (.strand { q := 0, c := 0, k := 0, gen := 1 }), checkOnly := false }], sent := true }

theorem test_hyp_ExitForm : s0.md.who = .strand 0 0 0 ∧ Issues .exit s0 s0 ∧ (drained (.strand 0 0 0) s0).toOption.isSome = true ∧
    Issues .exit draining draining ∧ draining.md.who = .strand 0 0 0 ∧ (match drained (.strand 0 0 0) draining with
      | .error (.wait _) => true
      | _ => false) = true := by
  repeat' apply And.intro
  all_goals first | exact Or.inl ⟨quiet_of (by decide) rfl, rfl⟩ | exact Or.inr rfl | exact quiet_of (by decide) rfl | exact given2 (by decide) rfl rfl | exact given1 (by decide) rfl | decide | rfl

/-- n0 holds an address whose home neighbours the strand's quad. -/
def sh : State := writeDst s0 me (.n 0) 0x100

/-- n0 holds the handle 1, which its quad binds. -/
def tiledAt1 : State :=
  (writeDst s0 me (.n 0) 1).updQuad 0 fun x =>
    { x with tiles := [(0, { launch := noLaunch, handle := 1, shape := 0x20080008, base := 0, gen := 2, freeing := false, serial := 0 })] }

/-- One request is outstanding. -/
def outst1 (st : ReqSt) : State := sh.updCtx me fun y => { y with outst := [{ eng := 0, seq := 0, st := st }] }

/-- Every candidate has answered. -/
def replied (cands : List (Fin 64)) (ans : List (Fin 64 × List Nat)) : State :=
  sh.updCtx me fun y => { y with query := some { cands := cands, answers := ans, back := cands } }

theorem test_hyp_MigrationForms : sh.md.who = .strand 0 0 0 ∧ Issues (.migrAddr (.n 2) (.n 0)) sh sh ∧ Reads sh me (.n 0) 0x100 ∧
    (sh.core 0 0).holder ≠ some 0 ∧ sh.ltm me = false ∧ (sh.ctx me).outst = [] ∧ undelivered (sh.ctx me) = none ∧ (sh.ctx me).query = none ∧
    (drained me sh).toOption.isSome = true ∧ (resolved .r .read 0x100 1 sh).1 = [(placePa + 0x100, 1)] ∧
    domain sh 0 (placePa + 0x100) ≠ .io ∧ addrCands sh me (placePa + 0x100) ≠ [] ∧
    Issues (.migrTile (.n 2) (.n 0)) tiledAt1 tiledAt1 ∧ Reads tiledAt1 me (.n 0) 1 ∧ ((tiledAt1.quads.get 0).find noLaunch 1).isSome = true ∧
    Issues (.migrAddr (.n 2) (.n 0)) (outst1 .running) (outst1 .running) ∧ undelivered ((outst1 (.faulted 7 1 0)).ctx me) = some ((7, 1, 0), []) ∧
    Issues (.migrTile (.n 2) (.n 0)) (outst1 (.faulted 7 1 0)) (outst1 (.faulted 7 1 0)) ∧
    Issues (.migrAddr (.n 2) (.n 0)) (replied [0] [(0, [24, 24, 24, 24])]) (replied [0] [(0, [24, 24, 24, 24])]) ∧
    Issues (.migrTile (.n 2) (.n 0)) (replied [0, 1] [(0, [0, 1, 0, 0]), (1, [0, 0, 2, 0])])
      (replied [0, 1] [(0, [0, 1, 0, 0]), (1, [0, 0, 2, 0])]) ∧
    chooseDest { cands := [0], answers := [(0, [24, 24, 24, 24])], back := [0] } = (0, 0) ∧
    chooseDest { cands := [0, 1], answers := [(0, [0, 1, 0, 0]), (1, [0, 0, 2, 0])], back := [0, 1] } = (1, 2) := by
  repeat' apply And.intro
  all_goals first | exact Or.inl ⟨quiet_of (by decide) rfl, rfl⟩ | exact Or.inr rfl | exact quiet_of (by decide) rfl | exact given2 (by decide) rfl rfl | exact given1 (by decide) rfl | decide | rfl

theorem test_hyp_LocalTimeForms : timed.md.who = .strand 0 0 0 ∧ Issues (.vtset (.n 2) (.n 0)) timed timed ∧
    Issues (.announce (.n 0)) timed timed ∧ Issues (.vtget (.n 2)) s0 s0 ∧ Reads timed timed.md.who (.n 0) 0 ∧
    Issues (.announce (.n 0)) s0 s0 ∧ Reads s0 me (.n 0) 0 ∧ s0.ltm me = false ∧ timed.ltm me = true := by
  repeat' apply And.intro
  all_goals first | exact Or.inl ⟨quiet_of (by decide) rfl, rfl⟩ | exact Or.inr rfl | exact quiet_of (by decide) rfl | exact given2 (by decide) rfl rfl | exact given1 (by decide) rfl | decide | rfl

/-- A message with this header to core 1 of quad 0. -/
def message (k : Nat) : CreMsg :=
  { hdr := { part := 0, launch := noLaunch, port := 0, dest := 0, seq := 0, tag := 0, taken := false }, q := 0, c := 1, entry := 0x40, a0 := 1, a1 := 2
    a2 := 3, frameK := k, timed := false, stamp := 200, order := 0, sender := .strand { q := 0, c := 0, k := 0, gen := 1 }
    tries := 0, retriable := true }

/-- Core 1 serves the launch in local time, with a declared input channel and a waiting event; it has been blocked. -/
def receiving (ev : List Event) (n : Nat := 14) : State :=
  timed.updCore 0 1 fun x => { x with lt := { x.lt with
    launch := some noLaunch, chla := x.lt.chla.set 3 (some 7), b := x.lt.b.set 3 900, store := ev, blocked := 2560, nulls := n
    out := x.lt.out.set 1 (some { q := 0, c := 0, ch := 0, l := 1 }) } }

/-- An event beyond the core's input bound. -/
def beyond : Event := { stamp := 2000, entry := 0x40, a0 := 1, a1 := 2, a2 := 3, order := 0, tries := 0, restarted := false, launch := noLaunch }

/-- A round that counts, the sixteenth or an earlier one. -/
theorem test_hyp_TimeEvents_counted : let s := receiving [beyond] 15
    (waitingEvents s 0 1).isEmpty = false ∧ startable s 0 1 = none ∧ liveEvent s 0 1 = false ∧ (s.core 0 1).lt.bRose = false ∧
    launchStarts s noLaunch = true ∧ launchDebugged s noLaunch = false ∧
    engineStopped s (pIdx (s.quads.get 0).part) (.core 0 1) = false ∧ ((s.core 0 1).lt.a.get 1).toNat < 900 ∧
    (s.updCore 0 1 fun x => { x with lt := { x.lt with nulls := 14 } }) = receiving [beyond] 14 :=
  ⟨rfl, rfl, rfl, rfl, rfl, rfl, rfl, by decide, rfl⟩

/-- The sixteenth counted round raises ZLA (R39). -/
theorem test_sixteenth_round : (match exec (.nullRound 0 1) (receiving [beyond] 15) with
    | .next t => (t.parts.get 0).faults.map fun r => (r.kind, r.cause) | .fault _ | .refused _ => []) = [(9, 2)] := by decide

theorem test_hyp_TimeEvents : (timed.core 0 0).lt.out.get 2 = some { q := 0, c := 1, ch := 3, l := 7 } ∧
    ((timed.core 0 0).lt.a.get 2).toNat < 1 ∧ ((receiving []).core 0 1).lt.launch = some noLaunch ∧
    ((receiving []).core 0 1).lt.chla.get 3 = some 7 ∧
    intercept (message 0).hdr 0 (.stampedEvent (message 0)) (receiving []) = none ∧
    (∀ i ∈ [Instr.clockAnnouncement ((message 0).hdr, 0) 1 3 950, .nullEvent ((message 0).hdr, 0) 1 3 950],
      intercept (message 0).hdr 0 i (receiving []) = none) ∧
    ((receiving []).launch noLaunch).any (fun l => !l.cancelled) = true ∧ ((receiving []).core 0 1).scrubbing = false ∧
    ((receiving []).core 0 1).lt.store.length + ((receiving []).core 0 1).storeReserved < 64 ∧
    (startable (receiving [{ stamp := 200, entry := 0x40, a0 := 1, a1 := 2, a2 := 3, order := 0, tries := 0, restarted := false
                             launch := noLaunch }]) 0 1).isSome = true ∧
    ((receiving []).core 0 1).freeSlot (fun _ => true) = some 0 ∧ ((receiving []).core 0 1).nextCgen.isSome = true ∧
    launchStarts (receiving []) noLaunch = true ∧ 2560 ≤ ((receiving []).core 0 1).lt.blocked ∧
    liveEvent (receiving []) 0 1 = false ∧ startable (receiving []) 0 1 = none ∧ launchDebugged (receiving []) noLaunch = false ∧
    engineStopped (receiving []) (pIdx ((receiving []).quads.get 0).part) (.core 0 1) = false ∧
    waitingEvents (receiving []) 0 1 = [] ∧ (((receiving []).core 0 1).lt.nulls < 15) ∧
    ((receiving []).core 0 1).lt.out.get 1 = some { q := 0, c := 0, ch := 0, l := 1 } ∧
    leastBound (((receiving []).updCore 0 1 fun x => { x with lt := { x.lt with chla := Vector.replicate 8 none } }).core 0 1).lt = none := by
  repeat' apply And.intro
  all_goals first | exact Or.inl ⟨quiet_of (by decide) rfl, rfl⟩ | exact Or.inr rfl | exact quiet_of (by decide) rfl | exact given2 (by decide) rfl rfl | exact given1 (by decide) rfl | decide | rfl

/-- Every slot of core 1 holds a strand that waits for a deposit. -/
def full : State :=
  s0.updCore 0 1 fun x => { x with ctxs := Vector.replicate 24 { Init.ctx with
    st := .parked, why := some (.deposit 0), gen := 9, launch := some noLaunch } }

/-- The context scrub of core 1 is under way. -/
def scrubbingCore : State := full.updCore 0 1 fun x => { x with scrubbing := true }

/-- A deposit of 5 into n3 of slot 23. -/
def deposit23 : DepMsg :=
  { hdr := (message 0).hdr, q := 0, c := 1, k := 23, gen := 9, reg := 3, value := 5, sender := some (.strand { q := 0, c := 0, k := 0, gen := 1 })
    checkOnly := false }

/-- Slot 23 of core 1 stands so, with this many deposits awaited. -/
def standing23 (st : SlotSt) (n : Nat) : State := full.updCtx (.strand 0 1 23) fun y => { y with st := st, awaited := n, why := none }

theorem test_hyp_CreationEvents_deposit : ∀ p ∈ [(SlotSt.pending, 1), (.pending, 2), (.ready, 0), (.running, 0)],
    ((standing23 p.1 p.2).ctx (.strand 0 1 23)).st = p.1 ∧ ((standing23 p.1 p.2).ctx (.strand 0 1 23)).gen = 9 ∧
    ((standing23 p.1 p.2).ctx (.strand 0 1 23)).awaited = p.2 ∧
    intercept deposit23.hdr 0 (.deposit deposit23) (standing23 p.1 p.2) = none := by decide

/-- The FIFO of core 1 holds a message that has its notice, with a reservation or none; its sender waits or not, and one message
is late. -/
def refusing (w : Bool) (resv : Option (Fin 24)) : State :=
  s0.updCore 0 1 fun x => { x with fifo := [{ msg := .creationMessage (message 0), waiting := w, resv := resv, noticed := resv.isSome }]
                                   late := [.creationMessage (message 1)] }

theorem test_hyp_CreationEvents : intercept (message 2).hdr 0 (.creationMessage (message 2)) s0 = none ∧
    (s0.launch noLaunch).any (fun l => !l.cancelled) = true ∧ (s0.core 0 1).scrubbing = false ∧
    (s0.core 0 1).entryOf (.creationMessage (message 2)) = none ∧
    (s0.core 0 1).freeSlot (fun _ => true) = some 0 ∧ (s0.core 0 1).nextCgen.isSome = true ∧
    ((refusing true (some 4)).core 0 1).entryOf (.creationMessage (message 0)) = some { msg := .creationMessage (message 0), waiting := true, resv := some 4, noticed := true } ∧
    (full.core 0 1).freeSlot (fun _ => true) = none ∧ (full.core 0 1).fifo.length < 16 ∧ (full.core 0 1).scrubbing = false ∧
    (full.ctx (.strand 0 1 23)).st = .parked ∧ intercept deposit23.hdr 0 (.deposit deposit23) full = none ∧ deposit23.k = (23 : Fin 24).val ∧
    (full.ctx (.strand 0 1 23)).gen = 9 ∧ (full.ctx (.strand 0 1 23)).launch = some noLaunch ∧
    (full.ctx (.strand 0 1 23)).why = some (.deposit 0) ∧ (scrubbingCore.core 0 1).scrubbing = true ∧
    ((full.core 0 1).ctxs.get 0).st ≠ .free ∧ ((full.ctx (.strand 0 1 0)).arch.n.get 0).tag ≠ (full.ctx (.strand 0 1 0)).gen := by
  repeat' apply And.intro
  all_goals first | exact Or.inl ⟨quiet_of (by decide) rfl, rfl⟩ | exact Or.inr rfl | exact quiet_of (by decide) rfl | exact given2 (by decide) rfl rfl | exact given1 (by decide) rfl | decide | rfl

/-- The notice of the FIFO's one message has gone out and not come. -/
def unnoticed (w : Bool) : State :=
  (refusing w (some 4)).updCore 0 1 fun x => { x with fifo := x.fifo.map fun e => { e with noticed := false } }

theorem test_hyp_RefusalEvents : (((refusing true none).core 0 1).fifo.head?.bind fun e => ((refusing true none).core 0 1).freePlace e.msg).isSome = true ∧
    (((refusing true (some 4)).core 0 1).fifo.find? fun e =>
      e.resv.isSome && (e.noticed && e.waiting && notOnItsWay (refusing true (some 4)) e.msg)).isSome = true ∧
    (((refusing false (some 4)).core 0 1).fifo.find? fun e => e.resv.isSome && (e.noticed && !e.waiting)).isSome = true ∧
    (∀ w, (((unnoticed w).core 0 1).fifo.find? fun e => e.resv.isSome && !e.noticed).any (fun e => e.waiting == w) = true) ∧
    distributorWaits (unnoticed true) (message 0) = false ∧ headerOf (.creationMessage (message 0)) = some (message 0).hdr ∧
    (∀ w, intercept (message 0).hdr 0 (.contextFreeNotice ((message 0).hdr, 0) 1) (unnoticed w) = none) ∧
    intercept (message 0).hdr 0 (.refusalRelease ((message 0).hdr, 0) 1) (refusing false (some 4)) = none ∧
    ((refusing true none).core 0 1).fifo.all (fun e => senderPort e == (message 0).hdr.port) = true ∧
    ((refusing true none).core 0 1).late = [.creationMessage (message 1)] := by
  repeat' apply And.intro
  all_goals first | exact Or.inl ⟨quiet_of (by decide) rfl, rfl⟩ | exact Or.inr rfl | exact quiet_of (by decide) rfl | exact given2 (by decide) rfl rfl | exact given1 (by decide) rfl | decide | rfl

/-- Core 1 of quad 0 has a strand that asked for the quad 1 and stands migrating, or parked. -/
def asking (st : SlotSt) (ans : List (Fin 64 × List Nat)) : State :=
  s0.updCtx (.strand 0 1 2) fun y => { y with
    st := st, why := if st = .parked then some (.deposit 0) else none, gen := 5, launch := some noLaunch
    query := some { cands := [1], answers := ans, back := [] } }

theorem test_hyp_MigrationEvents_query : ∀ h ∈ [{ (message 0).hdr with port := 1 }], ∀ src ∈ [({ q := 0, c := 1, k := 2, gen := 5 } : StrandId)],
    intercept h 1 (.migrQuery (h, src) 1) (asking .running []) = none ∧ h.port = (1 : Fin 64).val ∧
    intercept h 0 (.migrQueryAnswer (h, src)) (asking .running [(1, [24, 24, 24, 24])]) = none := by decide

theorem test_hyp_MigrationEvents : (asking .running []).alive { q := 0, c := 1, k := 2, gen := 5 } = true ∧
    ((asking .running []).ctx (.strand 0 1 2)).query = some { cands := [1], answers := [], back := [] } ∧
    (asking .migrating []).alive { q := 0, c := 1, k := 2, gen := 5 } = true ∧
    ((asking .migrating []).ctx (.strand 0 1 2)).st = .migrating ∧ ((asking .migrating []).launch noLaunch).any (fun l => !l.cancelled) = true ∧
    intercept (message 0).hdr 0 (.migrationImage { hdr := (message 0).hdr, q := 0, c := 0, source := { q := 0, c := 1, k := 2, gen := 5 }
                                                   image := [] }) (asking .migrating []) = none ∧
    ((asking .migrating []).core 0 0).scrubbing = false ∧ imageSlot ((asking .migrating []).core 0 0) none 0 = some 1 ∧
    (((asking .migrating []).core 0 0).ctxs.get 1).st = .free ∧ fieldAt [] 223 1 = 0 ∧
    ((asking .migrating []).core 0 0).fifo = [] := by
  repeat' apply And.intro
  all_goals first | exact Or.inl ⟨quiet_of (by decide) rfl, rfl⟩ | exact Or.inr rfl | exact quiet_of (by decide) rfl | exact given2 (by decide) rfl rfl | exact given1 (by decide) rfl | decide | rfl

theorem test_hyp_StrandEvents : (s0.updCtx me fun y => { y with st := .parked, why := some .answer }).alive
      { q := 0, c := 0, k := 0, gen := 1 } = true ∧ Answer.landed ≠ .refused ∧
    intercept (message 0).hdr 0 (.targetAnswer ((message 0).hdr, .strand { q := 0, c := 0, k := 0, gen := 1 }) .landed)
      (s0.updCtx me fun y => { y with st := .parked, why := some .answer }) = none ∧
    (full.core 0 1).run = none ∧ engineStopped full (pIdx (full.quads.get 0).part) (.core 0 1) = false ∧
    (full.quads.get 0).power ≠ .gated ∧ frozen full (full.ctx (.strand 0 1 3)) = false ∧
    ((full.updCore 0 1 fun x => { x with ready := [3, 4] }).core 0 1).ready = 3 :: [4] ∧
    (full.ctx (.strand 0 1 3)).why ≠ some .debug := by
  repeat' apply And.intro
  all_goals first | exact Or.inl ⟨quiet_of (by decide) rfl, rfl⟩ | exact Or.inr rfl | exact quiet_of (by decide) rfl | exact given2 (by decide) rfl rfl | exact given1 (by decide) rfl | decide | rfl
/-! ## Lanes and tiles -/

/-- The effect of a form that is granted at once on one lane of a vector register. -/
def laneAfter (i : Instr) (s : State) (d : Fin 8) (k : Fin 96) : Option (BitVec 32) :=
  match exec i s with
  | .next t => some (((t.core 0 0).w.get d).data.get k)
  | .fault _ | .refused _ => none

/-- The strand holds the lease; w1 is 3 in every lane, w2 is -1, and m1 names lane 0. -/
def leased : State :=
  match takeLease 0 0 0 true s0 with
  | some v => writeM me 1 1 (writeW me 2 (BitVec.allOnes 96) (Vector.replicate 96 (BitVec.allOnes 32))
      (writeW me 1 (BitVec.allOnes 96) (Vector.replicate 96 3) v))
  | none => s0

theorem test_lane_add : laneAfter (.wAdd .s32 0 3 1 2) leased 3 95 = some 2 := by decide
theorem test_lane_mask : laneAfter (.wMul .s32 1 3 1 1) leased 3 0 = some 9 ∧ laneAfter (.wMul .s32 1 3 1 1) leased 3 1 = some 0 := by
  decide
theorem test_lane_packed : laneAfter (.wAdd .z16 0 3 2 1) leased 3 7 = some 0xFFFF0002 := by decide
theorem test_l16_rsub : laneAfter (.l16Rsub .s32 0 1 2) leased 1 0 = some 0xFFFFFFFC := by decide

/-- The state that a lane form's effect starts from. -/
def lv : State := tickWindows me leased

/-- A form that closes no window issues in a quiet state from the state with its windows ticked. -/
theorem issues_open {i : Instr} {s : State} (who : s.md.who = me)
    (h : (mayIssue s me = true ∧ dispatchHolds s me (shapeOf i) = false ∧ classStop (Agent.cls me) (shapeOf i).major (isQown i) = none) ∧
      (closes (shapeOf i).major = false ∧ (s.arch me).backEdge = false) ∧
      (s.ctx me).fl.wins = [] ∧ (s.ctx me).fl.pend = [] ∧ (s.ctx me).sp.inregion = false ∧ regionRefused (s.ctx me) = none)
    (trig : pcTrigger s me = (s, false)) : Issues i s (tickWindows me s) := by
  refine .inr ?_
  rw [who]
  exact gate_open h.1.1 h.1.2.1 h.1.2.2 trig h.2.1.1 h.2.1.2 h.2.2.1 h.2.2.2.1 h.2.2.2.2.1 h.2.2.2.2.2

/-- A form of the strand is granted in the moment it issues. -/
theorem grants_of {i : Instr} {unit : SubUnit} {ops : List (Src × Word)} {claims : List Claim} {s v : State} (who : s.md.who = me)
    (is : Issues i s (tickWindows me s)) (lease : takeLease 0 0 0 (isLane (shapeOf i).major) (tickWindows me s) = some v)
    (reads : ∀ p ∈ ops, Reads v me p.1 p.2)
    (h : dqsEmpty (v.quads.get 0) = true ∧ (v.quads.get 0).sweeping = false ∧ unit ∉ (v.quads.get 0).busy ∧
      engineStopped v (pIdx (v.quads.get 0).part) (.easel 0) = false ∧ claimsBegin (v.quads.get 0) claims = true ∧
      sbRoom (v.quads.get 0) (entryCount claims) = true) : Grants i unit ops claims 0 0 0 s v :=
  ⟨who, ⟨_, is, lease⟩, reads, h.1, h.2⟩

theorem test_hyp_LaneResults : (∀ i ∈ [Instr.wFma .f32 1 3 1 2 1, .l16Mac .bf16 1 3 2], Grants i .lanes [] [] 0 0 0 leased lv) ∧
    readM lv me 1 = .ok 1 ∧ (readW lv me 1).toOption.isSome = true ∧ (readW lv me 7).toOption.isSome = true ∧
    (readW lv me 3).toOption.isSome = true := by
  refine ⟨?_, rfl, by decide, by decide, by decide⟩
  simp only [List.forall_mem_cons, List.not_mem_nil, false_imp_iff, implies_true, and_true]
  exact ⟨grants_of rfl (issues_open rfl (by decide) rfl) rfl (by simp) (by decide),
    grants_of rfl (issues_open rfl (by decide) rfl) rfl (by simp) (by decide)⟩

theorem test_hyp_LaneElements : tyFmt .s16 = none ∧ tySigned .s16 = true ∧ tySigned .z32 = false ∧ tyWidth .z32 = 32 ∧
    (tyFmt .f16).isSome = true ∧ packed16 .bf16 = true ∧ packed16 .f32 = false ∧ (7 : Fin 8) ≠ 0 := by decide

/-- The launch has an s32 tile of 8 rows of 8 at handle 1, an accumulator tile of 8 rows at 2, an s32 tile of 96 columns at 3. -/
def tiled : State :=
  let alloc := fun (h : Fin 64) (w : Word) (s : State) =>
    match exec (.talloc (.n 0) h) (writeDst s me (.n 0) w) with
    | .next t => t
    | .fault _ | .refused _ => s
  alloc 3 0x20600008 (alloc 2 0x510600008 (alloc 1 0x20080008 s0))

theorem test_tiles_bound : ((tiled.quads.get 0).tiles.map fun e => (e.1, e.2.handle)) = [(0, 1), (1, 2), (2, 3)] := by decide

/-- n0 holds a word. -/
def holding (w : Word) (s : State) : State := writeDst s me (.n 0) w

theorem test_tile_store_then_load : (match exec (.tst (.n 0) 1) (writeDst (holding 0x0000000700070000 tiled) me .push 0x55) with
    | .next t => (match exec (.tld (.n 0) 1 0 0) t with
      | .next u => some ((u.arch me).q.get 0).data | .fault _ | .refused _ => none)
    | .fault _ | .refused _ => none) = some 0x55 := by decide

/-- The tiles of a form that names these handles, as the strand's context has them. -/
def named (hs : List (Fin 64)) (s : State) : Handles := resolveHandles s me hs

theorem test_hyp_LaneFunctions : Grants (.wsampPick 1 3 1 2) .lanes [] [] 0 0 0 leased lv ∧
    Grants (.wmoveBcast 0 (.n 0) 3) .lanes [(.n 0, 0)] [] 0 0 0 leased lv ∧ readM lv me 1 = .ok 1 ∧ readM lv me 2 = .ok 0 ∧
    (readW lv me 2).toOption.isSome = true ∧ (rowTile (named [3] tiled) tiled me 0x0000000700000003).toOption.isSome = true ∧
    (match rowTile (named [3] tiled) tiled me 0x0000000700000003 with
      | .ok p => (rowLanes tiled me p.2 0x0000000700000003 [0, 95]).toOption.isSome &&
          decide ((tiled.quads.get 0).entry p.1 = some p.2)
      | .error _ => false) = true :=
  ⟨grants_of rfl (issues_open rfl (by decide) rfl) rfl (by simp) (by decide),
    grants_of rfl (issues_open rfl (by decide) rfl) rfl (fun p hp => by rw [List.mem_singleton.mp hp]; rfl) (by decide),
    rfl, rfl, by decide, by decide, by decide⟩

theorem test_hyp_TileForms : Issues (.talloc (.n 0) 5) s0 s0 ∧ Reads (holding 0x20080008 s0) me (.n 0) 0x20080008 ∧
    shapeOk 0x20080008 = true ∧ shapeOk 0x20080000 = true ∧ shRows 0x20080000 = 0 ∧ shapeOk 0x2000000000080008 = false ∧
    (tiled.quads.get 0).find noLaunch 5 = none ∧ ((tiled.quads.get 0).find noLaunch 1).isSome = true ∧
    tiled.launchOf me = some noLaunch ∧ (tiled.quads.get 0).sweeping = false ∧ sbRoom (tiled.quads.get 0) 2 = true ∧
    (launchWide 5 && (directory tiled noLaunch 5).isSome) = false ∧ ((tiled.quads.get 0).tiles.filter fun y => y.2.launch == noLaunch).length < 64 ∧
    (tiled.quads.get 0).freeEntry = some 3 ∧ ((tiled.quads.get 0).place 0x20080008).isSome = true ∧
    (nextGen (tiled.quads.get 0).liveGens 300 (tiled.quads.get 0).qgen.toNat).isSome = true ∧
    Issues (.tfree 1) tiled tiled ∧ Issues (.tld (.n 0) 1 0 0) tiled tiled ∧ Issues (.tst (.n 0) 1) tiled tiled ∧
    loadEntries (tiled.quads.get 0) 0 0 = [] ∧ Reads tiled me (.q 0) 0 ∧ Issues (.tzero (.n 0) 1) (holding 0x8 tiled) (holding 0x8 tiled) := by
  repeat' apply And.intro
  all_goals first | exact Or.inl ⟨quiet_of (by decide) rfl, rfl⟩ | exact Or.inr rfl | exact quiet_of (by decide) rfl | exact given2 (by decide) rfl rfl | exact given1 (by decide) rfl | decide | rfl

/-- Handle 7 has the shape of handle 1. -/
def twin : State :=
  match exec (.talloc (.n 0) 7) (holding 0x20080008 tiled) with
  | .next t => t
  | .fault _ | .refused _ => tiled

/-- An easel form writes row 7 of handle 1, or none does; a tile.ld of the strand has its entry for that row, or not. -/
def behind (blocked load : Bool) : State :=
  let e := fun (n : Nat) (w : Bool) (o : SbOwner) => { id := n, tile := 0, gen := 2, lo := 7, hi := 7, write := w, owner := o : SbEnt }
  (holding 0x0000000700070000 tiled).updQuad 0 fun x => { x with sb := (if blocked then [e 1 true (.easel .lanes)] else []) ++ (if load then [e 2 false (.load 0 0)] else []) }

/-- A word that names row 7, column 7 of handle 1, or row 7 with row 6 of another tile. -/
theorem test_hyp_TileForms_words : ((tiled.quads.get 0).find noLaunch 1).all (fun p => elementOk p.2 0x0000000700070000 &&
      !elementOk p.2 0x0000000800000000 && ewDrow 0x0000000700070000 == 0 && !bitAt (0x0000000700070000 : Word) 0 &&
      claimsBegin (tiled.quads.get 0) [{ tile := p.1, gen := p.2.gen, lo := 7, hi := 7, write := false }] &&
      decide (elementValue (tiled.quads.get 0) false p.2 0x0000000700070000 = .ok 0) &&
      (readTile (tiled.quads.get 0) false p.2 (rowOff p.2 7) 32).toOption.isSome &&
      bits (8 : Word) 47 32 == 0 && decide (bits (8 : Word) 15 0 ≤ shRows p.2.shape)) = true ∧
    ((tiled.quads.get 0).find noLaunch 1).all (fun p =>
      !claimsBegin ((behind true false).quads.get 0) [{ tile := p.1, gen := p.2.gen, lo := 7, hi := 7, write := false }]) = true ∧
    ((twin.quads.get 0).find noLaunch 7).isSome = true ∧ Issues (.tld (.n 0) 1 7 0) twin twin ∧
    elementOk { launch := noLaunch, handle := 1, shape := 0x20080008, base := 0, gen := 2, freeing := false, serial := 0 } 0x0000000600000001 = true := by
  repeat' apply And.intro
  all_goals first | exact Or.inl ⟨quiet_of (by decide) rfl, rfl⟩ | exact Or.inr rfl | exact quiet_of (by decide) rfl | exact given2 (by decide) rfl rfl | exact given1 (by decide) rfl | decide | rfl

theorem test_hyp_TileForms_waiting : loadEntries ((behind true true).quads.get 0) 0 0 ≠ [] ∧ loadBegins ((behind true true).quads.get 0) 0 0 = false ∧
    loadBegins ((behind false true).quads.get 0) 0 0 = true ∧ waitedFault ((behind false true).ctx me).waited ((behind false true).ctx me) = none ∧
    Given (behind false true) me [(.n 0, 0x0000000700070000)] ∧ Issues (.tld (.n 0) 1 0 0) (behind true true) (behind true true) ∧
    (waitedOps ((behind false true).quads.get 0) 0x0000000700070000 (loadEntries ((behind false true).quads.get 0) 0 0)).toOption.any (fun p =>
      (loadEffect 0 p 0 me (behind false true)).toOption.isSome) = true := by
  repeat' apply And.intro
  all_goals first | exact Or.inl ⟨quiet_of (by decide) rfl, rfl⟩ | exact Or.inr rfl | exact quiet_of (by decide) rfl | exact given2 (by decide) rfl rfl | exact given1 (by decide) rfl | decide | rfl

theorem test_hyp_TileStorage : (63 : Nat) % 64 + 1 ≤ 64 ∧ 0 % 64 + 64 ≤ 64 ∧ (2 ^ 34 - 1 : Nat) < 2 ^ 34 ∧ (35 : Nat) < 36 := by decide

/-- Handles 4 to 6 hold weights of 96 s8 rows in planes, s8 activations of 8 rows of 96 and an s32 result. -/
def woven : State :=
  let alloc := fun (h : Fin 64) (w : Word) (s : State) =>
    match exec (.talloc (.n 0) h) (holding w s) with
    | .next t => t
    | .fault _ | .refused _ => s
  alloc 6 0x20600008 (alloc 5 0x00600008 (alloc 4 0x200600060 (alloc 2 0x510600008 s0)))

/-- The tiles that a canvas form of the strand names. -/
def wovenTiles (hs : List (Fin 64)) : Handles := named hs woven

/-- The binding of handle 4 declared at the core. -/
def bound : State :=
  match loadBinding false 4 0 0x280000 (wovenTiles [4, 0]) me woven with
  | .ok b => woven.updCore 0 0 fun y => { y with wbind := b }
  | .error _ => woven

/-- A window word of handle 4; a pass word of 8 rows of s8 activations from row 0 into accumulator row 0, or of none, with no
scale tile; a drain word of 8 rows, kind 5. -/
theorem test_hyp_CanvasForms :
    (match loadBinding false 4 0 0x280000 (wovenTiles [4, 0]) me woven with
      | .ok b => (match latch (woven.quads.get 0) false b with
        | .ok l => metaOk b.shape b.row0 l.1 | .error _ => false)
      | .error _ => false) = true ∧
    (passOps false 5 2 0x4000000000080000 (named [5, 2, 0] bound) me bound).toOption.any (fun p =>
      (passWeights (bound.quads.get 0) false (mustReload (bound.quads.get 0) p.bind) p.bind).toOption.isSome &&
        !injected (bound.quads.get 0) p.blocks && decide ((bound.quads.get 0).entry p.acc.1 = some p.acc.2)) = true ∧
    pwRows 0x4000000000080000 = 8 ∧ pwRows 0x4000000000000000 = 0 ∧
    (passOps false 5 2 0x4000000000000000 (named [5, 2, 0] bound) me bound).toOption.isSome = true ∧
    (drainOps 2 6 0x280008 (wovenTiles [2, 6]) me woven).toOption.any (fun p => decide ((woven.quads.get 0).entry p.2.1 = some p.2.2)) = true ∧
    dwKind 0x280008 = 5 ∧ dwRows 0x280008 = 8 ∧
    (drainSource 2 8 (wovenTiles [2]) me woven).toOption.any (fun p => decide ((woven.quads.get 0).entry p.1 = some p.2)) = true ∧
    (drainSource 2 0 (wovenTiles [2]) me woven).toOption.isSome = true ∧ bits (8 : Word) 63 19 = 0 ∧
    Grants (.czero (.n 0) 2 0) .drain [(.n 0, 8)] [] 0 0 0 (holding 8 woven) (tickWindows me (holding 8 woven)) := by
  repeat' apply And.intro
  all_goals first
    | exact grants_of rfl (issues_open rfl (by decide) rfl) rfl (fun p hp => by rw [List.mem_singleton.mp hp]; rfl) (by decide)
    | decide

/-- A row of a pass succeeds, whatever the weights are. -/
theorem test_hyp_CanvasForms_pass : ∀ cols sc, (passOps false 5 2 0x4000000000080000 (named [5, 2, 0] bound) me bound).toOption.any (fun p =>
    (passRows (bound.quads.get 0) false p cols sc 0x4000000000080000 [0]).toOption.isSome) = true := fun _ _ => rfl

/-- A row of a drain, for which the statement asks that it succeeds. -/
theorem test_hyp_CanvasForms_rows :
    (drainOps 2 6 0x280001 (wovenTiles [2, 6]) me woven).toOption.any (fun p =>
      (drainRows (woven.quads.get 0) p.1.2 p.2.2 0x280001 (List.range 1)).toOption.isSome) = true := by decide

/-! ## Engines, microcode, system forms -/

/-- A copy of handle 1 with a record of zeros at the address in n0, which reads 0x40. -/
def copying : State := holding 0x40 tiled

/-- Barrier 5 belongs to a launch, with these commands pending. -/
def barred (l : LaunchId) (n : Nat) : State :=
  copying.updQuad 0 fun x => x.updBar 5 fun y => { y with owner := some l, pending := n }

theorem test_hyp_EngineForms : copying.md.who = .strand 0 0 0 ∧ Reads copying me (.n 0) 0x40 ∧ Issues (.cpyIn (.n 2) (.n 0) 1 0) copying copying ∧
    (copying.quads.get 0).sweeping = false ∧ (copying.launchRec me).isSome = true ∧ (drained me copying).toOption.isSome = true ∧
    (boundTile copying me 1).toOption.isSome = true ∧ launchWide 1 = false ∧
    (match readRecs 0 me 0x40 copying, boundTile copying me 1, copying.launchRec me with
      | .ok (rs, pa, u), .ok p, some l =>
        (kick 0 0 me l 0x40 rs p p (BitVec.ofNat 5 (pickHart (u.quads.get 0)).val) u).toOption.isSome &&
          (pickWeir (requesterOf u me) (wd (Rec.base rs)) pa u).toOption.isSome &&
          (reqClaims 0 (reqRows 0 (Rec.rows rs) p.2.shape p.2.shape) p p).length == 0
      | _, _, _ => false) = true ∧
    (copying.hart (engAgent 0 0)).all (fun h => decide (h.queue.length < 16)) = true ∧ tagOf 0 (copying.ctx me).sp.btag = none ∧
    (copying.ctx me).outst.length < 32 ∧ copying.launchOf me = some noLaunch ∧
    Issues (.barm (.n 0) 5) copying copying ∧ Issues (.bwait 5) copying copying ∧ Issues (.barrClaim (.n 2) (.n 0) 5) copying copying ∧
    (0x40 : Word) ≠ 0 ∧ ((copying.quads.get 0).bars.get 5).owner = none ∧ Reads copying me (.n 3) 0 ∧
    ((barred noLaunch 0).quads.get 0).bars.get 5 = { owner := some noLaunch, pending := 0 } ∧
    ((barred noLaunch 1).quads.get 0).bars.get 5 = { owner := some noLaunch, pending := 1 } ∧
    Issues (.bwait 5) (barred noLaunch 1) (barred noLaunch 1) ∧ Reads (barred noLaunch 1) me (.n 0) 0x40 ∧
    (barred noLaunch 1).launchOf me = some noLaunch := by
  repeat' apply And.intro
  all_goals first | exact Or.inl ⟨quiet_of (by decide) rfl, rfl⟩ | exact Or.inr rfl | exact quiet_of (by decide) rfl | exact given2 (by decide) rfl rfl | exact given1 (by decide) rfl | decide | rfl

/-- A hart of quad 0 with a placed word, its staging buffer of zeros, an address in n0 and a length word in n1. -/
def hs (len : Word) : State :=
  writeDst (writeDst (placeWord State.reset 0x61) (.hart 0 0) (.n 0) 0x40) (.hart 0 0) (.n 1) len

/-- The hart has no request. -/
def idle : State := (hs 16).updHart (.hart 0 0) fun h => { h with queue := [] }

/-- Slot 0 is granted to the hart's partition, and the hart has a key. -/
def keyed : State :=
  let s := (hs 16).updHart (.hart 0 0) fun h => { h with gcm := some (1, 2) }
  { s with mg := { s.mg with slots := s.mg.slots.set 0 { key := 1, salt := 2, grant := some (pIdx (s.partOf (.hart 0 0))) } } }

theorem test_hyp_MicrocodeForms : (hs 16).md.who = .hart 0 0 ∧ ((hs 16).hart (.hart 0 0)).isSome = true ∧
    Issues (.engxDmard (.n 2) (.n 0) (.n 1)) (hs 16) (hs 16) ∧ Issues .engxKwait (hs 16) (hs 16) ∧ Issues (.engxMbox (.n 0)) (hs 16) (hs 16) ∧
    Reads (hs 16) (.hart 0 0) (.n 0) 0x40 ∧ Reads (hs 16) (.hart 0 0) (.n 1) 16 ∧
    ((hs 16).hart (.hart 0 0)).any (fun h => h.queue.length == 1) = true ∧
    (lenWord (.hart 0 0) false 16).toOption.any (fun l => !l.via) = true ∧ (lenWord (.hart 0 0) true 16).toOption.any (fun l => !l.via) = true ∧
    (lenWord (.hart 0 0) false 4097).toOption = none ∧
    (lenWord (.hart 0 0) false 4096).toOption.isSome = true ∧ (lenWord (.weir 0) false 0x60010).toOption.any (fun l => l.via) = true ∧
    (idle.hart (.hart 0 0)).any (fun h => h.queue.isEmpty) = true ∧ Issues .engxKwait idle idle ∧ Issues (.engxMbox (.n 0)) idle idle ∧
    bits (5 : Word) 7 0 = 5 ∧ Reads (hs 16) (.hart 0 0) (.n 5) 0 ∧ Issues (.engxGcmkey (.n 5)) (hs 16) (hs 16) ∧
    ((hs 16).mg.slots.get 0).grant ≠ some (pIdx ((hs 16).partOf (.hart 0 0))) ∧
    (keyed.mg.slots.get 0).grant = some (pIdx (keyed.partOf (.hart 0 0))) ∧ Issues (.engxGcmkey (.n 5)) keyed keyed ∧
    (keyed.hart (.hart 0 0)).any (fun h => h.gcm == some (1, 2)) = true ∧ Issues (.engxGcmenc (.n 2) (.n 0) (.n 1)) keyed keyed ∧
    1 ≤ (16 : Word).toNat ∧ (16 : Word).toNat ≤ 4080 := by
  repeat' apply And.intro
  all_goals first | exact Or.inl ⟨quiet_of (by decide) rfl, rfl⟩ | exact Or.inr rfl | exact quiet_of (by decide) rfl | exact given2 (by decide) rfl rfl | exact given1 (by decide) rfl | decide | rfl

/-- The security core with a placed word; n0 and n1 hold these. -/
def secure (x y : Word) : State := writeDst (writeDst (placeWord State.reset 0x63) .sec (.n 0) x) .sec (.n 1) y

theorem test_hyp_PrivForms : (secure 3 1).md.who = .sec ∧ Reads (secure 3 1) .sec (.n 0) 3 ∧ Reads (secure 3 1) .sec (.n 1) 1 ∧
    (∀ i ∈ [Instr.halt (.n 0) (.n 1), .stoprec (.n 2) (.n 0), .cctl (.n 0) (.n 1), .tlbinv (.n 0) (.n 1)], closes (shapeOf i).major = true) ∧
    Issues (.halt (.n 0) (.n 1)) (secure 3 1) (secure 3 1) ∧ Issues (.stoprec (.n 2) (.n 0)) (secure 3 1) (secure 3 1) ∧
    ((secure 3 1).parts.get 3).toStop = [] ∧ Issues (.cctl (.n 0) (.n 1)) (secure 3 2) (secure 3 2) ∧
    (homeFence 3 (secure 3 2)).toOption.isSome = true ∧ Issues (.tlbinv (.n 0) (.n 1)) (secure 0 2) (secure 0 2) ∧
    bits (2 : Word) 63 16 = 0 ∧ bits (2 : Word) 7 2 = 0 ∧ Issues (.genscrub (.n 2) (.n 0)) (secure 63 1) (secure 63 1) ∧
    Issues (.qown (.n 2) (.n 0) (.n 1)) (secure 63 1) (secure 63 1) ∧ (63 : Word).toNat < 64 ∧ qownOk 1 = true ∧
    ((secure 63 1).ctx .sec).answer ≠ some .landed ∧ ((secure 63 1).quads.get 63).scrubbing = false ∧
    quadBusy (secure 63 1) 63 = false ∧ quadTraffic (secure 63 1) 63 = false ∧ qownRefused 63 1 (secure 63 1) = none ∧
    quadBusy (placeWord State.reset 1) 0 = true ∧ (64 : Word).toNat = 64 ∧ Issues (.genscrub (.n 2) (.n 0)) (secure 64 1) (secure 64 1) ∧
    Issues (.pset (.n 0) (.n 1)) (secure 0x1003F 0x10001) (secure 0x1003F 0x10001) ∧ bits (0x1003F : Word) 63 17 = 0 ∧
    bits (0x1003F : Word) 7 6 = 0 ∧ bits (0x1003F : Word) 15 8 < 64 ∧ (0x10000 : Word) &&& ~~~ (0x000F_FFFF_FFFF_0000 : Word) = 0 ∧
    (1 : Word) &&& ~~~ (0x000F_FFFF_FFFF_0000 : Word) ≠ 0 ∧ (drained .sec (secure 0x1003F 0x10000)).toOption.isSome = true ∧
    isFrozen (secure 0x1003F 0x10000) 0 = false ∧ configClosed (secure 0x1003F 0x10000) 0 = false ∧
    isFrozen ((secure 0x1003F 0x10000).updPart 0 fun x => { x with st := .locked }) 0 = true := by
  repeat' apply And.intro
  all_goals first | exact Or.inl ⟨quiet_of (by decide) rfl, rfl⟩ | exact Or.inr rfl | exact quiet_of (by decide) rfl | exact given2 (by decide) rfl rfl | exact given1 (by decide) rfl | decide | rfl

theorem test_hyp_CoreClasses : (shapeOf (.qown (.n 2) (.n 0) (.n 1))).major = 0x31 ∧ isQown (.qown (.n 2) (.n 0) (.n 1)) = true ∧
    (shapeOf (.aluAdd .drop (.n 0) (.n 0))).major ≠ 0x41 ∧ mayIssue s0 s0.md.who = true ∧
    dispatchHolds s0 s0.md.who (shapeOf (.qown (.n 2) (.n 0) (.n 1))) = false ∧ regionRefused (s0.ctx s0.md.who) = none ∧ Agent.cls s0.md.who = .strand ∧ Agent.cls (.cmd 0) = .command ∧
    mayIssue { State.reset with cmds := State.reset.cmds.each fun x => { x with role := .active } } (.cmd 0) = true := by decide

/-! ## Events -/

/-- The head of core 0's dispatch queue is a lane form; the lanes and the canvas are busy or not. -/
def queued (b : List SubUnit) : State :=
  (leased.updQuad 0 fun x => { x with busy := b, sb := [{ id := 4, tile := 0, gen := 2, lo := 0, hi := 1, write := true, owner := .easel .lanes }] }).updCore
    0 0 fun x => { x with dq := [lateAdd] }

/-- Quad 5 is scrubbed for the security core; its tile generations are swept. -/
def scrubbed : State :=
  ((secure 5 1).updQuad 5 fun x => { x with scrubbing := true, sweeping := true }).updCtx .sec fun y =>
    { y with st := .parked, why := some (.scrub 5) }

theorem test_hyp_EaselEvents : dqsEmpty (s0.quads.get 0) = true ∧ ((queued []).quads.get 0).rr = 0 ∧
    (eligible 0 0 (queued [])).isSome = true ∧ (eligible 0 0 (queued [])).all (fun e =>
      (waitedFault e.waited ((queued []).ctx (.strand 0 0 e.k))).isNone &&
        (grantForm 0 0 (easelForm e.ins) e.ops e.tiles (.strand 0 0 e.k) (queued [])).toOption.isSome) = true ∧
    SubUnit.lanes ∈ ((queued [.lanes, .canvas]).quads.get 0).busy ∧ (((queued []).quads.get 0).sb.find? fun e => e.id == 4).isSome = true ∧
    (((queued []).quads.get 0).sb.all fun e => entryDone (queued []) 0 e) = true ∧ (scrubbed.quads.get 5).sweeping = true ∧
    (scrubbed.quads.get 5).scrubbing = true ∧ ((tiled.quads.get 0).tiles.map Prod.fst).Nodup ∧ scrubber 5 scrubbed = some .sec := by
  repeat' apply And.intro
  all_goals first | exact Or.inl ⟨quiet_of (by decide) rfl, rfl⟩ | exact Or.inr rfl | exact quiet_of (by decide) rfl | exact given2 (by decide) rfl rfl | exact given1 (by decide) rfl | decide | rfl

/-- The one quad of the launch has opened a collective on its tile of handle 1, with the launch's mask and identity 0. -/
def collecting : State :=
  tiled.updQuad 0 fun x => { x with harts := x.harts.set 0 { x.harts.get 0 with queue := [{ placeRequest with
    kind := 4, tgen := (x.tiles.head?.map fun e => e.2.gen).getD 0, rows := 1, recs := leBytes 32 1 }] } }

theorem test_hyp_EaselEvents_collective : collReady collecting noLaunch 0 = true ∧
    (match participants collecting noLaunch 0 with
      | p :: rest => (match reqTile collecting p with
        | .ok t => (p :: rest).all (collAgree collecting p t) && (collRows collecting p.recs t (p :: rest) (List.range p.rows)).toOption.isSome
        | .error _ => false)
      | [] => false) = true := by decide

/-- An agent parked for this. -/
def parked (w : Why) : State := (handled id).updCtx me fun y => { y with st := .parked, why := some w }

/-- A page request of granule 7 is outstanding; a walk and an agent watch sectors. -/
def paging : State :=
  let s := parked (.waita 9)
  { s with
    xl := { s.xl with groups := [{ part := 0, pasid := 0, granule := 7, kind := .read }], granq := [{ part := 0, pasid := 0, granule := 3, kind := .read }]
                      monitors := [{ sector := 9, who := .agent me }, { sector := 5, who := .walk 0 0 7 }] }
    md := { s.md with req := { s.md.req with granule := 7 } } }

theorem test_hyp_WaitEvents : ((parked (.waitp 0)).ctx me).st = .parked ∧ duePassed (parked (.waitp 0)) 0 = true ∧
    lateAllowed (parked (.waitp 0)) me = true ∧ ((parked (.deposit 0)).ctx me).why = some (.deposit 0) ∧
    (paging.xl.monitors.filter fun m => m.sector == 9) = [{ sector := 9, who := .agent me }] ∧
    (paging.xl.monitors.filter fun m => m.sector == 5) = [{ sector := 5, who := .walk 0 0 7 }] ∧
    (paging.ctx me).why = some (.waita 9) ∧ (waiting.ctx me).fl.pend.length = 1 ∧ (waiting.ctx me).fl.wst = [] ∧
    ((parked .flush).ctx me).why = some .flush ∧ (s0.ctx me).st ≠ .parked ∧
    ({ part := reqPart paging, pasid := paging.md.req.pasid, granule := paging.md.req.granule, kind := paging.md.req.kind } : PageReq) ∈
      paging.xl.groups ∧
    ({ part := reqPart s0, pasid := s0.md.req.pasid, granule := s0.md.req.granule, kind := s0.md.req.kind } : PageReq) ∉ s0.xl.groups ∧
    hostAccepted paging (pIdx (reqPart paging)) .io = true ∧
    hostAccepted (paging.updQuad 0 fun x => { x with owner := x.owner ||| 2 }) 0 .io = false ∧ paging.xl.granq.length = 1 ∧ paging.xl.granWait = [] := by decide

/-- Firmware runs. -/
def firm : State := { s0 with cmds := s0.cmds.set 0 { s0.cmds.get 0 with role := .active } }

/-- The line of partition 0 is raised, its walk has begun and these engines are awaited, with a fault of the strand recorded. -/
def walking (es : List Engine) : State :=
  firm.updPart 0 fun x => { x with line := true, walking := true, toStop := es
                                   faults := [{ kind := 3, cause := 0, strand := some { q := 0, c := 0, k := 0, gen := 1 }
                                                launch := some noLaunch, rseq := 0 }] }

theorem test_hyp_HaltEvents : ((List.finRange 64).filter fun p =>
      ((walking [.core 0 0]).parts.get p).line && ((walking [.core 0 0]).parts.get p).toStop.contains (.core 0 0)) = [0] ∧
    (s0.quads.get 0).enabled = true ∧ (s0.quads.get 0).halt.hold = false ∧ held (walking []) 0 = false ∧ firmwareUp (walking []) = true ∧
    ((walking []).parts.get 0).faults ≠ [] ∧ (firm.parts.get 0).walking = false ∧
    (levelPol placeLaunch .graph).toNat % 4 = 2 ∧ (levelPol placeLaunch .unit).toNat % 4 = 0 ∧
    (levelPol { placeLaunch with rec_ := { placeLaunch.rec_ with lpol := 5 } } .launch).toNat % 4 = 1 ∧
    (levelPol { placeLaunch with rec_ := { placeLaunch.rec_ with lpol := 5 } } .launch).toNat / 4 % 8 = 1 ∧
    ((parked .debug).ctx me).why = some .debug ∧ ((parked .debug).ctx me).st = .parked ∧
    held ((walking []).updQuad 0 fun x => { x with halt := { x.halt with hold := true } }) 0 = true ∧
    ((withCtx fun y => { y with copy := { y.copy with retriable := true, tries := 0 } }).ctx (agentOf { q := 0, c := 0, k := 0, gen := 1 })).copy.retriable = true ∧
    (levelPol { placeLaunch with rec_ := { placeLaunch.rec_ with upol := 5 } } .unit).toNat = 5 := by decide

/-- Slot 3 stands so; its queue is 3. The kick aperture is open. -/
def slotIn (st : HwSt) (f : HwSlot → HwSlot) : State :=
  let s := firm.updSlot 3 fun x => f { x with st := st, qid := 3, part := 1 }
  { s with cw := { s.cw with kapbase := 1 + 2 ^ 44, kftbase := 2 ^ 43 }, ctc := 300000 }

theorem test_hyp_SlotEvents : bitAt s0.cw.kapbase 0 = false ∧ bitAt (slotIn .idle id).cw.kapbase 0 = true ∧
    kftValid (slotIn .idle id) 3 = false ∧
    kftValid (writePhys (.home 0) (kftAddr (slotIn .idle id) 3 + 20) [1] (slotIn .idle id)) 3 = true ∧
    slotOfQueue (slotIn .idle id) 3 = some 3 ∧ slotOfQueue (slotIn .idle id) 4 = none ∧ ((slotIn .unmapping id).slots.get 3).st = .unmapping ∧
    (s0.slots.get 3).st = .free ∧ outstanding (slotIn .unmapping id) 3 = false ∧ ((slotIn .unmapping id).slots.get 3).writesHeld = false ∧
    outstanding s0 0 = true ∧ ((slotIn .resetting id).slots.get 3).st = .resetting ∧ outstanding (slotIn .resetting id) 3 = false ∧
    (homeFence 1 (slotIn .resetting id)).toOption.isSome = true ∧ ((slotIn .runnable id).slots.get 3).eprio.toNat < 7 ∧
    ((slotIn .runnable id).slots.get 3).age.toNat + (slotIn .runnable id).cw.ageint.toNat ≤ (slotIn .runnable id).ctc.toNat ∧
    quantumDue (slotIn .running fun x => { x with quantum := 1 }) 3 = true ∧ deadlineDue (slotIn .preempting id) 3 = true ∧
    strandsStopped (slotIn .preempting id) 3 = true ∧ messagesLand (slotIn .preempting id) 3 = true ∧
    ((slotIn .preempting id).slots.get 3).writesHeld = false ∧ messagesLand (drainQueue 3 (slotIn .preempting id)) 3 = true ∧
    strandsStopped (s0.updSlot 0 fun x => { x with st := .preempting }) 0 = false ∧
    queueRequests (slotIn .preempting id) 3 = [] ∧ boardOpen (slotIn .preempting id) 3 = false ∧
    ((slotIn .preempting id).parts.get 1).faults = [] ∧ saveMismatch (slotIn .preempting id) 3 [] = none ∧
    ((slotIn .running fun x => { x with saved := true }).slots.get 3).saved = true ∧
    (slotIn .running fun x => { x with saved := true }).slots.toList.all (fun x => x.st != .preempting) = true ∧
    readPhysN (slotIn .running fun x => { x with saved := true }) 0 1 ≠ Config.rev ∧
    readPhysN (writePhys (.home 0) 0 [BitVec.ofNat 8 Config.rev] (slotIn .running fun x => { x with saved := true })) 0 1 = Config.rev := by
  repeat' apply And.intro
  all_goals first | exact Or.inl ⟨quiet_of (by decide) rfl, rfl⟩ | exact Or.inr rfl | exact quiet_of (by decide) rfl | exact given2 (by decide) rfl rfl | exact given1 (by decide) rfl | decide | rfl

/-- The same with queue 3 in partition 0, whose QCB lies at address 0 of an address space that the slot's buffer translates. -/
def mappedSlot (st : HwSt) (f : HwSlot → HwSlot) : State :=
  let s := (slotIn st f).updSlot 3 fun x => { x with part := 0, tlb := [{ part := 0, pasid := 0, va := 0, pa := BitVec.ofNat 48 (placePa / 65536)
                                                                          count := 1, write := true, exec := false, dirty := true, attr := 0 }] }
  let s1 := writePhys (.home 0) (kftAddr s 3 + 20) [1] s
  { s1 with mm := { s1.mm with mem := writeCells s1.mm.mem (bits s.cw.astbase 51 16 * 65536 + 61) [1] }
            mg := { s1.mg with tables := (36, 80, 1, 31) :: s1.mg.tables } }

theorem test_hyp_SlotEvents_map : let s := mappedSlot .free id
    (s.slots.get 3).st = .free ∧ slotOfQueue s 3 = none ∧ kftValid s 3 = true ∧ (s.slots.get 3).en = false ∧
    (plainRead (slotRequester ((s.updSlot 3 (HwSlot.named s 3)).updSlot 3 HwSlot.cleared) 3) (wd (kftField s 3 0 8)) 256
      ((s.updSlot 3 (HwSlot.named s 3)).updSlot 3 HwSlot.cleared)).toOption.any (fun p => fieldAt p.1 80 8 == 0) = true ∧
    ((mapSlot 3 3 s).slots.get 3).st = .idle ∧ ((mapSlot 3 4 s).slots.get 3).st = .free := by decide

theorem test_hyp_SlotEvents_unmap : let s := mappedSlot .unmapping id
    let s2 := putAll 3 (s.slots.get 3).q.qcb (qcbBytes (s.slots.get 3).q) s
    (s.slots.get 3).q.shsave = 0 ∧ (s.slots.get 3).q.pend = false ∧ (s2.slots.get 3).st = .unmapping ∧
    (s2.slots.get 3).writesHeld = false ∧ ((putQcb 3 24 4 0 s2).slots.get 3).st = .unmapping := by decide

/-- Slot 3 is a candidate; slot 4 runs on the same quads, or on others. -/
def choosing (ended : Bool) (m : Word) : State :=
  (slotIn (if ended then .running else .runnable) fun x => { x with qmask := 3, ended := ended }).updSlot 4 fun x =>
    { x with st := .running, part := 1, qmask := m }

theorem test_hyp_SlotEvents_select : (∀ e, keptSlot (choosing e 3) ((choosing e 3).slots.get 4) = true ∧
      masksOverlap ((choosing e 3).slots.get 3) ((choosing e 3).slots.get 4) = true ∧
      masksOverlap ((choosing e 4).slots.get 3) ((choosing e 4).slots.get 4) = false) ∧
    (List.finRange 16).all (fun j => !keptSlot (choosing false 4) ((choosing false 4).slots.get j) || j == 4) = true ∧
    ((choosing false 3).slots.get 3).st = .runnable ∧ ((choosing true 3).slots.get 3).ended = true := by decide

/-- One image waits for its strand's place. -/
theorem test_hyp_SlotEvents_restore : let s := slotIn .running fun x => { x with restoring := [leBytes 768 0] }
    let t : State := { s with launches := s.launches.map fun y => { y with id := { y.id with hwq := 3, lseq := 0 } } }
    restoring (t.slots.get 3) = true ∧ waitingImages t 3 = [leBytes 768 0] := by decide

/-- A slot's next packet is this, read ahead. -/
def packetIn (bs : List Byte) (f : QueueSt → QueueSt) : State :=
  let s := firm.updSlot 3 fun x => { x with st := .running, qid := 3, q := f { x.q with rsize := 64, klim := 8, ahead := [(0, bs)] } }
  { s with md := { s.md with req := { s.md.req with slot := 3 } } }

theorem test_hyp_PacketEvents : (headPacket (packetIn (leBytes 64 1) id) (isKind 1)).isSome = true ∧
    headPacket (packetIn (leBytes 64 1) id) (isKind 2) = none ∧ (headPacket (packetIn (leBytes 64 7) id) (isKind 7)).isSome = true ∧
    ((packetIn (leBytes 64 4) id).slots.get 3).q.ib.length < 3 ∧ (headPacket (packetIn (leBytes 64 (4 + 2 ^ 128)) id) (isKind 4)).isSome = true ∧
    ((packetIn (leBytes 64 6) id).slots.get 3).q.loop.active = false ∧
    (headPacket (packetIn (leBytes 64 0x20006) fun q => { q with loop := { q.loop with active := true, span := 2, remain := 2 } }) (isKind 6)).isSome = true ∧
    (headPacket (packetIn (leBytes 64 0x20006) id) (isKind 6)).isSome = true ∧ fieldAt (leBytes 64 0x20006) 2 1 = 2 ∧
    fieldAt (leBytes 64 0x20006) 4 4 = 0 ∧ fieldAt (leBytes 64 0x500020006) 4 4 = 5 ∧
    pktCond 0 5 5 = true ∧ pktCond 0 5 6 = false ∧ pktKind (leBytes 64 9) = 9 ∧
    (headPacket (packetIn (leBytes 64 2) id) (isKind 2)).isSome = true ∧ (headPacket (packetIn (leBytes 64 3) id) (isKind 3)).isSome = true ∧
    (headPacket (packetIn (leBytes 64 0x1000A) id) (isLevel 1)).isSome = true ∧ (headPacket (packetIn (leBytes 64 0x10004000A) id) (isLevel 4)).isSome = true ∧
    (aheadOf ((packetIn (leBytes 64 1) id).slots.get 3).q).length ≤ 8 ∧ ((packetIn (leBytes 64 1) id).slots.get 3).q.stuck = false := by
  repeat' apply And.intro
  all_goals first | exact Or.inl ⟨quiet_of (by decide) rfl, rfl⟩ | exact Or.inr rfl | exact quiet_of (by decide) rfl | exact given2 (by decide) rfl rfl | exact given1 (by decide) rfl | decide | rfl

/-- The launch may begin, on a quad of a partition in RUN. -/
def launching (f : LRec → LRec) (cs : List Chan) : State :=
  ((withLaunch fun y => { y with accepted := false, rec_ := f y.rec_, chans := cs }).updPart 0 fun p => { p with st := .run }).updSlot
    noLaunch.hwq fun x => { x with qmask := 1 }

/-- A channel of lookahead 0 between two cores of logical quad 0. -/
def chan (a b : Fin 4) : Chan := { fq := 0, fc := a, tq := 0, tc := b, outch := 0, inch := 0, l := 0 }

theorem test_hyp_LaunchEvents_begin : let s := launching id []
    let y := { placeLaunch with accepted := false }
    s.launch noLaunch = some y ∧ dispatchAllowed s 0 = true ∧ maskOk s y = true ∧ (s.slots.get noLaunch.hwq).qmask = 1 ∧
    quadsBusy s y = false ∧ timeTaken s y [0] = false ∧ launchQuads s y = [0] ∧
    (allocQuads noLaunch [(1, 0x20080008)] true [0] s).toOption.isSome = true ∧
    (allocQuads noLaunch [(1, 0x2000000000080008)] true [0] s).toOption.isSome = false := by decide

theorem test_hyp_LaunchEvents_channels : chansOk 1 [chan 0 0] = false ∧ chansOk 1 [chan 0 1, chan 1 0] = true ∧
    hasZeroCycle [chan 0 1, chan 1 0] = true ∧ chansOk 1 [chan 0 1] = true ∧ hasZeroCycle [chan 0 1] = false ∧
    timeTaken (launching (fun r => { r with ltm := true }) [chan 0 1])
      { placeLaunch with rec_ := { placeLaunch.rec_ with ltm := true } } [0] = false := by decide

theorem test_hyp_LaunchEvents : (s0.launch noLaunch).isSome = true ∧
    dispatchAllowed (s0.updPart 0 fun p => { p with st := .run }) 0 = true ∧ dispatchAllowed s0 0 = false ∧ maskOk s0 placeLaunch = true ∧
    maskOk s0 { placeLaunch with qmask := 0 } = false ∧ quadsBusy s0 placeLaunch = false ∧ placeLaunch.todo = [] ∧ placeLaunch.rec_.ltm = false ∧
    (withLaunch fun y => { y with accepted := false }).launch noLaunch = some { placeLaunch with accepted := false } ∧
    launchBusy s0 placeLaunch = true ∧ launchBusy State.reset { placeLaunch with refused := true } = false ∧
    (State.reset.slots.get noLaunch.hwq).writesHeld = false ∧
    (writeRecord { placeLaunch with refused := true } State.reset).1 = true := by
  repeat' apply And.intro
  all_goals first | exact Or.inl ⟨quiet_of (by decide) rfl, rfl⟩ | exact Or.inr rfl | exact quiet_of (by decide) rfl | exact given2 (by decide) rfl rfl | exact given1 (by decide) rfl | decide | rfl
/-! ## The host side, and the step -/

/-- A request from outside, with this time on the counter. -/
def asked (f : Req → Req) : State := { firm with md := { firm.md with req := f firm.md.req }, ctc := 50000000 }

/-- A host request to device memory at the base, whose device memory begins at 2^44. -/
def hostAt (w : Bool) (a : Nat) (op : Option HostRmw := none) : State :=
  let s := asked fun q => { q with host := { write := w, addr := a, bytes := [1, 2], part := none, ide := false, rmw := op } }
  { s with mm := { s.mm with hdmBase := 2 ^ 44, owners := [(2 ^ 28, 0x8000)] }, mg := { s.mg with tables := [(0, 84, 1, 31), (16, 84, 1, 31)] ++ s.mg.tables } }

theorem test_hyp_HostEvents : inHdm (hostAt false 0) (2 ^ 28) = true ∧ inHdm (hostAt false 0) 0 = false ∧
    hostBias (hostAt false 0) (2 ^ 28) = false ∧ target (hostAt false 0) 0 ≠ .device ∧ target (hostAt false (2 ^ 44)) (2 ^ 44) = .device ∧
    target (hostAt false 0) (64 * (hostAt false 0).md.req.sector) = .host ∧ target s0 (64 * s0.md.req.sector) ≠ .host ∧ Memory.wf s0.mm.mem = true ∧
    drowsyDue (asked id) 5 = true ∧ drowsyDue s0 5 = false ∧ ((s0.updQuad 5 fun x => { x with power := .gated }).quads.get 5).power ≠ .awake ∧
    s0.ctc.toNat < s0.lastStep.toNat + 10000 ∧ (asked id).lastStep.toNat + 10000 ≤ (asked id).ctc.toNat ∧
    (asked id).clock - 1 ≤ topClock (asked id) ∧ topClock (asked id) < (asked id).clock + 1 ∧ debugOpen s0 0 = false ∧
    debugOpen (s0.updQuad 0 fun x => { x with halt := { x.halt with debug := true } }) 0 = true ∧ cmdWith firm .active = some 0 ∧
    cmdWith s0 .active = none := by decide

/-- A bias command is in progress, to host bias, and the host asks for the granule. -/
def turning : State :=
  let s := hostAt false (2 ^ 44)
  { s with cw := { s.cw with biasBusy := true }, md := { s.md with inflight := [.biasFlipComplete (2 ^ 28) true] } }

/-- Under the envelope of 28 W quad 5 is gated; every other quad belongs to a partition and is awake, or may be gated. -/
def packed (v : Bool) : State :=
  let s := { s0 with quads := s0.quads.each fun x => { x with owner := if v then x.owner ||| 1 else x.owner } }
  { s.updQuad 5 fun x => { x with power := .gated } with mg := { s.mg with envelope := 28 } }

theorem test_hyp_HostEvents_power : flipping turning (2 ^ 28) = true ∧ turning.cw.biasBusy = true ∧ inHdm turning (2 ^ 28) = true ∧
    hostRefused turning turning.md.req.host = false ∧ awakeQuads (s0.updQuad 5 fun x => { x with power := .gated }) = 63 ∧
    envelopeQuads s0 = 64 ∧ envelopeQuads (packed true) ≤ awakeQuads (packed true) ∧
    ((List.finRange 64).all fun j => !gateable ((packed true).quads.get j)) = true ∧
    gateable ((packed false).quads.get 7) = true ∧ ((packed false).quads.get 7).power = .awake := by decide

theorem test_hyp_HostEvents_served : hostRefused (hostAt false (2 ^ 44)) (hostAt false (2 ^ 44)).md.req.host = false ∧
    hostRefused (hostAt true (2 ^ 44)) (hostAt true (2 ^ 44)).md.req.host = false ∧
    hostRefused (hostAt false (2 ^ 44) (some .add)) (hostAt false (2 ^ 44) (some .add)).md.req.host = false ∧
    target (hostAt false (2 ^ 44) (some .add)) (2 ^ 44) = .device ∧
    hostBias (hostAt false (2 ^ 44)) (2 ^ 28) = false ∧ (hostAt false (2 ^ 44)).cw.biasAuto = true ∧
    (sectors (2 ^ 44) 2).any (badSector (foldSectors l1Back (sectors (2 ^ 44) 2)
      (Machine.flip (2 ^ 28) true (hostAt false (2 ^ 44) (some .add))))) = false ∧
    (sectors (2 ^ 44) 64).any (badSector (foldSectors l1Back (sectors (2 ^ 44) 64)
      (Machine.flip (2 ^ 28) true (hostAt false (2 ^ 44))))) = false := by decide

/-- Partition 1 has this status, and quad 1 as a confidential one. -/
def tenanted (st : PartSt) (step : Nat) : State :=
  let s := ((s0.updQuad 1 fun x => { x with part := 1, owner := 3 }).updPart 1 fun p => { p with st := st, releaseStep := step })
  { s with md := { s.md with req := { s.md.req with part := some 1 } } }

theorem test_hyp_InterfaceEvents : s0.md.req.part = none ∧ (tenanted .unlocked 0).md.req.part = some 1 ∧
    partConf (tenanted .unlocked 0) 1 = true ∧ (freeKeyid (tenanted .unlocked 0)).isSome = true ∧ Memory.wf s0.mm.mem = true ∧
    ((tenanted .releasing 1).parts.get 1).releaseStep ≠ 0 ∧ queuesReset (tenanted .releasing 1) 1 = true ∧
    ((tenanted .releasing 0).parts.get 1).releaseStep = 0 ∧ queuesReset (s0.updSlot 4 fun x => { x with part := 1, st := .running }) 1 = false ∧
    (tenanted .releasing 1).partQuads 1 = [1] ∧ quadTraffic (tenanted .releasing 1) 1 = false ∧ quadBusy (tenanted .releasing 1) 1 = false ∧
    ((tenanted .releasing 1).quads.get 1).scrubbing = false ∧ session s0 = none ∧
    (session { s0 with mg := { s0.mg with sessions := [{ num := 0, tenant := none, finished := true, keyGen := 0 }] } }).isSome = true := by decide

/-- A command complex image signed under the ROM key. -/
def signed4 : FwImage :=
  { comp := 3, number := 4, version := 1, svn := 0, sig := { param := Config.xmssParam, key := Config.romKey, verifies := true } }

/-- A complete session of this tenant, with a certificate slot and an update in these conditions. -/
def inSession (t : Option (Fin 64)) (pending : List (Nat × List Word)) (rw : Option Nat) : State :=
  let s := asked fun q => { q with part := t, cert := 1, on := true, image := signed4 }
  { s with
    parts := s.parts.set 3 { s.parts.get 3 with st := .run, acked := true }
    cmds := s.cmds.set 1 { s.cmds.get 1 with role := .standby }
    mg := { s.mg with sessions := [{ num := 0, tenant := t, finished := true, keyGen := 0 }]
                      certs := s.mg.certs.set 1 { chain := 1, epoch := 0, pending := pending, rewrite := rw, since := 0 }
                      update := { staged := some signed4, others := [], wanted := true, reading := true } } }

theorem test_hyp_SpdmEvents : ownerSession (inSession none [] none) = true ∧ (inSession none [] none).md.req.cert ≠ 0 ∧
    ((inSession none [] none).mg.certs.get 1).pending = [] ∧ ((inSession none [(3, [])] none).mg.certs.get 1).pending ≠ [] ∧
    ((inSession none [(3, [])] (some 9)).mg.certs.get 1).rewrite = some 9 ∧ s0.mg.xmssNext < 2 ^ 40 ∧
    50000000 ≤ (inSession none [(3, [])] (some 9)).ctc.toNat ∧ s0.ctc.toNat < 50000000 ∧ tenant (inSession (some 3) [] none) = some 3 ∧
    isFrozen (inSession (some 3) [] none) 3 = true ∧ (s0.mg.slots.get s0.md.req.keySlot).grant = none ∧ tenant s0 = none ∧
    s0.mg.allowDebug = true ∧ (signed4.sig.param = Config.xmssParam ∧ signed4.sig.key ∈ s0.mg.romKeys ∧ signed4.comp ∈ updatable) ∧ s0.md.req.image.comp ∉ updatable ∧ verified (inSession none [] none) signed4 = true ∧
    rolledBack (inSession none [] none) signed4 = false ∧ signed4.version = Config.tableVersion ∧
    ({ signed4 with version := 9 } : FwImage).version ≠ Config.tableVersion ∧
    quiescent ((inSession none [] none).updSlot 3 fun x => { x with st := .unmapping }) = false ∧
    (∀ p : Fin 64, ((inSession none [] none).parts.get p).st = .run → ((inSession none [] none).parts.get p).acked = true) ∧
    ownerSession s0 = false ∧ ((inSession (some 3) [] none).parts.get 3).st = .run ∧
    (inSession none [] none).mg.update.staged.isSome = true ∧ cmdWith (inSession none [] none) .active = some 0 ∧
    cmdWith (inSession none [] none) .standby = some 1 ∧ activationReady (inSession none [] none) = true ∧
    quiescent (inSession none [] none) = true ∧ s0.mg.update.reading = false ∧ cmdWith s0 .standby = none := by decide

theorem test_hyp_ResetEvents : ({ asked fun q => { q with index := 7 } with ctc := 1 } : State).md.req.index ∈ [7, 8, 9] ∧
    s0.md.req.index = 0 ∧ ((List.finRange 64).filter fun n => !(1 : BitVec 256).getLsbD n.val).length < envelopeQuads s0 ∧
    (stageError 7 (bootStage 7 s0)).isNone = true ∧ (asked fun q => { q with index := 9 }).md.req.index = 9 := by decide

/-- The word of a jal.jump to the next word is placed, and a turn of the strand's is next. -/
def placed (w : Nat) : State := State.reset.withFetchWord 32 w

theorem test_hyp_StepRunsDecoded : (placed 0x000A3201).md.turns = [.run me] ∧ mayIssue (placed 0x000A3201) me = true ∧
    (match fetchWord me (placed 0x000A3201) with | .ok (w, _) => some w | .error _ => none) = some 0x000A3201 ∧
    rawStop me 0x000A3201 = none ∧ rawStop me 0x1B = some (.fault 1 0 0) ∧ (rawStop me 0x63).isSome = true ∧
    (decode (leBytes 4 0x000A3201)).toOption.isSome = true ∧ (decode (leBytes 4 0x37C00001)).toOption = none ∧
    ownForms (placed 0x000A3201) me = false ∧ ownForms held1 me = true ∧ mayIssue held1 me = true ∧
    mayIssue (withCtx fun y => { y with st := .parked }) me = false ∧ overtakes State.reset 0 .coldReset = false ∧
    State.reset.md.turns = [] ∧ State.reset.md.inflight[0]? = some .coldReset := by decide

theorem test_hyp_MemoryCanonical : MemoryWf State.reset ∧ MemoryWf s0 ∧ Memory.wf [(3, 0)] = false := ⟨reset_memoryWf, ⟨by decide, by decide⟩, by decide⟩

theorem test_hyp_RegisterFrame : Quiet (.addi (.n 2) (.n 0) 1) s1.md.who s1 ∧ (shapeOf (.addi (.n 2) (.n 0) 1)).major ≤ 0x0C ∧
    (shapeOf (.fplDiv (.n 2) (.n 0) (.n 1) 0)).la = 0 ∧ Reads s1 s1.md.who (.n 0) 2 ∧
    (s1.arch s1.md.who).atEnd 0 = false ∧ (s1.arch s1.md.who).atEnd 1 = false ∧ (s1.ctx s1.md.who).sp.sstep = false :=
  ⟨quiet_of (by decide) rfl, by decide, by decide, rfl, by decide, by decide, by decide⟩

theorem test_hyp_EncodeDecode : (Instr.aluAdd (.n 4) (.n 3) (.n 5)).wf = true ∧
    encode (.aluAdd (.n 4) (.n 3) (.n 5)) = some (32, 0x000A3201) ∧ encode (.l16Add .f32 0 3 5) = some (16, 0x0560) := by decide

theorem test_step_runs_add : (match step (placed 0x000A3201) with
    | .next t => some (t.arch me).pc | .fault _ | .refused _ => none) = some 4 := by decide

/-- A trap of ILLEGAL stops the strand with its fault kind recorded. -/
theorem test_illegal_raises_line : (match step (placed 0x37C00001) with
    | .next t => some ((t.quads.get 0).halt.hcause, (t.parts.get 0).line) | .fault _ | .refused _ => none) = some (1, true) := by decide

end Sys2Proof.Tests
end

section
namespace Sys2Proof.Machine

/-! ## Memory by bytes and the pieces of an access (R2, R126) -/

/-- A run of bytes written is read back in order. -/
theorem readCells_writeCells {m : List Host.Cell} (a : Nat) (bs : List Byte) (h : Memory.wf m = true) :
    readCells (writeCells m a bs) a bs.length = bs := by
  rw [readCells_eq]
  refine List.ext_getElem (by simp) fun i _ hi => ?_
  rw [List.getElem_map, List.getElem_range, readCell_writeCells a _ bs h, if_pos ⟨by omega, by omega⟩]
  simp [hi]

/-- Addresses outside a run of bytes written read as before. -/
theorem readCell_writeCells_outside {m : List Host.Cell} {a b : Nat} {bs : List Byte} (h : Memory.wf m = true)
    (out : b < a ∨ a + bs.length ≤ b) : readCell (writeCells m a bs) b = readCell m b := by
  rw [readCell_writeCells a b bs h, if_neg (by omega)]

theorem pieces_zero (fuel a : Nat) : pieces fuel a 0 = [] := by cases fuel <;> rfl

/-- An access of some bytes: the piece up to the next boundary or its own end, and the pieces of what is left. -/
theorem pieces_succ {fuel a len : Nat} (pos : 0 < len) :
    pieces (fuel + 1) a len =
      (a, min len (32 - a % 32)) :: pieces fuel (a + min len (32 - a % 32)) (len - min len (32 - a % 32)) := by
  rw [pieces, if_neg pos.ne']

/-- A run of addresses, cut in two. -/
theorem addresses_append (a n k : Nat) :
    (List.range (n + k)).map (a + ·) = (List.range n).map (a + ·) ++ (List.range k).map (a + n + ·) := by
  rw [List.range_add, List.map_append, List.map_map]
  simp [Function.comp_def, Nat.add_assoc]

/-- Pieces enough cover the bytes of the access in rising order without a gap: every piece but the last ends at a boundary. -/
theorem pieces_cover {fuel a len : Nat} (enough : len = 0 ∨ a % 32 + len ≤ 32 * fuel) :
    (pieces fuel a len).flatMap (fun p => (List.range p.2).map fun i => p.1 + i) = (List.range len).map (a + ·) := by
  rcases Nat.eq_zero_or_pos len with rfl | pos
  · simp [pieces_zero]
  induction fuel generalizing a len with
  | zero => omega
  | succ fuel ih =>
    rw [pieces_succ pos, List.flatMap_cons]
    rcases Nat.lt_or_ge (32 - a % 32) len with crosses | inside
    · rw [Nat.min_eq_right crosses.le, ih (by omega) (by omega), ← addresses_append, Nat.add_sub_cancel' crosses.le]
    · simp [Nat.min_eq_left inside, pieces_zero]

/-- No piece is empty, and each lies within one aligned block of 32 bytes. -/
theorem pieces_within {fuel a len : Nat} {p : Nat × Nat} (hp : p ∈ pieces fuel a len) :
    0 < p.2 ∧ p.1 / 32 = (p.1 + p.2 - 1) / 32 := by
  induction fuel generalizing a len with
  | zero => cases hp
  | succ fuel ih =>
    rcases Nat.eq_zero_or_pos len with rfl | pos
    · simp [pieces] at hp
    · rw [pieces_succ pos] at hp
      rcases List.mem_cons.mp hp with rfl | hp
      · constructor
        · simp only [Nat.lt_min]; omega
        · have := Nat.min_le_right len (32 - a % 32)
          have : 0 < min len (32 - a % 32) := Nat.lt_min.mpr ⟨pos, by omega⟩
          simp only
          omega
      · exact ih hp

/-- An access that crosses no boundary is one piece. -/
theorem pieces_one {fuel a len : Nat} (pos : 0 < len) (inside : a % 32 + len ≤ 32) : pieces (fuel + 1) a len = [(a, len)] := by
  have whole : min len (32 - a % 32) = len := by omega
  rw [pieces_succ pos, whole, Nat.sub_self, pieces_zero]

/-- Settles O18: the laws of one byte and of a run of bytes, and the pieces of an access by induction on their number. -/
theorem memoryBytes : Obligations.MemoryBytes := by
  unfold Obligations.MemoryBytes
  refine ⟨fun m a b v bs h => ⟨readCell_writeCell a b v h, wf_writeCell a v h, readCells_writeCells a bs h,
    wf_writeCells a bs h, readCell_writeCells_outside h⟩, fun a len pos => ?_⟩
  have enough : a % 32 + len ≤ 32 * (len / 32 + 2) := by omega
  exact ⟨pieces_cover (.inr enough), fun p => pieces_within, pieces_one pos⟩

end Sys2Proof.Machine
end

section
namespace Sys2Proof.Machine
open Sys2Proof.Safety

/-! ## Canonical memories: the predicates, and how they pass through `if`, folds and binds (R2, R126) -/

/-- Both lists of a store are in canonical form. -/
def Store.Canonical (m : Store) : Prop := Memory.wf m.mem = true ∧ Memory.wf m.arr = true

theorem memoryWf_iff {s : State} : MemoryWf s ↔ s.mm.Canonical := Iff.rfl

@[simp] theorem mm_ite (c : Prop) [Decidable c] (s t : State) : (if c then s else t).mm = if c then s.mm else t.mm :=
  apply_ite ..

theorem ite_mm {c : Prop} [Decidable c] {m : Store} {s t : State} (hs : s.mm = m) (ht : t.mm = m) :
    (if c then s else t).mm = m := by
  split <;> assumption

@[simp] theorem canonical_ite {c : Prop} [Decidable c] {m n : Store} (hm : m.Canonical) (hn : n.Canonical) :
    (if c then m else n).Canonical := by
  split <;> assumption

theorem ite_canonical {c : Prop} [Decidable c] {s t : State} (hs : s.mm.Canonical) (ht : t.mm.Canonical) :
    (if c then s else t).mm.Canonical := by
  split <;> assumption

@[simp] theorem foldl_mm {α : Type} {f : State → α → State} (hf : ∀ s x, (f s x).mm = s.mm) (l : List α) (s : State) :
    (l.foldl f s).mm = s.mm := by
  induction l generalizing s with
  | nil => rfl
  | cons x t ih => rw [List.foldl_cons, ih, hf]

theorem foldl_canonical {α : Type} {f : State → α → State} (hf : ∀ s x, s.mm.Canonical → (f s x).mm.Canonical)
    (l : List α) {s : State} (h : s.mm.Canonical) : (l.foldl f s).mm.Canonical := by
  induction l generalizing s with
  | nil => exact h
  | cons x t ih => exact ih (hf _ _ h)

/-- A reason not to complete that holds a state holds one with canonical memories. -/
def Stop.Canonical : Stop → Prop
  | .faultIn _ _ _ s | .hold _ s | .wait s => s.mm.Canonical
  | .fault .. | .request .. | .trap .. | .park _ | .absent .. | .granule .. | .stall | .noAddress _ => True

/-- What a body answers satisfies `P`, and a state that its reason holds has canonical memories. -/
def Answers {α : Type} (P : α → Prop) : Except Stop α → Prop
  | .ok x => P x
  | .error e => e.Canonical

/-- A body that answers no state: only its reason may hold one. -/
def Clean {α : Type} : Except Stop α → Prop
  | .ok _ => True
  | .error e => e.Canonical

@[simp] theorem Stop.canonical_fault {k c : Nat} {v : Word} : (Stop.fault k c v).Canonical := trivial

@[simp] theorem Stop.canonical_faultIn {k c : Nat} {v : Word} {s : State} :
    (Stop.faultIn k c v s).Canonical ↔ s.mm.Canonical := Iff.rfl

@[simp] theorem Stop.canonical_request {k c : Nat} {v : Word} : (Stop.request k c v).Canonical := trivial

@[simp] theorem Stop.canonical_trap {c : Nat} {v r : Word} : (Stop.trap c v r).Canonical := trivial

@[simp] theorem Stop.canonical_park {w : Why} : (Stop.park w).Canonical := trivial

@[simp] theorem Stop.canonical_hold {w : Why} {s : State} : (Stop.hold w s).Canonical ↔ s.mm.Canonical := Iff.rfl

@[simp] theorem Stop.canonical_wait {s : State} : (Stop.wait s).Canonical ↔ s.mm.Canonical := Iff.rfl

@[simp] theorem Stop.canonical_absent {v : Word} {k : Access} {n : Nat} : (Stop.absent v k n).Canonical := trivial

@[simp] theorem Stop.canonical_granule {v : Word} {k : Access} : (Stop.granule v k).Canonical := trivial

@[simp] theorem Stop.canonical_stall : Stop.stall.Canonical := trivial

@[simp] theorem Stop.canonical_noAddress {n : Nat} : (Stop.noAddress n).Canonical := trivial

@[simp] theorem answers_ok {α : Type} {P : α → Prop} {x : α} : Answers P (.ok x) ↔ P x := Iff.rfl

@[simp] theorem answers_error {α : Type} {P : α → Prop} {e : Stop} : Answers P (.error e) ↔ e.Canonical := Iff.rfl

@[simp] theorem clean_ok {α : Type} {x : α} : Clean (.ok x : Except Stop α) := trivial

@[simp] theorem clean_error {α : Type} {e : Stop} : Clean (.error e : Except Stop α) ↔ e.Canonical := Iff.rfl

theorem Clean.error {α : Type} {r : Except Stop α} {e : Stop} (h : Clean r) (he : r = .error e) : e.Canonical := by
  rwa [he] at h

theorem Answers.error {α : Type} {P : α → Prop} {r : Except Stop α} {e : Stop} (h : Answers P r) (he : r = .error e) :
    e.Canonical := by
  rwa [he] at h

theorem Answers.ok {α : Type} {P : α → Prop} {r : Except Stop α} {x : α} (h : Answers P r) (hx : r = .ok x) : P x := by
  rwa [hx] at h

@[simp] theorem Answers.clean {α : Type} {P : α → Prop} {r : Except Stop α} (h : Answers P r) : Clean r := by
  cases r with
  | ok => trivial
  | error e => exact h

theorem Answers.bind {α β : Type} {P : α → Prop} {Q : β → Prop} {x : Except Stop α} {f : α → Except Stop β}
    (hx : Answers P x) (hf : ∀ a, P a → Answers Q (f a)) : Answers Q (x >>= f) := by
  cases x with
  | ok a => exact hf a hx
  | error e => exact hx

theorem Answers.bind_clean {α β : Type} {Q : β → Prop} {x : Except Stop α} {f : α → Except Stop β}
    (hx : Clean x) (hf : ∀ a, Answers Q (f a)) : Answers Q (x >>= f) := by
  cases x with
  | ok a => exact hf a
  | error e => exact hx

@[simp] theorem answers_bind {α β : Type} {Q : β → Prop} {x : Except Stop α} {f : α → Except Stop β} :
    Answers Q (x >>= f) ↔ Clean x ∧ ∀ a, x = .ok a → Answers Q (f a) := by
  cases x with
  | ok a => simp [ok_bind]
  | error e => simp [error_bind]

@[simp] theorem clean_bind {α β : Type} {x : Except Stop α} {f : α → Except Stop β} :
    Clean (x >>= f) ↔ Clean x ∧ ∀ a, x = .ok a → Clean (f a) := by
  cases x with
  | ok a => simp [ok_bind]
  | error e => simp [error_bind]

@[simp] theorem answers_ite {α : Type} {P : α → Prop} {c : Prop} [Decidable c] {x y : Except Stop α} :
    Answers P (if c then x else y) ↔ (c → Answers P x) ∧ (¬ c → Answers P y) := by
  split <;> simp [*]

@[simp] theorem clean_ite {α : Type} {c : Prop} [Decidable c] {x y : Except Stop α} :
    Clean (if c then x else y) ↔ (c → Clean x) ∧ (¬ c → Clean y) := by
  split <;> simp [*]

@[simp] theorem clean_mapM {α β : Type} {f : α → Except Stop β} (hf : ∀ x, Clean (f x)) (l : List α) : Clean (l.mapM f) := by
  induction l with
  | nil => trivial
  | cons x t ih => simp [hf, ih, pure, Except.pure]

@[simp] theorem clean_map {α β : Type} {f : α → β} {x : Except Stop α} : Clean (x.map f) ↔ Clean x := by
  cases x <;> rfl

/-- A move that ends in a next state ends in one with canonical memories. -/
def NextCanonical : Host.Outcome State Fault Refusal → Prop
  | .next t => t.mm.Canonical
  | .fault _ | .refused _ => True

@[simp] theorem nextCanonical_next {t : State} : NextCanonical (.next t) ↔ t.mm.Canonical := Iff.rfl

/-- What the gate of an instruction answers has canonical memories. -/
def Gate.Canonical : Gate → Prop
  | .stall t | .go t => t.mm.Canonical
  | .stop e t => e.Canonical ∧ t.mm.Canonical

/-- A body keeps the memories canonical: it answers such a state, whatever such state it starts from. -/
def KeepsCanonical (body : Agent → Act) : Prop :=
  ∀ a s, s.mm.Canonical → Answers (fun t => t.mm.Canonical) (body a s)

/-- An easel form's effect keeps the memories canonical. -/
def EForm.KeepsCanonical (f : EForm) : Prop := ∀ ops ts, Machine.KeepsCanonical (f.effect ops ts)

end Sys2Proof.Machine
end

section
namespace Sys2Proof.Machine
open Sys2Proof.Safety

/-! ## What each function of the model does with the memories

One rule per function, in the order of the model's files. `f_mm` says that `f` leaves the memories as they are and
`f_canonical` that it keeps them canonical; `f_clean` and `f_answers` say the same of a function that may stop, which answers a
value or a state, and `f_keeps` of a body. A function that reads or writes no memory has its `f_mm` from its definition and the
rules before it. -/

/-! ### Of the memory functions (Machine/Mem) -/

@[simp] theorem postFront_mm (es : List Instr) (s : State) : (postFront es s).mm = s.mm := by simp [postFront]

@[simp] theorem fresh_mm (s : State) : (fresh s).2.mm = s.mm := rfl

@[simp] theorem putLine_canonical {l : Line} {s : State} (h : s.mm.Canonical) : (putLine l s).mm.Canonical := h

@[simp] theorem arrBack_canonical {x : Nat} {s : State} (h : s.mm.Canonical) : (arrBack x s).mm.Canonical := arrBack_wf h

@[simp] theorem lineRead_canonical {v : Via} {sector : Nat} {s : State} (h : s.mm.Canonical) :
    (lineRead v sector s).mm.Canonical := by
  fun_cases lineRead v sector s <;> simp +zetaDelta -implicitDefEqProofs [h]

theorem foldSectors_canonical {f : Nat → State → State} (hf : ∀ x s, s.mm.Canonical → (f x s).mm.Canonical) (l : List Nat)
    {s : State} (h : s.mm.Canonical) : (foldSectors f l s).mm.Canonical := foldSectors_wf hf l h

@[simp] theorem writePhys_canonical {v : Via} {pa : Nat} {bs : List Byte} {s : State} (h : s.mm.Canonical) :
    (writePhys v pa bs s).mm.Canonical := writePhys_wf h

@[simp] theorem storeAt_canonical {v : Via} {whole : Bool} {pa : Nat} {bs : List Byte} {s : State} (h : s.mm.Canonical) :
    (storeAt v whole pa bs s).mm.Canonical := storeAt_wf h

@[simp] theorem storeAll_canonical {v : Via} {ps : List (Nat × List Byte)} {s : State} (h : s.mm.Canonical) :
    (storeAll v ps s).mm.Canonical := foldl_canonical (fun _ _ => storeAt_canonical) ps h

@[simp] theorem flushSector_canonical {x : Nat} {s : State} (h : s.mm.Canonical) : (flushSector x s).mm.Canonical :=
  flushSector_wf h

@[simp] theorem dropL1_canonical {p : Fin 64 → Fin 4 → Bool} {sector : Nat} {s : State} (h : s.mm.Canonical) :
    (dropL1 p sector s).mm.Canonical := by simp [dropL1, h]

/-! ### Of operations on the state (Machine/Ops) -/

@[simp] theorem illegal_clean {α : Type} : Clean (illegal : Except Stop α) := trivial
@[simp] theorem illegal_answers {α : Type} {P : α → Prop} : Answers P (illegal) := trivial
@[simp] theorem uninit_clean {α : Type} : Clean (uninit : Except Stop α) := trivial
@[simp] theorem uninit_answers {α : Type} {P : α → Prop} : Answers P (uninit) := trivial
@[simp] theorem tilegen_clean {α : Type} : Clean (tilegen : Except Stop α) := trivial
@[simp] theorem tilegen_answers {α : Type} {P : α → Prop} : Answers P (tilegen) := trivial
@[simp] theorem alignF_clean {α : Type} {a : Word} : Clean (alignF a : Except Stop α) := trivial
@[simp] theorem alignF_answers {α : Type} {P : α → Prop} {a : Word} : Answers P (alignF a) := trivial
@[simp] theorem shape_clean {α : Type} : Clean (shape : Except Stop α) := trivial
@[simp] theorem shape_answers {α : Type} {P : α → Prop} : Answers P (shape) := trivial
@[simp] theorem perm_clean {α : Type} {c : Nat} {v : Word} : Clean (perm c v : Except Stop α) := trivial
@[simp] theorem perm_answers {α : Type} {P : α → Prop} {c : Nat} {v : Word} : Answers P (perm c v) := trivial
@[simp] theorem regovf_clean {α : Type} : Clean (regovf : Except Stop α) := trivial
@[simp] theorem regovf_answers {α : Type} {P : α → Prop} : Answers P (regovf) := trivial
@[simp] theorem zla_clean {α : Type} {c : Nat} {v : Word} : Clean (zla c v : Except Stop α) := trivial
@[simp] theorem zla_answers {α : Type} {P : α → Prop} {c : Nat} {v : Word} : Answers P (zla c v) := trivial
@[simp] theorem dataerr_clean {α : Type} {c : Nat} : Clean (dataerr c : Except Stop α) := trivial
@[simp] theorem dataerr_answers {α : Type} {P : α → Prop} {c : Nat} : Answers P (dataerr c) := trivial
@[simp] theorem memerr_clean {α : Type} {c : Nat} {v : Word} : Clean (memerr c v : Except Stop α) := trivial
@[simp] theorem memerr_answers {α : Type} {P : α → Prop} {c : Nat} {v : Word} : Answers P (memerr c v) := trivial

@[simp] theorem check_clean {p : Bool} {e : Except Stop Unit} : Clean (check p e) ↔ (p = false → Clean e) := by
  cases p <;> simp [check]

@[simp] theorem traceRec_mm (q : Fin 64) (c : Fin 4) (ty payload : Nat) (s : State) :
    (traceRec q c ty payload s).mm = s.mm := by simp [traceRec]

@[simp] theorem traceIf_mm (a : Agent) (on : Trace → Bool) (ty payload : Nat) (s : State) :
    (traceIf a on ty payload s).mm = s.mm := by
  fun_cases traceIf a on ty payload s <;> simp

@[simp] theorem fireTrigger_mm (q : Fin 64) (c : Fin 4) (k : Nat) (s : State) :
    (fireTrigger q c k s).mm = s.mm := by simp [fireTrigger]

@[simp] theorem runTriggers_mm (q : Fin 64) (c : Fin 4) (kind : Nat) (addr : Word) (fkind : Nat) (ks : List Nat)
    (s : State) :
    (runTriggers q c kind addr fkind ks s).1.mm = s.mm := by
  induction ks generalizing s with
  | nil => rfl
  | cons k ks ih => rw [runTriggers]; split <;> simp [ih]

@[simp] theorem askSelect_mm (q : Fin 64) (c : Fin 4) (s : State) : (askSelect q c s).mm = s.mm := by simp [askSelect]

@[simp] theorem makeReady_mm (a : Agent) (s : State) : (makeReady a s).mm = s.mm := by
  fun_cases makeReady a s <;> simp

@[simp] theorem wake_mm (a : Agent) (s : State) : (wake a s).mm = s.mm := by simp [wake]

@[simp] theorem leaveCore_mm (q : Fin 64) (c : Fin 4) (k : Fin 24) (s : State) :
    (leaveCore q c k s).mm = s.mm := by simp [leaveCore]

@[simp] theorem parkAgent_mm (a : Agent) (w : Why) (s : State) : (parkAgent a w s).mm = s.mm := by
  cases a <;> simp [parkAgent]

@[simp] theorem wakeWhere_mm (p : Why → Bool) (l : List Agent) (s : State) : (wakeWhere p l s).mm = s.mm := by
  induction l generalizing s with
  | nil => rfl
  | cons a t ih => simp [wakeWhere, ih]

@[simp] theorem wakeQuad_mm (q : Fin 64) (p : Why → Bool) (s : State) : (wakeQuad q p s).mm = s.mm := by simp [wakeQuad]

@[simp] theorem wakeAll_mm (l : List Agent) (s : State) : (wakeAll l s).mm = s.mm := by
  fun_induction wakeAll l s <;> simp [*]

@[simp] theorem releaseLease_mm (q : Fin 64) (c : Fin 4) (s : State) : (releaseLease q c s).mm = s.mm := by
  fun_cases releaseLease q c s <;> simp

@[simp] theorem releaseIfHolder_mm (q : Fin 64) (c : Fin 4) (k : Fin 24) (s : State) :
    (releaseIfHolder q c k s).mm = s.mm := by simp [releaseIfHolder]

@[simp] theorem stampHeader_mm (src dst : Fin 64) (l : LaunchId) (s : State) : (stampHeader src dst l s).2.mm = s.mm := by
  simp [stampHeader]

@[simp] theorem mail_mm (src dst : Fin 64) (l : LaunchId) (mk : Header → Instr) (s : State) :
    (mail src dst l mk s).mm = s.mm := by
  simp [mail]

@[simp] theorem sendNotices_mm (q : Fin 64) (c : Fin 4) (l : List Instr) (s : State) : (sendNotices q c l s).mm = s.mm := by
  induction l generalizing s with
  | nil => rfl
  | cons m t ih => rw [sendNotices, ih]; split <;> simp

@[simp] theorem serveFifo_mm (q : Fin 64) (c : Fin 4) (s : State) : (serveFifo q c s).mm = s.mm := by simp [serveFifo]

@[simp] theorem freeSlot_mm (q : Fin 64) (c : Fin 4) (k : Fin 24) (s : State) : (freeSlot q c k s).mm = s.mm := by
  fun_cases freeSlot q c k s <;> simp +zetaDelta

@[simp] theorem enterTrap_mm (a : Agent) (cause : Nat) (v ret : Word) (s : State) :
    (enterTrap a cause v ret s).mm = s.mm := by simp [enterTrap]

@[simp] theorem returnFromTrap_answers {a : Agent} {s : State} (h : s.mm.Canonical) :
    Answers (fun t => t.mm.Canonical) (returnFromTrap a s) := by
  simp [returnFromTrap, h]

@[simp] theorem recordFault_mm (p : Fin 64) (kind cause : Nat) (strand : Option StrandId) (l : Option LaunchId) (s : State) :
    (recordFault p kind cause strand l s).mm = s.mm := by simp [recordFault]

@[simp] theorem raiseLine_mm (p : Fin 64) (kind : Nat) (s : State) : (raiseLine p kind s).mm = s.mm := by simp [raiseLine]

@[simp] theorem addInflight_mm (l : LaunchId) (s : State) : (addInflight l s).mm = s.mm := by simp [addInflight]

@[simp] theorem subInflight_mm (l : LaunchId) (s : State) : (subInflight l s).mm = s.mm := by simp [subInflight]

@[simp] theorem setUpdate_mm (f : Update → Update) (s : State) : (setUpdate f s).mm = s.mm := by simp [setUpdate]

@[simp] theorem bootStandby_mm (s : State) : (bootStandby s).mm = s.mm := by simp [bootStandby]

@[simp] theorem enterError_mm (p : Fin 64) (s : State) : (enterError p s).mm = s.mm := by simp [enterError]

@[simp] theorem discardMsg_mm (h : Header) (m : Instr) (s : State) : (discardMsg h m s).mm = s.mm := by simp [discardMsg]

theorem intercept_mm {h : Header} {q : Fin 64} {m : Instr} {s t : State} (ht : intercept h q m s = some t) :
    t.mm = s.mm := by
  simp only [intercept] at ht
  repeat' split at ht
  all_goals cases ht
  all_goals simp

@[simp] theorem noteSeq_mm (h : Header) (q : Fin 64) (s : State) : (noteSeq h q s).mm = s.mm := by simp [noteSeq]

theorem arrive_canonical {h : Header} {q : Fin 64} {m : Instr} {f : State → State}
    (hf : ∀ s, s.mm.Canonical → (f s).mm.Canonical) {s : State} (hs : s.mm.Canonical) : (arrive h q m f s).mm.Canonical := by
  unfold arrive
  split
  · rename_i t ht
    rwa [intercept_mm ht]
  · exact hf _ (by simpa using hs)

@[simp] theorem sendCreation_mm (src : Fin 64) (m : CreMsg) (s : State) :
    (sendCreation src m s).mm = s.mm := by simp [sendCreation]

@[simp] theorem sendStamped_mm (src : Fin 64) (m : CreMsg) (s : State) :
    (sendStamped src m s).mm = s.mm := by simp [sendStamped]

@[simp] theorem sendDeposit_mm (src : Fin 64) (m : DepMsg) (s : State) :
    (sendDeposit src m s).mm = s.mm := by simp [sendDeposit]

@[simp] theorem resend_mm (m : Instr) (s : State) : (resend m s).mm = s.mm := by
  fun_cases resend m s <;> simp

@[simp] theorem answer_mm (src : Fin 64) (to_ : Sender) (x : Answer) (s : State) : (answer src to_ x s).mm = s.mm := by
  fun_cases answer src to_ x s <;> simp

/-! ### Of translation (Machine/Translate) -/

@[simp] theorem cacheWalk_mm (sp : Space) (ea : Nat) (v : Word) (s : State) :
    (cacheWalk sp ea v s).mm = s.mm := by simp [cacheWalk]

@[simp] theorem orBits_canonical {by_ : Option Agent} {v : Via} {ea m : Nat} {s : State} (h : s.mm.Canonical) :
    (orBits by_ v ea m s).mm.Canonical := by
  unfold orBits
  split <;> simp -implicitDefEqProofs [*]

@[simp] theorem takeLeaf_canonical {by_ : Option Agent} {p : Part} {sp : Space} {need : Access} {va : Word}
    {l ea : Nat} {e : Word}
    {s : State} (h : s.mm.Canonical) : (takeLeaf by_ p sp need va l ea e s).2.mm.Canonical := by
  simp only [takeLeaf]
  repeat' split
  all_goals simp -implicitDefEqProofs [h]

@[simp] theorem walkFrom_canonical {by_ : Option Agent} {p : Part} {sp : Space} {need : Access} {va : Word} {fuel l t : Nat}
    {s : State} (h : s.mm.Canonical) : (walkFrom by_ p sp need va fuel l t s).2.mm.Canonical := by
  induction fuel generalizing l t s with
  | zero => exact h
  | succ fuel ih =>
    simp only [walkFrom]
    split
    · exact h
    · split
      · exact takeLeaf_canonical h
      · exact ih (by simp [h])

@[simp] theorem walk_canonical {by_ : Option Agent} {sp : Space} {need : Access} {va : Word} {s : State}
    (h : s.mm.Canonical) :
    (walk by_ sp need va s).2.mm.Canonical := by
  simp only [walk, apply_ite Prod.snd, mm_ite]
  exact canonical_ite h (canonical_ite h (walkFrom_canonical h))

@[simp] theorem fillTlb_mm (t : TlbAt) (g : Nat) (e : TlbEnt) (s : State) : (fillTlb t g e s).mm = s.mm := by
  fun_cases fillTlb t g e s <;> simp

@[simp] theorem keepFound_mm (t : TlbAt) (sp : Space) (need : Access) (va : Word) (e : TlbEnt) (s : State) :
    (keepFound t sp need va e s).mm = s.mm := by
  simp only [keepFound]
  split <;> simp

@[simp] theorem dropClean_canonical {a : Agent} {s : State} (h : s.mm.Canonical) : (dropClean a s).mm.Canonical := by
  cases a with
  | strand => exact foldSectors_canonical (fun _ _ => putLine_canonical) _ h
  | hart | weir | cmd | sec => exact h

@[simp] theorem fenceFound_canonical {t : TlbAt} {s : State} (h : s.mm.Canonical) : (fenceFound t s).mm.Canonical := by
  fun_cases fenceFound t s <;> simp [h]

@[simp] theorem translate_answers {t : TlbAt} {refused : Option (BitVec 48 × Access)} {sp : Space} {need : Access}
    {va : Word}
    {s : State} (h : s.mm.Canonical) : Answers (fun p => p.2.mm.Canonical) (translate t refused sp need va s) := by
  have hw := walk_canonical (by_ := walkAgent s t) (sp := sp) (need := need) (va := va) h
  simp only [translate]
  split
  · exact h
  · split <;> rename_i hx <;> rw [hx] at hw
    · exact fenceFound_canonical (by simpa using hw)
    · trivial
    · trivial
    all_goals split <;> trivial

@[simp] theorem discard_mm (part : BitVec 8) (pasid : Option (BitVec 20)) (g : Option Nat) (walkOnly : Bool) (s : State) :
    (discard part pasid g walkOnly s).mm = s.mm := by simp [discard]

@[simp] theorem setMonitor_mm (m : Monitor) (s : State) : (setMonitor m s).mm = s.mm := by simp [setMonitor]

@[simp] theorem clearMonitor_mm (p : Monitor → Bool) (s : State) : (clearMonitor p s).mm = s.mm := by simp [clearMonitor]

@[simp] theorem askPage_mm (sp : Space) (va : Word) (kind : Access) (ea : Nat) (s : State) :
    (askPage sp va kind ea s).mm = s.mm := by simp [askPage]

@[simp] theorem askGranule_canonical {by_ : Option Agent} {sp : Space} {va : Word} {kind : Access} {s : State}
    (h : s.mm.Canonical) : (askGranule by_ sp va kind s).mm.Canonical := by
  have hw := walk_canonical (by_ := by_) (sp := sp) (need := kind) (va := va) h
  simp only [askGranule]
  repeat' split
  all_goals exact hw

/-! ### Of tiles (Machine/Tiles) -/

@[simp] theorem readBytesFrom_clean {x : Quad} {strict : Bool} {base : Nat} {gen : Gen} {fuel off len : Nat} :
    Clean (readBytesFrom x strict base gen fuel off len) := by
  induction fuel generalizing off len with
  | zero => trivial
  | succ fuel ih =>
    simp only [readBytesFrom]
    split
    · trivial
    split
    · trivial
    split
    · trivial
    · exact ih.error ‹_›

@[simp] theorem readTile_clean {x : Quad} {strict : Bool} {t : Tile} {off len : Nat} :
    Clean (readTile x strict t off len) := by simp [readTile]

@[simp] theorem readElem_clean {x : Quad} {strict : Bool} {t : Tile} {r e : Nat} : Clean (readElem x strict t r e) := by
  simp only [readElem]
  split
  · trivial
  · exact readTile_clean.error ‹_›

@[simp] theorem accRead_clean {row : AccRow} {c : Nat} : Clean (accRead row c) := by simp [accRead]

@[simp] theorem askGrant_mm (q : Fin 64) (s : State) : (askGrant q s).mm = s.mm := by simp [askGrant]

@[simp] theorem boardFreed_mm (q : Fin 64) (s : State) : (boardFreed q s).mm = s.mm := by simp [boardFreed]

@[simp] theorem dropLoads_mm (q : Fin 64) (c : Fin 4) (k : Fin 24) (s : State) :
    (dropLoads q c k s).mm = s.mm := by simp [dropLoads]

@[simp] theorem completeEntries_mm (q : Fin 64) (p : SbEnt → Bool) (s : State) :
    (completeEntries q p s).mm = s.mm := by simp [completeEntries]

@[simp] theorem sweep_mm (q : Fin 64) (s : State) : (sweep q s).mm = s.mm := by simp [sweep]

@[simp] theorem takeGen_mm (q : Fin 64) (s : State) : (takeGen q s).2.mm = s.mm := by
  simp only [takeGen]
  split <;> simp

@[simp] theorem bumpTile_mm (q : Fin 64) (e : Nat) (live : List (Nat × Nat)) (s : State) :
    (bumpTile q e live s).mm = s.mm := by
  simp only [bumpTile]
  repeat' split
  all_goals simp

@[simp] theorem barrierSub_mm (r : Request) (n : Nat) (s : State) : (barrierSub r n s).mm = s.mm := by simp [barrierSub]

/-! ### Of stops (Machine/Halt) -/

@[simp] theorem performHeld_canonical {a : Agent} {e : BufEnt} {s : State} (h : s.mm.Canonical) :
    (performHeld a e s).mm.Canonical := by
  fun_cases performHeld a e s <;> simp [h]

@[simp] theorem performAll_canonical {a : Agent} {l : List BufEnt} {s : State} (h : s.mm.Canonical) :
    (performAll a l s).mm.Canonical := by
  fun_induction performAll a l s <;> simp [*]

@[simp] theorem commitOne_canonical {a : Agent} {s : State} (h : s.mm.Canonical) : (commitOne a s).mm.Canonical := by
  fun_cases commitOne a s <;> simp +zetaDelta -implicitDefEqProofs [h]

@[simp] theorem commitForm_canonical {a : Agent} {s : State} (h : s.mm.Canonical) : (commitForm a s).mm.Canonical := by
  fun_cases commitForm a s <;> simp [h]

@[simp] theorem commitN_canonical {a : Agent} {n : Nat} {s : State} (h : s.mm.Canonical) :
    (commitN a n s).mm.Canonical := by
  fun_induction commitN a n s <;> simp [*]

@[simp] theorem commitAll_canonical {a : Agent} {s : State} (h : s.mm.Canonical) :
    (commitAll a s).mm.Canonical := by simp [commitAll, h]

@[simp] theorem commitDue_canonical {a : Agent} {s : State} (h : s.mm.Canonical) :
    (commitDue a s).mm.Canonical := by simp [commitDue, h]

@[simp] theorem cancelPending_mm (a : Agent) (s : State) : (cancelPending a s).mm = s.mm := by simp [cancelPending]

@[simp] theorem putStopRecord_canonical {p q : Fin 64} {pos : Nat} {r : StopRec} {s : State} (h : s.mm.Canonical) :
    (putStopRecord p q pos r s).mm.Canonical := by simp [putStopRecord, h]

@[simp] theorem weirRecords_canonical {p : Fin 64} {u : Fin 16} {fault : Option (Nat × Nat × Word)}
    {l : List Request} {s : State}
    (h : s.mm.Canonical) : (weirRecords p u fault l s).mm.Canonical := by
  induction l generalizing s with
  | nil => exact h
  | cons r t ih => exact ih (ite_canonical (putStopRecord_canonical h) h)

@[simp] theorem askWalk_mm (p : Fin 64) (s : State) : (askWalk p s).mm = s.mm := by simp [askWalk]

@[simp] theorem leaveLine_mm (p : Fin 64) (e : Engine) (s : State) : (leaveLine p e s).mm = s.mm := by simp [leaveLine]

@[simp] theorem stopEngine_canonical {p : Fin 64} {e : Engine} {fault : Option (Nat × Nat × Word)} {s : State}
    (h : s.mm.Canonical) :
    (stopEngine p e fault s).mm.Canonical := by
  simp only [stopEngine]
  (repeat' split) <;> simp -implicitDefEqProofs [*]

@[simp] theorem selectAll_mm (l : List (Fin 64 × Fin 4)) (s : State) : (selectAll l s).mm = s.mm := by
  fun_induction selectAll l s <;> simp [*]

@[simp] theorem releaseLine_mm (p : Fin 64) (s : State) : (releaseLine p s).mm = s.mm := by simp [releaseLine]

@[simp] theorem setHold_mm (q : Fin 64) (s : State) : (setHold q s).mm = s.mm := by simp [setHold]

@[simp] theorem clearHold_mm (q : Fin 64) (s : State) : (clearHold q s).mm = s.mm := by simp [clearHold]

@[simp] theorem faultNoStrand_mm (p : Fin 64) (kind cause : Nat) (l : LaunchId) (s : State) :
    (faultNoStrand p kind cause l s).mm = s.mm := by simp [faultNoStrand]

@[simp] theorem hartFault_canonical {a : Agent} {r : Request} {kind cause : Nat} {value : Word} {s : State}
    (h : s.mm.Canonical) :
    (hartFault a r kind cause value s).mm.Canonical := by
  fun_cases hartFault a r kind cause value s <;> simp +zetaDelta -implicitDefEqProofs [h]

@[simp] theorem noteIntegrity_mm (p : Fin 64) (kind cause : Nat) (s : State) :
    (noteIntegrity p kind cause s).mm = s.mm := by simp [noteIntegrity]

@[simp] theorem endRequest_canonical {r : Request} {st : Option ReqSt} {s : State} (h : s.mm.Canonical) :
    (endRequest r st s).mm.Canonical := by
  unfold endRequest
  extract_lets a s0 s1 s2 s3 ag s' s4 s5
  have h0 : s0.mm.Canonical := by
    simp only [s0]
    split
    · rw [noteIntegrity_mm]
      exact ite_canonical h (hartFault_canonical h)
    all_goals exact h
  have h3 : s3.mm.Canonical := by
    rw [completeEntries_mm, barrierSub_mm, State.updHart_mm]
    exact h0
  have h' : s'.mm.Canonical := by
    simpa only [s', State.updCtx_mm] using h3
  clear_value s3 s'
  have h4 : s4.mm.Canonical := by
    refine ite_canonical ?_ h3
    generalize (s'.ctx ag).why = why
    rcases why with _ | w
    · exact h'
    · cases w <;> simpa only [wake_mm] using h'
  rw [post_mm, wakeAll_mm]
  exact h4

@[simp] theorem cancelRequest_canonical {live : List (Nat × Nat)} {r : Request} {s : State} (h : s.mm.Canonical) :
    (cancelRequest live r s).mm.Canonical := by simp [cancelRequest, h]

@[simp] theorem cancelAllReq_canonical {live : Request → List (Nat × Nat)} {l : List Request} {s : State}
    (h : s.mm.Canonical) :
    (cancelAllReq live l s).mm.Canonical := by
  fun_induction cancelAllReq live l s <;> simp [*]

@[simp] theorem cancelRequests_canonical {p : Request → Bool} {s : State} (h : s.mm.Canonical) :
    (cancelRequests p s).mm.Canonical := by simp [cancelRequests, h]

@[simp] theorem sendHeld_mm (id : StrandId) (e : BufEnt) (s : State) : (sendHeld id e s).mm = s.mm := by
  fun_cases sendHeld id e s <;> simp

@[simp] theorem drainRun_canonical {a : Agent} {n : Nat} {s : State} (h : s.mm.Canonical) :
    (drainRun a n s).mm.Canonical := by
  fun_induction drainRun a n s <;> simp [*]

@[simp] theorem drainRegion_canonical {a : Agent} {s : State} (h : s.mm.Canonical) :
    (drainRegion a s).mm.Canonical := by simp [drainRegion, h]

@[simp] theorem drainNext_canonical {a : Agent} {s : State} (h : s.mm.Canonical) :
    (drainNext a s).mm.Canonical := by simp [drainNext, h]

@[simp] theorem drained_answers {a : Agent} {s : State} (h : s.mm.Canonical) :
    Answers (fun t => t.mm.Canonical) (drained a s) := by simp [drained, h]

@[simp] theorem subInflights_mm (l : List Instr) (s : State) : (subInflights l s).mm = s.mm := by
  induction l generalizing s with
  | nil => rfl
  | cons m t ih => rw [subInflights, ih]; split <;> simp

@[simp] theorem dropWaiting_mm (p : Instr → Bool) (s : State) : (dropWaiting p s).mm = s.mm := by simp [dropWaiting]

@[simp] theorem killStrand_canonical {q : Fin 64} {c : Fin 4} {k : Fin 24} {s : State} (h : s.mm.Canonical) :
    (killStrand q c k s).mm.Canonical := by simp [killStrand, h]

@[simp] theorem killStrands_canonical {l : List (Fin 64 × Fin 4 × Fin 24)} {s : State} (h : s.mm.Canonical) :
    (killStrands l s).mm.Canonical := by
  fun_induction killStrands l s <;> simp [*]

@[simp] theorem releaseBarriers_mm (l : LaunchId) (s : State) : (releaseBarriers l s).mm = s.mm := by simp [releaseBarriers]

@[simp] theorem dropEvents_mm (l : LaunchId) (s : State) : (dropEvents l s).mm = s.mm := by simp [dropEvents]

@[simp] theorem cancelLaunch_canonical {l : LaunchId} {s : State} (h : s.mm.Canonical) :
    (cancelLaunch l s).mm.Canonical := by
  fun_cases cancelLaunch l s <;> simp +zetaDelta -implicitDefEqProofs [h]

@[simp] theorem cancelLaunches_canonical {l : List LaunchId} {s : State} (h : s.mm.Canonical) :
    (cancelLaunches l s).mm.Canonical := by
  fun_induction cancelLaunches l s <;> simp [*]

/-! ### Of operands and the shape of an instruction (Machine/Operands) -/

@[simp] theorem genCheck_clean {strict : Bool} {g : Gen} {v : Word} {t : Gen} :
    Clean (genCheck strict g v t) := by simp [genCheck]

@[simp] theorem readSrc_clean {s : State} {a : Agent} {f : Src} : Clean (readSrc s a f) := by
  fun_cases readSrc s a f <;> simp

@[simp] theorem writeDst_mm (s : State) (a : Agent) (d : Dst) (v : Word) : (writeDst s a d v).mm = s.mm := by simp [writeDst]

@[simp] theorem setPc_mm (s : State) (a : Agent) (pc : Word) : (setPc s a pc).mm = s.mm := by simp [setPc]

@[simp] theorem longResult_mm (s : State) (a : Agent) (la : Nat) (d : Dst) (v : Word) (fl : BitVec 5) :
    (longResult s a la d v fl).mm = s.mm := by simp [longResult]

@[simp] theorem windowResult_mm (s : State) (a : Agent) (la : Nat) (d : Dst) (v : Word) :
    (windowResult s a la d v).mm = s.mm := by simp [windowResult]

theorem classStop_canonical {cls : CoreClass} {major : Nat} {qown : Bool} {e : Stop}
    (he : classStop cls major qown = some e) :
    e.Canonical := by
  cases cls <;> simp only [classStop] at he <;> repeat' split at he
  all_goals cases he
  all_goals trivial

@[simp] theorem tickWindows_mm (a : Agent) (s : State) : (tickWindows a s).mm = s.mm := by simp [tickWindows]

@[simp] theorem pcTrigger_mm (s : State) (a : Agent) : (pcTrigger s a).1.mm = s.mm := by
  cases a with
  | strand => rw [pcTrigger]; split <;> simp
  | hart | weir | cmd | sec => rfl

theorem gate_canonical {i : Instr} {a : Agent} {s : State} (h : s.mm.Canonical) : (gate i a s).Canonical := by
  simp only [gate]
  split
  · exact h
  split
  · exact ⟨trivial, by simpa using h⟩
  split
  · exact ⟨classStop_canonical ‹_›, h⟩
  split
  · exact ⟨trivial, by simpa using h⟩
  split
  all_goals
    repeat' split
    all_goals simp -implicitDefEqProofs [Gate.Canonical, h]

@[simp] theorem used_mm (a : Agent) (s : State) : (used a s).mm = s.mm := by simp [used]

@[simp] theorem endStep_canonical {a : Agent} {s : State} (h : s.mm.Canonical) : (endStep a s).mm.Canonical := by
  fun_cases endStep a s <;> simp [h]

@[simp] theorem finish_canonical {a : Agent} {s : State} (h : s.mm.Canonical) :
    (finish a s).mm.Canonical := by simp [finish, h]

@[simp] theorem advance_mm (i : Instr) (a : Agent) (s : State) : (advance i a s).mm = s.mm := by simp [advance]

@[simp] theorem abortRegion_mm (a : Agent) (va : Word) (s : State) : (abortRegion a va s).mm = s.mm := by simp [abortRegion]

@[simp] theorem takeFault_canonical {a : Agent} {kind cause : Nat} {value : Word} {s : State} (h : s.mm.Canonical) :
    (takeFault a kind cause value s).mm.Canonical := by
  simp only [takeFault]
  (repeat' split) <;> simp -implicitDefEqProofs [*]

@[simp] theorem waitPage_mm (a : Agent) (va : Word) (kind : Access) (s : State) : (waitPage a va kind s).mm = s.mm := by
  fun_cases waitPage a va kind s <;> simp

@[simp] theorem keepWindows_mm (a : Agent) (s s1 : State) : (keepWindows a s s1).mm = s1.mm := by simp [keepWindows]

theorem stopped_canonical {a : Agent} {e : Stop} {s : State} (he : e.Canonical) (h : s.mm.Canonical) :
    NextCanonical (stopped a e s) := by
  have h0 := commitAll_canonical (a := a) h
  cases e with
  | fault k c v => exact takeFault_canonical h0
  | faultIn k c v s1 => exact takeFault_canonical he
  | request k c v =>
    simp only [stopped]
    split
    · exact endRequest_canonical h0
    · exact takeFault_canonical h0
  | trap c v ret =>
    simp only [stopped]
    split <;> simpa using h0
  | hold w s1 => simpa [stopped] using he
  | wait s1 => simpa [stopped] using he
  | absent va k ea =>
    simp only [stopped]
    split <;> simpa using h0
  | granule va k =>
    simp only [stopped]
    split
    · simpa using askGranule_canonical h0
    · exact h0
  | park w => simpa [stopped] using h0
  | stall => exact h0
  | noAddress n => trivial

theorem stopBehind_canonical {a : Agent} {e : Stop} {s1 s : State} (he : e.Canonical) (h1 : s1.mm.Canonical)
    (h : s.mm.Canonical) : NextCanonical (stopBehind a e s1 s) := by
  rw [stopBehind]
  split
  · exact h
  · exact stopped_canonical he h1

theorem perform_canonical {i : Instr} {body : Agent → Act} (hb : KeepsCanonical body) {s : State} (h : s.mm.Canonical) :
    NextCanonical (perform i body s) := by
  have hg := gate_canonical (i := i) (a := s.md.who) h
  obtain ⟨t, g, e⟩ | ⟨x, t, g, e⟩ | ⟨t, u, g, b, e⟩ | ⟨t, x, g, b, e⟩ := perform_cases i body s
  all_goals
    rw [e]
    rw [g] at hg
  · exact hg
  · exact stopBehind_canonical hg.1 hg.2 h
  · have hu := (hb _ t hg).ok b
    exact finish_canonical (by simpa using hu)
  · exact stopBehind_canonical ((hb _ t hg).error b) (by simpa using h) h

theorem performJump_canonical {i : Instr} {body : Agent → Act} (hb : KeepsCanonical body) {s : State} (h : s.mm.Canonical) :
    NextCanonical (performJump i body s) := by
  have hg := gate_canonical (i := i) (a := s.md.who) h
  obtain ⟨t, g, e⟩ | ⟨x, t, g, e⟩ | ⟨t, u, g, b, e⟩ | ⟨t, x, g, b, e⟩ := performJump_cases i body s
  all_goals
    rw [e]
    rw [g] at hg
  · exact hg
  · exact stopBehind_canonical hg.1 hg.2 h
  · exact finish_canonical ((hb _ t hg).ok b)
  · exact stopBehind_canonical ((hb _ t hg).error b) (by simpa using h) h

/-! ### Of flags (Machine/Flags) -/

@[simp] theorem raiseFlags_mm (a : Agent) (fl : BitVec 5) (s : State) : (raiseFlags a fl s).mm = s.mm := by simp [raiseFlags]

/-! ### Of accesses (Machine/Access) -/

theorem xlatPiece_canonical {w : Requester} {need : Access} {va : Word} {s : State} (h : s.mm.Canonical) :
    Clean (xlatPiece w need va s).1 ∧ (xlatPiece w need va s).2.mm.Canonical := by
  simp only [xlatPiece]
  split
  · split <;> exact ⟨trivial, h⟩
  · split
    · exact ⟨trivial, h⟩
    · split <;> rename_i ht
      · exact ⟨trivial, (translate_answers h).ok ht⟩
      · exact ⟨(translate_answers h).error ht, h⟩

theorem xlatPieces_canonical {w : Requester} {need : Access} {va : Word} {l : List (Nat × Nat)} {s : State}
    (h : s.mm.Canonical) :
    (∀ r ∈ (xlatPieces w need va l s).1, Clean r) ∧ (xlatPieces w need va l s).2.mm.Canonical := by
  induction l generalizing s with
  | nil => exact ⟨fun _ hr => absurd hr List.not_mem_nil, h⟩
  | cons p t ih =>
    obtain ⟨hp, hs⟩ := xlatPiece_canonical (w := w) (need := need) (va := va + wd p.1) h
    obtain ⟨hrest, ht⟩ := ih hs
    exact ⟨List.forall_mem_cons.mpr ⟨hp, hrest⟩, ht⟩

theorem firstError_clean {l : List (Except Stop Nat)} (h : ∀ r ∈ l, Clean r) : Clean (firstError l) := by
  induction l with
  | nil => trivial
  | cons r t ih =>
    obtain ⟨hr, ht⟩ := List.forall_mem_cons.mp h
    cases r with
    | error e => exact hr
    | ok p =>
      rw [firstError]
      split
      · trivial
      · exact (ih ht).error ‹_›

@[simp] theorem resolve_answers {w : Requester} {right : Right} {need : Access} {va : Word} {len : Nat} {s : State}
    (h : s.mm.Canonical) : Answers (fun p => p.2.mm.Canonical) (resolve w right need va len s) := by
  obtain ⟨hr, hs⟩ := xlatPieces_canonical (w := w) (need := need) (va := va) (l := splits va len) h
  have he := firstError_clean hr
  simp only [resolve, answers_ite, perm_answers, implies_true, true_and]
  intros
  split
  · exact he.error ‹_›
  · exact hs

@[simp] theorem writePieces_canonical {v : Via} {l : List (Nat × Nat)} {bs : List Byte} {s : State} (h : s.mm.Canonical) :
    (writePieces v l bs s).mm.Canonical := by
  induction l generalizing bs s with
  | nil => exact h
  | cons p t ih => exact ih (ite_canonical (writePhys_canonical h) h)

@[simp] theorem plainRead_answers {w : Requester} {va : Word} {len : Nat} {s : State} (h : s.mm.Canonical) :
    Answers (fun p => p.2.mm.Canonical) (plainRead w va len s) :=
  (resolve_answers h).bind fun r hr => by simp [hr]

@[simp] theorem plainWrite_answers {w : Requester} {l1 : Option (Fin 64 × Fin 4)} {va : Word} {bs : List Byte} {s : State}
    (h : s.mm.Canonical) : Answers (fun t => t.mm.Canonical) (plainWrite w l1 va bs s) :=
  (resolve_answers h).bind fun _ hr => writePieces_canonical hr

/-! ### Of hardware queues (Machine/Queue) -/

@[simp] theorem setKval_canonical {q : Fin 4096} {v : Nat} {s : State} (h : s.mm.Canonical) :
    (setKval q v s).mm.Canonical := by simp [setKval, h]

@[simp] theorem noteKval_canonical {q : Fin 4096} {v : BitVec 32} {s : State} (h : s.mm.Canonical) :
    (noteKval q v s).mm.Canonical := by simp [noteKval, h]

@[simp] theorem setPending_mm (q : Fin 4096) (s : State) : (setPending q s).mm = s.mm := by simp [setPending]

@[simp] theorem clearPending_mm (q : Fin 4096) (s : State) : (clearPending q s).mm = s.mm := by simp [clearPending]

@[simp] theorem refuseConfig_mm (p : Fin 64) (s : State) : (refuseConfig p s).mm = s.mm := by simp [refuseConfig]

theorem askWrite_canonical {i : Fin 16} {e : Stop} {s t : State} (h : s.mm.Canonical) (ht : askWrite i e s = some t) :
    t.mm.Canonical := by
  simp only [askWrite] at ht
  split at ht <;> cases ht
  · simpa using h
  · simpa using askGranule_canonical h

theorem rawPut_canonical {i : Fin 16} {va : Word} {bs : List Byte} {s t : State} (h : s.mm.Canonical)
    (ht : rawPut i va bs s = some t) : t.mm.Canonical := by
  simp only [rawPut] at ht
  split at ht
  · cases ht
    simpa using h
  split at ht
  · cases ht
    have hw := (plainWrite_answers h).ok ‹_›
    exact ite_canonical hw hw
  · obtain ⟨u, hu, rfl⟩ := Option.map_eq_some_iff.mp ht
    simpa using askWrite_canonical h hu

@[simp] theorem raiseIrq_mm (s : State) : (raiseIrq s).mm = s.mm := by simp [raiseIrq]

theorem getD_rawPut_canonical {i : Fin 16} {va : Word} {bs : List Byte} {s : State} (h : s.mm.Canonical) :
    ((rawPut i va bs s).getD s).mm.Canonical := by
  cases hr : rawPut i va bs s with
  | none => exact h
  | some t => exact rawPut_canonical h hr

@[simp] theorem enterFault_canonical {i : Fin 16} {code : Nat} {s : State} (h : s.mm.Canonical) :
    (enterFault i code s).mm.Canonical := by
  simp only [enterFault, post_mm]
  refine getD_rawPut_canonical (getD_rawPut_canonical ?_)
  simpa using h

@[simp] theorem queueFault_canonical {i : Fin 16} {code : Nat} {s : State} (h : s.mm.Canonical) :
    (queueFault i code s).mm.Canonical := by simp [queueFault, h]

@[simp] theorem slotPut_canonical {i : Fin 16} {va : Word} {bs : List Byte} {s : State} (h : s.mm.Canonical) :
    (slotPut i va bs s).mm.Canonical := by
  rw [slotPut]
  split
  · exact rawPut_canonical h ‹_›
  · exact queueFault_canonical h

@[simp] theorem putQcb_canonical {i : Fin 16} {off len v : Nat} {s : State} (h : s.mm.Canonical) :
    (putQcb i off len v s).mm.Canonical := by simp [putQcb, h]

@[simp] theorem putStatus_canonical {i : Fin 16} {s : State} (h : s.mm.Canonical) :
    (putStatus i s).mm.Canonical := by simp [putStatus, h]

@[simp] theorem setSlot_canonical {i : Fin 16} {st : HwSt} {s : State} (h : s.mm.Canonical) :
    (setSlot i st s).mm.Canonical := by simp -implicitDefEqProofs [setSlot, h]

@[simp] theorem flushHeld_canonical {i : Fin 16} {l : List (Word × List Byte)} {s : State} (h : s.mm.Canonical) :
    (flushHeld i l s).mm.Canonical := by
  fun_induction flushHeld i l s <;> simp [*]

@[simp] theorem retryHeld_canonical {i : Fin 16} {s : State} (h : s.mm.Canonical) :
    (retryHeld i s).mm.Canonical := by simp -implicitDefEqProofs [retryHeld, h]

@[simp] theorem startPreempt_canonical {i : Fin 16} {s : State} (h : s.mm.Canonical) :
    (startPreempt i s).mm.Canonical := by simp -implicitDefEqProofs [startPreempt, h]

@[simp] theorem grant_canonical {i : Fin 16} {s : State} (h : s.mm.Canonical) :
    (grant i s).mm.Canonical := by simp -implicitDefEqProofs [grant, h]

@[simp] theorem grantAll_canonical {l held : List (Fin 16)} {s : State} (h : s.mm.Canonical) :
    (grantAll l held s).mm.Canonical := by
  induction l generalizing held s with
  | nil => exact h
  | cons i t ih =>
    rw [grantAll]
    split
    · exact ih (ite_canonical (startPreempt_canonical h) h)
    · exact ih (grant_canonical h)

@[simp] theorem select_canonical {s : State} (h : s.mm.Canonical) : (select s).mm.Canonical := by simp [select, h]

@[simp] theorem preemptLower_canonical {i : Fin 16} {l : List (Fin 16)} {s : State} (h : s.mm.Canonical) :
    (preemptLower i l s).mm.Canonical := by
  induction l generalizing s with
  | nil => exact h
  | cons j t ih => exact ih (ite_canonical (startPreempt_canonical h) h)

@[simp] theorem makeRunnable_canonical {i : Fin 16} {s : State} (h : s.mm.Canonical) :
    (makeRunnable i s).mm.Canonical := by simp -implicitDefEqProofs [makeRunnable, h]

@[simp] theorem wakeSlot_canonical {i : Fin 16} {s : State} (h : s.mm.Canonical) :
    (wakeSlot i s).mm.Canonical := by simp -implicitDefEqProofs [wakeSlot, h]

@[simp] theorem serveKicks_mm (s : State) : (serveKicks s).mm = s.mm := by
  fun_cases serveKicks s <;> simp

@[simp] theorem setPend_canonical {i : Fin 16} {s : State} (h : s.mm.Canonical) :
    (setPend i s).mm.Canonical := by simp -implicitDefEqProofs [setPend, h]

@[simp] theorem kickOp_canonical {q : Fin 4096} {v : BitVec 32} {s : State} (h : s.mm.Canonical) :
    (kickOp q v s).mm.Canonical := by
  fun_cases kickOp q v s
  · exact h
  · exact h
  · exact noteKval_canonical (setPend_canonical h)
  · exact wakeSlot_canonical h
  · simpa using noteKval_canonical h

@[simp] theorem keepMarks_mm (i : Fin 16) (s : State) : (keepMarks i s).mm = s.mm := by simp [keepMarks]

@[simp] theorem slotAsk_canonical {i : Fin 16} {e : Stop} {s : State} (h : s.mm.Canonical) :
    (slotAsk i e s).mm.Canonical := by
  fun_cases slotAsk i e s
  · simpa using h
  · simpa using askGranule_canonical h
  · exact h

@[simp] theorem mapFault_mm (i : Fin 16) (qcb : Word) (s : State) : (mapFault i qcb s).mm = s.mm := by simp [mapFault]

@[simp] theorem loadSlot_canonical {i : Fin 16} {q : Fin 4096} {s : State} (h : s.mm.Canonical) :
    (loadSlot i q s).mm.Canonical := by
  unfold loadSlot
  extract_lets qcb s1 s0
  have h1 : s1.mm.Canonical := by simpa [s1] using h
  have h0 : s0.mm.Canonical := by simpa [s0] using h1
  clear_value s1 s0
  have hp := plainRead_answers (w := slotRequester s1 i) (va := qcb) (len := 256) h1
  split
  · exact slotAsk_canonical h1
  · exact slotAsk_canonical h1
  · exact (mapFault_mm ..).symm ▸ h0
  rename_i bs s2 hbs
  have h2 : s2.mm.Canonical := hp.ok hbs
  extract_lets sh n m install
  have hm : m.2.mm.Canonical := h2
  have hi : ∀ shb t, t.mm.Canonical → (install shb t).mm.Canonical := fun shb t ht =>
    wakeSlot_canonical (setSlot_canonical (by simpa using ht))
  clear_value m install
  refine ite_canonical (hi _ _ hm) ?_
  have hq := plainRead_answers (w := slotRequester m.2 i) (va := sh) (len := 256) hm
  split
  · exact hi _ _ (hq.ok ‹_›)
  · exact slotAsk_canonical hm
  · exact slotAsk_canonical hm
  · exact queueFault_canonical (hi _ _ hm)

@[simp] theorem mapSlot_canonical {i : Fin 16} {q : Fin 4096} {s : State} (h : s.mm.Canonical) :
    (mapSlot i q s).mm.Canonical := by
  fun_cases mapSlot i q s <;> simp -implicitDefEqProofs [h]

@[simp] theorem startUnmap_canonical {i : Fin 16} {s : State} (h : s.mm.Canonical) : (startUnmap i s).mm.Canonical := by
  fun_cases startUnmap i s <;> simp +zetaDelta -implicitDefEqProofs [h]

@[simp] theorem putAll_canonical {i : Fin 16} {base : Word} {l : List (Nat × List Byte)} {s : State} (h : s.mm.Canonical) :
    (putAll i base l s).mm.Canonical := by
  fun_induction putAll i base l s <;> simp [*]

@[simp] theorem finishUnmap_canonical {i : Fin 16} {s : State} (h : s.mm.Canonical) : (finishUnmap i s).mm.Canonical := by
  unfold finishUnmap
  extract_lets x q s1 s2 s3 s4 s5
  have h2 : s2.mm.Canonical := ite_canonical (putAll_canonical h) (putAll_canonical (putAll_canonical h))
  have h4 : s4.mm.Canonical := putQcb_canonical (ite_canonical (by simpa using h2) h2)
  refine ite_canonical h (ite_canonical h2 (ite_canonical h4 ?_))
  simpa [s5] using h4

@[simp] theorem forgetSaved_mm (i : Fin 16) (s : State) : (forgetSaved i s).mm = s.mm := by simp [forgetSaved]

@[simp] theorem startReset_canonical {i : Fin 16} {s : State} (h : s.mm.Canonical) : (startReset i s).mm.Canonical := by
  fun_cases startReset i s <;> simp +zetaDelta -implicitDefEqProofs [h]

@[simp] theorem finishReset_canonical {i : Fin 16} {s : State} (h : s.mm.Canonical) :
    (finishReset i s).mm.Canonical := by simp -implicitDefEqProofs [finishReset, h]

@[simp] theorem setJob_canonical {p : Fin 64} {job : Nat} {f : JobEnt → JobEnt} {s : State} (h : s.mm.Canonical) :
    (setJob p job f s).mm.Canonical := by simp [setJob, h]

@[simp] theorem markJob_mm (part job : BitVec 8) (s : State) : (markJob part job s).mm = s.mm := by simp [markJob]

@[simp] theorem cancelLevel_canonical {i : Fin 16} {kind : Nat} {s : State} (h : s.mm.Canonical) :
    (cancelLevel i kind s).mm.Canonical := by
  unfold cancelLevel
  split <;> simp -implicitDefEqProofs [*]

@[simp] theorem cancelUnmapped_canonical {q : Fin 4096} {kind : Nat} {s : State} (h : s.mm.Canonical) :
    (cancelUnmapped q kind s).mm.Canonical := by
  fun_cases cancelUnmapped q kind s <;> simp +zetaDelta -implicitDefEqProofs [h]

/-! ### Of system registers (Machine/Sysreg) -/

theorem lowReg_clean {s : State} {a : Agent} {num : Nat} {r : Except Stop Word} (h : lowReg s a num = some r) : Clean r := by
  simp only [lowReg] at h
  split at h <;> cases h <;> simp

@[simp] theorem writeChla_mm (q : Fin 64) (c : Fin 4) (ch : Fin 8) (v : Word) (s : State) :
    (writeChla q c ch v s).mm = s.mm := by simp [writeChla]

@[simp] theorem writeOwn_mm (q : Fin 64) (part : BitVec 8) (owner : BitVec 32) (s : State) :
    (writeOwn q part owner s).mm = s.mm := by
  fun_cases writeOwn q part owner s <;> simp

@[simp] theorem writeInst_mm (by_ : Master) (q : Fin 64) (c : Fin 4) (num : Nat) (v : Word) (s : State) :
    (writeInst by_ q c num v s).mm = s.mm := by
  unfold writeInst
  refine ite_mm rfl ?_
  split
  · exact ite_mm rfl (writeOwn_mm ..)
  · exact ite_mm rfl (writeOwn_mm ..)
  · exact ite_mm rfl rfl
  · exact ite_mm rfl rfl
  · exact ite_mm (ite_mm rfl (setHold_mm ..)) (clearHold_mm ..)
  · rfl
  · rfl
  · exact ite_mm rfl (ite_mm (writeChla_mm ..) rfl)

@[simp] theorem writeLow_mm (a : Agent) (num : Nat) (v : Word) (s : State) : (writeLow a num v s).mm = s.mm := by
  fun_cases writeLow a num v s <;> simp +zetaDelta

@[simp] theorem readReg_clean {s : State} {a : Agent} {num : Nat} : Clean (readReg s a num) := by
  rw [readReg]
  split
  · split
    · exact lowReg_clean ‹_›
    · trivial
  · split <;> simp

@[simp] theorem setCsel_mm (a : Agent) (v : Word) (s : State) : (setCsel a v s).mm = s.mm := by
  fun_cases setCsel a v s <;> simp

@[simp] theorem writeReg_answers {a : Agent} {num : Nat} {v : Word} {s : State} (h : s.mm.Canonical) :
    Answers (fun t => t.mm.Canonical) (writeReg a num v s) := by
  fun_cases writeReg a num v s <;> simp [h]

/-! ### Of special registers (Machine/Regs) -/

@[simp] theorem popGranq_mm (s : State) : (popGranq s).mm = s.mm := by
  fun_cases popGranq s <;> simp

@[simp] theorem popEvlog_mm (s : State) : (popEvlog s).mm = s.mm := by simp [popEvlog]

@[simp] theorem ioReadEffect_mm (pa : Nat) (s : State) : (ioReadEffect pa s).mm = s.mm := by
  fun_cases ioReadEffect pa s <;> simp

@[simp] theorem refuseAgent_mm (s : State) (a : Agent) : (refuseAgent s a).mm = s.mm := by
  unfold refuseAgent
  (repeat' split) <;> simp

@[simp] theorem retryAgent_mm (s : State) (a : Agent) : (retryAgent s a).mm = s.mm := by
  unfold retryAgent
  split <;> simp

@[simp] theorem slotGoes_mm (i : Fin 16) (s : State) : (slotGoes i s).mm = s.mm := by
  fun_cases slotGoes i s <;> simp +zetaDelta

@[simp] theorem answerSlot_canonical {refuse : Bool} {g : BitVec 48} {kind : Option Access} {s : State} {i : Fin 16}
    (h : s.mm.Canonical) :
    (answerSlot refuse g kind s i).mm.Canonical := by simp [answerSlot, h]

@[simp] theorem answerPage_canonical {refuse : Bool} {part : BitVec 8} {pasid : Option (BitVec 20)} {g : BitVec 48}
    {kind : Option Access} {s : State} (h : s.mm.Canonical) : (answerPage refuse part pasid g kind s).mm.Canonical := by
  refine foldl_canonical (fun _ _ => answerSlot_canonical) _ ?_
  cases refuse <;> simpa using h

@[simp] theorem granAnswer_canonical {refuse : Bool} {part : BitVec 8} {g : BitVec 48} {s : State} (h : s.mm.Canonical) :
    (granAnswer refuse part g s).mm.Canonical := by simp [granAnswer, h]

@[simp] theorem granResponse_canonical {v : Word} {s : State} (h : s.mm.Canonical) :
    (granResponse v s).mm.Canonical := by simp [granResponse, h]

@[simp] theorem writeSctl_mm (i : Fin 16) (v : Word) (s : State) : (writeSctl i v s).mm = s.mm := by simp [writeSctl]

@[simp] theorem biasGo_mm (g : BitVec 36) (host : Bool) (s : State) : (biasGo g host s).mm = s.mm := by simp [biasGo]

@[simp] theorem writeBias_mm (v : Word) (s : State) : (writeBias v s).mm = s.mm := by simp [writeBias]

@[simp] theorem writeCmd_mm (by_ : Master) (off : Nat) (v : Word) (s : State) : (writeCmd by_ off v s).mm = s.mm := by
  rw [writeCmd]
  refine ite_mm rfl (ite_mm ?_ (ite_mm rfl (ite_mm rfl (ite_mm (writeBias_mm ..) (ite_mm rfl (ite_mm rfl (ite_mm rfl
    (ite_mm rfl (ite_mm rfl (ite_mm ?_ ?_))))))))))
  · split
    · exact writeSctl_mm ..
    all_goals rfl
  · split <;> rfl
  · split
    · exact ite_mm (ite_mm (writeInst_mm ..) (ite_mm rfl rfl)) (writeInst_mm ..)
    · rfl

@[simp] theorem writeHost_canonical {off : Nat} {v : Word} {s : State} (h : s.mm.Canonical) :
    (writeHost off v s).mm.Canonical := by simp [writeHost, h]

@[simp] theorem ioWrite_canonical {by_ : Master} {pa : Nat} {bs : List Byte} {s : State} (h : s.mm.Canonical) :
    (ioWrite by_ pa bs s).mm.Canonical := by
  simp only [ioWrite]
  split
  · rwa [kickStore_mm]
  · exact ite_canonical (by simpa using h) h
  · exact ite_canonical (writeHost_canonical h) h
  all_goals exact h

@[simp] theorem loadEffects_canonical {v : Via} {l : List (Nat × Nat)} {s : State} (h : s.mm.Canonical) :
    (loadEffects v l s).mm.Canonical := by
  induction l generalizing s with
  | nil => exact h
  | cons p t ih =>
    refine ih (ite_canonical (foldSectors_canonical (fun _ _ => lineRead_canonical) _ h) (ite_canonical ?_ h))
    simpa using h

@[simp] theorem storePiece_canonical {by_ : Master} {v : Via} {pa : Nat} {bs : List Byte} {s : State} (h : s.mm.Canonical) :
    (storePiece by_ v pa bs s).mm.Canonical := by
  fun_cases storePiece by_ v pa bs s <;> simp [h]

@[simp] theorem storeEach_canonical {by_ : Master} {v : Via} {l : List (Nat × List Byte)} {s : State} (h : s.mm.Canonical) :
    (storeEach by_ v l s).mm.Canonical := by
  fun_induction storeEach by_ v l s <;> simp [*]

@[simp] theorem storePieces_canonical {by_ : Master} {v : Via} {ps : List (Nat × List Byte)} {s : State}
    (h : s.mm.Canonical) :
    (storePieces by_ v ps s).mm.Canonical := by simp [storePieces, h]

/-! ### Of memory instructions (Machine/MemInstr) -/

@[simp] theorem settled_answers {a : Agent} {s : State} (h : s.mm.Canonical) :
    Answers (fun t => t.mm.Canonical) (settled a s) := by simp [settled, h]

@[simp] theorem operands_clean {a : Agent} {xs : List Src} {s : State} : Clean (operands a xs s) := by
  fun_cases operands a xs s <;> simp

@[simp] theorem parkWith_canonical {a : Agent} {ws : List Word} {w : Why} {s : State} :
    (parkWith a ws w s).Canonical ↔ s.mm.Canonical := by
  simp [parkWith]

@[simp] theorem traceAccess_mm (a : Agent) (kind : Nat) (va : Word) (s : State) : (traceAccess a kind va s).mm = s.mm := by
  fun_cases traceAccess a kind va s <;> simp

@[simp] theorem loadValue_answers {sz : LdSize} {acq : Bool} {a : Agent} {va : Word} {s : State} (h : s.mm.Canonical) :
    Answers (fun p => p.2.mm.Canonical) (loadValue sz acq a va s) := by
  refine .bind_clean (by simp) fun _ => (resolve_answers h).bind fun r hr => ?_
  refine .bind_clean (by simp) fun _ => .bind_clean (by simp) fun _ => ?_
  extract_lets -underBinder afterwards
  have ha : ∀ t : State, t.mm.Canonical → Answers (fun p => p.2.mm.Canonical) (afterwards t) := fun t ht => by
    simpa [afterwards] using loadEffects_canonical ht
  split
  · exact (settled_answers hr).bind ha
  · exact ha _ hr

@[simp] theorem putStore_answers {a : Agent} {v : Via} {ps : List (Nat × List Byte)} {s : State} (h : s.mm.Canonical) :
    Answers (fun t => t.mm.Canonical) (putStore a v ps s) := by
  fun_cases putStore a v ps s
  · simp
  · simpa using h
  · exact (settled_answers h).bind fun _ => storePieces_canonical
  · simpa using h
  · exact (drained_answers h).bind fun _ => storePieces_canonical

@[simp] theorem amoPlace_answers {wide : Bool} {a : Agent} {va : Word} {s : State} (h : s.mm.Canonical) :
    Answers (fun p => p.2.mm.Canonical) (amoPlace wide a va s) :=
  .bind_clean (by simp) fun _ => (resolve_answers h).bind fun r hr => by simp [hr]

@[simp] theorem amoAt_answers {wide : Bool} {f : Nat → Nat} {a : Agent} {va : Word} {s : State} (h : s.mm.Canonical) :
    Answers (fun p => p.2.mm.Canonical) (amoAt wide f a va s) :=
  (drained_answers h).bind fun _ ht => (amoPlace_answers ht).bind fun _ hp => by simp [hp]

theorem amoForm_keeps {wide : Bool} {d : Dst} {a : Fin 16} {b : Src} {la : Fin 16} {f : Nat → Nat → Nat → Nat} :
    KeepsCanonical (amoForm wide d a b la f) := fun _ _ h =>
  .bind_clean readSrc_clean fun _ => .bind_clean readSrc_clean fun _ => (amoAt_answers h).bind fun _ hr => by simpa using hr

theorem maintain_canonical {f : Nat → State → State} (hf : ∀ x s, s.mm.Canonical → (f x s).mm.Canonical) {w : Requester}
    {stop fuel at_ : Nat} {s : State} (h : s.mm.Canonical) : (maintain f w stop fuel at_ s).mm.Canonical := by
  induction fuel generalizing at_ s with
  | zero => exact h
  | succ fuel ih => exact ite_canonical h (ih (foldSectors_canonical hf _ h))

theorem maintainForm_keeps {a b : Src} {f : Agent → Nat → State → State}
    (hf : ∀ ag x s, s.mm.Canonical → (f ag x s).mm.Canonical) : KeepsCanonical (maintainForm a b f) := by
  refine fun ag s h => .bind_clean readSrc_clean fun base => .bind_clean readSrc_clean fun len => ?_
  split
  · exact h
  · exact (drained_answers h).bind fun t ht => maintain_canonical (hf ag) ht

/-! ### Of easel forms (Machine/Easel) -/

@[simp] theorem readAll_clean {s : State} {a : Agent} {l : List Src} : Clean (readAll s a l) := by
  fun_induction readAll s a l <;> simp [*]

@[simp] theorem updQuadOf_mm (a : Agent) (f : Quad → Quad) (s : State) : (updQuadOf a f s).mm = s.mm := by
  fun_cases updQuadOf a f s <;> simp

@[simp] theorem heldTile_clean {ts : Handles} {a : Agent} {s : State} {h : Nat} : Clean (heldTile ts a s h) := by
  fun_cases heldTile ts a s h <;> simp

@[simp] theorem writeHeld_mm (a : Agent) (p : Nat × Tile) (f : Quad → Quad) (s : State) :
    (writeHeld a p f s).mm = s.mm := by simp [writeHeld]

@[simp] theorem grantForm_answers {q : Fin 64} {c : Fin 4} {f : EForm} (hf : f.KeepsCanonical) {ops : List Word}
    {ts : Handles}
    {a : Agent} {s : State} (h : s.mm.Canonical) : Answers (fun t => t.mm.Canonical) (grantForm q c f ops ts a s) :=
  (hf ops ts a s h).bind fun _ ht => by simpa using ht

theorem takeLease_mm {q : Fin 64} {c : Fin 4} {k : Fin 24} {lane : Bool} {s t : State}
    (ht : takeLease q c k lane s = some t) :
    t.mm = s.mm := by
  simp only [takeLease] at ht
  repeat' split at ht
  all_goals cases ht
  all_goals simp

@[simp] theorem awaitLease_mm (q : Fin 64) (c : Fin 4) (k : Fin 24) (s : State) :
    (awaitLease q c k s).mm = s.mm := by simp [awaitLease]

@[simp] theorem openForm_mm (i : Instr) (a : Agent) (edge : Bool) (s : State) :
    (openForm i a edge s).mm = s.mm := by simp [openForm]

@[simp] theorem issueForm_mm (q : Fin 64) (c : Fin 4) (e : DqEnt) (s : State) :
    (issueForm q c e s).mm = s.mm := by simp [issueForm]

theorem placeForm_canonical {i : Instr} {f : EForm} (hf : f.KeepsCanonical) {q : Fin 64} {c : Fin 4} {k : Fin 24}
    {ops : List Word} {s s2 : State} (h : s.mm.Canonical) (h2 : s2.mm.Canonical) :
    NextCanonical (placeForm i f q c k ops s s2) := by
  have ht : (pcTrigger s (.strand q c k)).1.mm.Canonical := by simpa using h
  simp only [placeForm]
  split
  · exact h
  split
  · have hg := grantForm_answers (q := q) (c := c) hf (ops := ops)
      (ts := resolveHandles s2 (.strand q c k) (f.handles ops)) (a := .strand q c k) h2
    split
    · simpa using hg.ok ‹_›
    · exact stopBehind_canonical (hg.error ‹_›) ht h
  split
  · exact stopBehind_canonical trivial ht h
  · simpa using h2

theorem performEasel_canonical {i : Instr} {f : EForm} (hf : f.KeepsCanonical) {s : State} (h : s.mm.Canonical) :
    NextCanonical (performEasel i f s) := by
  rcases hw : s.md.who with ⟨q, c, k⟩ | _ | _ | _ | _ <;> simp only [performEasel, hw]
  case strand =>
    have hg := gate_canonical (i := i) (a := .strand q c k) h
    have ht : (pcTrigger s (.strand q c k)).1.mm.Canonical := by simpa using h
    split <;> rename_i hx <;> rw [hx] at hg
    · exact hg
    · exact stopBehind_canonical hg.1 hg.2 h
    split
    · exact stopBehind_canonical (by simpa using commitAll_canonical ht) h h
    · rename_i s2 hs
      have h2 : s2.mm.Canonical := takeLease_mm hs ▸ hg
      split
      · exact stopBehind_canonical (readAll_clean.error ‹_›) ht h
      · exact placeForm_canonical hf h h2
  all_goals
    have hg := gate_canonical (i := i) (a := s.md.who) h
    rw [hw] at hg
    split <;> rename_i hx <;> rw [hx] at hg
    · exact hg
    · exact stopped_canonical hg.1 hg.2
    · exact hg

@[simp] theorem dropCancelled_mm (a : Agent) (waited : List (BitVec 5 × BitVec 11)) (s : State) :
    (dropCancelled a waited s).mm = s.mm := by simp [dropCancelled]

@[simp] theorem deliverFault_mm (a : Agent) (e : OutReq) (s : State) :
    (deliverFault a e s).mm = s.mm := by simp [deliverFault]

/-! ### Of lane forms (Machine/Lanes) -/

@[simp] theorem readW_clean {s : State} {a : Agent} {x : Fin 8} : Clean (readW s a x) := by simp [readW]

@[simp] theorem readM_clean {s : State} {a : Agent} {k : Fin 8} : Clean (readM s a k) := by simp [readM]

@[simp] theorem readWOpt_clean {s : State} {a : Agent} {x : Option (Fin 8)} : Clean (readWOpt s a x) := by
  fun_cases readWOpt s a x <;> simp

@[simp] theorem updLaneCore_mm (a : Agent) (f : Core → Core) (s : State) : (updLaneCore a f s).mm = s.mm := by
  fun_cases updLaneCore a f s <;> simp

@[simp] theorem writeW_mm (a : Agent) (d : Fin 8) (M : BitVec 96) (v : Lanes) (s : State) :
    (writeW a d M v s).mm = s.mm := by simp [writeW]

@[simp] theorem writeM_mm (a : Agent) (d : Fin 8) (v : BitVec 96) (s : State) :
    (writeM a d v s).mm = s.mm := by simp [writeM]

theorem plainForm_keeps {f : Agent → Act} (hf : KeepsCanonical f) : (plainForm f).KeepsCanonical := fun _ _ => hf

@[simp] theorem laneOp_answers {ty : LaneTy} {rmf : State → Agent → RM} {m d : Fin 8} {x : Option (Fin 8)}
    {y : Option (Fin 8)} {z : Option (Fin 8)} {f : ElemFn} {a : Agent} {s : State} (h : s.mm.Canonical) :
    Answers (fun t => t.mm.Canonical) (laneOp ty rmf m d x y z f a s) := by simp [laneOp, h]

@[simp] theorem selForm_answers {m d x y : Fin 8} {a : Agent} {s : State} (h : s.mm.Canonical) :
    Answers (fun t => t.mm.Canonical) (selForm m d x y a s) := by simp [selForm, h]

@[simp] theorem reduceForm_answers {ty : LaneTy} {m d y : Fin 8} {g : RM → List Nat → Nat × Flags} {a : Agent}
    {s : State} (h : s.mm.Canonical) :
    Answers (fun t => t.mm.Canonical) (reduceForm ty m d y g a s) := by simp [reduceForm, h]

@[simp] theorem scanForm_answers {ty : LaneTy} {m d y : Fin 8} {a : Agent} {s : State} (h : s.mm.Canonical) :
    Answers (fun t => t.mm.Canonical) (scanForm ty m d y a s) := by simp [scanForm, h]

@[simp] theorem permForm_answers {m d x y : Fin 8} {a : Agent} {s : State} (h : s.mm.Canonical) :
    Answers (fun t => t.mm.Canonical) (permForm m d x y a s) := by simp [permForm, h]

@[simp] theorem cmpForm_answers {ty : LaneTy} {m d x y : Fin 8} {g : Fmt → Nat → Nat → Bool × Flags}
    {k : ℤ → ℤ → Bool} {a : Agent} {s : State} (h : s.mm.Canonical) :
    Answers (fun t => t.mm.Canonical) (cmpForm ty m d x y g k a s) := by simp [cmpForm, h]

@[simp] theorem maskForm_answers {m d x y : Fin 8} {g : BitVec 96 → BitVec 96 → BitVec 96} {a : Agent} {s : State}
    (h : s.mm.Canonical) :
    Answers (fun t => t.mm.Canonical) (maskForm m d x y g a s) := by simp [maskForm, h]

theorem bcastForm_keeps {m : Fin 8} {f : Src} {b : Fin 8} : (bcastForm m f b).KeepsCanonical := by
  intro ops ts a s h
  simp [bcastForm, h]

theorem extForm_keeps {d : Dst} {f : Src} {b : Fin 8} : (extForm d f b).KeepsCanonical := by
  intro ops ts a s h
  simp [extForm, h]

@[simp] theorem mpopForm_answers {m : Fin 8} {d : Dst} {a : Agent} {s : State} (h : s.mm.Canonical) :
    Answers (fun t => t.mm.Canonical) (mpopForm m d a s) := by simp [mpopForm, h]

@[simp] theorem rowTile_clean {ts : Handles} {s : State} {a : Agent} {w : Word} : Clean (rowTile ts s a w) := by
  fun_cases rowTile ts s a w
  · exact heldTile_clean.error ‹_›
  all_goals simp

@[simp] theorem rowLane_clean {s : State} {a : Agent} {t : Tile} {w : Word} {i : Fin 96} : Clean (rowLane s a t w i) := by
  fun_cases rowLane s a t w i
  · trivial
  · exact accRead_clean.error ‹_›
  · trivial
  · trivial
  · exact readElem_clean.error ‹_›
  · trivial
  · exact readTile_clean.error ‹_›

@[simp] theorem rowLanes_clean {s : State} {a : Agent} {t : Tile} {w : Word} {l : List (Fin 96)} :
    Clean (rowLanes s a t w l) := by
  fun_induction rowLanes s a t w l <;> simp [*]

theorem trldForm_keeps {m : Fin 8} {f : Src} {b : Fin 8} : (trldForm m f b).KeepsCanonical := by
  intro ops ts a s h
  simp [trldForm, h]

theorem trstForm_keeps {m : Fin 8} {f : Src} {b : Fin 8} : (trstForm m f b).KeepsCanonical := by
  intro ops ts a s h
  simp [trstForm, h]

@[simp] theorem cvtForm_answers {src dst : LaneTy} {sat : Bool} {m d x y : Fin 8} {a : Agent} {s : State}
    (h : s.mm.Canonical) :
    Answers (fun t => t.mm.Canonical) (cvtForm src dst sat m d x y a s) := laneOp_answers h

@[simp] theorem topkForm_answers {m d x y : Fin 8} {a : Agent} {s : State} (h : s.mm.Canonical) :
    Answers (fun t => t.mm.Canonical) (topkForm m d x y a s) := by simp [topkForm, h]

@[simp] theorem cbgForm_answers {draw : Bool} {m d x y : Fin 8} {a : Agent} {s : State} (h : s.mm.Canonical) :
    Answers (fun t => t.mm.Canonical) (cbgForm draw m d x y a s) := by simp [cbgForm, h]

@[simp] theorem pickForm_answers {m d x y : Fin 8} {a : Agent} {s : State} (h : s.mm.Canonical) :
    Answers (fun t => t.mm.Canonical) (pickForm m d x y a s) := by simp [pickForm, h]

theorem noForm_keeps : noForm.KeepsCanonical := fun _ _ _ _ _ => trivial

theorem laneForm_keeps (i : Instr) : (laneForm i).KeepsCanonical := by
  cases i with
  | wAdd | wSub | wRsub | wMul | wMac | wMin | wMax | wAnd | wOr | wXor | wAndn | wShl | wShr | wMov | wAbs | wNeg | wFma
  | wmathExp2 | wmathLog2 | wmathRecip | wmathRsqrt | wmathTanh => exact plainForm_keeps fun _ _ h => laneOp_answers h
  | wSel => exact plainForm_keeps fun _ _ h => selForm_answers h
  | wmathRsum | wmathRmax => exact plainForm_keeps fun _ _ h => reduceForm_answers h
  | wmathScan => exact plainForm_keeps fun _ _ h => scanForm_answers h
  | wmathPerm => exact plainForm_keeps fun _ _ h => permForm_answers h
  | wmaskEq | wmaskLt | wmaskLe => exact plainForm_keeps fun _ _ h => cmpForm_answers h
  | wmaskAnd | wmaskOr | wmaskXor => exact plainForm_keeps fun _ _ h => maskForm_answers h
  | wmoveBcast => exact bcastForm_keeps
  | wmoveExt => exact extForm_keeps
  | wmoveTrld => exact trldForm_keeps
  | wmoveTrst => exact trstForm_keeps
  | wmoveMpop => exact plainForm_keeps fun _ _ h => mpopForm_answers h
  | wcvtUp | wcvtDown | wcvtDownsat | wcvtToint | wcvtFromint => exact plainForm_keeps fun _ _ h => cvtForm_answers h
  | wsampTopk => exact plainForm_keeps fun _ _ h => topkForm_answers h
  | wsampCbg | wsampDraw => exact plainForm_keeps fun _ _ h => cbgForm_answers h
  | wsampPick => exact plainForm_keeps fun _ _ h => pickForm_answers h
  | _ => exact noForm_keeps

/-! ### Of tile forms (Machine/Tile) -/

@[simp] theorem allocTile_answers {q : Fin 64} {l : LaunchId} {t : Fin 64} {w : Word} {s : State} (h : s.mm.Canonical) :
    Answers (fun t => t.mm.Canonical) (allocTile q l t w s) := by
  fun_cases allocTile q l t w s <;> simp +zetaDelta [h]

@[simp] theorem startSweep_mm (q : Fin 64) (s : State) : (startSweep q s).mm = s.mm := by simp [startSweep]

@[simp] theorem awaitSweep_clean {x : Quad} : Clean (awaitSweep x) := by simp [awaitSweep]

@[simp] theorem bodyTalloc_answers {nw : Src} {t : Fin 64} {a : Agent} {s : State} (h : s.mm.Canonical) :
    Answers (fun t => t.mm.Canonical) (bodyTalloc nw t a s) := by
  simp only [bodyTalloc, answers_bind, awaitSweep_clean, readSrc_clean, true_and]
  intro _ _ w _
  split
  · exact (allocTile_answers h).bind fun _ ht => by simp [h, ht]
  · simp

@[simp] theorem needEntries_clean {x : Quad} {n : Nat} : Clean (needEntries x n) := by simp [needEntries]

@[simp] theorem commitEntry_mm (q : Fin 64) (e : Nat) (gen : Gen) (lo hi : Nat) (o : SbOwner) (s : State) :
    (commitEntry q e gen lo hi o s).mm = s.mm := by simp [commitEntry]

@[simp] theorem bodyTfree_answers {t : Fin 64} {a : Agent} {s : State} (h : s.mm.Canonical) :
    Answers (fun t => t.mm.Canonical) (bodyTfree t a s) := by
  simp only [bodyTfree, answers_bind, awaitSweep_clean, true_and]
  intro _ _
  split
  · split <;> simp [h]
  · simp

@[simp] theorem boundTile_clean {s : State} {a : Agent} {h : Fin 64} : Clean (boundTile s a h) := by
  fun_cases boundTile s a h <;> simp

@[simp] theorem elementValue_clean {x : Quad} {strict : Bool} {t : Tile} {w : Word} : Clean (elementValue x strict t w) := by
  fun_cases elementValue x strict t w
  · trivial
  · exact accRead_clean.error ‹_›
  · trivial
  · exact readElem_clean.error ‹_›

@[simp] theorem loadOps_clean {ha hb : Fin 64} {w : Word} {a : Agent} {s : State} :
    Clean (loadOps ha hb w a s) := by simp [loadOps]

@[simp] theorem waitedOps_clean {x : Quad} {w : Word} {es : List SbEnt} : Clean (waitedOps x w es) := by
  fun_cases waitedOps x w es <;> simp

@[simp] theorem loadEffect_answers {q : Fin 64} {p : LoadOps} {la : Nat} {a : Agent} {s : State} (h : s.mm.Canonical) :
    Answers (fun t => t.mm.Canonical) (loadEffect q p la a s) := by
  fun_cases loadEffect q p la a s <;> simp [h]

@[simp] theorem bodyTld_answers {nw : Src} {ha hb : Fin 64} {la : Nat} {a : Agent} {s : State} (h : s.mm.Canonical) :
    Answers (fun t => t.mm.Canonical) (bodyTld nw ha hb la a s) := by
  cases a with
  | strand q c k =>
    simp only [bodyTld]
    split
    · simp [h]
    · split
      · simp [h]
      split
      · simp
      simp only [answers_bind, operands_clean, waitedOps_clean, true_and]
      intro ws _ p _
      have he := loadEffect_answers (q := q) (p := p) (la := la) (a := .strand q c k) h
      split
      · simpa using he.ok ‹_›
      · simpa using h
      · exact he.error ‹_›
  | hart | weir | cmd | sec => simp [bodyTld]

@[simp] theorem bodyTst_answers {nw : Src} {t : Fin 64} {a : Agent} {s : State} (h : s.mm.Canonical) :
    Answers (fun t => t.mm.Canonical) (bodyTst nw t a s) := by
  cases a <;> simp [bodyTst, h]

@[simp] theorem bodyTzero_answers {nw : Src} {t : Fin 64} {a : Agent} {s : State} (h : s.mm.Canonical) :
    Answers (fun t => t.mm.Canonical) (bodyTzero nw t a s) := by
  cases a <;> simp [bodyTzero, h]

/-! ### Of canvas forms (Machine/Canvas) -/

@[simp] theorem readPlanes_clean {x : Quad} {strict : Bool} {t : Tile} {row0 n : Nat} {ps : List Nat} :
    Clean (readPlanes x strict t row0 n ps) := by
  induction ps with
  | nil => trivial
  | cons p ps ih => simp [readPlanes, ih]

@[simp] theorem readWindow_clean {x : Quad} {strict : Bool} {t : Tile} {row0 n : Nat} :
    Clean (readWindow x strict t row0 n) := by simp [readWindow]

@[simp] theorem loadBinding_clean {ext : Bool} {ha hb : Fin 64} {w : Word} {ts : Handles} {a : Agent} {s : State} :
    Clean (loadBinding ext ha hb w ts a s) := by simp [loadBinding]

@[simp] theorem readScales_clean {x : Quad} {strict : Bool} {b : WBind} : Clean (readScales x strict b) := by
  fun_cases readScales x strict b <;> simp

@[simp] theorem staleWindow_clean {strict : Bool} : Clean (staleWindow strict) := by simp [staleWindow]

@[simp] theorem bindingWindow_clean {x : Quad} {strict : Bool} {b : WBind} : Clean (bindingWindow x strict b) := by
  fun_cases bindingWindow x strict b <;> simp

@[simp] theorem latch_clean {x : Quad} {strict : Bool} {b : WBind} : Clean (latch x strict b) := by simp [latch]

@[simp] theorem passWeights_clean {x : Quad} {strict reload : Bool} {b : WBind} :
    Clean (passWeights x strict reload b) := by
  fun_cases passWeights x strict reload b <;> simp +zetaDelta

theorem loadForm_keeps {ext : Bool} {nw : Src} {ha hb : Fin 64} : (loadForm ext nw ha hb).KeepsCanonical := by
  intro ops ts a s h
  simp [loadForm, h]

@[simp] theorem passScale_clean {ts : Handles} {a : Agent} {s : State} {w : Word} {nblk : Nat} {intMode : Bool} :
    Clean (passScale ts a s w nblk intMode) := by simp [passScale]

@[simp] theorem passOps_clean {ext : Bool} {ha hb : Fin 64} {w : Word} {ts : Handles} {a : Agent} {s : State} :
    Clean (passOps ext ha hb w ts a s) := by simp [passOps]

@[simp] theorem actRow_clean {x : Quad} {strict : Bool} {t : Tile} {r k0 n : Nat} :
    Clean (actRow x strict t r k0 n) := by simp [actRow]

@[simp] theorem actScales_clean {x : Quad} {strict : Bool} {t : Tile} {r k0 : Nat} {l : List Nat} :
    Clean (actScales x strict t r k0 l) := by
  fun_induction actScales x strict t r k0 l <;> simp [*]

@[simp] theorem passRow_clean {x : Quad} {strict : Bool} {p : PassOps} {cols : List (List (List Xr))}
    {sc : List Nat} {w : Word}
    {r : Nat} : Clean (passRow x strict p cols sc w r) := by
  simp only [passRow, clean_bind, actRow_clean, true_and]
  intro _ _
  split <;> simp

@[simp] theorem passRows_clean {x : Quad} {strict : Bool} {p : PassOps} {cols : List (List (List Xr))}
    {sc : List Nat} {w : Word} {l : List Nat} :
    Clean (passRows x strict p cols sc w l) := by
  fun_induction passRows x strict p cols sc w l <;> simp [*]

@[simp] theorem retireColumn_mm (q : Fin 64) (s : State) : (retireColumn q s).mm = s.mm := by simp [retireColumn]

@[simp] theorem passEffect_answers {ext : Bool} {ha hb : Fin 64} {ops : List Word} {ts : Handles} {a : Agent}
    {s : State} (h : s.mm.Canonical) :
    Answers (fun t => t.mm.Canonical) (passEffect ext ha hb ops ts a s) := by
  unfold passEffect
  split <;> simp -implicitDefEqProofs [*]

theorem passForm_keeps {ext : Bool} {nw : Src} {ha hb : Fin 64} : (passForm ext nw ha hb).KeepsCanonical :=
  fun _ _ _ _ => passEffect_answers

@[simp] theorem drainSource_clean {ha : Fin 64} {w : Word} {ts : Handles} {a : Agent} {s : State} :
    Clean (drainSource ha w ts a s) := by simp [drainSource]

@[simp] theorem drainOps_clean {ha hb : Fin 64} {w : Word} {ts : Handles} {a : Agent} {s : State} :
    Clean (drainOps ha hb w ts a s) := by simp [drainOps]

@[simp] theorem drainRows_clean {x : Quad} {src dst : Tile} {w : Word} {rs : List Nat} :
    Clean (drainRows x src dst w rs) := by
  induction rs with
  | nil => trivial
  | cons r rs ih => simp [drainRows, ih]

@[simp] theorem drainEffect_answers {ha hb : Fin 64} {ops : List Word} {ts : Handles} {a : Agent} {s : State}
    (h : s.mm.Canonical) :
    Answers (fun t => t.mm.Canonical) (drainEffect ha hb ops ts a s) := by simp [drainEffect, h]

theorem drainForm_keeps {nw : Src} {ha hb : Fin 64} :
    (drainForm nw ha hb).KeepsCanonical := fun _ _ _ _ => drainEffect_answers

theorem czeroForm_keeps {nw : Src} {ha : Fin 64} : (czeroForm nw ha).KeepsCanonical := by
  intro ops ts a s h
  simp [czeroForm, h]

theorem canvasForm_keeps (i : Instr) : (canvasForm i).KeepsCanonical := by
  cases i with
  | cload => exact loadForm_keeps
  | cpass => exact passForm_keeps
  | cdrain => exact drainForm_keeps
  | czero => exact czeroForm_keeps
  | canvasxLoad => exact loadForm_keeps
  | canvasxPass => exact passForm_keeps
  | _ => exact noForm_keeps

theorem easelForm_keeps (i : Instr) : (easelForm i).KeepsCanonical := by
  rw [easelForm]
  split
  · exact laneForm_keeps _
  · exact canvasForm_keeps i

/-! ### Of control forms (Machine/Control) -/

@[simp] theorem jumpTo_mm (a : Agent) (t : Word) (s : State) : (jumpTo a t s).mm = s.mm := by simp [jumpTo]

@[simp] theorem moveTo_mm (a : Agent) (t : Word) (s : State) : (moveTo a t s).mm = s.mm := by simp [moveTo]

@[simp] theorem link_mm (a : Agent) (s : State) : (link a s).mm = s.mm := by simp [link]

@[simp] theorem checkTarget_clean {t : Word} : Clean (checkTarget t) := by simp [checkTarget]

@[simp] theorem fetchHalf_answers {a : Agent} {pc : Word} {s : State} (h : s.mm.Canonical) :
    Answers (fun p => p.2.mm.Canonical) (fetchHalf a pc s) :=
  (resolve_answers h).bind fun r hr => by simp [hr]

@[simp] theorem breakpointStop_canonical {ag : Agent} {s : State} (h : s.mm.Canonical) :
    (breakpointStop ag s).Canonical := by
  cases ag with
  | strand => simpa [breakpointStop] using commitAll_canonical h
  | hart | weir | cmd | sec => trivial

@[simp] theorem codeHalf_answers {a : Agent} {pc : Word} {s : State} (h : s.mm.Canonical) :
    Answers (fun p => p.2.mm.Canonical) (codeHalf a pc s) := by
  cases a with
  | hart | weir => exact h
  | strand | cmd | sec => exact fetchHalf_answers h

@[simp] theorem skipLoop_mm (ag : Agent) (k : Fin 2) (f : Ctx → Arch) (past : Word) (s : State) :
    (skipLoop ag k f past s).mm = s.mm := by simp [skipLoop]

@[simp] theorem yieldTo_mm (q : Fin 64) (c : Fin 4) (k : Fin 24) (w : Option Why) (s : State) :
    (yieldTo q c k w s).mm = s.mm := by simp [yieldTo]

/-! ### Of easel events (Machine/EvEasel) -/

@[simp] theorem recallForms_mm (q : Fin 64) (c : Fin 4) (k : Fin 24) (s : State) : (recallForms q c k s).mm = s.mm := by
  fun_cases recallForms q c k s <;> simp

theorem trapForm_canonical {q : Fin 64} {c : Fin 4} {k : Fin 24} {f : Stop} {s : State} (hf : f.Canonical)
    (h : s.mm.Canonical) :
    NextCanonical (trapForm q c k f s) := by
  fun_cases trapForm q c k f s
  · exact stopped_canonical (by simpa using hf) h
  · exact stopped_canonical hf (by simpa using h)

@[simp] theorem endForms_canonical {q : Fin 64} {c : Fin 4} {l : List DqEnt} {s : State} (h : s.mm.Canonical) :
    (endForms q c l s).mm.Canonical := by
  induction l generalizing s with
  | nil => exact h
  | cons e t ih =>
    have h1 := ite_canonical (c := isLane (shapeOf e.ins).major) h (commitForm_canonical (a := .strand q c e.k) h)
    exact ih (ite_canonical h1 (endStep_canonical h1))

@[simp] theorem retireForms_canonical {q : Fin 64} {c : Fin 4} {s : State} (h : s.mm.Canonical) :
    (retireForms q c s).mm.Canonical := by simp -implicitDefEqProofs [retireForms, h]

@[simp] theorem retireCores_canonical {q : Fin 64} {l : List (Fin 4)} {s : State} (h : s.mm.Canonical) :
    (retireCores q l s).mm.Canonical := by
  fun_induction retireCores q l s <;> simp [*]

@[simp] theorem markLoads_mm (q : Fin 64) (r : BitVec 5 × BitVec 11) (l : List (Fin 4 × Fin 24)) (s : State) :
    (markLoads q r l s).mm = s.mm := by
  fun_induction markLoads q r l s <;> simp [*]

@[simp] theorem markWaiters_mm (q : Fin 64) (d : SbEnt) (s : State) : (markWaiters q d s).mm = s.mm := by
  fun_cases markWaiters q d s <;> simp +zetaDelta

@[simp] theorem endScrub_mm (q : Fin 64) (s : State) : (endScrub q s).mm = s.mm := by simp [endScrub]

/-! ### Of engines (Machine/Engine) -/

@[simp] theorem pickWeir_answers {w : Requester} {base : Word} {recPa : Nat} {s : State} (h : s.mm.Canonical) :
    Answers (fun p => p.2.mm.Canonical) (pickWeir w base recPa s) := by
  have hr := resolve_answers (w := w) (right := .r) (need := .read) (va := base) (len := 1) h
  simp only [pickWeir]
  split
  · exact hr.ok ‹_›
  · exact hr.ok ‹_›
  · trivial
  · trivial
  · exact h

@[simp] theorem readRecs_answers {kind : Nat} {a : Agent} {va : Word} {s : State} (h : s.mm.Canonical) :
    Answers (fun p => p.2.2.mm.Canonical) (readRecs kind a va s) := by
  refine (resolve_answers h).bind fun r hr => ?_
  extract_lets -underBinder afterwards
  have ha : ∀ p, p.2.mm.Canonical → Answers (fun p => p.2.2.mm.Canonical) (afterwards p) := fun p hp =>
    .bind_clean (by simp) fun _ => loadEffects_canonical hp
  split
  · exact (resolve_answers hr).bind ha
  · exact ha _ hr

@[simp] theorem kickTests_clean {q : Fin 64} {n : Nat} {eng : Agent} {engNo : BitVec 5} {a : Agent} {s : State} :
    Clean (kickTests q n eng engNo a s) := by simp [kickTests]

@[simp] theorem kick_answers {kind : Nat} {q : Fin 64} {a : Agent} {l : Launch} {record : Word} {rs : Rec}
    {t act : Nat × Tile}
    {engNo : BitVec 5} {s : State} (h : s.mm.Canonical) :
    Answers (fun p => p.2.mm.Canonical) (kick kind q a l record rs t act engNo s) := by
  unfold kick
  extract_lets -underBinder eng m cs
  refine .bind_clean kickTests_clean fun _ => ?_
  extract_lets -underBinder btag dest afterwards
  have ha : ∀ s1 : State, s1.mm.Canonical → Answers (fun p => p.2.mm.Canonical) (afterwards s1) := by
    intro s1 h1
    simp only [afterwards]
    split
    · simp
    · simpa using h1
  split
  · exact ha _ h
  · extract_lets bar
    split
    · trivial
    split
    · trivial
    · exact ha _ (by simpa using h)

@[simp] theorem bodyEng_answers {kind : Nat} {d : Dst} {src : Src} {t : Fin 64} {la : Nat} {a : Agent} {s : State}
    (h : s.mm.Canonical) : Answers (fun t => t.mm.Canonical) (bodyEng kind d src t la a s) := by
  refine .bind_clean awaitSweep_clean fun _ => .bind_clean readSrc_clean fun v => ?_
  split
  · refine .bind_clean boundTile_clean fun t => ?_
    extract_lets -underBinder withAct
    have hact : ∀ act, Answers (fun t => t.mm.Canonical) (withAct act) := by
      intro act
      refine .bind_clean (by simp) fun _ => ?_
      extract_lets -underBinder at_
      refine (drained_answers h).bind fun s0 h0 => (readRecs_answers h0).bind fun r hr => ?_
      extract_lets -underBinder withEng
      have heng : ∀ p : BitVec 5 × State, p.2.mm.Canonical → Answers (fun t => t.mm.Canonical) (withEng p) := by
        rintro ⟨engNo, s1⟩ h1
        exact (kick_answers h1).bind fun k hk => by simpa using hk
      clear_value withEng
      split
      · exact (pickWeir_answers hr).bind fun u hu => heng _ hu
      · exact heng _ hr
    split
    · exact .bind_clean boundTile_clean hact
    · exact hact t
  · simp

/-! ### Of engine requests (Machine/EngRun) -/

@[simp] theorem updHead_mm (a : Agent) (f : Request → Request) (s : State) : (updHead a f s).mm = s.mm := by simp [updHead]

@[simp] theorem reqTile_clean {s : State} {r : Request} : Clean (reqTile s r) := by
  fun_cases reqTile s r <;> simp

@[simp] theorem tread_clean {s : State} {r : Request} {entry : Nat} {gen : Gen} {off n : Nat} :
    Clean (tread s r entry gen off n) := by
  fun_cases tread s r entry gen off n <;> simp

@[simp] theorem twrite_mm (r : Request) (off : Nat) (bs : List Byte) (s : State) :
    (twrite r off bs s).mm = s.mm := by simp [twrite]

@[simp] theorem hartRead_answers {a : Agent} {va : Word} {n : Nat} {s : State} (h : s.mm.Canonical) :
    Answers (fun p => p.2.mm.Canonical) (hartRead a va n s) :=
  (resolve_answers h).bind fun _ hr => .bind_clean (by simp) fun _ => loadEffects_canonical hr

@[simp] theorem hartWrite_answers {a : Agent} {va : Word} {bs : List Byte} {s : State} (h : s.mm.Canonical) :
    Answers (fun t => t.mm.Canonical) (hartWrite a va bs s) :=
  (resolve_answers h).bind fun _ hr => storePieces_canonical hr

@[simp] theorem twriteCols_mm (r : Request) (off n : Nat) (bs : List Byte) (s : State) :
    (twriteCols r off n bs s).mm = s.mm := by simp [twriteCols]

@[simp] theorem storeCols_answers {a : Agent} {va : Word} {n : Nat} {bs : List Byte} {s : State} (h : s.mm.Canonical) :
    Answers (fun t => t.mm.Canonical) (storeCols a va n bs s) := by simp -implicitDefEqProofs [storeCols, h]

@[simp] theorem refuseColl_canonical {l : LaunchId} {c : Rec} {rs : List Request} {s : State} (h : s.mm.Canonical) :
    (refuseColl l c rs s).mm.Canonical := foldl_canonical (fun _ _ => endRequest_canonical) rs (by simpa using h)

@[simp] theorem putRow_mm (r : Request) (d : CollRow) (s : State) : (putRow r d s).mm = s.mm := by
  fun_cases putRow r d s <;> simp

@[simp] theorem faultAll_canonical {k c : Nat} {v : Word} {rs : List Request} {s : State} (h : s.mm.Canonical) :
    (faultAll k c v rs s).mm.Canonical := foldl_canonical (fun _ _ => endRequest_canonical) rs h

@[simp] theorem copyInRow_answers {a : Agent} {r : Request} {c : Rec} {t : Tile} {row : Nat} {s : State}
    (h : s.mm.Canonical) :
    Answers (fun p => p.2.mm.Canonical) (copyInRow a r c t row s) := by
  simp only [copyInRow]
  split
  · refine (hartRead_answers h).bind fun p hp => ?_
    split
    · simpa using hp
    · simp
  · exact (hartRead_answers h).bind fun p hp => by simpa using hp

@[simp] theorem copyOutRow_answers {a : Agent} {r : Request} {c : Rec} {t : Tile} {row : Nat} {s : State}
    (h : s.mm.Canonical) :
    Answers (fun p => p.2.mm.Canonical) (copyOutRow a r c t row s) :=
  .bind_clean tread_clean fun _ => (storeCols_answers h).bind fun _ ht => ht

@[simp] theorem indexRow_answers {a : Agent} {r : Request} {ix tb : Rec} {t : Tile} {row : Nat} {s : State}
    (h : s.mm.Canonical) :
    Answers (fun p => p.2.mm.Canonical) (indexRow a r ix tb t row s) := by
  refine (hartRead_answers h).bind fun p hp => ?_
  extract_lets j va
  split
  · split
    · simpa using hp
    · exact (hartRead_answers hp).bind fun d hd => by simpa using hd
  · split
    · exact hp
    · exact .bind_clean tread_clean fun _ => (storeCols_answers hp).bind fun _ ht => ht

@[simp] theorem weirOutputs_answers {r : Request} {act t : Tile} {k n : Nat} {ws scs : List Xr} {l : List Nat}
    {s : State} (h : s.mm.Canonical) :
    Answers (fun t => t.mm.Canonical) (weirOutputs r act t k n ws scs l s) := by
  fun_induction weirOutputs r act t k n ws scs l s <;> simp [*]

@[simp] theorem weirRow_answers {a : Agent} {r : Request} {w sc : Rec} {t : Tile} {row : Nat} {s : State}
    (h : s.mm.Canonical) :
    Answers (fun p => p.2.mm.Canonical) (weirRow a r w sc t row s) := by
  unfold weirRow
  extract_lets -underBinder afterwards
  have ha : ∀ act, Answers (fun p => p.2.mm.Canonical) (afterwards act) := fun act =>
    (hartRead_answers h).bind fun p hp => (hartRead_answers hp).bind fun q hq => (weirOutputs_answers hq).bind fun _ ht => ht
  split
  · exact ha _
  · trivial

@[simp] theorem requestRow_answers {a : Agent} {r : Request} {row : Nat} {s : State} (h : s.mm.Canonical) :
    Answers (fun p => p.2.mm.Canonical) (requestRow a r row s) := by
  refine .bind_clean reqTile_clean fun t => ?_
  split
  · exact copyInRow_answers h
  · exact copyOutRow_answers h
  · exact indexRow_answers h
  · exact indexRow_answers h
  · exact weirRow_answers h

@[simp] theorem requestStop_canonical {a : Agent} {r : Request} {e : Stop} {s : State} (h : s.mm.Canonical) :
    (requestStop a r e s).mm.Canonical := by
  fun_cases requestStop a r e s <;> simp [h]

@[simp] theorem openRequest_canonical {a : Agent} {r : Request} {s : State} (h : s.mm.Canonical) :
    (openRequest a r s).mm.Canonical := by
  have hr := hartRead_answers (a := a) (va := r.record) (n := recsLen r.kind) h
  unfold openRequest
  split
  · exact endRequest_canonical h
  split
  · exact requestStop_canonical h
  rename_i bs s0 hbs
  extract_lets p bad
  have hp : p.2.mm.Canonical := by simpa [p] using hr.ok hbs
  clear_value p
  split
  · exact ite_canonical (refuseColl_canonical hp) (endRequest_canonical hp)
  split
  · exact ite_canonical (refuseColl_canonical hp) (requestStop_canonical hp)
  · exact endRequest_canonical hp
  · simpa +zetaDelta using hp

@[simp] theorem moveRow_canonical {a : Agent} {r : Request} {row : Nat} {s : State} (h : s.mm.Canonical) :
    (moveRow a r row s).mm.Canonical := by
  have hr := requestRow_answers (a := a) (r := r) (row := row) h
  simp only [moveRow]
  split
  · exact requestStop_canonical h
  · simpa using hr.ok ‹_›

@[simp] theorem engineMove_canonical {a : Agent} {s : State} (h : s.mm.Canonical) : (engineMove a s).mm.Canonical := by
  fun_cases engineMove a s <;> simp [h]

/-! ### Of engine instructions (Machine/Engx) -/

@[simp] theorem lenWord_clean {a : Agent} {write : Bool} {b : Word} : Clean (lenWord a write b) := by simp [lenWord]

@[simp] theorem tilePlace_clean {t : Tile} {w : Word} {len : Nat} : Clean (tilePlace t w len) := by simp [tilePlace]

@[simp] theorem readLoc_answers {a : Agent} {l : LenWord} {w : Word} {s : State} (h : s.mm.Canonical) :
    Answers (fun p => p.2.mm.Canonical) (readLoc a l w s) := by
  fun_cases readLoc a l w s <;> simp [h]

@[simp] theorem countWritten_mm (a : Agent) (r : Request) (n : Nat) (s : State) :
    (countWritten a r n s).mm = s.mm := by simp [countWritten]

@[simp] theorem writeLoc_answers {a : Agent} {l : LenWord} {w : Word} {bs : List Byte} {s : State} (h : s.mm.Canonical) :
    Answers (fun t => t.mm.Canonical) (writeLoc a l w bs s) := by
  fun_cases writeLoc a l w bs s
  · refine (hartWrite_answers h).bind fun t ht => ?_
    simp only [answers_ok]
    split <;> simpa using ht
  all_goals simp [h]

@[simp] theorem shapeOfRequest_clean {α : Type} : Clean (shapeOfRequest : Except Stop α) := trivial

@[simp] theorem actType_clean {s : State} {a : Agent} : Clean (actType s a) := by
  fun_cases actType s a <;> simp

theorem weightType_clean {s : State} {a : Agent} (h : s.mm.Canonical) : Clean (weightType s a) := by
  unfold weightType
  split
  · simp
  rename_i r hr
  extract_lets -underBinder afterwards
  have ha : ∀ ty, Clean (afterwards ty) := fun ty => by simp [afterwards]
  split
  · simpa [ha] using (hartRead_answers h).clean
  · exact ha _

@[simp] theorem appendPort_answers {a : Agent} {port : Nat} {bs : List Byte} {s : State} (h : s.mm.Canonical) :
    Answers (fun t => t.mm.Canonical) (appendPort a port bs s) := by
  unfold appendPort
  extract_lets -underBinder afterwards
  have ha : ∀ x, Answers (fun t => t.mm.Canonical) (afterwards x) := by
    intro x
    simp only [afterwards]
    split
    · simp [h]
    · simpa using h
    · exact .bind_clean actType_clean fun _ => .bind_clean (weightType_clean h) fun _ => by simpa using h
  split
  · exact ha _
  · trivial

@[simp] theorem drainPort_answers {a : Agent} {l : LenWord} {w : Word} {s : State} (h : s.mm.Canonical) :
    Answers (fun t => t.mm.Canonical) (drainPort a l w s) := by
  unfold drainPort
  extract_lets -underBinder afterwards
  have ha : ∀ x, Answers (fun t => t.mm.Canonical) (afterwards x) := by
    refine fun x => .bind_clean (by simp) fun _ => ?_
    extract_lets -underBinder n withPorts
    have hw : ∀ p, Answers (fun t => t.mm.Canonical) (withPorts p) := fun p =>
      (writeLoc_answers (s := n.2) (by simpa [n] using h)).bind fun t ht => by simpa using ht
    split
    · exact hw _
    · exact .bind_clean actType_clean fun _ => .bind_clean (weightType_clean h) fun _ => hw _
  split
  · exact ha _
  · trivial

@[simp] theorem gcmArgs_clean {s : State} {a : Agent} {b : Word} : Clean (gcmArgs s a b) := by
  unfold gcmArgs
  extract_lets -underBinder withHart
  have hh : ∀ x, Clean (withHart x) := by
    intro x
    simp only [withHart]
    split <;> simp
  split
  · exact hh _
  · trivial

/-! ### Of privileged forms (Machine/Priv) -/

@[simp] theorem flushQuad_canonical {q : Fin 64} {s : State} (h : s.mm.Canonical) : (flushQuad q s).mm.Canonical :=
  foldSectors_canonical (fun _ _ => dropL1_canonical) _ h

@[simp] theorem recallHost_canonical {sector : Nat} {s : State} (h : s.mm.Canonical) :
    (recallHost sector s).mm.Canonical := by simp [recallHost, h]

@[simp] theorem clearRange_canonical {lo hi : Nat} {s : State} (h : s.mm.Canonical) : (clearRange lo hi s).mm.Canonical :=
  foldSectors_canonical (fun _ _ => recallHost_canonical) _ (foldSectors_canonical (fun _ _ => dropL1_canonical) _ h)

@[simp] theorem cleanBasin_canonical {sector : Nat} {s : State} (h : s.mm.Canonical) :
    (cleanBasin sector s).mm.Canonical := by
  fun_cases cleanBasin sector s <;> simp [h]

@[simp] theorem beginScrub_answers {q : Fin 64} {s : State} (h : s.mm.Canonical) :
    Answers (fun t => t.mm.Canonical) (beginScrub q s) := by simp [beginScrub, h]

theorem qownRefused_mm {q : Fin 64} {b : Word} {s t : State} (ht : qownRefused q b s = some t) : t.mm = s.mm := by
  simp only [qownRefused] at ht
  repeat' split at ht
  all_goals cases ht
  all_goals simp

@[simp] theorem giveQuad_mm (q : Fin 64) (b : Word) (s : State) : (giveQuad q b s).mm = s.mm := by
  unfold giveQuad
  extract_lets old s1 s2
  have h1 : s1.mm = s.mm := State.updQuad_mm ..
  clear_value s1
  have h2 : s2.mm = s.mm := by
    simp only [s2]
    split <;> simp [h1]
  clear_value old s2
  split <;> simp [h2]

@[simp] theorem drainAll_canonical {l : List Agent} {s : State} (h : s.mm.Canonical) : (drainAll l s).mm.Canonical := by
  fun_induction drainAll l s <;> simp [*]

@[simp] theorem homeFence_answers {p : BitVec 8} {s : State} (h : s.mm.Canonical) :
    Answers (fun t => t.mm.Canonical) (homeFence p s) := by simp [homeFence, h]

@[simp] theorem writeRegion_canonical {p : Fin 64} {i : Nat} {limit : Bool} {v : Word} {s : State} (h : s.mm.Canonical) :
    (writeRegion p i limit v s).mm.Canonical := by simp -implicitDefEqProofs [writeRegion, h]

/-! ### Of packets (Machine/Packet) -/

@[simp] theorem readHalf_answers {i : Fin 16} {va : Word} {hi : Bool} {s : State} (h : s.mm.Canonical) :
    Answers (fun p => p.2.mm.Canonical) (readHalf i va hi s) := plainRead_answers h

@[simp] theorem readPacket_answers {i : Fin 16} {va : Word} {s : State} (h : s.mm.Canonical) :
    Answers (fun p => p.2.mm.Canonical) (readPacket i va s) := by
  unfold readPacket
  split
  · exact (readHalf_answers h).bind fun _ hr => hr
  · exact (readHalf_answers h).bind fun _ hr => (readHalf_answers hr).bind fun _ hr2 => hr2

@[simp] theorem stickAt_mm (i : Fin 16) (s : State) : (stickAt i s).mm = s.mm := by simp [stickAt]

@[simp] theorem passRing_canonical {i : Fin 16} {s : State} (h : s.mm.Canonical) :
    (passRing i s).mm.Canonical := by simp -implicitDefEqProofs [passRing, h]

@[simp] theorem passRings_canonical {i : Fin 16} {a : Nat} {s : State} (h : s.mm.Canonical) :
    (passRings i a s).mm.Canonical := by
  fun_induction passRings i a s <;> simp [*]

@[simp] theorem moveOn_canonical {i : Fin 16} {g : QueueSt → QueueSt} {s : State} (h : s.mm.Canonical) :
    (moveOn i g s).mm.Canonical := by simp -implicitDefEqProofs [moveOn, h]

@[simp] theorem pktStop_canonical {i : Fin 16} {e : Stop} {s : State} (h : s.mm.Canonical) :
    (pktStop i e s).mm.Canonical := by
  fun_cases pktStop i e s <;> simp [h]

theorem packetForm_canonical {p : List Byte → Bool} {f : Fin 16 → List Byte → State → State}
    (hf : ∀ i b s, s.mm.Canonical → (f i b s).mm.Canonical) {s : State} (h : s.mm.Canonical) :
    NextCanonical (packetForm p f s) := by
  unfold packetForm
  split
  · exact hf _ _ _ h
  · exact h

@[simp] theorem packetDone_canonical {i : Fin 16} {s : State} (h : s.mm.Canonical) :
    (packetDone i s).mm.Canonical := by simp [packetDone, h]

@[simp] theorem skipPackets_canonical {i : Fin 16} {n code : Nat} {s : State} (h : s.mm.Canonical) :
    (skipPackets i n code s).mm.Canonical := by
  fun_cases skipPackets i n code s <;> simp [h]

@[simp] theorem pktWord_answers {i : Fin 16} {va : Word} {s : State} (h : s.mm.Canonical) :
    Answers (fun p => p.2.2.mm.Canonical) (pktWord i va s) :=
  .bind_clean (by simp) fun _ => (resolve_answers h).bind fun r hr => .bind_clean (by simp) fun _ => loadEffects_canonical hr

@[simp] theorem signal_answers {i : Fin 16} {op : Nat} {va v : Word} {s : State} (h : s.mm.Canonical) :
    Answers (fun t => t.mm.Canonical) (signal i op va v s) := by
  refine .bind_clean (by simp) fun _ => ?_
  split
  · exact (resolve_answers h).bind fun _ hr => storePieces_canonical hr
  · exact (resolve_answers h).bind fun _ hr => .bind_clean (by simp) fun _ => .bind_clean (by simp) fun _ =>
      writePieces_canonical hr

@[simp] theorem waitmemHolds_answers {i : Fin 16} {p : List Byte} {s : State} (h : s.mm.Canonical) :
    Answers (fun p => p.2.2.mm.Canonical) (waitmemHolds i p s) :=
  (pktWord_answers h).bind fun _ hr => .bind_clean (by simp) fun _ => hr

@[simp] theorem leaveRunning_canonical {i : Fin 16} {st : HwSt} {s : State} (h : s.mm.Canonical) :
    (leaveRunning i st s).mm.Canonical := by simp [leaveRunning, h]

@[simp] theorem retryWaitmem_canonical {i : Fin 16} {s : State} (h : s.mm.Canonical) : (retryWaitmem i s).mm.Canonical := by
  unfold retryWaitmem
  split
  · exact makeRunnable_canonical h
  rename_i p _ _
  have hw := waitmemHolds_answers (i := i) (p := p) h
  split
  · exact slotAsk_canonical h
  · exact slotAsk_canonical h
  · exact queueFault_canonical h
  · have h2 := moveOn_canonical (i := i) (g := QueueSt.advance) (hw.ok ‹_›)
    exact ite_canonical h2 (makeRunnable_canonical h2)
  · simpa using hw.ok ‹_›

@[simp] theorem bumpGraph_canonical {i : Fin 16} {s : State} (h : s.mm.Canonical) :
    (bumpGraph i s).mm.Canonical := by simp -implicitDefEqProofs [bumpGraph, h]

@[simp] theorem bumpPhase_canonical {i : Fin 16} {s : State} (h : s.mm.Canonical) :
    (bumpPhase i s).mm.Canonical := by simp -implicitDefEqProofs [bumpPhase, h]

@[simp] theorem closeGraph_canonical {i : Fin 16} {pol : BitVec 8} {s : State} (h : s.mm.Canonical) :
    (closeGraph i pol s).mm.Canonical := by simp -implicitDefEqProofs [closeGraph, h]

@[simp] theorem closePhase_canonical {i : Fin 16} {pol : BitVec 8} {s : State} (h : s.mm.Canonical) :
    (closePhase i pol s).mm.Canonical := by simp -implicitDefEqProofs [closePhase, h]

@[simp] theorem slotRead_answers {i : Fin 16} {va : Word} {len : Nat} {s : State} (h : s.mm.Canonical) :
    Answers (fun p => p.2.mm.Canonical) (slotRead i va len s) := plainRead_answers h

@[simp] theorem readChans_answers {i : Fin 16} {r : LRec} {s : State} (h : s.mm.Canonical) :
    Answers (fun p => p.2.mm.Canonical) (readChans i r s) := by
  unfold readChans
  split
  · exact (slotRead_answers h).bind fun _ ht => (slotRead_answers ht).bind fun _ hb => hb
  · exact h

@[simp] theorem readLaunch_answers {i : Fin 16} {image : Word} {index : Nat} {s : State} (h : s.mm.Canonical) :
    Answers (fun p => p.2.mm.Canonical) (readLaunch i image index s) := by
  refine (slotRead_answers h).bind fun x hx => ?_
  split
  · exact hx
  · exact (slotRead_answers hx).bind fun _ hb => (readChans_answers hb).bind fun _ hc => hc

@[simp] theorem newLaunch_canonical {i : Fin 16} {r : Option (LRec × Word × List Chan)} {s : State} (h : s.mm.Canonical) :
    (newLaunch i r s).mm.Canonical := by simp [newLaunch, h]

@[simp] theorem dispatch_canonical {i : Fin 16} {s : State} (h : s.mm.Canonical) : (dispatch i s).mm.Canonical := by
  unfold dispatch
  extract_lets x image ok
  refine ite_canonical (packetDone_canonical (newLaunch_canonical h)) ?_
  have hr := readLaunch_answers (i := i) (image := image) (index := (x.q.sh.toList.getD 1 0).toNat % 2 ^ 32) h
  split
  · exact pktStop_canonical h
  · exact packetDone_canonical (newLaunch_canonical (hr.ok ‹_›))

@[simp] theorem setShadow_mm (i : Fin 16) (f : Vector Word 32 → Vector Word 32) (s : State) :
    (setShadow i f s).mm = s.mm := by simp [setShadow]

/-! ### Of time events (Machine/EvTime) -/

@[simp] theorem wakeWaitmem_canonical {i : Fin 16} {s : State} (h : s.mm.Canonical) : (wakeWaitmem i s).mm.Canonical := by
  fun_cases wakeWaitmem i s <;> simp [h]

@[simp] theorem fireOne_canonical {s : State} {m : Monitor} (h : s.mm.Canonical) : (fireOne s m).mm.Canonical := by
  fun_cases fireOne s m <;> simp [h]

@[simp] theorem evict_canonical {sector : Nat} {s : State} (h : s.mm.Canonical) : (evict sector s).mm.Canonical := by
  have h1 := arrBack_canonical (x := sector) (dropL1_canonical (p := fun _ _ => true) (sector := sector) h)
  rw [evict]
  generalize dropL1 (fun _ _ => true) sector s = s1 at h1 ⊢
  exact putLine_canonical h1

@[simp] theorem freeGroup_mm (r : PageReq) (s : State) : (freeGroup r s).mm = s.mm := by
  fun_cases freeGroup r s <;> simp

@[simp] theorem granAnswered_canonical {refuse : Bool} {s : State} (h : s.mm.Canonical) :
    (granAnswered refuse s).mm.Canonical := by simp [granAnswered, h]

@[simp] theorem discardRange_mm (pasid : BitVec 20) (lo hi : Nat) (s : State) :
    (discardRange pasid lo hi s).mm = s.mm := by simp [discardRange]

/-! ### Of local time (Machine/LocalTime) -/

@[simp] theorem createStrand_mm (q : Fin 64) (c : Fin 4) (k : Fin 24) (g : Gen) (l : LaunchId) (frameK : Nat)
    (copy : CreCopy) (s : State) :
    (createStrand q c k g l frameK copy s).mm = s.mm := by simp [createStrand]

@[simp] theorem startScrub_mm (q : Fin 64) (c : Fin 4) (m : Option Instr) (s : State) :
    (startScrub q c m s).mm = s.mm := by simp [startScrub]

@[simp] theorem announceOn_mm (nul : Bool) (q : Fin 64) (c : Fin 4) (v : Word) (l : List (Fin 8)) (s : State) :
    (announceOn nul q c v l s).mm = s.mm := by
  induction l generalizing s with
  | nil => rfl
  | cons j t ih =>
    rw [announceOn]
    split
    · exact ite_mm ((ih _).trans (by simp)) (ih _)
    · exact ih _

@[simp] theorem announceAll_mm (nul : Bool) (q : Fin 64) (c : Fin 4) (v : Word) (s : State) :
    (announceAll nul q c v s).mm = s.mm := by simp [announceAll]

@[simp] theorem raiseBound_mm (q : Fin 64) (c : Fin 4) (ch : Fin 8) (v : Word) (s : State) :
    (raiseBound q c ch v s).mm = s.mm := by
  fun_cases raiseBound q c ch v s <;> simp

@[simp] theorem needLtm_clean {s : State} {a : Agent} : Clean (needLtm s a) := by simp [needLtm]

@[simp] theorem stampedMsg_mm (s : State) (a : Agent) (q : Fin 64) (c : Fin 4) (entry a0 a1 a2 stamp : Word) :
    (stampedMsg s a q c entry a0 a1 a2 stamp).2.mm = s.mm := by
  simp [stampedMsg]

@[simp] theorem bufferMsg_answers {a : Agent} {e : BufEnt} {s : State} (h : s.mm.Canonical) :
    Answers (fun t => t.mm.Canonical) (bufferMsg a e s) := by simp [bufferMsg, h]

theorem answered_answers {a : Agent} {ok : Answer → Act} {send : Act} {s : State}
    (hok : ∀ x, Answers (fun t => t.mm.Canonical) (ok x s)) (hsend : Answers (fun t => t.mm.Canonical) (send s)) :
    Answers (fun t => t.mm.Canonical) (answered a ok send s) := by
  unfold answered
  split
  · trivial
  · exact hok _
  · exact hsend

theorem sendOrHold_answers {a : Agent} {ws : List Word} {hold : BufEnt} {send : State → State}
    (hsend : ∀ t, t.mm.Canonical → (send t).mm.Canonical) {s : State} (h : s.mm.Canonical) :
    Answers (fun t => t.mm.Canonical) (sendOrHold a ws hold send s) := by
  unfold sendOrHold
  split
  · exact bufferMsg_answers h
  · exact (drained_answers h).bind fun t ht => answers_error.mpr (parkWith_canonical.mpr (hsend t ht))

@[simp] theorem sendEvent_answers {a : Agent} {q : Fin 64} {c : Fin 4} {entry a0 a1 a2 stamp : Word} {s : State}
    (h : s.mm.Canonical) : Answers (fun t => t.mm.Canonical) (sendEvent a q c entry a0 a1 a2 stamp s) := by
  unfold sendEvent
  extract_lets qc m
  have hm : m.2.mm.Canonical := by simpa [m] using h
  exact sendOrHold_answers (fun t ht => by simpa using ht) (ite_canonical hm h)

/-! ### Of messages (Machine/Msg) -/

@[simp] theorem targetCore_clean {s : State} {a : Agent} {w : Word} : Clean (targetCore s a w) := by
  fun_cases targetCore s a w <;> simp

@[simp] theorem holdSend_answers {a : Agent} {reg : Fin 16} {s : State} (h : s.mm.Canonical) :
    Answers (fun t => t.mm.Canonical) (holdSend a reg s) := by simp [holdSend, h]

@[simp] theorem stopEnded_canonical {p : Fin 64} {id : StrandId} {l : LaunchId} {e : OutReq} {f : Nat × Nat × Word}
    {s : State} (h : s.mm.Canonical) :
    (stopEnded p id l e f s).mm.Canonical := by
  simp only [stopEnded]
  (repeat' split) <;> simp -implicitDefEqProofs [*]

@[simp] theorem exitFaults_canonical {p : Fin 64} {id : StrandId} {l : LaunchId} {es : List OutReq} {s : State}
    (h : s.mm.Canonical) : (exitFaults p id l es s).mm.Canonical := by
  induction es generalizing s with
  | nil => exact h
  | cons e t ih =>
    refine ih ?_
    split
    · simpa using stopEnded_canonical (by simpa using h)
    all_goals exact h

@[simp] theorem sendImage_mm (i : Instr) (d : Dst) (q : Fin 64) (c : Fin 4) (k : Fin 24) (dest : Fin 64 × Fin 4)
    (s : State) :
    (sendImage i d q c k dest s).mm = s.mm := by simp [sendImage]

@[simp] theorem postQueries_mm (src : StrandId) (l : LaunchId) (a : List (Fin 64)) (s : State) :
    (postQueries src l a s).mm = s.mm := by
  fun_induction postQueries src l a s <;> simp [*]

@[simp] theorem stayHere_mm (i : Instr) (d : Dst) (a : Agent) (v : Word) (s : State) :
    (stayHere i d a v s).mm = s.mm := by simp [stayHere]

theorem migrForm_keeps {i : Instr} {d : Dst} {src : Src}
    {cands : Word → State → Agent → Except Stop (List (Fin 64) × State)}
    (hc : ∀ v s a, s.mm.Canonical → Answers (fun p => p.2.mm.Canonical) (cands v s a)) :
    KeepsCanonical (migrForm i d src cands) := by
  intro a s h
  cases a with
  | strand q c k =>
    refine .bind_clean (by simp) fun _ => .bind_clean (by simp) fun _ => (drained_answers h).bind fun t ht => ?_
    simp only
    split
    · exact ht
    split
    · simpa using ht
    split
    · split
      · split <;> simpa using ht
      · exact ht
    · refine .bind_clean readSrc_clean fun v => (hc v t _ ht).bind fun r hr => ?_
      split <;> simpa using hr
  | hart | weir | cmd | sec => exact h

@[simp] theorem refuse_mm (q : Fin 64) (c : Fin 4) (m : Instr) (s : State) : (refuse q c m s).mm = s.mm := by simp [refuse]

@[simp] theorem dropMsg_mm (l : LaunchId) (s : State) : (dropMsg l s).mm = s.mm := by simp [dropMsg]

@[simp] theorem acceptedBy_mm (m : CreMsg) (token : Word) (s : State) : (acceptedBy m token s).mm = s.mm := by
  fun_cases acceptedBy m token s <;> simp

@[simp] theorem takeCreation_mm (m : CreMsg) (s : State) : (takeCreation m s).mm = s.mm := by
  fun_cases takeCreation m s <;> simp +zetaDelta

@[simp] theorem takeBack_mm (m : CreMsg) (s : State) : (takeBack m s).mm = s.mm := by simp [takeBack]

@[simp] theorem releasePlace_mm (src q : Fin 64) (c : Fin 4) (l : LaunchId) (s : State) :
    (releasePlace src q c l s).mm = s.mm := by simp [releasePlace]

@[simp] theorem takeNotice_mm (src q : Fin 64) (c : Fin 4) (l : LaunchId) (s : State) :
    (takeNotice src q c l s).mm = s.mm := by
  fun_cases takeNotice src q c l s <;> simp +zetaDelta

@[simp] theorem takeRelease_mm (q : Fin 64) (c : Fin 4) (port : Nat) (s : State) : (takeRelease q c port s).mm = s.mm := by
  fun_cases takeRelease q c port s <;> simp

@[simp] theorem landStrand_mm (a : Agent) (s : State) : (landStrand a s).mm = s.mm := by simp [landStrand]

@[simp] theorem takeImage_mm (m : MigrMsg) (s : State) : (takeImage m s).mm = s.mm := by
  fun_cases takeImage m s <;> simp +zetaDelta

@[simp] theorem takeEvent_mm (m : CreMsg) (s : State) : (takeEvent m s).mm = s.mm := by simp [takeEvent]

@[simp] theorem dropDeposit_mm (m : DepMsg) (s : State) : (dropDeposit m s).mm = s.mm := by
  fun_cases dropDeposit m s <;> simp +zetaDelta

@[simp] theorem replyDeposit_mm (m : DepMsg) (x : Answer) (s : State) : (replyDeposit m x s).mm = s.mm := by
  fun_cases replyDeposit m x s <;> simp

@[simp] theorem noteDeposit_mm (a : Agent) (s : State) : (noteDeposit a s).mm = s.mm := by
  fun_cases noteDeposit a s <;> simp +zetaDelta

@[simp] theorem takeDeposit_mm (m : DepMsg) (s : State) : (takeDeposit m s).mm = s.mm := by simp [takeDeposit]

@[simp] theorem takeAnswer_canonical {dest : Sender} {ans : Answer} {s : State} (h : s.mm.Canonical) :
    (takeAnswer dest ans s).mm.Canonical := by
  fun_cases takeAnswer dest ans s <;> simp [h]

/-! ### Of fault events (Machine/EvFault) -/

@[simp] theorem closeLevel_canonical {l : Launch} {lv : Machine.Level} {s : State} (h : s.mm.Canonical) :
    (closeLevel l lv s).mm.Canonical := by
  fun_cases closeLevel l lv s <;> simp [h]

@[simp] theorem killLevel_canonical {l : Launch} {id : Option StrandId} {lv : Machine.Level} {s : State}
    (h : s.mm.Canonical) :
    (killLevel l id lv s).mm.Canonical := by
  fun_cases killLevel l id lv s <;> simp [h]

@[simp] theorem markLevel_canonical {l : Launch} {kind cause : Nat} {lv : Machine.Level} {s : State} (h : s.mm.Canonical) :
    (markLevel l kind cause lv s).mm.Canonical := by
  fun_cases markLevel l kind cause lv s <;> simp +zetaDelta -implicitDefEqProofs [h]

@[simp] theorem ignoreLevel_canonical {l : Launch} {id : Option StrandId} {kind cause : Nat} {lv : Machine.Level}
    {s : State} (h : s.mm.Canonical) :
    (ignoreLevel l id kind cause lv s).mm.Canonical := by
  fun_cases ignoreLevel l id kind cause lv s <;> simp [h]

@[simp] theorem restartUnit_canonical {l : LaunchId} {x : StrandId} {s : State} (h : s.mm.Canonical) :
    (restartUnit l x s).mm.Canonical := by simp [restartUnit, h]

@[simp] theorem purgeMessages_mm (l : LaunchId) (s : State) : (purgeMessages l s).mm = s.mm := by simp [purgeMessages]

@[simp] theorem freeTiles_mm (l : LaunchId) (s : State) : (freeTiles l s).mm = s.mm := by simp [freeTiles]

@[simp] theorem restartLaunch_canonical {l : LaunchId} {s : State} (h : s.mm.Canonical) :
    (restartLaunch l s).mm.Canonical := by simp [restartLaunch, h]

theorem retryLevel_canonical {l : Launch} {id : Option StrandId} {lim : Nat} {lv : Level} {s t : State} (h : s.mm.Canonical)
    (ht : retryLevel l id lim lv s = some t) : t.mm.Canonical := by
  simp only [retryLevel] at ht
  repeat' split at ht
  all_goals cases ht
  · exact restartUnit_canonical h
  · exact restartLaunch_canonical h

@[simp] theorem walkLevels_canonical {l : Launch} {id : Option StrandId} {kind cause : Nat} {lvs : List Level} {s : State}
    (h : s.mm.Canonical) : (walkLevels l id kind cause lvs s).mm.Canonical := by
  induction lvs generalizing s with
  | nil => exact h
  | cons lv rest ih =>
    have hk : (markLevel l kind cause lv (killLevel l id lv s)).mm.Canonical := markLevel_canonical (killLevel_canonical h)
    rw [walkLevels]
    refine ite_canonical (ignoreLevel_canonical h) (ite_canonical ?_ (ite_canonical (ih hk) hk))
    split
    · exact retryLevel_canonical h ‹_›
    · exact ih hk

@[simp] theorem walkFault_canonical {p : Fin 64} {f : FaultRec} {s : State} (h : s.mm.Canonical) :
    (walkFault p f s).mm.Canonical := by
  fun_cases walkFault p f s <;> simp +zetaDelta -implicitDefEqProofs [h]

@[simp] theorem countFaults_mm (p : Fin 64) (s : State) : (countFaults p s).mm = s.mm := by simp [countFaults]

/-! ### Of launches (Machine/Launch) -/

@[simp] theorem refuseLaunch_mm (l : LaunchId) (kind cause : Nat) (s : State) :
    (refuseLaunch l kind cause s).mm = s.mm := by simp [refuseLaunch]

@[simp] theorem allocList_answers {l : LaunchId} {q : Fin 64} {first : Bool} {ts : List (Fin 64 × Word)} {s : State}
    (h : s.mm.Canonical) : Answers (fun t => t.mm.Canonical) (allocList l q first ts s) := by
  induction ts generalizing s with
  | nil => exact h
  | cons x t ih =>
    have ha := allocTile_answers (q := q) (l := l) (t := x.1) (w := x.2) h
    rw [allocList]
    split
    · exact ih h
    split
    · exact ih (ha.ok ‹_›)
    · exact ha.error ‹_›

@[simp] theorem allocQuads_answers {l : LaunchId} {ts : List (Fin 64 × Word)} {first : Bool} {qs : List (Fin 64)} {s : State}
    (h : s.mm.Canonical) : Answers (fun t => t.mm.Canonical) (allocQuads l ts first qs s) := by
  induction qs generalizing first s with
  | nil => exact h
  | cons q t ih =>
    have ha := allocList_answers (l := l) (q := q) (first := first) (ts := ts) h
    rw [allocQuads]
    split
    · exact ih (ha.ok ‹_›)
    · exact ha.error ‹_›

@[simp] theorem beginTime_mm (y : Launch) (qs : List (Fin 64)) (s : State) : (beginTime y qs s).mm = s.mm := by
  unfold beginTime
  extract_lets evs cores s1 s2
  have h1 : s1.mm = s.mm := foldl_mm (fun _ _ => State.updCore_mm ..) ..
  have h2 : s2.mm = s.mm := (State.updLaunch_mm ..).trans h1
  rw [postAll_mm, h2]

@[simp] theorem startLaunch_canonical {y : Launch} {s : State} (h : s.mm.Canonical) : (startLaunch y s).mm.Canonical := by
  unfold startLaunch
  extract_lets l m y' s0 qs
  have h0 : s0.mm.Canonical := by simpa [s0] using h
  have ha := allocQuads_answers (l := l) (ts := y'.rec_.tiles) (first := true) (qs := qs) h0
  clear_value s0 qs y' m
  refine ite_canonical (by simpa using h) (ite_canonical (by simpa using h) (ite_canonical h0 (ite_canonical (by simpa using h0)
    (ite_canonical (by simpa using h0) ?_))))
  split
  · simpa using h0
  · refine ite_canonical ?_ ?_ <;> simpa using ha.ok ‹_›

@[simp] theorem sendBack_mm (l : LaunchId) (ms : List CreMsg) (s : State) : (sendBack l ms s).mm = s.mm := by
  induction ms generalizing s with
  | nil => rfl
  | cons m t ih =>
    rw [sendBack]
    refine ite_mm (ih _) ((ih _).trans (ite_mm ?_ ?_)) <;> simp

@[simp] theorem sendNext_mm (l : LaunchId) (n : Nat) (a : List (Fin 64)) (k : Nat) (s : State) :
    (sendNext l n a k s).mm = s.mm := by
  fun_induction sendNext l n a k s <;> simp [*]

@[simp] theorem writeRecord_canonical {y : Launch} {s : State} (h : s.mm.Canonical) : (writeRecord y s).2.mm.Canonical := by
  simp only [writeRecord]
  split
  · exact h
  split
  · simpa using (plainWrite_answers h).ok ‹_›
  split
  · exact askWrite_canonical h ‹_›
  · exact queueFault_canonical h

@[simp] theorem bumpDone_canonical {i : Fin 16} {s : State} (h : s.mm.Canonical) :
    (bumpDone i s).mm.Canonical := by simp -implicitDefEqProofs [bumpDone, h]

@[simp] theorem closeLevels_canonical {y : Launch} {s : State} (h : s.mm.Canonical) : (closeLevels y s).mm.Canonical := by
  simp only [closeLevels]
  (repeat' split) <;> simp -implicitDefEqProofs [*]

@[simp] theorem dropTime_mm (l : LaunchId) (s : State) : (dropTime l s).mm = s.mm := by simp [dropTime]

@[simp] theorem pokeLaunches_mm (s : State) : (pokeLaunches s).mm = s.mm := by simp [pokeLaunches]

@[simp] theorem endLaunch_canonical {y : Launch} {s : State} (h : s.mm.Canonical) : (endLaunch y s).mm.Canonical := by
  unfold endLaunch
  extract_lets l s1 s2 s3 s4 s5 x s6
  have h1 : s1.mm.Canonical := killStrands_canonical h
  clear_value s1
  have h2 : s2.mm.Canonical := by simpa [s2] using h1
  clear_value s2
  have h3 : s3.mm.Canonical := bumpDone_canonical h2
  clear_value s3
  have h5 : s5.mm.Canonical := setJob_canonical (closeLevels_canonical h3)
  clear_value s5
  have h6 : s6.mm = s5.mm := ite_mm (post_mm ..) (ite_mm (post_mm ..) (ite_mm (post_mm ..) rfl))
  rwa [pokeLaunches_mm, h6]

/-! ### Of queue events (Machine/EvQueue) -/

@[simp] theorem cancelStore_canonical {q : Fin 4096} {kind : Nat} {s : State} (h : s.mm.Canonical) :
    (cancelStore q kind s).mm.Canonical := by
  fun_cases cancelStore q kind s <;> simp [h]

/-! ### Of saving and restoring (Machine/EvSave) -/

@[simp] theorem stopStrand_mm (s : State) (p : Fin 64 × Fin 4 × Fin 24) : (stopStrand s p).mm = s.mm := by simp [stopStrand]

@[simp] theorem unsend_mm (s : State) (p : Fin 64 × Fin 4 × Fin 24) : (unsend s p).mm = s.mm := by simp [unsend]

@[simp] theorem recallMessages_mm (queue : Fin 4096) (s : State) : (recallMessages queue s).mm = s.mm := by
  unfold recallMessages
  extract_lets mine back s1
  have h1 : s1.mm = s.mm := foldl_mm unsend_mm ..
  exact (foldl_mm (fun _ _ => State.updLaunch_mm ..) ..).trans ((dropWaiting_mm ..).trans h1)

@[simp] theorem recallStrand_mm (s : State) (p : Fin 64 × Fin 4 × Fin 24) :
    (recallStrand s p).mm = s.mm := by simp [recallStrand]

@[simp] theorem recallEasel_mm (queue : Fin 4096) (s : State) : (recallEasel queue s).mm = s.mm := by simp [recallEasel]

@[simp] theorem clearStrand_mm (s : State) (p : Fin 64 × Fin 4 × Fin 24) :
    (clearStrand s p).mm = s.mm := by simp [clearStrand]

@[simp] theorem clearCore_mm (s : State) (p : Fin 64 × Fin 4) : (clearCore s p).mm = s.mm := by simp [clearCore]

@[simp] theorem clearContext_mm (queue : Fin 4096) (s : State) : (clearContext queue s).mm = s.mm := by simp [clearContext]

@[simp] theorem chargeSave_mm (i : Fin 16) (l : LaunchId) (s : State) : (chargeSave i l s).mm = s.mm := by simp [chargeSave]

@[simp] theorem writeSave_canonical {i : Fin 16} {s : State} (h : s.mm.Canonical) : (writeSave i s).mm.Canonical := by
  fun_cases writeSave i s <;> simp +zetaDelta -implicitDefEqProofs [h]

@[simp] theorem drainQueue_canonical {queue : Fin 4096} {s : State} (h : s.mm.Canonical) :
    (drainQueue queue s).mm.Canonical := by simp [drainQueue, h]

@[simp] theorem restoreStrand_mm (i : Fin 16) (part : BitVec 8) (kept : List Kept) (s : State) (b : List Byte) :
    (restoreStrand i part kept s b).mm = s.mm := by
  fun_cases restoreStrand i part kept s b <;> simp +zetaDelta

theorem allocTile_mm {q : Fin 64} {l : LaunchId} {t : Fin 64} {w : Word} {s u : State} (hu : allocTile q l t w s = .ok u) :
    u.mm = s.mm := by
  revert hu
  fun_cases allocTile q l t w s <;> intro hu <;> cases hu <;> simp +zetaDelta

@[simp] theorem rebindTile_mm (q : Fin 64) (l : LaunchId) (t : Fin 64) (w : Word) (s : State) :
    (rebindTile q l t w s).mm = s.mm := by
  rw [rebindTile]
  refine ite_mm rfl ?_
  split
  · exact allocTile_mm ‹_›
  · rfl

@[simp] theorem restoreTile_mm (part : BitVec 8) (s : State) (e : List Byte × LaunchId) :
    (restoreTile part s e).mm = s.mm := by
  fun_cases restoreTile part s e <;> simp +zetaDelta

@[simp] theorem restoreCoreRec_mm (i : Fin 16) (part : BitVec 8) (kept : List KeptCore) (s : State) (b : List Byte) :
    (restoreCoreRec i part kept s b).mm = s.mm := by
  fun_cases restoreCoreRec i part kept s b <;> simp +zetaDelta

@[simp] theorem refuseRestore_canonical {i : Fin 16} {s : State} (h : s.mm.Canonical) :
    (refuseRestore i s).mm.Canonical := by simp [refuseRestore, h]

@[simp] theorem wakeRestored_mm (queue : Fin 4096) (s : State) : (wakeRestored queue s).mm = s.mm := by simp [wakeRestored]

@[simp] theorem restoreNext_mm (i : Fin 16) (u : State × List (List Byte)) (b : List Byte) :
    (restoreNext i u b).1.mm = u.1.mm := by
  fun_cases restoreNext i u b <;> simp

theorem foldl_restoreNext_mm (i : Fin 16) (bs : List (List Byte)) (u : State × List (List Byte)) :
    (bs.foldl (restoreNext i) u).1.mm = u.1.mm := by
  induction bs generalizing u with
  | nil => rfl
  | cons b t ih => rw [List.foldl_cons, ih, restoreNext_mm]

@[simp] theorem restoreWaiting_mm (i : Fin 16) (s : State) : (restoreWaiting i s).mm = s.mm := by
  simp [restoreWaiting, foldl_restoreNext_mm]

/-! ### Of debugging (Machine/Debug) -/

@[simp] theorem debugRead_mm (it : DebugItem) (s : State) : (debugRead it s).mm = s.mm := by simp [debugRead]

@[simp] theorem debugPut_mm (v : Nat) (g : Gen) (it : DebugItem) (s : State) : (debugPut v g it s).mm = s.mm := by
  fun_cases debugPut v g it s <;> simp

@[simp] theorem debugWrite_mm (it : DebugItem) (v : Nat) (s : State) : (debugWrite it v s).mm = s.mm := by
  fun_cases debugWrite it v s <;> simp

/-! ### Of host events (Machine/EvHost) -/

@[simp] theorem setBias_canonical {g : Nat} {host : Bool} {s : State} (h : s.mm.Canonical) :
    (setBias g host s).mm.Canonical := by simp [setBias, h]

@[simp] theorem l1Back_canonical {sector : Nat} {s : State} (h : s.mm.Canonical) :
    (l1Back sector s).mm.Canonical := by simp [l1Back, h]

@[simp] theorem flip_canonical {g : Nat} {host : Bool} {s : State} (h : s.mm.Canonical) : (flip g host s).mm.Canonical := by
  refine setBias_canonical (foldSectors_canonical ?_ _ h)
  cases host
  · exact fun _ _ => recallHost_canonical
  · exact fun _ _ => l1Back_canonical

@[simp] theorem hostHolds_canonical {pa len : Nat} {write : Bool} {s : State} (h : s.mm.Canonical) :
    (hostHolds pa len write s).mm.Canonical :=
  ite_canonical h (foldSectors_canonical (fun _ _ => putLine_canonical) _ h)

@[simp] theorem serveRmw_canonical {op : HostRmw} {r : HostReq} {s : State} (h : s.mm.Canonical) :
    (serveRmw op r s).mm.Canonical :=
  writePhys_canonical h

theorem makeRoom_mm {q : Fin 64} {s t : State} (ht : makeRoom q s = some t) : t.mm = s.mm := by
  rw [makeRoom] at ht
  split at ht
  · cases ht; rfl
  · obtain ⟨i, -, rfl⟩ := Option.map_eq_some_iff.mp ht
    rfl

@[simp] theorem writeWindow_canonical {by_ : Master} {pa : Nat} {bs : List Byte} {s : State} (h : s.mm.Canonical) :
    (writeWindow by_ pa bs s).mm.Canonical := by
  fun_cases writeWindow by_ pa bs s <;> simp [h]

@[simp] theorem writeTable_mm (t m : Nat) (parts : Word) (rights : BitVec 5) (s : State) :
    (writeTable t m parts rights s).mm = s.mm := by
  fun_cases writeTable t m parts rights s <;> simp

@[simp] theorem rekeyGranule_canonical {g k0 k1 : Nat} {s : State} (h : s.mm.Canonical) :
    (rekeyGranule g k0 k1 s).mm.Canonical :=
  ite_canonical h h

@[simp] theorem writeOwner_canonical {g : Nat} {e : BitVec 16} {s : State} (h : s.mm.Canonical) :
    (writeOwner g e s).mm.Canonical := by
  unfold writeOwner
  extract_lets old named
  refine ite_canonical h ?_
  split
  · exact rekeyGranule_canonical h
  · exact foldl_canonical (fun _ _ ht => by simpa using ht) _ h

@[simp] theorem gateQuad_mm (q : Fin 64) (off : Bool) (s : State) : (gateQuad q off s).mm = s.mm := by simp [gateQuad]

@[simp] theorem failSector_canonical {x : Nat} {code : Bool} {s : State} (h : s.mm.Canonical) :
    (failSector x code s).mm.Canonical :=
  ite_canonical h (ite_canonical h h)

@[simp] theorem readI3c_mm (s : State) : (readI3c s).mm = s.mm := by simp [readI3c]

@[simp] theorem clearSlot_mm (k : Fin 64) (s : State) : (clearSlot k s).mm = s.mm := by simp [clearSlot]

/-! ### Of partitions (Machine/EvPart) -/

@[simp] theorem flashWrite_mm (ctr : Nat) (tag : BitVec 128) (f : Mgmt → Mgmt) (s : State) :
    (flashWrite ctr tag f s).mm = s.mm := by simp [flashWrite]

@[simp] theorem storeCommit_mm (f : Mgmt → Mgmt) (s : State) : (storeCommit f s).mm = s.mm := by simp [storeCommit]

@[simp] theorem zeroGranules_canonical {g : Nat → Bool} {s : State} (h : s.mm.Canonical) : (zeroGranules g s).mm.Canonical :=
  zeroGranules_wf h

@[simp] theorem mapOwner_mm (p : Fin 64) (f : BitVec 32 → BitVec 32) (s : State) :
    (mapOwner p f s).mm = s.mm := by simp [mapOwner]

@[simp] theorem retireKey_canonical {k : Nat} {s : State} (h : s.mm.Canonical) : (retireKey k s).mm.Canonical := h

@[simp] theorem dropPending_mm (p : Fin 64) (s : State) : (dropPending p s).mm = s.mm := by simp [dropPending]

@[simp] theorem resetQueues_canonical {p : Fin 64} {s : State} (h : s.mm.Canonical) : (resetQueues p s).mm.Canonical :=
  foldl_canonical (fun _ _ => startReset_canonical) _ (by simpa using h)

@[simp] theorem recordRelease_mm (p : Fin 64) (s : State) : (recordRelease p s).mm = s.mm := by simp [recordRelease]

@[simp] theorem beginRelease_canonical {p : Fin 64} {s : State} (h : s.mm.Canonical) :
    (beginRelease p s).mm.Canonical := by simp [beginRelease, h]

@[simp] theorem releaseQuad_canonical {s : State} {q : Fin 64} (h : s.mm.Canonical) :
    (releaseQuad s q).mm.Canonical := by simp [releaseQuad, h]

@[simp] theorem releaseMemory_canonical {p : Fin 64} {s : State} (h : s.mm.Canonical) :
    (releaseMemory p s).mm.Canonical := by
  have h1 := zeroGranules_canonical (g := (ownedGranules s p).contains) h
  simp only [releaseMemory, State.updPart_mm, storeCommit_mm]
  exact h1

/-! ### Of management requests (Machine/EvSpdm) -/

@[simp] theorem say_mm (a : SpdmAnswer) (s : State) : (say a s).mm = s.mm := by simp [say]

@[simp] theorem sayError_mm (s : State) : (sayError s).mm = s.mm := by simp [sayError]

@[simp] theorem sayFree_mm (s : State) : (sayFree s).mm = s.mm := by simp [sayFree]

theorem sign_mm {s t : State} {n : Nat} (ht : sign s = some (n, t)) : t.mm = s.mm := by
  simp only [sign] at ht
  split at ht
  · cases ht
  · cases ht
    exact ite_mm (storeCommit_mm ..) rfl

@[simp] theorem rewriteCert_mm (k : Fin 8) (chain : Nat) (s : State) :
    (rewriteCert k chain s).mm = s.mm := by simp [rewriteCert]

@[simp] theorem updCert_mm (k : Fin 8) (f : CertSlot → CertSlot) (s : State) : (updCert k f s).mm = s.mm := by simp [updCert]

@[simp] theorem signedAnswer_mm (words : List Word) (s : State) : (signedAnswer words s).mm = s.mm := by
  unfold signedAnswer
  extract_lets k c
  refine ite_mm ?_ ?_
  · split
    · simp
    · simp [sign_mm ‹_›]
  · split
    · simp
    · split <;> simp

@[simp] theorem sayErrors_mm (a : Nat) (s : State) : (sayErrors a s).mm = s.mm := by
  fun_induction sayErrors a s <;> simp [*]

@[simp] theorem onSession_mm (p : Session → Bool) (f : Session → Option Session) (s : State) :
    (onSession p f s).mm = s.mm := by simp [onSession]

@[simp] theorem setMeasure_mm (i : Fin 8) (d : Option (BitVec 384)) (s : State) :
    (setMeasure i d s).mm = s.mm := by simp [setMeasure]

@[simp] theorem setFlash_mm (im : FwImage) (s : State) : (setFlash im s).mm = s.mm := by simp [setFlash]

@[simp] theorem raiseSvn_mm (im : FwImage) (s : State) : (raiseSvn im s).mm = s.mm := by simp [raiseSvn]

@[simp] theorem clearAcks_mm (s : State) : (clearAcks s).mm = s.mm := by simp [clearAcks]

@[simp] theorem updCmd_mm (i : Fin 2) (f : CmdCore → CmdCore) (s : State) : (updCmd i f s).mm = s.mm := by simp [updCmd]

@[simp] theorem resumeFirmware_mm (s : State) : (resumeFirmware s).mm = s.mm := by simp [resumeFirmware]

/-! ### Of resets (Machine/EvReset) -/

@[simp] theorem clearMachine_canonical {cold : Bool} {s : State} (h : s.mm.Canonical) : (clearMachine cold s).mm.Canonical :=
  clearMachine_wf h

@[simp] theorem measure_mm (i : Fin 8) (s : State) : (measure i s).mm = s.mm := by simp [measure]

@[simp] theorem startFirmware_canonical {s : State} (h : s.mm.Canonical) : (startFirmware s).mm.Canonical := by
  unfold startFirmware
  extract_lets fw s1 s2 s3
  have h1 : s1.mm.Canonical := by simpa [s1] using h
  have h2 : s2.mm.Canonical := by
    simp only [s2]
    split <;> simpa using h1
  exact foldl_canonical (fun _ _ => beginRelease_canonical) _ (by simpa [s3] using h2)

@[simp] theorem trainLink_mm (s : State) : (trainLink s).mm = s.mm := by simp [trainLink]

@[simp] theorem activateOthers_mm (s : State) : (activateOthers s).mm = s.mm := by simp [activateOthers]

@[simp] theorem raiseOthers_mm (s : State) : (raiseOthers s).mm = s.mm := by simp [raiseOthers]

@[simp] theorem selfTest_mm (s : State) : (selfTest s).mm = s.mm := by simp [selfTest]

@[simp] theorem bootStage_mm (n : Nat) (s : State) : (bootStage n s).mm = s.mm := by
  fun_cases bootStage n s <;> simp +zetaDelta

@[simp] theorem stagePassed_canonical {n : Nat} {s : State} (h : s.mm.Canonical) : (stagePassed n s).mm.Canonical := by
  fun_cases stagePassed n s <;> simp [h]

@[simp] theorem runStages_canonical {ns : List Nat} {s : State} (h : s.mm.Canonical) : (runStages ns s).mm.Canonical := by
  induction ns generalizing s with
  | nil => exact h
  | cons n t ih =>
    have h1 : (bootStage n { s with mg := { s.mg with bootStage := n } }).mm.Canonical := by simpa using h
    simp only [runStages]
    split
    · exact h1
    · exact ih (stagePassed_canonical h1)

@[simp] theorem bootFlash_mm (s : State) : (bootFlash s).mm = s.mm := by simp [bootFlash]

/-! ### Of scalar forms (Machine/Scalar) -/

theorem alu2_keeps {d : Dst} {a b : Src} {f : Word → Word → Word} : KeepsCanonical (alu2 d a b f) := fun _ _ h =>
  .bind_clean readSrc_clean fun _ => .bind_clean readSrc_clean fun _ => by simpa using h

theorem alu1_keeps {d : Dst} {a : Src} {f : Word → Word} : KeepsCanonical (alu1 d a f) := fun _ _ h =>
  .bind_clean readSrc_clean fun _ => by simpa using h

theorem long2_keeps {d : Dst} {a b : Src} {la : Fin 16} {f : Word → Word → Word} : KeepsCanonical (long2 d a b la f) :=
  fun _ _ h => .bind_clean readSrc_clean fun _ => .bind_clean readSrc_clean fun _ => by simpa using h

theorem fpuForm2_keeps {d : Dst} {a b : Src} {f : RM → Word → Word → Word × Flags} : KeepsCanonical (fpuForm2 d a b f) :=
  fun _ _ h => .bind_clean readSrc_clean fun _ => .bind_clean readSrc_clean fun _ => by simpa using h

theorem fpuForm1_keeps {d : Dst} {a : Src} {f : RM → Word → Word × Flags} : KeepsCanonical (fpuForm1 d a f) :=
  fun _ _ h => .bind_clean readSrc_clean fun _ => by simpa using h

theorem fplForm2_keeps {d : Dst} {a b : Src} {la : Fin 16} {f : RM → Word → Word → Word × Flags} :
    KeepsCanonical (fplForm2 d a b la f) :=
  fun _ _ h => .bind_clean readSrc_clean fun _ => .bind_clean readSrc_clean fun _ => by simpa using h

/-! ### Of fetch (Machine/Fetch) -/

@[simp] theorem fetchWord_answers {a : Agent} {s : State} (h : s.mm.Canonical) :
    Answers (fun p => p.2.mm.Canonical) (fetchWord a s) := by
  refine (codeHalf_answers h).bind fun r hr => ?_
  split
  · exact hr
  have ht := codeHalf_answers (a := a) (pc := (s.arch a).pc + 2) hr
  split
  · have h2 := ht.ok ‹_›
    exact h2
  · trivial
  · have he := ht.error ‹_›
    exact he

theorem rawStop_canonical {a : Agent} {w : Nat} {e : Stop} (he : rawStop a w = some e) : e.Canonical := by
  simp only [rawStop] at he
  repeat' split at he
  · cases he; trivial
  · exact classStop_canonical he
  · cases he; trivial
  · exact classStop_canonical he

@[simp] theorem notIssuing_mm (a : Agent) (s : State) : (notIssuing a s).mm = s.mm := by
  fun_cases notIssuing a s <;> simp

/-- The states and reasons of a move have canonical memories. -/
def Move.Canonical : Move → Prop
  | .exec _ s | .done s => s.mm.Canonical
  | .stop _ e s => e.Canonical ∧ s.mm.Canonical

@[simp] theorem Move.canonical_done {s : State} : (Move.done s).Canonical ↔ s.mm.Canonical := Iff.rfl

@[simp] theorem stopAfterForms_canonical {a : Agent} {e : Stop} {s : State} (he : e.Canonical) (h : s.mm.Canonical) :
    (stopAfterForms a e s).Canonical := by
  unfold stopAfterForms
  split
  · exact h
  · exact ⟨he, h⟩

@[simp] theorem nextInstr_canonical {a : Agent} {s : State} (h : s.mm.Canonical) : (nextInstr a s).Canonical := by
  unfold nextInstr
  generalize hs : { s with md := { s.md with who := a } } = s0
  have h0 : s0.mm.Canonical := hs ▸ h
  extract_lets _ f
  have hf : Answers (fun p => p.2.mm.Canonical) f := by
    simp only [f]
    split
    · exact h0
    · exact fetchWord_answers h0
  clear_value f
  split
  · simpa using h0
  split
  · exact stopAfterForms_canonical hf h0
  split
  · exact stopAfterForms_canonical (rawStop_canonical ‹_›) hf
  split
  · exact stopAfterForms_canonical trivial hf
  · exact hf

/-! ### Of turns (Machine/Turns) -/

@[simp] theorem noPacket_canonical {i : Fin 16} {s : State} (h : s.mm.Canonical) :
    (noPacket i s).mm.Canonical := by simp [noPacket, h]

@[simp] theorem emptyEntry_canonical {i : Fin 16} {s : State} (h : s.mm.Canonical) :
    (emptyEntry i s).mm.Canonical := by simp [emptyEntry, h]

@[simp] theorem headTurn_canonical {i : Fin 16} {p : List Byte} {s : State} (h : s.mm.Canonical) :
    (headTurn i p s).Canonical := by
  simp only [headTurn]
  split
  · exact moveOn_canonical h
  split
  · exact queueFault_canonical h
  split
  · exact h
  · exact h

@[simp] theorem packetTurn_canonical {i : Fin 16} {s : State} (h : s.mm.Canonical) : (packetTurn i s).Canonical := by
  simp only [packetTurn]
  split
  · exact h
  split
  · exact ite_canonical h (leaveRunning_canonical h)
  split
  · exact headTurn_canonical h
  split
  · exact noPacket_canonical h
  split
  · exact pktStop_canonical h
  have hp := (readPacket_answers h).ok ‹_›
  split
  · exact emptyEntry_canonical hp
  · exact headTurn_canonical hp

@[simp] theorem passTicks_mm (n : Nat) (s : State) : (passTicks n s).mm = s.mm := by simp [passTicks]

@[simp] theorem takeTurn_canonical {t : Turn} {s : State} (h : s.mm.Canonical) : (takeTurn t s).Canonical := by
  cases t with
  | deliver i =>
    simp only [takeTurn]
    repeat' split
    all_goals exact h
  | input e r =>
    rw [takeTurn]
    split <;> exact h
  | packet i => exact packetTurn_canonical h
  | run a => exact nextInstr_canonical h
  | engine a => exact engineMove_canonical h
  | tick n => simpa [takeTurn] using h

@[simp] theorem nextMove_canonical {s : State} (h : s.mm.Canonical) : (nextMove s).Canonical := by
  unfold nextMove
  split
  · exact takeTurn_canonical h
  · exact h

end Sys2Proof.Machine
end

section
namespace Sys2Proof.Machine
open Sys2Proof.Safety

/-! ## What each instruction and event does with the memories

The rows that share a body with others (`alu2`, `laneForm`, …) have their rule in that body's; here are the rows with a
meaning of their own. -/

/-! ### Of memory instructions (Machine/MemInstr) -/

theorem execLd_canonical {sz : LdSize} {acq : Bool} {d : Dst} {base : Src} {off : BitVec 7} {la : Fin 16} {s : State}
    (h : s.mm.Canonical) : NextCanonical (execLd sz acq d base off la s) :=
  perform_canonical (fun _ _ h => .bind_clean readSrc_clean fun _ => (loadValue_answers h).bind fun _ hr => by simpa using hr) h

theorem execSt_canonical {sz : StSize} {rel : Bool} {data base : Src} {off : BitVec 7} {s : State} (h : s.mm.Canonical) :
    NextCanonical (execSt sz rel data base off s) :=
  perform_canonical (fun _ _ h => .bind_clean readSrc_clean fun _ => .bind_clean readSrc_clean fun _ =>
    .bind_clean (by simp) fun _ => (resolve_answers h).bind fun _ hr => putStore_answers (by simpa using hr)) h

theorem execAmoCas_canonical {wide acq rel : Bool} {d a : Fin 16} {b : Src} {la : Fin 16} {s : State} (h : s.mm.Canonical) :
    NextCanonical (execAmoCas wide acq rel d a b la s) :=
  perform_canonical (fun _ _ h => .bind_clean readSrc_clean fun _ => .bind_clean readSrc_clean fun _ =>
    .bind_clean readSrc_clean fun _ => (drained_answers h).bind fun _ ht => (amoPlace_answers ht).bind fun _ hp => by
      simpa using ite_canonical (writePhys_canonical hp) (loadEffects_canonical hp)) h

theorem execWaita_canonical {d : Dst} {a b : Src} {s : State} (h : s.mm.Canonical) : NextCanonical (execWaita d a b s) := by
  refine perform_canonical (fun ag s h => .bind_clean operands_clean fun ws => .bind_clean (by simp) fun _ =>
    (resolve_answers h).bind fun r hr => .bind_clean (by simp) fun _ => .bind_clean (by simp) fun _ =>
    (settled_answers hr).bind fun t ht => ?_) h
  extract_lets v s1
  have h1 : s1.mm.Canonical := by simpa [s1] using loadEffects_canonical ht
  clear_value v s1
  split <;> simpa using h1

theorem execWaitp_canonical {d : Dst} {a : Src} {s : State} (h : s.mm.Canonical) : NextCanonical (execWaitp d a s) := by
  refine perform_canonical (fun ag s h => .bind_clean operands_clean fun ws => .bind_clean (by simp) fun _ => ?_) h
  simp only
  split
  · simpa using h
  split
  · simpa using h
  · simpa using h
  · split <;> simp [h]

theorem execPark_canonical {d : Dst} {a b : Src} {s : State} (h : s.mm.Canonical) :
    NextCanonical (execPark d a b s) := perform_canonical (fun ag s h => by simp [h]) h

theorem execRegion_canonical {s : State} (h : s.mm.Canonical) : NextCanonical (execRegion s) :=
  perform_canonical (fun _ _ h => (drained_answers h).bind fun _ ht => by simpa using ht) h

theorem execCommit_canonical {s : State} (h : s.mm.Canonical) :
    NextCanonical (execCommit s) := perform_canonical (fun ag s h => by simp [h]) h

theorem execPref_canonical {a : Src} {s : State} (h : s.mm.Canonical) : NextCanonical (execPref a s) := by
  refine perform_canonical (fun ag s h => .bind_clean readSrc_clean fun va => ?_) h
  have hx := (xlatPiece_canonical (w := requesterOf s ag) (need := .read) (va := va) h).2
  simp only
  split
  · rename_i heq
    rw [heq] at hx
    split
    · exact lineRead_canonical hx
    · exact h
  · exact h

theorem execFence_canonical {kind : FenceKind} {s : State} (h : s.mm.Canonical) : NextCanonical (execFence kind s) := by
  refine perform_canonical (fun ag s h => ?_) h
  extract_lets -underBinder afterwards
  have ha : ∀ t : State, t.mm.Canonical → Answers (fun t => t.mm.Canonical) (afterwards t) := fun t ht =>
    answers_ok.mpr (ite_canonical ht (dropClean_canonical ht))
  split
  · exact ha _ h
  · exact (drained_answers h).bind ha

/-! ### Of control forms (Machine/Control) -/

theorem execBr_canonical {c : Cond} {a b : Src} {off : BitVec 12} {s : State} (h : s.mm.Canonical) :
    NextCanonical (execBr c a b off s) := performJump_canonical (fun ag s h => by simp [h]) h

theorem execJalCall_canonical {off : BitVec 20} {s : State} (h : s.mm.Canonical) :
    NextCanonical (execJalCall off s) := performJump_canonical (fun ag s h => by simp [h]) h

theorem execJalJump_canonical {off : BitVec 20} {s : State} (h : s.mm.Canonical) :
    NextCanonical (execJalJump off s) := performJump_canonical (fun ag s h => by simp [h]) h

theorem execJrJump_canonical {a : Src} {s : State} (h : s.mm.Canonical) :
    NextCanonical (execJrJump a s) := performJump_canonical (fun ag s h => by simp [h]) h

theorem execJrCall_canonical {a : Src} {s : State} (h : s.mm.Canonical) :
    NextCanonical (execJrCall a s) := performJump_canonical (fun ag s h => by simp [h]) h

theorem execJrRet_canonical {s : State} (h : s.mm.Canonical) :
    NextCanonical (execJrRet s) := performJump_canonical (fun ag s h => by simp [h]) h

theorem execLoopSet_canonical {k : Fin 2} {a : Fin 16} {stop : BitVec 15} {s : State} (h : s.mm.Canonical) :
    NextCanonical (execLoopSet k a stop s) := by
  refine performJump_canonical (fun ag s h => .bind_clean readSrc_clean fun c => ?_) h
  simp only
  split
  · exact (codeHalf_answers h).bind fun r hr => by simpa using hr
  · simpa using h

theorem execGets_canonical {d : Dst} {num : BitVec 12} {s : State} (h : s.mm.Canonical) :
    NextCanonical (execGets d num s) := perform_canonical (fun ag s h => by simp [h]) h

theorem execSets_canonical {a : Src} {num : BitVec 12} {s : State} (h : s.mm.Canonical) :
    NextCanonical (execSets a num s) := by
  refine performJump_canonical (fun ag s h => .bind_clean readSrc_clean fun v => (writeReg_answers h).bind fun t ht => ?_) h
  simp only
  split
  · exact writeReg_answers (by simpa using h)
  · simpa using ht

theorem execTrap_canonical {a : Src} {code : BitVec 12} {s : State} (h : s.mm.Canonical) :
    NextCanonical (execTrap a code s) := perform_canonical (fun ag s h => by simp [h]) h

theorem execRte_canonical {s : State} (h : s.mm.Canonical) :
    NextCanonical (execRte s) := performJump_canonical (fun ag s h => by simp [h]) h

theorem execBrk_canonical {a : Src} {code : BitVec 12} {s : State} (h : s.mm.Canonical) :
    NextCanonical (execBrk a code s) := perform_canonical (fun ag s h => by simp [h]) h

theorem execSysc_canonical {a : Src} {code : BitVec 12} {s : State} (h : s.mm.Canonical) :
    NextCanonical (execSysc a code s) := perform_canonical (fun ag s h => by simp) h

theorem execYieldPt_canonical {index : BitVec 12} {s : State} (h : s.mm.Canonical) :
    NextCanonical (execYieldPt index s) := by
  refine perform_canonical (fun ag s h => ?_) h
  extract_lets l recs
  clear_value recs l
  split
  · trivial
  split
  · exact h
  cases ag with
  | strand q c k =>
    simp only
    split
    · simpa using h
    split
    · simp [h]
    · exact h
  | hart | weir | cmd | sec => exact h

/-! ### Of easel events (Machine/EvEasel) -/

theorem execEaselGrant_canonical {q : Fin 64} {s : State} (h : s.mm.Canonical) : NextCanonical (execEaselGrant q s) := by
  unfold execEaselGrant
  split
  · exact h
  rename_i c e _
  have hg := grantForm_answers (q := q) (c := c) (easelForm_keeps e.ins) (ops := e.ops) (ts := e.tiles)
    (a := .strand q c e.k) h
  simp only
  split
  · exact trapForm_canonical trivial (by simpa using h)
  split
  · simpa using hg.ok ‹_›
  · exact trapForm_canonical (hg.error ‹_›) h

theorem execEaselSubunitComplete_canonical {q : Fin 64} {u : SubUnit} {s : State} (h : s.mm.Canonical) :
    NextCanonical (execEaselSubunitComplete q u s) := by
  fun_cases execEaselSubunitComplete q u s <;> simp +zetaDelta -implicitDefEqProofs [h]

theorem execScoreboardEntryComplete_canonical {q : Fin 64} {n : Nat} {s : State} (h : s.mm.Canonical) :
    NextCanonical (execScoreboardEntryComplete q n s) := by
  fun_cases execScoreboardEntryComplete q n s <;> simp [h]

theorem execTileScrubSweepComplete_canonical {q : Fin 64} {s : State} (h : s.mm.Canonical) :
    NextCanonical (execTileScrubSweepComplete q s) := by
  fun_cases execTileScrubSweepComplete q s <;> simp [h]

theorem execGenscrubComplete_canonical {q : Fin 64} {s : State} (h : s.mm.Canonical) :
    NextCanonical (execGenscrubComplete q s) := by
  fun_cases execGenscrubComplete q s <;> simp +zetaDelta -implicitDefEqProofs [h]

/-! ### Of engines (Machine/Engine) -/

theorem execBarm_canonical {src : Src} {b : Fin 16} {s : State} (h : s.mm.Canonical) :
    NextCanonical (execBarm src b s) := perform_canonical (fun ag s h => by simp [h]) h

theorem execBarrClaim_canonical {d : Dst} {src : Src} {b : Fin 16} {s : State} (h : s.mm.Canonical) :
    NextCanonical (execBarrClaim d src b s) := by
  refine perform_canonical (fun a s h => .bind_clean readSrc_clean fun v => ?_) h
  simp only
  split
  · split <;> simpa using h
  split
  · simpa using h
  split <;> simpa using h

theorem execBwait_canonical {b : Fin 16} {s : State} (h : s.mm.Canonical) :
    NextCanonical (execBwait b s) := perform_canonical (fun ag s h => by simp [h]) h

/-! ### Of engine requests (Machine/EngRun) -/

theorem execCollectiveMatch_canonical {l : LaunchId} {cid : Word} {s : State} (h : s.mm.Canonical) :
    NextCanonical (execCollectiveMatch l cid s) := by
  simp only [execCollectiveMatch]
  split
  · exact h
  split
  · exact h
  split
  · exact refuseColl_canonical h
  split
  · exact refuseColl_canonical h
  split
  · exact faultAll_canonical h
  · exact h
  · refine foldl_canonical (fun _ _ => endRequest_canonical) _ ?_
    refine foldl_canonical (fun _ _ ht => foldl_canonical (fun _ _ hu => by simpa using hu) _ ht) _ (by simpa using h)

/-! ### Of engine instructions (Machine/Engx) -/

theorem execEngxDmard_canonical {d : Dst} {a b : Src} {s : State} (h : s.mm.Canonical) :
    NextCanonical (execEngxDmard d a b s) := by
  refine perform_canonical (fun ag s h => .bind_clean readSrc_clean fun w => .bind_clean readSrc_clean fun lw =>
    .bind_clean (by simp) fun l => (readLoc_answers h).bind fun r hr => ?_) h
  extract_lets -underBinder afterwards
  have ha : ∀ t : State, t.mm.Canonical → Answers (fun t => t.mm.Canonical) (afterwards t) := fun t ht => by
    simpa [afterwards] using ht
  split
  · exact (appendPort_answers hr).bind ha
  · exact ha _ (by simpa using hr)

theorem execEngxDmawr_canonical {d : Dst} {a b : Src} {s : State} (h : s.mm.Canonical) :
    NextCanonical (execEngxDmawr d a b s) := by
  refine perform_canonical (fun ag s h => .bind_clean readSrc_clean fun w => .bind_clean readSrc_clean fun lw =>
    .bind_clean (by simp) fun l => ?_) h
  extract_lets -underBinder bs afterwards
  have ha : ∀ t : State, t.mm.Canonical → Answers (fun t => t.mm.Canonical) (afterwards t) := fun t ht => by
    simpa [afterwards] using ht
  split
  · exact (drainPort_answers h).bind ha
  · exact (writeLoc_answers h).bind ha

theorem execEngxMbox_canonical {a : Src} {s : State} (h : s.mm.Canonical) : NextCanonical (execEngxMbox a s) := by
  refine perform_canonical (fun ag s h => .bind_clean readSrc_clean fun v => ?_) h
  simp only
  split
  · exact h
  · exact endRequest_canonical (by simpa using h)

theorem execEngxKwait_canonical {s : State} (h : s.mm.Canonical) : NextCanonical (execEngxKwait s) := by
  refine perform_canonical (fun ag s h => ?_) h
  simp only
  split
  · trivial
  · simpa using h

theorem execEngxGcmkey_canonical {a : Src} {s : State} (h : s.mm.Canonical) :
    NextCanonical (execEngxGcmkey a s) := perform_canonical (fun ag s h => by simp [h]) h

theorem execEngxGcmenc_canonical {d : Dst} {a b : Src} {s : State} (h : s.mm.Canonical) :
    NextCanonical (execEngxGcmenc d a b s) := perform_canonical (fun ag s h => by simp [h]) h

theorem execEngxGcmdec_canonical {d : Dst} {a b : Src} {s : State} (h : s.mm.Canonical) :
    NextCanonical (execEngxGcmdec d a b s) := by
  refine perform_canonical (fun ag s h => .bind_clean readSrc_clean fun iv => .bind_clean readSrc_clean fun lv =>
    .bind_clean gcmArgs_clean fun g => ?_) h
  simp only
  split <;> simpa using h

/-! ### Of privileged forms (Machine/Priv) -/

theorem execGenscrub_canonical {d : Dst} {a : Src} {s : State} (h : s.mm.Canonical) :
    NextCanonical (execGenscrub d a s) := perform_canonical (fun ag s h => by simp [h]) h

theorem execQown_canonical {d : Dst} {a b : Src} {s : State} (h : s.mm.Canonical) : NextCanonical (execQown d a b s) := by
  refine perform_canonical (fun ag s h => .bind_clean readSrc_clean fun v => .bind_clean readSrc_clean fun w =>
    .bind_clean (by simp) fun _ => ?_) h
  extract_lets q
  split
  · simpa using h
  split
  · simpa [qownRefused_mm ‹_›] using h
  split
  · trivial
  split
  · simpa using h
  split
  · trivial
  · exact beginScrub_answers (by simpa using flushQuad_canonical (q := q) h)

theorem execTlbinv_canonical {a b : Src} {s : State} (h : s.mm.Canonical) : NextCanonical (execTlbinv a b s) := by
  refine perform_canonical (fun ag s h => .bind_clean readSrc_clean fun va => .bind_clean readSrc_clean fun w =>
    .bind_clean (by simp) fun _ => ?_) h
  simp only [answers_ok]
  split <;> simpa using h

theorem execHalt_canonical {a b : Src} {s : State} (h : s.mm.Canonical) : NextCanonical (execHalt a b s) := by
  refine perform_canonical (fun ag s h => .bind_clean readSrc_clean fun va => .bind_clean readSrc_clean fun w =>
    .bind_clean (by simp) fun _ => ?_) h
  simp only [answers_ok]
  split
  · exact h
  · split <;> simpa using h

theorem execStoprec_canonical {d : Dst} {a : Src} {s : State} (h : s.mm.Canonical) : NextCanonical (execStoprec d a s) := by
  refine perform_canonical (fun ag s h => .bind_clean readSrc_clean fun v => .bind_clean (by simp) fun _ => ?_) h
  split
  · simpa using h
  split
  · trivial
  · simpa using h

theorem execCctl_canonical {a b : Src} {s : State} (h : s.mm.Canonical) : NextCanonical (execCctl a b s) := by
  refine perform_canonical (fun ag s h => .bind_clean readSrc_clean fun v => .bind_clean readSrc_clean fun w =>
    .bind_clean (by simp) fun _ => ?_) h
  split
  · exact flushQuad_canonical h
  split
  · exact foldSectors_canonical (fun _ _ => cleanBasin_canonical) _ h
  · exact homeFence_answers h

theorem execPset_canonical {a b : Src} {s : State} (h : s.mm.Canonical) : NextCanonical (execPset a b s) := by
  refine perform_canonical (fun ag s h => .bind_clean readSrc_clean fun v => .bind_clean readSrc_clean fun w =>
    .bind_clean (by simp) fun _ => (drained_answers h).bind fun t ht => ?_) h
  simp only [answers_ok]
  split
  · exact ht
  · exact ite_canonical (ite_canonical ht (by simpa using ht)) (ite_canonical ht (writeRegion_canonical ht))

/-! ### Of packets (Machine/Packet) -/

theorem execPacketRead_canonical {i : Fin 16} {s : State} (h : s.mm.Canonical) : NextCanonical (execPacketRead i s) := by
  unfold execPacketRead
  extract_lets x ah
  split
  · exact h
  split
  · exact h
  split
  · exact h
  split
  · split
    · exact h
    · have h1 := (readHalf_answers h).ok ‹_›
      split <;> simpa using h1
  · split
    · exact h
    · have h1 := (readPacket_answers h).ok ‹_›
      split <;> simpa using h1

theorem execPktNop_canonical {s : State} (h : s.mm.Canonical) : NextCanonical (execPktNop s) :=
  packetForm_canonical (fun _ _ _ => packetDone_canonical) h

theorem execPktIbcall_canonical {s : State} (h : s.mm.Canonical) : NextCanonical (execPktIbcall s) :=
  packetForm_canonical (fun _ _ _ h => ite_canonical (queueFault_canonical h) (moveOn_canonical h)) h

theorem execPktPred_canonical {s : State} (h : s.mm.Canonical) : NextCanonical (execPktPred s) := by
  refine packetForm_canonical (fun i p s h => ?_) h
  split
  · exact pktStop_canonical h
  · have h1 := (pktWord_answers h).ok ‹_›
    exact ite_canonical (packetDone_canonical h1) (skipPackets_canonical h1)

theorem execPktLoop_canonical {s : State} (h : s.mm.Canonical) : NextCanonical (execPktLoop s) :=
  packetForm_canonical (fun _ _ _ h => ite_canonical (queueFault_canonical h)
    (ite_canonical (skipPackets_canonical h) (moveOn_canonical h))) h

theorem execPktFfence_canonical {s : State} (h : s.mm.Canonical) : NextCanonical (execPktFfence s) :=
  packetForm_canonical (fun _ _ _ => moveOn_canonical) h

theorem execPktSignal_canonical {s : State} (h : s.mm.Canonical) : NextCanonical (execPktSignal s) := by
  refine packetForm_canonical (fun i p s h => ?_) h
  split
  · exact pktStop_canonical h
  · exact packetDone_canonical ((signal_answers h).ok ‹_›)

theorem execPktWaitmem_canonical {s : State} (h : s.mm.Canonical) : NextCanonical (execPktWaitmem s) := by
  refine packetForm_canonical (fun i p s h => ?_) h
  have hw := waitmemHolds_answers (i := i) (p := p) h
  split
  · exact pktStop_canonical h
  · exact packetDone_canonical (hw.ok ‹_›)
  · rename_i sec s1 heq
    extract_lets s2
    have h2 : s2.mm.Canonical := by simpa [s2] using hw.ok heq
    exact ite_canonical h2 (leaveRunning_canonical h2)

theorem execLevelGraph_canonical {s : State} (h : s.mm.Canonical) : NextCanonical (execLevelGraph s) :=
  packetForm_canonical (fun _ _ _ h => packetDone_canonical (closeGraph_canonical h)) h

theorem execLevelPhase_canonical {s : State} (h : s.mm.Canonical) : NextCanonical (execLevelPhase s) :=
  packetForm_canonical (fun _ _ _ h => packetDone_canonical (closePhase_canonical (closeGraph_canonical h))) h

theorem execLevelJob_canonical {s : State} (h : s.mm.Canonical) : NextCanonical (execLevelJob s) := by
  refine packetForm_canonical (fun i p s h => ?_) h
  have h1 := closePhase_canonical (i := i) (pol := pktPol p) (closeGraph_canonical (i := i) (pol := (s.slots.get i).q.gpol) h)
  exact packetDone_canonical (setJob_canonical (by simpa using h1))

theorem execLevelCancel_canonical {s : State} (h : s.mm.Canonical) : NextCanonical (execLevelCancel s) :=
  packetForm_canonical (fun _ _ _ h => packetDone_canonical (cancelLevel_canonical h)) h

theorem execPktDispatch_canonical {s : State} (h : s.mm.Canonical) : NextCanonical (execPktDispatch s) :=
  packetForm_canonical (fun _ _ _ h => dispatch_canonical (by simpa using h)) h

theorem execPktDelta_canonical {s : State} (h : s.mm.Canonical) : NextCanonical (execPktDelta s) :=
  packetForm_canonical (fun _ _ _ h => dispatch_canonical (by simpa using h)) h

/-! ### Of time events (Machine/EvTime) -/

theorem execPromiseDue_canonical {a : Agent} {s : State} (h : s.mm.Canonical) : NextCanonical (execPromiseDue a s) := by
  fun_cases execPromiseDue a s <;> simp [h]

theorem execMonitorFire_canonical {sector : Nat} {s : State} (h : s.mm.Canonical) :
    NextCanonical (execMonitorFire sector s) := by
  have h1 := ite_canonical (c := s.md.req.on = true) (evict_canonical (sector := sector) h) h
  exact foldl_canonical (fun _ _ => fireOne_canonical) _ (by simpa using h1)

theorem execParkDeadline_canonical {a : Agent} {s : State} (h : s.mm.Canonical) : NextCanonical (execParkDeadline a s) := by
  fun_cases execParkDeadline a s <;> simp [h]

theorem execRegionBufferDrain_canonical {a : Agent} {s : State} (h : s.mm.Canonical) :
    NextCanonical (execRegionBufferDrain a s) := by simp [execRegionBufferDrain, h]

theorem execLongLatencyCompletion_canonical {a : Agent} {s : State} (h : s.mm.Canonical) :
    NextCanonical (execLongLatencyCompletion a s) := by simp [execLongLatencyCompletion, h]

theorem execCacheMaintenanceComplete_canonical {a : Agent} {s : State} (h : s.mm.Canonical) :
    NextCanonical (execCacheMaintenanceComplete a s) := by
  fun_cases execCacheMaintenanceComplete a s <;> simp [h]

theorem execWalkMonitorFire_canonical {sector : Nat} {s : State} (h : s.mm.Canonical) :
    NextCanonical (execWalkMonitorFire sector s) := by
  refine foldl_canonical (fun s m h => ?_) _ (by simpa using h)
  split
  · exact answerPage_canonical h
  all_goals exact h

theorem execPageRequestResponse_canonical {s : State} (h : s.mm.Canonical) : NextCanonical (execPageRequestResponse s) := by
  fun_cases execPageRequestResponse s <;> simp [h]

theorem execGranq0Read_canonical {s : State} (h : s.mm.Canonical) :
    NextCanonical (execGranq0Read s) := by simp [execGranq0Read, h]

theorem execGranrespWalkAgain_canonical {s : State} (h : s.mm.Canonical) :
    NextCanonical (execGranrespWalkAgain s) := by simp [execGranrespWalkAgain, h]

theorem execGranrespRefuse_canonical {s : State} (h : s.mm.Canonical) :
    NextCanonical (execGranrespRefuse s) := by simp [execGranrespRefuse, h]

theorem execAtsInvalidation_canonical {s : State} (h : s.mm.Canonical) :
    NextCanonical (execAtsInvalidation s) := by simp [execAtsInvalidation, h]

/-! ### Of local time (Machine/LocalTime) -/

theorem execClockAnnouncement_canonical {m : Mailed (Fin 64)} {c : Fin 4} {ch : Fin 8} {v : Word} {s : State}
    (h : s.mm.Canonical) : NextCanonical (execClockAnnouncement m c ch v s) :=
  arrive_canonical (fun _ h => by simpa using h) h

theorem execNullEvent_canonical {m : Mailed (Fin 64)} {c : Fin 4} {ch : Fin 8} {v : Word} {s : State}
    (h : s.mm.Canonical) : NextCanonical (execNullEvent m c ch v s) :=
  arrive_canonical (fun _ h => by simpa using h) h

theorem execEventStart_canonical {q : Fin 64} {c : Fin 4} {s : State} (h : s.mm.Canonical) :
    NextCanonical (execEventStart q c s) := by
  fun_cases execEventStart q c s <;> simp +zetaDelta -implicitDefEqProofs [h]

theorem execNullRound_canonical {q : Fin 64} {c : Fin 4} {s : State} (h : s.mm.Canonical) :
    NextCanonical (execNullRound q c s) := by
  fun_cases execNullRound q c s <;> simp +zetaDelta -implicitDefEqProofs [h]

theorem execVtget_canonical {d : Dst} {s : State} (h : s.mm.Canonical) :
    NextCanonical (execVtget d s) := perform_canonical (fun ag s h => by simp [h]) h

theorem execVtset_canonical {d : Dst} {a : Src} {s : State} (h : s.mm.Canonical) :
    NextCanonical (execVtset d a s) := perform_canonical (fun ag s h => by simp [h]) h

theorem execAnnounce_canonical {a : Src} {s : State} (h : s.mm.Canonical) :
    NextCanonical (execAnnounce a s) := perform_canonical (fun ag s h => by simp [h]) h

theorem execSendt_canonical {a b : Src} {s : State} (h : s.mm.Canonical) : NextCanonical (execSendt a b s) := by
  refine perform_canonical (fun ag s h => answered_answers (fun _ => answers_ok.mpr h) ?_) h
  refine .bind_clean readSrc_clean fun j => .bind_clean needLtm_clean fun _ => ?_
  extract_lets qc lt ch
  split
  · trivial
  · exact .bind_clean readSrc_clean fun _ => .bind_clean (by simp) fun _ => .bind_clean readSrc_clean fun _ =>
      .bind_clean (by simp) fun _ => .bind_clean readSrc_clean fun _ => .bind_clean readSrc_clean fun _ =>
      .bind_clean readSrc_clean fun _ => sendEvent_answers h

/-! ### Of messages (Machine/Msg) -/

theorem execSpark_canonical {a b : Src} {s : State} (h : s.mm.Canonical) : NextCanonical (execSpark a b s) := by
  refine perform_canonical (fun ag s h => answered_answers (fun _ => answers_ok.mpr h) ?_) h
  refine .bind_clean readSrc_clean fun _ => .bind_clean readSrc_clean fun _ => .bind_clean readSrc_clean fun _ =>
    .bind_clean readSrc_clean fun _ => .bind_clean readSrc_clean fun _ => .bind_clean targetCore_clean fun _ =>
    .bind_clean (by simp) fun _ => ?_
  extract_lets qc
  split
  · exact .bind_clean (by simp) fun _ => sendEvent_answers h
  · exact sendOrHold_answers (fun _ ht => by simpa using ht) h

theorem execFrame_canonical {d : Dst} {a b : Src} {s : State} (h : s.mm.Canonical) : NextCanonical (execFrame d a b s) := by
  refine perform_canonical (fun ag s h => answered_answers (fun x => ?_) ?_) h
  · cases x <;> simpa using h
  · exact .bind_clean readSrc_clean fun _ => .bind_clean readSrc_clean fun _ => .bind_clean (by simp) fun _ =>
      .bind_clean (by simp) fun _ => .bind_clean targetCore_clean fun _ => .bind_clean (by simp) fun _ =>
      (drained_answers h).bind fun _ ht => by simpa using ht

theorem execSend_canonical {reg : Fin 16} {a b : Src} {s : State} (h : s.mm.Canonical) :
    NextCanonical (execSend reg a b s) := by
  refine perform_canonical (fun ag s h => answered_answers (fun x => ?_) ?_) h
  · split
    · exact holdSend_answers h
    · exact h
  · refine .bind_clean readSrc_clean fun _ => .bind_clean readSrc_clean fun _ => .bind_clean (by simp) fun _ =>
      .bind_clean targetCore_clean fun _ => .bind_clean (by simp) fun _ => ?_
    extract_lets -underBinder afterwards
    have ha : ∀ t : State, t.mm.Canonical → Answers (fun t => t.mm.Canonical) (afterwards t) := fun t ht => by
      simpa [afterwards] using ht
    split
    · exact ha _ h
    · exact (drained_answers h).bind ha

theorem execExit_canonical {s : State} (h : s.mm.Canonical) : NextCanonical (execExit s) := by
  refine performJump_canonical (fun ag s h => ?_) h
  cases ag with
  | strand => exact (drained_answers h).bind fun _ ht => by simpa using exitFaults_canonical ht
  | hart | weir | cmd | sec => exact h

theorem execMigrAddr_canonical {d : Dst} {a : Src} {s : State} (h : s.mm.Canonical) : NextCanonical (execMigrAddr d a s) :=
  performJump_canonical (migrForm_keeps fun _ _ _ h => (resolve_answers h).bind fun _ hr => answers_ok.mpr hr) h

theorem execMigrTile_canonical {d : Dst} {a : Src} {s : State} (h : s.mm.Canonical) :
    NextCanonical (execMigrTile d a s) := by
  refine performJump_canonical (migrForm_keeps fun v s ag h => .bind_clean (by simp) fun _ => ?_) h
  extract_lets hd l own
  split
  · trivial
  · exact h

theorem execMigrQuery_canonical {m : Mailed StrandId} {quad : Fin 64} {s : State} (h : s.mm.Canonical) :
    NextCanonical (execMigrQuery m quad s) :=
  arrive_canonical (fun _ h => ite_canonical (by simpa using h) h) h

theorem execMigrQueryAnswer_canonical {m : Mailed StrandId} {s : State} (h : s.mm.Canonical) :
    NextCanonical (execMigrQueryAnswer m s) :=
  arrive_canonical (fun _ h => ite_canonical (by simpa using h) h) h

theorem execCreationMessage_canonical {m : CreMsg} {s : State} (h : s.mm.Canonical) :
    NextCanonical (execCreationMessage m s) :=
  arrive_canonical (fun _ h => by simpa using h) h

theorem execContextScrubComplete_canonical {q : Fin 64} {c : Fin 4} {s : State} (h : s.mm.Canonical) :
    NextCanonical (execContextScrubComplete q c s) := by
  fun_cases execContextScrubComplete q c s <;> simp +zetaDelta -implicitDefEqProofs [h]

theorem execContextFreeNotice_canonical {m : Mailed (Fin 64)} {c : Fin 4} {s : State} (h : s.mm.Canonical) :
    NextCanonical (execContextFreeNotice m c s) :=
  arrive_canonical (fun _ h => by simpa using h) h

theorem execResendTimeout_canonical {q : Fin 64} {c : Fin 4} {s : State} (h : s.mm.Canonical) :
    NextCanonical (execResendTimeout q c s) := by
  fun_cases execResendTimeout q c s <;> simp [h]

theorem execRefusalRelease_canonical {m : Mailed (Fin 64)} {c : Fin 4} {s : State} (h : s.mm.Canonical) :
    NextCanonical (execRefusalRelease m c s) :=
  arrive_canonical (fun _ h => by simpa using h) h

theorem execRefusedResend_canonical {q : Fin 64} {c : Fin 4} {s : State} (h : s.mm.Canonical) :
    NextCanonical (execRefusedResend q c s) := by
  fun_cases execRefusedResend q c s <;> simp [h]

theorem execMigrationImage_canonical {m : MigrMsg} {s : State} (h : s.mm.Canonical) :
    NextCanonical (execMigrationImage m s) :=
  arrive_canonical (fun _ h => by simpa using h) h

theorem execStampedEvent_canonical {m : CreMsg} {s : State} (h : s.mm.Canonical) : NextCanonical (execStampedEvent m s) :=
  arrive_canonical (fun _ h => by simpa using h) h

theorem execDeposit_canonical {m : DepMsg} {s : State} (h : s.mm.Canonical) : NextCanonical (execDeposit m s) :=
  arrive_canonical (fun _ h => by simpa using h) h

theorem execTargetAnswer_canonical {m : Mailed Sender} {ans : Answer} {s : State} (h : s.mm.Canonical) :
    NextCanonical (execTargetAnswer m ans s) :=
  arrive_canonical (fun _ => takeAnswer_canonical) h

theorem execCoreSelect_canonical {q : Fin 64} {c : Fin 4} {s : State} (h : s.mm.Canonical) :
    NextCanonical (execCoreSelect q c s) := by
  fun_cases execCoreSelect q c s <;> simp +zetaDelta -implicitDefEqProofs [h]

/-! ### Of fault events (Machine/EvFault) -/

theorem execEngineStop_canonical {e : Engine} {s : State} (h : s.mm.Canonical) : NextCanonical (execEngineStop e s) :=
  foldl_canonical (fun _ _ => stopEngine_canonical) _ h

theorem execHaltctlHoldSet_canonical {q : Fin 64} {s : State} (h : s.mm.Canonical) :
    NextCanonical (execHaltctlHoldSet q s) := by simp [execHaltctlHoldSet, h]

theorem execHaltctlHoldClear_canonical {q : Fin 64} {s : State} (h : s.mm.Canonical) :
    NextCanonical (execHaltctlHoldClear q s) := by simp [execHaltctlHoldClear, h]

theorem execContainmentWalk_canonical {p : Fin 64} {s : State} (h : s.mm.Canonical) :
    NextCanonical (execContainmentWalk p s) := by
  simp only [execContainmentWalk]
  (repeat' split) <;> simp -implicitDefEqProofs [*]

theorem execChlaWrite_canonical {q : Fin 64} {c : Fin 4} {ch : Fin 8} {v : Word} {s : State} (h : s.mm.Canonical) :
    NextCanonical (execChlaWrite q c ch v s) := by simp [execChlaWrite, h]

theorem execDebugResume_canonical {a : Agent} {s : State} (h : s.mm.Canonical) : NextCanonical (execDebugResume a s) := by
  fun_cases execDebugResume a s <;> simp [h]

/-! ### Of launches (Machine/Launch) -/

theorem execLaunchDistribution_canonical {l : LaunchId} {s : State} (h : s.mm.Canonical) :
    NextCanonical (execLaunchDistribution l s) := by
  fun_cases execLaunchDistribution l s <;> simp +zetaDelta -implicitDefEqProofs [h]

theorem execLaunchComplete_canonical {l : LaunchId} {s : State} (h : s.mm.Canonical) :
    NextCanonical (execLaunchComplete l s) := by
  simp only [execLaunchComplete]
  (repeat' split) <;> simp -implicitDefEqProofs [*]

/-! ### Of queue events (Machine/EvQueue) -/

theorem execKick_canonical {queue : Fin 4096} {v : BitVec 32} {s : State} (h : s.mm.Canonical) :
    NextCanonical (execKick queue v s) := by simp [execKick, h]

theorem execCancelGraph_canonical {queue : Fin 4096} {s : State} (h : s.mm.Canonical) :
    NextCanonical (execCancelGraph queue s) := by simp [execCancelGraph, h]

theorem execCancelPhase_canonical {queue : Fin 4096} {s : State} (h : s.mm.Canonical) :
    NextCanonical (execCancelPhase queue s) := by simp [execCancelPhase, h]

theorem execCancelJob_canonical {queue : Fin 4096} {s : State} (h : s.mm.Canonical) :
    NextCanonical (execCancelJob queue s) := by simp [execCancelJob, h]

theorem execSctlMap_canonical {slot : Fin 16} {queue : Fin 4096} {s : State} (h : s.mm.Canonical) :
    NextCanonical (execSctlMap slot queue s) := by simp [execSctlMap, h]

theorem execSctlUnmap_canonical {slot : Fin 16} {s : State} (h : s.mm.Canonical) :
    NextCanonical (execSctlUnmap slot s) := by simp [execSctlUnmap, h]

theorem execUnmapComplete_canonical {slot : Fin 16} {s : State} (h : s.mm.Canonical) :
    NextCanonical (execUnmapComplete slot s) := by simp [execUnmapComplete, h]

theorem execSctlReset_canonical {slot : Fin 16} {s : State} (h : s.mm.Canonical) :
    NextCanonical (execSctlReset slot s) := by simp [execSctlReset, h]

theorem execQueueResetComplete_canonical {slot : Fin 16} {s : State} (h : s.mm.Canonical) :
    NextCanonical (execQueueResetComplete slot s) := by
  unfold execQueueResetComplete
  extract_lets x
  have hf := homeFence_answers (p := x.part) h
  split
  · exact h
  split
  · exact finishReset_canonical (hf.ok ‹_›)
  · exact hf.error ‹_›
  · exact h

theorem execSlotSelection_canonical {s : State} (h : s.mm.Canonical) :
    NextCanonical (execSlotSelection s) := by simp [execSlotSelection, h]

theorem execAgeingInterval_canonical {slot : Fin 16} {s : State} (h : s.mm.Canonical) :
    NextCanonical (execAgeingInterval slot s) := by
  fun_cases execAgeingInterval slot s <;> simp [h]

theorem execQuantumExpiry_canonical {slot : Fin 16} {s : State} (h : s.mm.Canonical) :
    NextCanonical (execQuantumExpiry slot s) := by
  fun_cases execQuantumExpiry slot s <;> simp -implicitDefEqProofs [h]

/-! ### Of saving and restoring (Machine/EvSave) -/

theorem execPreemptionDeadline_canonical {slot : Fin 16} {s : State} (h : s.mm.Canonical) :
    NextCanonical (execPreemptionDeadline slot s) := by
  fun_cases execPreemptionDeadline slot s <;> simp +zetaDelta -implicitDefEqProofs [h]

theorem execSaveComplete_canonical {slot : Fin 16} {s : State} (h : s.mm.Canonical) :
    NextCanonical (execSaveComplete slot s) := by
  unfold execSaveComplete
  extract_lets x s0 s1 rs s2
  have h0 : s0.mm.Canonical := drainQueue_canonical h
  clear_value s0
  have h1 : s1.mm.Canonical := by simpa [s1] using h0
  clear_value s1
  have h2 : s2.mm.Canonical := cancelAllReq_canonical h1
  clear_value s2
  split
  · exact h
  split
  · exact h0
  split
  · exact h2
  split
  · simpa using h2
  · exact writeSave_canonical h2

theorem execRestore_canonical {slot : Fin 16} {s : State} (h : s.mm.Canonical) : NextCanonical (execRestore slot s) := by
  fun_cases execRestore slot s <;> simp +zetaDelta -implicitDefEqProofs [h]

/-! ### Of host events (Machine/EvHost) -/

theorem execBiascmdGo_canonical {granule : BitVec 36} {target : Bool} {s : State} (h : s.mm.Canonical) :
    NextCanonical (execBiascmdGo granule target s) := by simp [execBiascmdGo, h]

theorem execBiasFlipComplete_canonical {granule : BitVec 36} {target : Bool} {s : State} (h : s.mm.Canonical) :
    NextCanonical (execBiasFlipComplete granule target s) := by
  fun_cases execBiasFlipComplete granule target s <;> simp +zetaDelta -implicitDefEqProofs [h]

theorem execHostCxlMemRequest_canonical {s : State} (h : s.mm.Canonical) : NextCanonical (execHostCxlMemRequest s) := by
  unfold execHostCxlMemRequest
  extract_lets -underBinder r n answer _ g s1 s2 poison
  have hans : ∀ bs t, t.mm.Canonical → (answer bs t).mm.Canonical := fun _ _ ht => ht
  have h1 : s1.mm.Canonical := ite_canonical (flip_canonical h) h
  have h2 : s2.mm.Canonical := foldSectors_canonical (fun _ _ => l1Back_canonical) _ h1
  clear_value answer poison s2
  split
  · exact hans _ _ h
  split
  · exact h
  split
  · split
    · exact hans _ _ h2
    · exact serveRmw_canonical h2
  split
  · exact hans _ _ (hostHolds_canonical (writePhys_canonical h2))
  split
  · exact hans _ _ h2
  · exact hans _ _ (hostHolds_canonical h2)

theorem execHostSnoop_canonical {s : State} (h : s.mm.Canonical) : NextCanonical (execHostSnoop s) := by
  unfold execHostSnoop
  extract_lets x r s1 _ s2 s3
  have h1 : s1.mm.Canonical := l1Back_canonical h
  have h2 : s2.mm.Canonical := h1
  clear_value s2
  split
  · exact h
  split
  · exact putLine_canonical (arrBack_canonical (writePhys_canonical h2))
  have hb := arrBack_canonical (x := x) h2
  split
  · exact nextCanonical_next.mpr (by simpa using putLine_canonical hb)
  · exact putLine_canonical hb

theorem execDrowsyEntry_canonical {q : Fin 64} {s : State} (h : s.mm.Canonical) : NextCanonical (execDrowsyEntry q s) := by
  fun_cases execDrowsyEntry q s <;> simp [h]

theorem execDrowsyWake_canonical {q : Fin 64} {s : State} (h : s.mm.Canonical) : NextCanonical (execDrowsyWake q s) := by
  unfold execDrowsyWake
  extract_lets x
  split
  · exact h
  split
  · exact h
  · simpa [makeRoom_mm ‹_›] using h

theorem execClockStep_canonical {s : State} (h : s.mm.Canonical) : NextCanonical (execClockStep s) := by
  fun_cases execClockStep s <;> simp [h]

theorem execEvlogRead_canonical {s : State} (h : s.mm.Canonical) :
    NextCanonical (execEvlogRead s) := by simp [execEvlogRead, h]

theorem execRegisterWrite_canonical {s : State} (h : s.mm.Canonical) : NextCanonical (execRegisterWrite s) := by
  unfold execRegisterWrite
  (repeat' split) <;> simp -implicitDefEqProofs [*]

/-! ### Of partitions (Machine/EvPart) -/

theorem execLockInterface_canonical {s : State} (h : s.mm.Canonical) : NextCanonical (execLockInterface s) := by
  unfold execLockInterface
  split
  · exact h
  split
  · exact h
  split
  · exact h
  · extract_lets a b c own mem s1 s2 f _ s3 s4
    have h1 : s1.mm.Canonical := by simpa [s1, a, b, c] using h
    clear_value s1
    have h2 : s2.mm.Canonical := zeroGranules_canonical (retireKey_canonical h1)
    clear_value s2
    have h4 : s4.mm.Canonical := h2
    simpa using h4

theorem execStartInterface_canonical {s : State} (h : s.mm.Canonical) : NextCanonical (execStartInterface s) := by
  fun_cases execStartInterface s <;> simp [h]

theorem execStopInterface_canonical {s : State} (h : s.mm.Canonical) : NextCanonical (execStopInterface s) := by
  fun_cases execStopInterface s <;> simp [h]

theorem execReleaseSequenceComplete_canonical {part : Fin 64} {s : State} (h : s.mm.Canonical) :
    NextCanonical (execReleaseSequenceComplete part s) := by
  unfold execReleaseSequenceComplete
  extract_lets x qs
  split
  · exact h
  split
  · simpa using h
  split
  · exact h
  · exact releaseMemory_canonical (foldl_canonical (fun _ _ => releaseQuad_canonical) _ h)

theorem execIdeIntegrityFailure_canonical {s : State} (h : s.mm.Canonical) :
    NextCanonical (execIdeIntegrityFailure s) := by simp [execIdeIntegrityFailure, h]

/-! ### Of management requests (Machine/EvSpdm) -/

theorem execGetVersion_canonical {s : State} (h : s.mm.Canonical) :
    NextCanonical (execGetVersion s) := by simp [execGetVersion, h]

theorem execGetCapabilities_canonical {s : State} (h : s.mm.Canonical) :
    NextCanonical (execGetCapabilities s) := by simp [execGetCapabilities, h]

theorem execNegotiateAlgorithms_canonical {s : State} (h : s.mm.Canonical) :
    NextCanonical (execNegotiateAlgorithms s) := by simp [execNegotiateAlgorithms, h]

theorem execGetDigests_canonical {s : State} (h : s.mm.Canonical) :
    NextCanonical (execGetDigests s) := by simp [execGetDigests, h]

theorem execGetCertificate_canonical {s : State} (h : s.mm.Canonical) : NextCanonical (execGetCertificate s) := by
  fun_cases execGetCertificate s <;> simp [h]

theorem execChallenge_canonical {s : State} (h : s.mm.Canonical) :
    NextCanonical (execChallenge s) := by simp [execChallenge, h]

theorem execGetMeasurements_canonical {s : State} (h : s.mm.Canonical) :
    NextCanonical (execGetMeasurements s) := by simp [execGetMeasurements, h]

theorem execSetCertificate_canonical {s : State} (h : s.mm.Canonical) : NextCanonical (execSetCertificate s) := by
  fun_cases execSetCertificate s <;> simp [h]

theorem execCertRewriteTimeout_canonical {s : State} (h : s.mm.Canonical) : NextCanonical (execCertRewriteTimeout s) := by
  fun_cases execCertRewriteTimeout s <;> simp [h]

theorem execKeyExchange_canonical {s : State} (h : s.mm.Canonical) : NextCanonical (execKeyExchange s) := by
  unfold execKeyExchange
  split
  · simpa using h
  · simpa [sign_mm ‹_›] using h

theorem execFinish_canonical {s : State} (h : s.mm.Canonical) : NextCanonical (execFinish s) := by simp [execFinish, h]

theorem execHeartbeat_canonical {s : State} (h : s.mm.Canonical) :
    NextCanonical (execHeartbeat s) := by simp [execHeartbeat, h]

theorem execKeyUpdate_canonical {s : State} (h : s.mm.Canonical) :
    NextCanonical (execKeyUpdate s) := by simp [execKeyUpdate, h]

theorem execEndSession_canonical {s : State} (h : s.mm.Canonical) :
    NextCanonical (execEndSession s) := by simp [execEndSession, h]

theorem execSetCopyKey_canonical {s : State} (h : s.mm.Canonical) : NextCanonical (execSetCopyKey s) := by
  fun_cases execSetCopyKey s <;> simp [h]

theorem execSetDebugConsent_canonical {s : State} (h : s.mm.Canonical) : NextCanonical (execSetDebugConsent s) := by
  fun_cases execSetDebugConsent s <;> simp [h]

theorem execIdeKeyManagement_canonical {s : State} (h : s.mm.Canonical) : NextCanonical (execIdeKeyManagement s) := by
  fun_cases execIdeKeyManagement s <;> simp [h]

theorem execStageUpdate_canonical {s : State} (h : s.mm.Canonical) : NextCanonical (execStageUpdate s) := by
  fun_cases execStageUpdate s <;> simp [h]

theorem execActivationRequest_canonical {s : State} (h : s.mm.Canonical) : NextCanonical (execActivationRequest s) := by
  fun_cases execActivationRequest s <;> simp [h]

theorem execAcknowledgeStaged_canonical {s : State} (h : s.mm.Canonical) : NextCanonical (execAcknowledgeStaged s) := by
  fun_cases execAcknowledgeStaged s <;> simp [h]

theorem execLiveUpdateTakeover_canonical {s : State} (h : s.mm.Canonical) : NextCanonical (execLiveUpdateTakeover s) := by
  fun_cases execLiveUpdateTakeover s <;> simp +zetaDelta -implicitDefEqProofs [h]

theorem execStandbyFailure_canonical {s : State} (h : s.mm.Canonical) : NextCanonical (execStandbyFailure s) := by
  fun_cases execStandbyFailure s <;> simp [h]

theorem execCommandComplexFailure_canonical {s : State} (h : s.mm.Canonical) :
    NextCanonical (execCommandComplexFailure s) := by
  fun_cases execCommandComplexFailure s <;> simp [h]

/-! ### Of resets (Machine/EvReset) -/

theorem execColdReset_canonical {s : State} (h : s.mm.Canonical) :
    NextCanonical (execColdReset s) := by simp [execColdReset, h]

theorem execWarmReset_canonical {s : State} (h : s.mm.Canonical) :
    NextCanonical (execWarmReset s) := by simp [execWarmReset, h]

theorem execLinkReset_canonical {s : State} (h : s.mm.Canonical) :
    NextCanonical (execLinkReset s) := by simp [execLinkReset, h]

/-! ### Of scalar forms (Machine/Scalar) -/

theorem execLui_canonical {d : Dst} {imm : BitVec 20} {s : State} (h : s.mm.Canonical) :
    NextCanonical (execLui d imm s) := perform_canonical (fun ag s h => by simp [h]) h

theorem execAuipc_canonical {d : Dst} {imm : BitVec 20} {s : State} (h : s.mm.Canonical) :
    NextCanonical (execAuipc d imm s) := perform_canonical (fun ag s h => by simp [h]) h

theorem execFplSqrt_canonical {d : Dst} {a : Src} {la : Fin 16} {s : State} (h : s.mm.Canonical) :
    NextCanonical (execFplSqrt d a la s) := perform_canonical (fun ag s h => by simp [h]) h

theorem execFplFma_canonical {d : Fin 16} {a b : Src} {la : Fin 16} {s : State} (h : s.mm.Canonical) :
    NextCanonical (execFplFma d a b la s) := perform_canonical (fun ag s h => by simp [h]) h

end Sys2Proof.Machine
end

section
namespace Sys2Proof.Machine
open Sys2Proof.Safety

/-! ## Every step keeps the memories canonical (R2, R126) -/

/-- Whatever row of the opcode table is performed, the memories stay canonical. -/
theorem exec_canonical {i : Instr} {s : State} (h : s.mm.Canonical) : NextCanonical (exec i s) := by
  unfold exec
  cases i with
  | aluAdd | aluSub | aluAnd | aluOr | aluXor | aluSll | aluSrl | aluSra | aluSlt | aluSltu | aluMin | aluMax
  | aluMinu | aluMaxu | bitsIns => exact perform_canonical alu2_keeps h
  | addi | andi | ori | xori | shiSll | shiSrl | shiSra | cmpi | bitsExt | bitsExtu =>
    exact perform_canonical alu1_keeps h
  | mulMul | mulMulh | mulMulhu | mulDiv | mulDivu | mulRem | mulRemu => exact perform_canonical long2_keeps h
  | fpuAdd | fpuSub | fpuMul | fpuMin | fpuMax | fpuEq | fpuLt | fpuLe => exact perform_canonical fpuForm2_keeps h
  | fpuCvts | fpuCvtf => exact perform_canonical fpuForm1_keeps h
  | fplDiv => exact perform_canonical fplForm2_keeps h
  | amoAdd | amoAnd | amoOr | amoXor | amoMin | amoMax | amoMinu | amoMaxu | amoSwap =>
    exact perform_canonical amoForm_keeps h
  | wAdd | wSub | wRsub | wMul | wMac | wMin | wMax | wAnd | wOr | wXor | wAndn | wShl | wShr | wMov | wAbs | wNeg
  | wFma | wSel | l16Add | l16Sub | l16Rsub | l16Mul | l16Mac | l16Min | l16Max | l16And | l16Or | l16Xor | l16Andn
  | l16Shl | l16Shr | l16Mov | l16Abs | l16Neg | wmathExp2 | wmathLog2 | wmathRecip | wmathRsqrt | wmathTanh
  | wmathRsum | wmathRmax | wmathScan | wmathPerm | wmaskEq | wmaskLt | wmaskLe | wmaskAnd | wmaskOr | wmaskXor
  | wmoveBcast | wmoveExt | wmoveTrld | wmoveTrst | wmoveMpop | wcvtUp | wcvtDown | wcvtDownsat | wcvtToint
  | wcvtFromint | wsampTopk | wsampCbg | wsampDraw | wsampPick => exact performEasel_canonical (laneForm_keeps _) h
  | cload | cpass | cdrain | czero | canvasxLoad | canvasxPass => exact performEasel_canonical (canvasForm_keeps _) h
  | cpyIn | cpyOut | gath | scat | coll | weir =>
    exact perform_canonical (fun _ _ => bodyEng_answers) h
  | lui => exact execLui_canonical h
  | auipc => exact execAuipc_canonical h
  | fplSqrt => exact execFplSqrt_canonical h
  | fplFma => exact execFplFma_canonical h
  | br => exact execBr_canonical h
  | jalCall => exact execJalCall_canonical h
  | jalJump => exact execJalJump_canonical h
  | jrJump => exact execJrJump_canonical h
  | jrCall => exact execJrCall_canonical h
  | loopSet => exact execLoopSet_canonical h
  | gets => exact execGets_canonical h
  | sets => exact execSets_canonical h
  | trap => exact execTrap_canonical h
  | brk => exact execBrk_canonical h
  | sysc => exact execSysc_canonical h
  | yieldPt => exact execYieldPt_canonical h
  | ld => exact execLd_canonical h
  | st => exact execSt_canonical h
  | amoCas => exact execAmoCas_canonical h
  | waita => exact execWaita_canonical h
  | waitp => exact execWaitp_canonical h
  | park => exact execPark_canonical h
  | flushr => exact perform_canonical (maintainForm_keeps fun _ _ _ => flushSector_canonical) h
  | invr => exact perform_canonical (maintainForm_keeps fun ag x s h => by cases ag <;> simp [h]) h
  | pref => exact execPref_canonical h
  | fence => exact execFence_canonical h
  | spark => exact execSpark_canonical h
  | frame => exact execFrame_canonical h
  | migrAddr => exact execMigrAddr_canonical h
  | migrTile => exact execMigrTile_canonical h
  | send => exact execSend_canonical h
  | vtget => exact execVtget_canonical h
  | vtset => exact execVtset_canonical h
  | announce => exact execAnnounce_canonical h
  | sendt => exact execSendt_canonical h
  | talloc => exact perform_canonical (fun _ _ => bodyTalloc_answers) h
  | tfree => exact perform_canonical (fun _ _ => bodyTfree_answers) h
  | tld => exact perform_canonical (fun _ _ => bodyTld_answers) h
  | tst => exact perform_canonical (fun _ _ => bodyTst_answers) h
  | tzero => exact perform_canonical (fun _ _ => bodyTzero_answers) h
  | barm => exact execBarm_canonical h
  | barrClaim => exact execBarrClaim_canonical h
  | bwait => exact execBwait_canonical h
  | engxDmard => exact execEngxDmard_canonical h
  | engxDmawr => exact execEngxDmawr_canonical h
  | engxMbox => exact execEngxMbox_canonical h
  | engxGcmkey => exact execEngxGcmkey_canonical h
  | engxGcmenc => exact execEngxGcmenc_canonical h
  | engxGcmdec => exact execEngxGcmdec_canonical h
  | tlbinv => exact execTlbinv_canonical h
  | genscrub => exact execGenscrub_canonical h
  | qown => exact execQown_canonical h
  | halt => exact execHalt_canonical h
  | stoprec => exact execStoprec_canonical h
  | cctl => exact execCctl_canonical h
  | pset => exact execPset_canonical h
  | creationMessage => exact execCreationMessage_canonical h
  | contextScrubComplete => exact execContextScrubComplete_canonical h
  | contextFreeNotice => exact execContextFreeNotice_canonical h
  | resendTimeout => exact execResendTimeout_canonical h
  | refusalRelease => exact execRefusalRelease_canonical h
  | refusedResend => exact execRefusedResend_canonical h
  | migrQuery => exact execMigrQuery_canonical h
  | migrQueryAnswer => exact execMigrQueryAnswer_canonical h
  | migrationImage => exact execMigrationImage_canonical h
  | targetAnswer => exact execTargetAnswer_canonical h
  | deposit => exact execDeposit_canonical h
  | coreSelect => exact execCoreSelect_canonical h
  | clockAnnouncement => exact execClockAnnouncement_canonical h
  | nullEvent => exact execNullEvent_canonical h
  | stampedEvent => exact execStampedEvent_canonical h
  | eventStart => exact execEventStart_canonical h
  | nullRound => exact execNullRound_canonical h
  | easelGrant => exact execEaselGrant_canonical h
  | easelSubunitComplete => exact execEaselSubunitComplete_canonical h
  | scoreboardEntryComplete => exact execScoreboardEntryComplete_canonical h
  | tileScrubSweepComplete => exact execTileScrubSweepComplete_canonical h
  | genscrubComplete => exact execGenscrubComplete_canonical h
  | collectiveMatch => exact execCollectiveMatch_canonical h
  | promiseDue => exact execPromiseDue_canonical h
  | monitorFire => exact execMonitorFire_canonical h
  | parkDeadline => exact execParkDeadline_canonical h
  | regionBufferDrain => exact execRegionBufferDrain_canonical h
  | walkMonitorFire => exact execWalkMonitorFire_canonical h
  | engineStop => exact execEngineStop_canonical h
  | containmentWalk => exact execContainmentWalk_canonical h
  | haltctlHoldSet => exact execHaltctlHoldSet_canonical h
  | haltctlHoldClear => exact execHaltctlHoldClear_canonical h
  | chlaWrite => exact execChlaWrite_canonical h
  | preemptionDeadline => exact execPreemptionDeadline_canonical h
  | saveComplete => exact execSaveComplete_canonical h
  | restore => exact execRestore_canonical h
  | debugResume => exact execDebugResume_canonical h
  | kick => exact execKick_canonical h
  | cancelGraph => exact execCancelGraph_canonical h
  | cancelPhase => exact execCancelPhase_canonical h
  | cancelJob => exact execCancelJob_canonical h
  | packetRead => exact execPacketRead_canonical h
  | launchDistribution => exact execLaunchDistribution_canonical h
  | launchComplete => exact execLaunchComplete_canonical h
  | ageingInterval => exact execAgeingInterval_canonical h
  | quantumExpiry => exact execQuantumExpiry_canonical h
  | sctlMap => exact execSctlMap_canonical h
  | sctlUnmap => exact execSctlUnmap_canonical h
  | unmapComplete => exact execUnmapComplete_canonical h
  | sctlReset => exact execSctlReset_canonical h
  | queueResetComplete => exact execQueueResetComplete_canonical h
  | biascmdGo => exact execBiascmdGo_canonical h
  | biasFlipComplete => exact execBiasFlipComplete_canonical h
  | releaseSequenceComplete => exact execReleaseSequenceComplete_canonical h
  | drowsyEntry => exact execDrowsyEntry_canonical h
  | drowsyWake => exact execDrowsyWake_canonical h
  | longLatencyCompletion => exact execLongLatencyCompletion_canonical h
  | cacheMaintenanceComplete => exact execCacheMaintenanceComplete_canonical h
  | jrRet => exact execJrRet_canonical h
  | rte => exact execRte_canonical h
  | region => exact execRegion_canonical h
  | commit => exact execCommit_canonical h
  | exit => exact execExit_canonical h
  | engxKwait => exact execEngxKwait_canonical h
  | pageRequestResponse => exact execPageRequestResponse_canonical h
  | granq0Read => exact execGranq0Read_canonical h
  | granrespWalkAgain => exact execGranrespWalkAgain_canonical h
  | granrespRefuse => exact execGranrespRefuse_canonical h
  | atsInvalidation => exact execAtsInvalidation_canonical h
  | pktNop => exact execPktNop_canonical h
  | pktDispatch => exact execPktDispatch_canonical h
  | pktDelta => exact execPktDelta_canonical h
  | pktIbcall => exact execPktIbcall_canonical h
  | pktPred => exact execPktPred_canonical h
  | pktLoop => exact execPktLoop_canonical h
  | pktFfence => exact execPktFfence_canonical h
  | pktSignal => exact execPktSignal_canonical h
  | pktWaitmem => exact execPktWaitmem_canonical h
  | levelGraph => exact execLevelGraph_canonical h
  | levelPhase => exact execLevelPhase_canonical h
  | levelJob => exact execLevelJob_canonical h
  | levelCancel => exact execLevelCancel_canonical h
  | slotSelection => exact execSlotSelection_canonical h
  | hostCxlMemRequest => exact execHostCxlMemRequest_canonical h
  | hostSnoop => exact execHostSnoop_canonical h
  | lockInterface => exact execLockInterface_canonical h
  | startInterface => exact execStartInterface_canonical h
  | stopInterface => exact execStopInterface_canonical h
  | ideIntegrityFailure => exact execIdeIntegrityFailure_canonical h
  | getVersion => exact execGetVersion_canonical h
  | getCapabilities => exact execGetCapabilities_canonical h
  | negotiateAlgorithms => exact execNegotiateAlgorithms_canonical h
  | getDigests => exact execGetDigests_canonical h
  | getCertificate => exact execGetCertificate_canonical h
  | challenge => exact execChallenge_canonical h
  | getMeasurements => exact execGetMeasurements_canonical h
  | keyExchange => exact execKeyExchange_canonical h
  | finish => exact execFinish_canonical h
  | heartbeat => exact execHeartbeat_canonical h
  | keyUpdate => exact execKeyUpdate_canonical h
  | endSession => exact execEndSession_canonical h
  | setCertificate => exact execSetCertificate_canonical h
  | certRewriteTimeout => exact execCertRewriteTimeout_canonical h
  | setCopyKey => exact execSetCopyKey_canonical h
  | setDebugConsent => exact execSetDebugConsent_canonical h
  | stageUpdate => exact execStageUpdate_canonical h
  | activationRequest => exact execActivationRequest_canonical h
  | acknowledgeStaged => exact execAcknowledgeStaged_canonical h
  | liveUpdateTakeover => exact execLiveUpdateTakeover_canonical h
  | standbyFailure => exact execStandbyFailure_canonical h
  | coldReset => exact execColdReset_canonical h
  | warmReset => exact execWarmReset_canonical h
  | linkReset => exact execLinkReset_canonical h
  | clockStep => exact execClockStep_canonical h
  | evlogRead => exact execEvlogRead_canonical h
  | registerWrite => exact execRegisterWrite_canonical h
  | commandComplexFailure => exact execCommandComplexFailure_canonical h
  | ideKeyManagement => exact execIdeKeyManagement_canonical h

/-- A step is a move, and the move's own instruction, stop or state. -/
theorem step_canonical {s : State} (h : s.mm.Canonical) : NextCanonical (step s) := by
  have hm := nextMove_canonical h
  unfold step
  split <;> rename_i heq <;> rw [heq] at hm
  · exact exec_canonical hm
  · exact stopped_canonical hm.1 hm.2
  · exact hm

/-- Settles O59: the move of a step starts from canonical memories, and every instruction, stop and event keeps them so. -/
theorem memoryCanonical : Obligations.MemoryCanonical := by
  unfold Obligations.MemoryCanonical
  intro s t h ht
  have hs := step_canonical (memoryWf_iff.mp h)
  rw [ht] at hs
  exact memoryWf_iff.mpr hs

end Sys2Proof.Machine
end

section
namespace Sys2Proof.Machine
open Sys2Proof.Safety

/-! ## Messages between quads: what sending one leaves as it was, and that it is on its way (R387, R391) -/

/-- From `s` to `t` only sequence numbers of the mesh and events on their way have changed, and none of those is lost: every core,
context, launch and slot stands as it did, and the interfaces seal under the same keys. -/
structure SameButMail (s t : State) : Prop where
  core : ∀ q c, t.core q c = s.core q c
  ctx : ∀ a, t.ctx a = s.ctx a
  key : ∀ q, meshKey t q = meshKey s q
  launches : t.launches = s.launches
  slots : t.slots = s.slots
  sent : s.md.inflight ⊆ t.md.inflight

theorem SameButMail.refl (s : State) : SameButMail s s :=
  ⟨fun _ _ => rfl, fun _ => rfl, fun _ => rfl, rfl, rfl, List.Subset.refl _⟩

theorem SameButMail.trans {s t u : State} (h : SameButMail s t) (k : SameButMail t u) : SameButMail s u :=
  ⟨fun q c => (k.core q c).trans (h.core q c), fun a => (k.ctx a).trans (h.ctx a), fun q => (k.key q).trans (h.key q),
    k.launches.trans h.launches, k.slots.trans h.slots, List.Subset.trans h.sent k.sent⟩

/-- A message on its way stays so while events are only added. -/
theorem OnWay.mono {src dst : Fin 64} {l : LaunchId} {key : Option (BitVec 128)} {mk : Header → Instr} {s t : State}
    (sub : s.md.inflight ⊆ t.md.inflight) (h : OnWay src dst l key mk s) : OnWay src dst l key mk t := by
  obtain ⟨x, hp, hd, hl, ht, hx⟩ := h
  exact ⟨x, hp, hd, hl, ht, sub hx⟩

/-- An update of a quad that keeps its cores keeps every core. -/
theorem State.core_updQuad_keep (s : State) (q : Fin 64) (g : Quad → Quad) (h : ∀ x, (g x).cores = x.cores) (r : Fin 64)
    (c : Fin 4) : (s.updQuad q g).core r c = s.core r c := by
  simp only [State.core, State.quads_updQuad]
  split <;> simp_all

/-- An update of a quad that keeps its cores and harts keeps every agent's context. -/
theorem State.ctx_updQuad_keep (s : State) (q : Fin 64) (g : Quad → Quad) (hc : ∀ x, (g x).cores = x.cores)
    (hh : ∀ x, (g x).harts = x.harts) (a : Agent) : (s.updQuad q g).ctx a = s.ctx a := by
  cases a with
  | strand r c k => simp only [State.ctx, State.core_updQuad_keep s q g hc]
  | hart r i =>
    simp only [State.ctx, State.quads_updQuad]
    split <;> simp_all
  | weir _ => rfl
  | cmd _ => rfl
  | sec => rfl

/-- A quad's key depends on whose the quad is and on the partitions. -/
theorem meshKey_congr {s t : State} {q : Fin 64} (ho : (t.quads.get q).owner = (s.quads.get q).owner)
    (hp : (t.quads.get q).part = (s.quads.get q).part) (hs : t.parts = s.parts) : meshKey t q = meshKey s q := by
  unfold meshKey Quad.conf
  rw [ho, hp, hs]

theorem meshKey_updQuad_keep (s : State) (q : Fin 64) (g : Quad → Quad) (ho : ∀ x, (g x).owner = x.owner)
    (hp : ∀ x, (g x).part = x.part) (r : Fin 64) : meshKey (s.updQuad q g) r = meshKey s r := by
  refine meshKey_congr ?_ ?_ rfl <;> simp only [State.quads_updQuad] <;> split <;> simp_all

@[simp] theorem meshKey_updCore (s : State) (q : Fin 64) (c : Fin 4) (g : Core → Core) (r : Fin 64) :
    meshKey (s.updCore q c g) r = meshKey s r :=
  meshKey_updQuad_keep s q (fun x => x.updCore c g) (fun _ => rfl) (fun _ => rfl) r

@[simp] theorem meshKey_updLaunch (s : State) (l : LaunchId) (g : Launch → Launch) (r : Fin 64) :
    meshKey (s.updLaunch l g) r = meshKey s r := rfl

@[simp] theorem meshKey_post (e : Instr) (s : State) (r : Fin 64) : meshKey (post e s) r = meshKey s r := rfl

@[simp] theorem meshKey_updCtx (s : State) (a : Agent) (g : Ctx → Ctx) (r : Fin 64) : meshKey (s.updCtx a g) r = meshKey s r := by
  cases a with
  | strand q c k => exact meshKey_updCore ..
  | hart q i =>
    refine meshKey_congr ?_ ?_ rfl <;> simp only [State.updCtx, State.updHart, State.quads_updQuad] <;> split <;> simp_all
  | weir _ => rfl
  | cmd _ => rfl
  | sec => rfl

/-- Noting a sequence number, sent or accepted. -/
theorem setSeq_mail (s : State) (q : Fin 64) (dir peer n : Nat) : SameButMail s (s.updQuad q fun x => x.setSeq dir peer n) :=
  ⟨State.core_updQuad_keep s q _ fun _ => rfl, State.ctx_updQuad_keep s q _ (fun _ => rfl) (fun _ => rfl),
    meshKey_updQuad_keep s q _ (fun _ => rfl) (fun _ => rfl), rfl, rfl, List.Subset.refl _⟩

theorem post_mail (e : Instr) (s : State) : SameButMail s (post e s) :=
  ⟨fun _ _ => rfl, post_ctx e s, fun _ => rfl, rfl, rfl, by simp⟩

theorem noteSeq_mail (h : Header) (q : Fin 64) (s : State) : SameButMail s (noteSeq h q s) := by
  unfold noteSeq
  split
  · exact setSeq_mail ..
  · exact .refl s

theorem mail_mail (src dst : Fin 64) (l : LaunchId) (mk : Header → Instr) (s : State) : SameButMail s (mail src dst l mk s) := by
  refine SameButMail.trans ?_ (post_mail _ _)
  simp only [stampHeader]
  split
  · exact setSeq_mail ..
  · exact .refl s

/-- A message that is sent is on its way, sealed under the key of the quad that sends it. -/
theorem mail_onWay (src dst : Fin 64) (l : LaunchId) (mk : Header → Instr) (s : State) :
    OnWay src dst l (meshKey s src) mk (mail src dst l mk s) :=
  ⟨(stampHeader src dst l s).1, rfl, rfl, rfl, rfl, by simp [mail]⟩

/-- A message that its interface takes has its effect, once its sequence number is noted. -/
theorem arrive_taken {h : Header} {q : Fin 64} {m : Instr} {f : State → State} {s : State} (ht : intercept h q m s = none) :
    arrive h q m f s = f (noteSeq h q s) := by
  simp only [arrive, ht]

end Sys2Proof.Machine
end

section
namespace Sys2Proof.Machine
open Sys2Proof.Safety

/-! ## An answer, and the selection of a strand (R17, R18, R232) -/

/-- A parked strand that wakes is READY, and keeps the answer it has. -/
theorem wake_parked {q : Fin 64} {c : Fin 4} {k : Fin 24} {s : State} (h : (s.ctx (.strand q c k)).st = .parked) :
    (wake (.strand q c k) s).ctx (.strand q c k) = { s.ctx (.strand q c k) with st := .ready, why := none } := by
  rw [wake, h, if_pos (beq_self_eq_true _), makeReady, askSelect_ctx]
  simp [State.ctx, Core.updCtx, vget_set]

/-- No answer but a refusal opens as one. -/
theorem answerCrypt_ne_refused {key : Option (BitVec 128)} {h : Header} {x : Answer} (hx : x ≠ .refused) :
    answerCrypt key h x ≠ .refused := by
  cases x <;> simp_all [answerCrypt]

/-- A live strand that is parked for its answer takes it, and is READY. -/
theorem takeAnswer_strand {id : StrandId} {x : Answer} {s : State} (live : s.alive id = true)
    (parked : (s.ctx (agentOf id)).st = .parked) (why : (s.ctx (agentOf id)).why = some .answer) (hx : x ≠ .refused) :
    (takeAnswer (.strand id) x s).ctx (agentOf id) =
      { s.ctx (agentOf id) with answer := some x, st := .ready, why := none } := by
  have hp : ((s.updCtx (agentOf id) fun y => { y with answer := some x }).ctx (agentOf id)).st = .parked := by simp [parked]
  have hb : (x != .refused) = true := by simpa using hx
  simp only [takeAnswer, live, why, parked, hb, beq_self_eq_true, Bool.and_self, if_true]
  rw [agentOf] at hp ⊢
  rw [wake_parked hp, State.ctx_updCtx_same]

/-- A trace record leaves the running strand, its quantum and the ready list of every core. -/
theorem traceIf_core (a : Agent) (on : Trace → Bool) (ty p : Nat) (s : State) (q : Fin 64) (c : Fin 4) :
    ∃ t, (traceIf a on ty p s).core q c = { s.core q c with trc := t } := by
  rcases traceIf_only a on ty p s with h | ⟨r, d, k, t, -, h⟩
  · exact ⟨(s.core q c).trc, by rw [h]⟩
  · rw [h, State.core_updCore]
    split
    · rename_i e
      obtain ⟨rfl, rfl⟩ := e
      exact ⟨t, rfl⟩
    · exact ⟨(s.core q c).trc, rfl⟩

/-- A core that may select, and whose first ready strand is not frozen, runs it with a new quantum. -/
theorem execCoreSelect_runs {q : Fin 64} {c : Fin 4} {k : Fin 24} {rest : List (Fin 24)} {s : State} (idle : (s.core q c).run = none)
    (going : engineStopped s (pIdx (s.quads.get q).part) (.core q c) = false) (powered : (s.quads.get q).power ≠ .gated)
    (ready : (s.core q c).ready = k :: rest) (thawed : frozen s (s.ctx (.strand q c k)) = false) :
    ∃ u, execCoreSelect q c s = .next u ∧ (u.core q c).run = some k ∧ (u.core q c).quantum = 0 ∧
      (u.ctx (.strand q c k)).st = .running ∧ (u.core q c).ready = rest.filter fun j => j != k := by
  have hf : (k :: rest).find? (fun j => !frozen s ((s.core q c).ctxs.get j)) = some k :=
    List.find?_cons_of_pos (by simpa [State.ctx] using thawed)
  have hp : ((s.quads.get q).power == .gated) = false := by simpa using powered
  refine ⟨_, by simp only [execCoreSelect, idle, going, hp, ready, hf]; rfl, ?_⟩
  rw [traceIf_ctx]
  obtain ⟨t, ht⟩ := traceIf_core (.strand q c k) (fun t => t.switch) 5 _ _ q c
  rw [ht]
  simp [State.updCtx, State.ctx, ready, Core.updCtx, vget_set]

/-- Settles O35: the answer that is taken finds its strand as it was, and a selection runs the first ready strand. -/
theorem strandEvents : Obligations.StrandEvents := by
  unfold Obligations.StrandEvents
  refine ⟨fun h id ans s live parked why hans taken => ⟨_, rfl, ?_⟩, fun q c k rest s idle going powered ready thawed =>
    execCoreSelect_runs idle going powered ready thawed⟩
  have hn := noteSeq_mail h id.q s
  have hl : (noteSeq h id.q s).alive id = true := by simpa only [State.alive, hn.ctx] using live
  have := takeAnswer_strand hl (by rw [hn.ctx, parked]) (by rw [hn.ctx, why])
    (answerCrypt_ne_refused (key := meshKey s id.q) (h := h) hans)
  rw [show senderQuad (.strand id) = id.q from rfl, arrive_taken taken, this]
  exact ⟨rfl, rfl⟩

end Sys2Proof.Machine
end

section
namespace Sys2Proof.Machine
open Sys2Proof.Safety

/-! ## The refusal FIFO of a core (R19, R20) -/

theorem releasePlace_onWay (src q : Fin 64) (c : Fin 4) (l : LaunchId) (s : State) :
    OnWay src q l (meshKey s src) (fun h => .refusalRelease (h, q) c) (releasePlace src q c l s) := mail_onWay ..

theorem releasePlace_mail (src q : Fin 64) (c : Fin 4) (l : LaunchId) (s : State) : SameButMail s (releasePlace src q c l s) :=
  mail_mail ..

/-- A message sent again goes the way of the header that it had. -/
theorem resend_onWay {m : Instr} {d : Header} {s : State} (hd : headerOf m = some d) :
    OnWay (Fin.ofNat 64 d.port) (Fin.ofNat 64 d.dest) d.launch (meshKey s (Fin.ofNat 64 d.port)) (fun h => withHeader (fun _ => h) m)
      (resend m s) := by
  unfold resend
  rw [hd]
  let h := (stampHeader (Fin.ofNat 64 d.port) (Fin.ofNat 64 d.dest) d.launch s).1
  exact ⟨{ h with part := d.part }, rfl, rfl, rfl, rfl, by simp [mail, h]⟩

theorem resend_mail (m : Instr) (s : State) : SameButMail s (resend m s) := by
  unfold resend
  split
  · exact mail_mail ..
  · exact post_mail ..

theorem sendNotices_mail (q : Fin 64) (c : Fin 4) (ms : List Instr) (s : State) : SameButMail s (sendNotices q c ms s) := by
  induction ms generalizing s with
  | nil => exact .refl s
  | cons m ms ih =>
    refine .trans ?_ (ih _)
    split
    · exact mail_mail ..
    · exact .refl s

/-- The first of some notices is on its way. -/
theorem sendNotices_onWay {q : Fin 64} {c : Fin 4} {m : Instr} {ms : List Instr} {d : Header} {s : State} (hd : headerOf m = some d) :
    OnWay q (Fin.ofNat 64 d.port) d.launch (meshKey s q) (fun h => .contextFreeNotice (h, q) c) (sendNotices q c (m :: ms) s) := by
  simp only [sendNotices, hd]
  exact OnWay.mono (sendNotices_mail ..).sent (mail_onWay ..)

/-- Reservations keep the places that are passed, and what waits in every place. -/
theorem Core.reserveFrom_keeps (x : Core) (done l : List Refusal19) :
    (∃ t, (x.reserveFrom done l).1 = done ++ t) ∧ (x.reserveFrom done l).1.map (·.msg) = (done ++ l).map (·.msg) := by
  induction l generalizing done with
  | nil => exact ⟨⟨[], by simp [Core.reserveFrom]⟩, by simp [Core.reserveFrom]⟩
  | cons e l ih =>
    have passed (f : Refusal19) (hf : f.msg = e.msg) : (∃ t, (x.reserveFrom (done ++ [f]) l).1 = done ++ t) ∧
        (x.reserveFrom (done ++ [f]) l).1.map (·.msg) = (done ++ e :: l).map (·.msg) := by
      obtain ⟨⟨t, ht⟩, hm⟩ := ih (done ++ [f])
      exact ⟨⟨f :: t, by simp [ht]⟩, by simp [hm, hf]⟩
    rw [Core.reserveFrom]
    split
    · exact passed e rfl
    · split
      · exact ⟨⟨e :: l, rfl⟩, rfl⟩
      · exact passed _ rfl

/-- Where the first sender has no place and there is one, it gets it, and the first notice is for it. -/
theorem Core.reserveFrom_first {x : Core} {e : Refusal19} {t : List Refusal19} {k : Fin 24} (hx : x.fifo = e :: t)
    (hr : e.resv = none) (hk : x.freePlace e.msg = some k) :
    ∃ l ms, x.reserveFrom [] x.fifo = ({ e with resv := some k } :: l, e.msg :: ms) := by
  have same : { x with fifo := [] ++ e :: t } = x := by rw [List.nil_append, ← hx]
  obtain ⟨l, hl⟩ := (x.reserveFrom_keeps [{ e with resv := some k }] t).1
  refine ⟨l, (x.reserveFrom [{ e with resv := some k }] t).2, ?_⟩
  rw [hx, Core.reserveFrom, if_neg (by simp [hr]), same, hk]
  exact Prod.ext hl rfl

/-- Serving the FIFO keeps the messages that wait in it. -/
theorem serveFifo_msgs (q : Fin 64) (c : Fin 4) (s : State) :
    ((serveFifo q c s).core q c).fifo.map (·.msg) = (s.core q c).fifo.map (·.msg) := by
  simp only [serveFifo]
  split
  · rfl
  · rw [(sendNotices_mail ..).core, State.core_updCore_same]
    exact ((s.core q c).reserveFrom_keeps [] _).2

/-- Serving a FIFO whose first sender can have a place: it has it, and its notice is on its way. -/
theorem serveFifo_first {q : Fin 64} {c : Fin 4} {s : State} {e : Refusal19} {t : List Refusal19} {k : Fin 24} {d : Header}
    (hx : (s.core q c).fifo = e :: t) (hr : e.resv = none) (hk : (s.core q c).freePlace e.msg = some k)
    (hd : headerOf e.msg = some d) :
    ((serveFifo q c s).core q c).fifo.head? = some { e with resv := some k } ∧
      OnWay q (Fin.ofNat 64 d.port) d.launch (meshKey s q) (fun h => .contextFreeNotice (h, q) c) (serveFifo q c s) := by
  obtain ⟨l, ms, hp⟩ := Core.reserveFrom_first hx hr hk
  let v := s.updCore q c fun x => { x with fifo := { e with resv := some k } :: l }
  have hs : serveFifo q c s = sendNotices q c (e.msg :: ms) v := by simp [serveFifo, hp, v]
  rw [hs, (sendNotices_mail ..).core, State.core_updCore_same, ← meshKey_updCore s q c]
  exact ⟨rfl, sendNotices_onWay hd⟩

/-- A notice for a sender that waits no more is answered with a release (R19). -/
theorem takeNotice_gone {src q : Fin 64} {c : Fin 4} {l : LaunchId} {s : State} {e : Refusal19}
    (first : (s.core q c).fifo.find? (fun e => e.resv.isSome && !e.noticed && senderPort e == src.val) = some e)
    (gone : e.waiting = false) :
    OnWay src q l (meshKey s src) (fun h => .refusalRelease (h, q) c) (takeNotice src q c l s) := by
  simp only [takeNotice, first, gone]
  have := releasePlace_onWay src q c l (s.updCore q c fun x => x.setEntry e { e with noticed := true, waiting := false })
  rwa [meshKey_updCore] at this

/-- A notice for a sender that waits has its message sent again, unless it is a distributor's whose slot is saved (R19, R374). -/
theorem takeNotice_waiting {src q : Fin 64} {c : Fin 4} {l : LaunchId} {s : State} {e : Refusal19} {d : Header}
    (first : (s.core q c).fifo.find? (fun e => e.resv.isSome && !e.noticed && senderPort e == src.val) = some e)
    (there : e.waiting = true) (free : ∀ m, e.msg = .creationMessage m → distributorWaits s m = false)
    (hd : headerOf e.msg = some d) :
    OnWay (Fin.ofNat 64 d.port) (Fin.ofNat 64 d.dest) d.launch (meshKey s (Fin.ofNat 64 d.port))
      (fun h => withHeader (fun _ => h) e.msg) (takeNotice src q c l s) := by
  have sent := resend_onWay (s := s.updCore q c fun x => x.setEntry e { e with noticed := true }) hd
  rw [meshKey_updCore] at sent
  simp only [takeNotice, first, there, Bool.not_true, Bool.false_eq_true, if_false]
  split
  · rename_i m hm
    simpa [free m hm, hm, there] using sent
  · simpa only [there] using sent

/-- A notice that is taken for a sender that waits no more: the release is on its way. -/
theorem execContextFreeNotice_gone {h : Header} {q : Fin 64} {c : Fin 4} {s : State} {e : Refusal19}
    (taken : intercept h (Fin.ofNat 64 h.dest) (.contextFreeNotice (h, q) c) s = none)
    (first : (s.core q c).fifo.find? (fun e => e.resv.isSome && !e.noticed && senderPort e == (Fin.ofNat 64 h.dest).val) = some e)
    (gone : e.waiting = false) :
    ∃ u, execContextFreeNotice (h, q) c s = .next u ∧
      OnWay (Fin.ofNat 64 h.dest) q h.launch (meshKey s (Fin.ofNat 64 h.dest)) (fun h => .refusalRelease (h, q) c) u := by
  have hn := noteSeq_mail h (Fin.ofNat 64 h.dest) s
  rw [← hn.core q c] at first
  refine ⟨_, rfl, ?_⟩
  rw [arrive_taken taken, ← hn.key]
  exact takeNotice_gone first gone

/-- A notice that is taken for a sender that waits: its message is on its way again. -/
theorem execContextFreeNotice_waiting {h d : Header} {q : Fin 64} {c : Fin 4} {s : State} {e : Refusal19}
    (taken : intercept h (Fin.ofNat 64 h.dest) (.contextFreeNotice (h, q) c) s = none)
    (first : (s.core q c).fifo.find? (fun e => e.resv.isSome && !e.noticed && senderPort e == (Fin.ofNat 64 h.dest).val) = some e)
    (there : e.waiting = true) (free : ∀ m, e.msg = .creationMessage m → distributorWaits s m = false)
    (hd : headerOf e.msg = some d) :
    ∃ u, execContextFreeNotice (h, q) c s = .next u ∧
      OnWay (Fin.ofNat 64 d.port) (Fin.ofNat 64 d.dest) d.launch (meshKey s (Fin.ofNat 64 d.port))
        (fun h => withHeader (fun _ => h) e.msg) u := by
  have hn := noteSeq_mail h (Fin.ofNat 64 h.dest) s
  rw [← hn.core q c] at first
  have hf (m : CreMsg) (hm : e.msg = .creationMessage m) : distributorWaits (noteSeq h (Fin.ofNat 64 h.dest) s) m = false := by
    simpa only [distributorWaits, hn.slots] using free m hm
  refine ⟨_, rfl, ?_⟩
  rw [arrive_taken taken, ← hn.key]
  exact takeNotice_waiting first there hf hd

/-- A sender whose resend is overdue: its place is given up, and its message is one refused with a full FIFO (R19, R20). -/
theorem execResendTimeout_late {q : Fin 64} {c : Fin 4} {s : State} {e : Refusal19}
    (first : (s.core q c).fifo.find? (fun e => e.resv.isSome && e.noticed && e.waiting && notOnItsWay s e.msg) = some e) :
    ∃ u, execResendTimeout q c s = .next u ∧
      OnWay (Fin.ofNat 64 (senderPort e)) q ((msgLaunch e.msg).getD noLaunch) (meshKey s (Fin.ofNat 64 (senderPort e)))
        (fun h => .refusalRelease (h, q) c) u ∧
      (u.core q c).late = (s.core q c).late ++ [e.msg] ∧
      (u.core q c).fifo = (s.core q c).fifo.map fun d => if d = e then { e with waiting := false } else d := by
  refine ⟨_, by simp only [execResendTimeout, first]; rfl, ?_, ?_⟩
  · have := releasePlace_onWay (Fin.ofNat 64 (senderPort e)) q c ((msgLaunch e.msg).getD noLaunch) (s.updCore q c fun x =>
      { x.setEntry e { e with waiting := false } with late := x.late ++ [e.msg] })
    rwa [meshKey_updCore] at this
  · rw [(releasePlace_mail ..).core, State.core_updCore_same]
    exact ⟨rfl, by simp only [Core.setEntry, beq_iff_eq]⟩

/-- A release takes its sender out of the FIFO (R19). -/
theorem takeRelease_fifo {q : Fin 64} {c : Fin 4} {port : Nat} {s : State} {e : Refusal19}
    (first : (s.core q c).fifo.find? (fun e => e.resv.isSome && e.noticed && !e.waiting && senderPort e == port) = some e) :
    ((takeRelease q c port s).core q c).fifo.map (·.msg) = ((s.core q c).fifo.erase e).map (·.msg) := by
  simp only [takeRelease, first]
  rw [serveFifo_msgs, State.core_updCore_same]
  rfl

/-- A release that is taken takes its sender out of the FIFO. -/
theorem execRefusalRelease_fifo {h : Header} {q : Fin 64} {c : Fin 4} {s : State} {e : Refusal19}
    (taken : intercept h q (.refusalRelease (h, q) c) s = none)
    (first : (s.core q c).fifo.find? (fun e => e.resv.isSome && e.noticed && !e.waiting && senderPort e == h.port) = some e) :
    ∃ u, execRefusalRelease (h, q) c s = .next u ∧ (u.core q c).fifo.map (·.msg) = ((s.core q c).fifo.erase e).map (·.msg) := by
  refine ⟨_, rfl, ?_⟩
  have hn := (noteSeq_mail h q s).core q c
  rw [arrive_taken taken, ← hn]
  exact takeRelease_fifo (by rw [hn, first])

/-- A late message is on its way, and late no more (R20). -/
theorem execRefusedResend_sent {q : Fin 64} {c : Fin 4} {s : State} {m : Instr} {ms : List Instr} {d : Header}
    (hl : (s.core q c).late = m :: ms) (hd : headerOf m = some d) :
    ∃ u, execRefusedResend q c s = .next u ∧ (u.core q c).late = ms ∧
      OnWay (Fin.ofNat 64 d.port) (Fin.ofNat 64 d.dest) d.launch (meshKey s (Fin.ofNat 64 d.port))
        (fun h => withHeader (fun _ => h) m) u := by
  refine ⟨_, by simp only [execRefusedResend, hl]; rfl, ?_, ?_⟩
  · rw [(resend_mail ..).core, State.core_updCore_same]
  · simpa only [meshKey_updCore] using resend_onWay (s := s.updCore q c fun x => { x with late := ms }) hd

/-- Settles O33: each event finds its sender in the FIFO as it stood, and changes that sender's place alone. -/
theorem refusalEvents : Obligations.RefusalEvents := by
  unfold Obligations.RefusalEvents
  intro q c s e h d
  exact ⟨fun t k hx hr hk hd => serveFifo_first hx hr hk hd,
    fun taken first => ⟨fun gone => execContextFreeNotice_gone taken first gone,
      fun there free hd => execContextFreeNotice_waiting taken first there free hd⟩,
    fun first => execResendTimeout_late first, fun taken first => execRefusalRelease_fifo taken first,
    fun m ms hl hd => execRefusedResend_sent hl hd⟩

end Sys2Proof.Machine
end

section
namespace Sys2Proof.Machine
open Sys2Proof.Safety

/-! ## What the operations around an instruction do to the context of their agent, and to the mesh -/

/-- A form that closes every window issues into the state that its gate leaves: a quiet state is that state. -/
theorem gate_of_issues {i : Instr} {s t : State} (hc : closes (shapeOf i).major = true) (h : Issues i s t) :
    gate i s.md.who s = .go t := by
  rcases h with ⟨q, rfl⟩ | h
  · exact gate_closing q.issues q.free q.cls q.triggers hc q.wins q.pend q.region q.refused
  · exact h

@[simp] theorem State.ctx_updLaunch (s : State) (l : LaunchId) (g : Launch → Launch) (a : Agent) :
    (s.updLaunch l g).ctx a = s.ctx a := by
  cases a <;> rfl

@[simp] theorem meshKey_traceIf (a : Agent) (on : Trace → Bool) (ty p : Nat) (s : State) (r : Fin 64) :
    meshKey (traceIf a on ty p s) r = meshKey s r := by
  rcases traceIf_only a on ty p s with h | ⟨q, c, k, t, -, h⟩
  · rw [h]
  · rw [h, meshKey_updCore]

@[simp] theorem meshKey_writeDst (s : State) (a : Agent) (d : Dst) (v : Word) (r : Fin 64) :
    meshKey (writeDst s a d v) r = meshKey s r := meshKey_updCtx ..

@[simp] theorem meshKey_advance (i : Instr) (a : Agent) (s : State) (r : Fin 64) : meshKey (advance i a s) r = meshKey s r := by
  simp only [advance]
  split
  · rw [meshKey_traceIf, meshKey_updCtx]
  · rw [meshKey_updCtx]

/-- A write of a destination changes its agent's registers alone. -/
@[simp] theorem writeDst_ctx (s : State) (a : Agent) (d : Dst) (v : Word) :
    (writeDst s a d v).ctx a = { s.ctx a with arch := (s.ctx a).arch.write d v (s.ctx a).gen } :=
  State.ctx_updCtx_same ..

/-- The PC moving on changes its agent's registers and windows alone. -/
theorem advance_ctx (i : Instr) (a : Agent) (s : State) :
    ∃ r f, (advance i a s).ctx a = { s.ctx a with arch := r, fl := f } := by
  refine ⟨(s.ctx a).arch.advance (shapeOf i).len (s.ctx a).gen,
    if (s.arch a).backEdge then { (s.ctx a).fl with wins := [] } else (s.ctx a).fl, ?_⟩
  simp only [advance]
  split
  · rw [traceIf_ctx, State.ctx_updCtx_same]
  · rw [State.ctx_updCtx_same]

/-- The windows kept of an instruction that waits are its agent's flight. -/
theorem keepWindows_ctx (a : Agent) (s u : State) : ∃ f, (keepWindows a s u).ctx a = { u.ctx a with fl := f } :=
  ⟨_, State.ctx_updCtx_same ..⟩

theorem keepWindows_md (a : Agent) (s u : State) : (keepWindows a s u).md = u.md := State.updFlight_md ..

theorem askSelect_sent (q : Fin 64) (c : Fin 4) (s : State) : s.md.inflight ⊆ (askSelect q c s).md.inflight := by
  simp only [askSelect]
  split
  · exact (post_mail _ s).sent
  · exact List.Subset.refl _

theorem leaveCore_sent (q : Fin 64) (c : Fin 4) (k : Fin 24) (s : State) : s.md.inflight ⊆ (leaveCore q c k s).md.inflight := by
  simp only [leaveCore]
  split
  · have sent := askSelect_sent q c (s.updCore q c fun x => { x with run := none })
    rwa [State.updCore_md] at sent
  · exact List.Subset.refl _

/-- An agent that does not run on retires without the end of a single step. -/
theorem finish_stopped {a : Agent} {s : State} (h : (s.ctx a).st ≠ .running) : finish a s = used a s := by
  have k := (used_ctx a a s).2.2.1
  cases a <;> simp only [finish, endStep]
  simp [k, h]

end Sys2Proof.Machine
end

section
namespace Sys2Proof.Machine
open Sys2Proof.Safety

/-! ## The MIGR forms (R25 to R27, R121, R236) -/

/-- Both forms close every window, and are the shared body with candidates of their own. -/
theorem migr_shared {i : Instr} {d : Dst} {a : Src} (hi : i ∈ [Instr.migrAddr d a, .migrTile d a]) :
    closes (shapeOf i).major = true ∧ ∃ cands, ∀ s, exec i s = performJump i (migrForm i d a cands) s := by
  simp only [List.mem_cons, List.not_mem_nil, or_false] at hi
  rcases hi with rfl | rfl
  · exact ⟨rfl, _, fun _ => rfl⟩
  · exact ⟨rfl, _, fun _ => rfl⟩

/-- A MIGR that does not move has nothing outstanding left. -/
theorem stayHere_outst (i : Instr) (d : Dst) (a : Agent) (v : Word) (s : State) : ((stayHere i d a v s).ctx a).outst = [] := by
  obtain ⟨r, f, h⟩ := advance_ctx i a (writeDst (s.updCtx a fun y => { y with query := none, latch := none, outst := [] }) a d v)
  rw [stayHere, h, writeDst_ctx, State.ctx_updCtx_same]

theorem postQueries_mail (src : StrandId) (l : LaunchId) (qs : List (Fin 64)) (s : State) :
    SameButMail s (postQueries src l qs s) := by
  induction qs generalizing s with
  | nil => exact .refl s
  | cons q qs ih => exact (mail_mail ..).trans (ih _)

/-- Every candidate is asked. -/
theorem postQueries_onWay {src : StrandId} {l : LaunchId} {qs : List (Fin 64)} {n : Fin 64} (hn : n ∈ qs) (s : State) :
    OnWay src.q n l (meshKey s src.q) (fun h => .migrQuery (h, src) n) (postQueries src l qs s) := by
  induction qs generalizing s with
  | nil => cases hn
  | cons q qs ih =>
    rcases List.mem_cons.mp hn with rfl | hn
    · refine OnWay.mono (postQueries_mail src l qs _).sent ?_
      exact mail_onWay ..
    · have key := (mail_mail src.q q l (fun h => .migrQuery (h, src) q) s).key src.q
      exact key ▸ ih hn _

section
variable {i : Instr} {d : Dst} {a : Src} {cands : Word → State → Agent → Except Stop (List (Fin 64) × State)}
  {q : Fin 64} {c : Fin 4} {k : Fin 24} {t z : State}
  (unleased : (t.core q c).holder ≠ some k) (plain : t.ltm (.strand q c k) = false) (performed : drained (.strand q c k) t = .ok z)
include unleased plain performed

/-- Behind a request that runs, the form waits. -/
theorem migrForm_runs (h : ∃ r ∈ (z.ctx (.strand q c k)).outst, r.st = .running) :
    migrForm i d a cands (.strand q c k) t = .error (.wait z) := by
  have hr : ((z.ctx (.strand q c k)).outst.any fun e => e.st == .running) = true := by simpa using h
  simp only [migrForm, bne_iff_ne.mpr unleased, plain, performed, Bool.not_false, check_true, ok_bind, hr, if_true]

/-- A request fault to deliver is raised, with the list that no longer holds it. -/
theorem migrForm_faults {f : Nat × Nat × Word} {l : List OutReq} (h : ∀ r ∈ (z.ctx (.strand q c k)).outst, r.st ≠ .running)
    (hf : undelivered (z.ctx (.strand q c k)) = some (f, l)) :
    migrForm i d a cands (.strand q c k) t =
      .error (.faultIn f.1 f.2.1 f.2.2 (z.updCtx (.strand q c k) fun y => { y with outst := l })) := by
  have hr : ((z.ctx (.strand q c k)).outst.any fun e => e.st == .running) = false := by simpa using h
  simp only [migrForm, bne_iff_ne.mpr unleased, plain, performed, Bool.not_false, check_true, ok_bind, hr, hf, Bool.false_eq_true,
    if_false]

/-- Behind requests that have all retired, the form goes by what it has asked. -/
theorem migrForm_retired (h : ∀ r ∈ (z.ctx (.strand q c k)).outst, r.st ≠ .running)
    (hf : undelivered (z.ctx (.strand q c k)) = none) :
    migrForm i d a cands (.strand q c k) t = (match (z.ctx (.strand q c k)).query with
      | some w =>
        if w.back.length = w.cands.length then
          if (chooseDest w).1 == q then .ok (stayHere i d (.strand q c k) 2 z) else .ok (sendImage i d q c k (chooseDest w) z)
        else .error (.wait z)
      | none => do
        let v ← readSrc z (.strand q c k) a
        let r ← cands v z (.strand q c k)
        if r.1.isEmpty then .ok (stayHere i d (.strand q c k) 1 r.2)
        else .error (.wait (postQueries (t.strandId q c k) (((z.ctx (.strand q c k)).launch).getD noLaunch) r.1
          (r.2.updCtx (.strand q c k) fun y => { y with query := some { cands := r.1, answers := [], back := [] } })))) := by
  have hr : ((z.ctx (.strand q c k)).outst.any fun e => e.st == .running) = false := by simpa using h
  simp only [migrForm, bne_iff_ne.mpr unleased, plain, performed, Bool.not_false, check_true, ok_bind, hr, hf, Bool.false_eq_true,
    if_false] <;> rfl

end

/-- The state of a strand that leaves, before its image is sent: it has retired MIGR with result 0 and a dead queue (R26). -/
def migrGone (i : Instr) (d : Dst) (a : Agent) (s : State) : State :=
  (advance i a (writeDst (s.updArch a fun y => { y with q := y.q.each QEnt.dead, deps := 0 }) a d 0)).updCtx a fun y =>
    { y with st := .migrating, query := none, latch := none, outst := [], sp := { y.sp with btag := 0 } }

theorem migrGone_ctx (i : Instr) (d : Dst) (a : Agent) (s : State) :
    ((migrGone i d a s).ctx a).st = .migrating ∧ ((migrGone i d a s).ctx a).launch = (s.ctx a).launch := by
  obtain ⟨r, f, h⟩ := advance_ctx i a (writeDst (s.updArch a fun y => { y with q := y.q.each QEnt.dead, deps := 0 }) a d 0)
  rw [migrGone, State.ctx_updCtx_same, h, writeDst_ctx, State.ctx_updArch_same]
  exact ⟨rfl, rfl⟩

theorem migrGone_key (i : Instr) (d : Dst) (a : Agent) (s : State) (r : Fin 64) : meshKey (migrGone i d a s) r = meshKey s r := by
  rw [migrGone, meshKey_updCtx, meshKey_advance, meshKey_writeDst, State.updArch, meshKey_updCtx]

/-- The image goes out to the chosen core, counted for its launch, from the state of the strand that leaves. -/
theorem sendImage_eq (i : Instr) (d : Dst) (q : Fin 64) (c : Fin 4) (k : Fin 24) (dest : Fin 64 × Fin 4) (s : State) :
    sendImage i d q c k dest s =
      let v := migrGone i d (.strand q c k) s
      let l := ((v.ctx (.strand q c k)).launch).getD noLaunch
      leaveCore q c k (mail q dest.1 l (fun h => .migrationImage
        { hdr := h, q := dest.1, c := dest.2, source := s.strandId q c k, image := migrImage (v.ctx (.strand q c k)) })
        (addInflight l v)) := rfl

/-- What an image that goes out leaves: its strand MIGRATING, and the image on its way. -/
theorem sendImage_leaves (i : Instr) (d : Dst) (q : Fin 64) (c : Fin 4) (k : Fin 24) (dest : Fin 64 × Fin 4) (s : State) :
    ((sendImage i d q c k dest s).ctx (.strand q c k)).st = .migrating ∧
    ∃ img, OnWay q dest.1 (((s.ctx (.strand q c k)).launch).getD noLaunch) (meshKey s q)
      (fun h => .migrationImage { hdr := h, q := dest.1, c := dest.2, source := s.strandId q c k, image := img })
      (sendImage i d q c k dest s) := by
  obtain ⟨hst, hl⟩ := migrGone_ctx i d (.strand q c k) s
  rw [sendImage_eq]
  refine ⟨?_, migrImage ((migrGone i d (.strand q c k) s).ctx (.strand q c k)), OnWay.mono (leaveCore_sent ..) ?_⟩
  · rw [leaveCore_ctx, (mail_mail ..).ctx, addInflight, State.ctx_updLaunch, hst]
  · rw [← migrGone_key i d (.strand q c k) s q, ← hl]
    exact mail_onWay ..

section
variable {i : Instr} {d : Dst} {a : Src} {q : Fin 64} {c : Fin 4} {k : Fin 24} {s t z : State}
  (who : s.md.who = .strand q c k) (unleased : (t.core q c).holder ≠ some k) (plain : t.ltm (.strand q c k) = false)
  (performed : drained (.strand q c k) t = .ok z)
include who unleased plain performed

/-- A MIGR behind a request that runs waits, its windows as they were (R121, R236). -/
theorem exec_migr_runs (hi : i ∈ [Instr.migrAddr d a, .migrTile d a])
    (h : ∃ r ∈ (z.ctx (.strand q c k)).outst, r.st = .running)
    (issues : Issues i s t) :
    exec i s = .next (keepWindows (.strand q c k) (pcTrigger s (.strand q c k)).1 z) := by
  obtain ⟨hc, cands, he⟩ := migr_shared hi
  rw [he, performJump_error (gate_of_issues hc issues) (who ▸ migrForm_runs unleased plain performed h), stopBehind_waits rfl, who]
  rfl

/-- A MIGR with a request fault to deliver raises it, and it is delivered (R121). -/
theorem exec_migr_faults (hi : i ∈ [Instr.migrAddr d a, .migrTile d a]) {f : Nat × Nat × Word} {l : List OutReq}
    (h : ∀ r ∈ (z.ctx (.strand q c k)).outst, r.st ≠ .running) (hf : undelivered (z.ctx (.strand q c k)) = some (f, l))
    (stops : Stops i s t) :
    exec i s = .next (takeFault (.strand q c k) f.1 f.2.1 f.2.2 (z.updCtx (.strand q c k) fun y => { y with outst := l })) := by
  obtain ⟨hc, cands, he⟩ := migr_shared hi
  obtain ⟨issues, alone⟩ := stops
  rw [he, performJump_error (gate_of_issues hc issues) (who ▸ migrForm_faults unleased plain performed h hf),
    stopBehind_alone alone, who]
  rfl

variable (retired : ∀ r ∈ (z.ctx (.strand q c k)).outst, r.st ≠ .running) (told : undelivered (z.ctx (.strand q c k)) = none)
include retired told

/-- A MIGR whose answers are all back, and whose chosen quad is its own, writes 2 (R26, R27). -/
theorem exec_migr_stays (hi : i ∈ [Instr.migrAddr d a, .migrTile d a]) {y : Query} (hq : (z.ctx (.strand q c k)).query = some y)
    (back : y.back.length = y.cands.length) (own : (chooseDest y).1 = q) (issues : Issues i s t) :
    exec i s = .next (finish (.strand q c k) (stayHere i d (.strand q c k) 2 z)) := by
  obtain ⟨hc, cands, he⟩ := migr_shared hi
  have hb : migrForm i d a cands (.strand q c k) t = .ok (stayHere i d (.strand q c k) 2 z) := by
    simp only [migrForm_retired unleased plain performed retired told, hq, back, own, beq_self_eq_true, if_true]
  rw [he, performJump_ok (gate_of_issues hc issues) (who ▸ hb), who]

/-- A MIGR whose answers are all back, and whose chosen quad is another, sends its image there (R26). -/
theorem exec_migr_moves (hi : i ∈ [Instr.migrAddr d a, .migrTile d a]) {y : Query} (hq : (z.ctx (.strand q c k)).query = some y)
    (back : y.back.length = y.cands.length) (other : (chooseDest y).1 ≠ q) (issues : Issues i s t) :
    ∃ r img, exec i s = .next r ∧ (r.ctx (.strand q c k)).st = .migrating ∧
      OnWay q (chooseDest y).1 (((z.ctx (.strand q c k)).launch).getD noLaunch) (meshKey z q) (fun h => .migrationImage
        { hdr := h, q := (chooseDest y).1, c := (chooseDest y).2, source := z.strandId q c k, image := img }) r := by
  obtain ⟨hc, cands, he⟩ := migr_shared hi
  have hb : migrForm i d a cands (.strand q c k) t = .ok (sendImage i d q c k (chooseDest y) z) := by
    simp only [migrForm_retired unleased plain performed retired told, hq, back, beq_eq_false_iff_ne.mpr other, if_true,
      Bool.false_eq_true, if_false]
  obtain ⟨hst, img, sent⟩ := sendImage_leaves i d q c k (chooseDest y) z
  refine ⟨used (.strand q c k) (sendImage i d q c k (chooseDest y) z), img, ?_, ?_, ?_⟩
  · rw [he, performJump_ok (gate_of_issues hc issues) (who ▸ hb), who, finish_stopped (by simp [hst])]
  · rw [(used_ctx _ _ _).2.2.1, hst]
  · exact OnWay.mono (by simp [used]) sent

variable {x : Word} {qs : List (Fin 64)} {v : State} {cands : Word → State → Agent → Except Stop (List (Fin 64) × State)}
  (unasked : (z.ctx (.strand q c k)).query = none) (reads : Reads z (.strand q c k) a x)
  (form : ∀ s, exec i s = performJump i (migrForm i d a cands) s) (closing : closes (shapeOf i).major = true)
  (found : cands x z (.strand q c k) = .ok (qs, v)) (issues : Issues i s t)
include unasked reads form closing found issues

/-- A MIGR without a candidate writes 1 (R27). -/
theorem exec_migr_alone (empty : qs = []) :
    exec i s = .next (finish (.strand q c k) (stayHere i d (.strand q c k) 1 v)) := by
  have hr : readSrc z (.strand q c k) a = .ok x := reads
  have hb : migrForm i d a cands (.strand q c k) t = .ok (stayHere i d (.strand q c k) 1 v) := by
    simp only [migrForm_retired unleased plain performed retired told, unasked, hr, ok_bind, found, empty, List.isEmpty_nil, if_true]
  rw [form, performJump_ok (gate_of_issues closing issues) (who ▸ hb), who]

/-- A MIGR with candidates asks each of them, and stays as it was (R25). -/
theorem exec_migr_asks (asked : qs ≠ []) :
    ∃ r, exec i s = .next r ∧ (r.ctx (.strand q c k)).st = (v.ctx (.strand q c k)).st ∧
      (r.ctx (.strand q c k)).query = some { cands := qs, answers := [], back := [] } ∧
      ∀ n ∈ qs, OnWay q n (((z.ctx (.strand q c k)).launch).getD noLaunch) (meshKey v q)
        (fun h => .migrQuery (h, t.strandId q c k) n) r := by
  have hr : readSrc z (.strand q c k) a = .ok x := reads
  let l := ((z.ctx (.strand q c k)).launch).getD noLaunch
  let w := v.updCtx (.strand q c k) fun y => { y with query := some { cands := qs, answers := [], back := [] } }
  let u := postQueries (t.strandId q c k) l qs w
  have hb : migrForm i d a cands (.strand q c k) t = .error (.wait u) := by
    simp only [migrForm_retired unleased plain performed retired told, unasked, hr, ok_bind, found,
      List.isEmpty_eq_false_iff.mpr asked, Bool.false_eq_true, if_false]
    rfl
  have hu : u.ctx (.strand q c k) = { v.ctx (.strand q c k) with query := some { cands := qs, answers := [], back := [] } } := by
    rw [(postQueries_mail ..).ctx, State.ctx_updCtx_same]
  obtain ⟨f, hk⟩ := keepWindows_ctx (.strand q c k) (pcTrigger s (.strand q c k)).1 u
  refine ⟨keepWindows (.strand q c k) (pcTrigger s (.strand q c k)).1 u, ?_, by rw [hk, hu], by rw [hk, hu], fun n hn => ?_⟩
  · rw [form, performJump_error (gate_of_issues closing issues) (who ▸ hb), stopBehind_waits rfl, who]
    rfl
  · have sent := postQueries_onWay (src := t.strandId q c k) (l := l) hn w
    rw [show meshKey w (t.strandId q c k).q = meshKey v q from meshKey_updCtx ..] at sent
    exact OnWay.mono (by rw [keepWindows_md]; exact List.Subset.refl _) sent

/-- What a MIGR does that has not asked, by the candidates it finds. -/
theorem exec_migr_by_candidates :
    (qs = [] → ∃ r, exec i s = .next r ∧ r = finish (.strand q c k) (stayHere i d (.strand q c k) 1 v) ∧
      ((stayHere i d (.strand q c k) 1 v).ctx (.strand q c k)).outst = []) ∧
    (qs ≠ [] → ∃ r, exec i s = .next r ∧ (r.ctx (.strand q c k)).st = (v.ctx (.strand q c k)).st ∧
      (r.ctx (.strand q c k)).query = some { cands := qs, answers := [], back := [] } ∧
      ∀ n ∈ qs, OnWay q n (((z.ctx (.strand q c k)).launch).getD noLaunch) (meshKey v q)
        (fun h => .migrQuery (h, t.strandId q c k) n) r) :=
  ⟨fun empty => ⟨_, exec_migr_alone who unleased plain performed retired told unasked reads form closing found issues empty, rfl,
      stayHere_outst ..⟩,
    fun asked => exec_migr_asks who unleased plain performed retired told unasked reads form closing found issues asked⟩

end

/-- Settles O29: a MIGR goes by its requests first, then by the answers that are back, and else by its candidates. -/
theorem migrationForms : Obligations.MigrationForms := by
  unfold Obligations.MigrationForms
  intro d a s t z u x q c k pa m rest own
  generalize who : s.md.who = me
  intro me forms isStrand unleased plain performed l
  subst isStrand
  refine ⟨fun i hi runs issues => exec_migr_runs who unleased plain performed hi runs issues,
    fun i hi f l retired told stops => exec_migr_faults who unleased plain performed hi retired told stops,
    fun retired told => ⟨fun unasked reads => ⟨fun resolved issues => ?_, fun small found issues => ?_⟩, fun y hq back =>
      ⟨fun own i hi issues => exec_migr_stays who unleased plain performed retired told hi hq back own issues,
        fun other i hi issues => exec_migr_moves who unleased plain performed retired told hi hq back other issues⟩⟩⟩
  · refine exec_migr_by_candidates who unleased plain performed retired told unasked reads (fun _ => rfl) rfl ?_ issues
    simp only [me] at resolved
    simp only [resolved, ok_bind, beq_iff_eq]
    rfl
  · refine exec_migr_by_candidates who unleased plain performed retired told unasked reads (fun _ => rfl) rfl ?_ issues
    simp only [strandCore, small, decide_true, check_true, ok_bind]
    split <;> rename_i place <;> cases place.symm.trans found
    rfl

end Sys2Proof.Machine
end

section
namespace Sys2Proof.Machine
open Sys2Proof.Safety

/-! ## What keeps the list of launches

One rule per function, in the order of the model's files: `f_launches` says that `f` leaves the launches as they are. -/

theorem ite_launches {c : Prop} [Decidable c] {x : List Launch} {s t : State} (hs : s.launches = x) (ht : t.launches = x) :
    (if c then s else t).launches = x := by
  split <;> assumption

@[simp] theorem postAll_launches (es : List Instr) (s : State) : (postAll es s).launches = s.launches := by
  obtain ⟨-, -, h, -⟩ := (postAll_same es s).fields
  exact h

@[simp] theorem writePhys_launches (v : Via) (pa : Nat) (bs : List Byte) (s : State) :
    (writePhys v pa bs s).launches = s.launches := by
  obtain ⟨-, -, h, -⟩ := (writePhys_same v pa bs s).fields
  exact h

/-! ### Translation -/

@[simp] theorem cacheWalk_launches (sp : Space) (ea : Nat) (v : Word) (s : State) : (cacheWalk sp ea v s).launches = s.launches :=
  ite_launches rfl rfl

@[simp] theorem orBits_launches (by_ : Option Agent) (v : Via) (ea m : Nat) (s : State) :
    (orBits by_ v ea m s).launches = s.launches := by
  simp only [orBits]
  repeat' split
  all_goals simp

@[simp] theorem takeLeaf_launches (by_ : Option Agent) (p : Part) (sp : Space) (need : Access) (va : Word) (l ea : Nat) (e : Word)
    (s : State) : (takeLeaf by_ p sp need va l ea e s).2.launches = s.launches := by
  simp only [takeLeaf]
  repeat' split
  all_goals simp

@[simp] theorem walkFrom_launches (by_ : Option Agent) (p : Part) (sp : Space) (need : Access) (va : Word) (fuel l t : Nat)
    (s : State) : (walkFrom by_ p sp need va fuel l t s).2.launches = s.launches := by
  induction fuel generalizing l t s with
  | zero => rfl
  | succ fuel ih =>
    simp only [walkFrom]
    split
    · rfl
    · split
      · exact takeLeaf_launches ..
      · exact (ih _ _ _).trans (ite_launches (cacheWalk_launches ..) rfl)

@[simp] theorem walk_launches (by_ : Option Agent) (sp : Space) (need : Access) (va : Word) (s : State) :
    (walk by_ sp need va s).2.launches = s.launches := by
  simp only [walk, apply_ite Prod.snd]
  exact ite_launches rfl (ite_launches rfl (walkFrom_launches ..))

@[simp] theorem fillTlb_launches (t : TlbAt) (g : Nat) (e : TlbEnt) (s : State) : (fillTlb t g e s).launches = s.launches := by
  cases t <;> simp [fillTlb]

@[simp] theorem keepFound_launches (t : TlbAt) (sp : Space) (need : Access) (va : Word) (e : TlbEnt) (s : State) :
    (keepFound t sp need va e s).launches = s.launches := by
  simp only [keepFound]
  split
  · exact fillTlb_launches ..
  · exact ite_launches (fillTlb_launches ..) rfl

@[simp] theorem dropClean_launches (a : Agent) (s : State) : (dropClean a s).launches = s.launches := by
  cases a with
  | strand =>
    obtain ⟨-, -, h, -⟩ := (foldSectors_same (fun _ t => putLine_same _ t) _ s).fields
    exact h
  | hart | weir | cmd | sec => rfl

@[simp] theorem fenceFound_launches (t : TlbAt) (s : State) : (fenceFound t s).launches = s.launches := by
  simp only [fenceFound]
  split
  · rfl
  · exact ite_launches (by simp) rfl

theorem translate_launches {t : TlbAt} {refused : Option (BitVec 48 × Access)} {sp : Space} {need : Access} {va : Word} {s u : State}
    {pa : Nat} (h : translate t refused sp need va s = .ok (pa, u)) : u.launches = s.launches := by
  simp only [translate] at h
  split at h
  · cases h
    rfl
  · have hw := walk_launches (walkAgent s t) sp need va s
    split at h <;> rename_i hx <;> rw [hx] at hw
    · cases h
      simpa using hw
    · cases h
    · cases h
    all_goals split at h <;> cases h

@[simp] theorem setMonitor_launches (m : Monitor) (s : State) : (setMonitor m s).launches = s.launches := ite_launches rfl rfl

@[simp] theorem askPage_launches (sp : Space) (va : Word) (kind : Access) (ea : Nat) (s : State) :
    (askPage sp va kind ea s).launches = s.launches :=
  ite_launches (setMonitor_launches ..) (ite_launches (setMonitor_launches ..) (setMonitor_launches ..))

@[simp] theorem askGranule_launches (by_ : Option Agent) (sp : Space) (va : Word) (kind : Access) (s : State) :
    (askGranule by_ sp va kind s).launches = s.launches :=
  ite_launches (walk_launches ..) (ite_launches (walk_launches ..) (walk_launches ..))

/-! ### Accesses -/

@[simp] theorem xlatPiece_launches (w : Requester) (need : Access) (va : Word) (s : State) :
    (xlatPiece w need va s).2.launches = s.launches := by
  simp only [xlatPiece]
  split
  · split <;> rfl
  · split
    · rfl
    · split
      · exact translate_launches ‹_›
      · rfl

@[simp] theorem xlatPieces_launches (w : Requester) (need : Access) (va : Word) (l : List (Nat × Nat)) (s : State) :
    (xlatPieces w need va l s).2.launches = s.launches := by
  induction l generalizing s with
  | nil => rfl
  | cons p t ih => exact (ih _).trans (xlatPiece_launches ..)

theorem resolve_launches {w : Requester} {right : Right} {need : Access} {va : Word} {len : Nat} {s : State}
    {r : List (Nat × Nat) × State} (h : resolve w right need va len s = .ok r) : r.2.launches = s.launches := by
  simp only [resolve] at h
  repeat' split at h
  all_goals cases h
  exact xlatPieces_launches ..

@[simp] theorem writePieces_launches (v : Via) (l : List (Nat × Nat)) (bs : List Byte) (s : State) :
    (writePieces v l bs s).launches = s.launches := by
  induction l generalizing bs s with
  | nil => rfl
  | cons p t ih => exact (ih _ _).trans (ite_launches (writePhys_launches ..) rfl)

theorem plainWrite_launches {w : Requester} {l1 : Option (Fin 64 × Fin 4)} {va : Word} {bs : List Byte} {s u : State}
    (h : plainWrite w l1 va bs s = .ok u) : u.launches = s.launches := by
  simp only [plainWrite] at h
  cases hr : resolve w .w .write va bs.length s with
  | error e =>
    rw [hr, error_bind] at h
    cases h
  | ok r =>
    rw [hr, ok_bind] at h
    cases h
    exact (writePieces_launches ..).trans (resolve_launches hr)

/-! ### The slot's own writes, and what a completion counts -/

theorem askWrite_launches {i : Fin 16} {e : Stop} {s t : State} (h : askWrite i e s = some t) : t.launches = s.launches := by
  simp only [askWrite] at h
  split at h <;> cases h <;> simp

theorem rawPut_launches {i : Fin 16} {va : Word} {bs : List Byte} {s t : State} (h : rawPut i va bs s = some t) :
    t.launches = s.launches := by
  simp only [rawPut] at h
  split at h
  · cases h
    rfl
  split at h
  · cases h
    have hw := plainWrite_launches ‹_›
    exact ite_launches hw hw
  · obtain ⟨u, hu, rfl⟩ := Option.map_eq_some_iff.mp h
    exact (State.updSlot_launches ..).trans (askWrite_launches hu)

@[simp] theorem getD_rawPut_launches (i : Fin 16) (va : Word) (bs : List Byte) (s : State) :
    ((rawPut i va bs s).getD s).launches = s.launches := by
  cases h : rawPut i va bs s with
  | none => rfl
  | some t => exact rawPut_launches h

@[simp] theorem queueFault_launches (i : Fin 16) (code : Nat) (s : State) : (queueFault i code s).launches = s.launches := by
  refine ite_launches rfl ?_
  simp only [enterFault, post_launches, getD_rawPut_launches]
  rfl

@[simp] theorem putQcb_launches (i : Fin 16) (off len v : Nat) (s : State) : (putQcb i off len v s).launches = s.launches := by
  rw [putQcb, slotPut]
  split
  · exact rawPut_launches ‹_›
  · exact queueFault_launches ..

@[simp] theorem bumpGraph_launches (i : Fin 16) (s : State) : (bumpGraph i s).launches = s.launches := putQcb_launches ..

@[simp] theorem bumpPhase_launches (i : Fin 16) (s : State) : (bumpPhase i s).launches = s.launches := putQcb_launches ..

@[simp] theorem bumpDone_launches (i : Fin 16) (s : State) : (bumpDone i s).launches = s.launches := putQcb_launches ..

@[simp] theorem closeLevels_launches (y : Launch) (s : State) : (closeLevels y s).launches = s.launches := by
  fun_cases closeLevels y s <;> simp +zetaDelta [apply_ite State.launches]

@[simp] theorem setJob_launches (p : Fin 64) (job : Nat) (f : JobEnt → JobEnt) (s : State) :
    (setJob p job f s).launches = s.launches :=
  ite_launches rfl (writePhys_launches ..)

@[simp] theorem pokeLaunches_launches (s : State) : (pokeLaunches s).launches = s.launches := postAll_launches ..

end Sys2Proof.Machine
end

section
namespace Sys2Proof.Machine
open Sys2Proof.Safety

/-! ## Launches in the list (R13, R14) -/

theorem launch_id {s : State} {l : LaunchId} {y : Launch} (h : s.launch l = some y) : y.id = l := by
  simpa using List.find?_some h

/-- A launch after an update of it that keeps its identity. -/
theorem launch_updLaunch_same (s : State) (l : LaunchId) (g : Launch → Launch) (hg : ∀ z, (g z).id = z.id) :
    (s.updLaunch l g).launch l = (s.launch l).map g := by
  have same : ((fun x : Launch => x.id == l) ∘ fun x => if x.id == l then g x else x) = fun x : Launch => x.id == l := by
    funext x
    simp only [Function.comp_apply]
    split <;> simp [hg]
  rw [State.launch, State.updLaunch, List.find?_map, same, State.launch]
  cases h : s.launches.find? fun x => x.id == l with
  | none => rfl
  | some y => simp [show y.id = l from launch_id h]

theorem launch_congr {s t : State} (h : t.launches = s.launches) (l : LaunchId) : t.launch l = s.launch l := by
  rw [State.launch, h, State.launch]

/-! ## The tiles bound to a launch's handles (R94, R95) -/

/-- The shape of the tile that a handle of a launch is bound to on a quad. -/
def Quad.boundShape (x : Quad) (l : LaunchId) (h : Fin 64) : Option Word := (x.find l h).map fun e => e.2.shape

theorem Quad.boundShape_congr {x y : Quad} (h : y.tiles = x.tiles) (l : LaunchId) (hd : Fin 64) :
    y.boundShape l hd = x.boundShape l hd := by
  rw [Quad.boundShape, Quad.find, h, Quad.boundShape, Quad.find]

theorem Quad.boundShape_eq_some {x : Quad} {l : LaunchId} {hd : Fin 64} {w : Word} (h : x.boundShape l hd = some w) :
    ∃ n tl, x.find l hd = some (n, tl) ∧ tl.shape = w := by
  obtain ⟨⟨n, tl⟩, hf, hw⟩ := Option.map_eq_some_iff.mp h
  exact ⟨n, tl, hf, hw⟩

theorem Quad.boundShape_eq_none {x : Quad} {l : LaunchId} {hd : Fin 64} : x.boundShape l hd = none ↔ x.find l hd = none :=
  Option.map_eq_none_iff

/-- A tile generation is taken from a quad: its tiles may take other generations in a sweep, and are the same tiles (R102). -/
theorem takeGen_tiles (q r : Fin 64) (s : State) :
    ∃ g : Nat × Tile → Gen,
      ((takeGen q s).2.quads.get r).tiles = (s.quads.get r).tiles.map fun e => (e.1, { e.2 with gen := g e }) := by
  have kept : (s.quads.get r).tiles = (s.quads.get r).tiles.map fun e => (e.1, { e.2 with gen := e.2.gen }) := by simp
  simp only [takeGen]
  split
  · refine ⟨fun e => e.2.gen, ?_⟩
    rw [← kept]
    simp only [State.quads_updQuad]
    split <;> simp_all
  · by_cases e : r = q
    · subst e
      refine ⟨fun e => sweepGen (s.quads.get r).tiles e.1, ?_⟩
      simp [State.quads_updQuad, sweep, sweepQuad]
    · refine ⟨fun e => e.2.gen, ?_⟩
      rw [← kept]
      simp [State.quads_updQuad, sweep, e]

theorem takeGen_boundShape (q r : Fin 64) (s : State) (l : LaunchId) (h : Fin 64) :
    ((takeGen q s).2.quads.get r).boundShape l h = (s.quads.get r).boundShape l h := by
  obtain ⟨g, hg⟩ := takeGen_tiles q r s
  rw [Quad.boundShape, Quad.find, hg, List.find?_map, Quad.boundShape, Quad.find, Option.map_map]
  rfl

theorem takeGen_launches (q : Fin 64) (s : State) : (takeGen q s).2.launches = s.launches := by
  simp only [takeGen]
  split <;> rfl

/-- A free place stays free when a tile generation is taken. -/
theorem takeGen_lookup {q r : Fin 64} {s : State} {k : Nat} (h : lookupNat (s.quads.get r).tiles k = none) :
    lookupNat ((takeGen q s).2.quads.get r).tiles k = none := by
  obtain ⟨g, hg⟩ := takeGen_tiles q r s
  rw [hg]
  generalize (s.quads.get r).tiles = xs at h
  induction xs with
  | nil => rfl
  | cons e xs ih =>
    simp only [List.map_cons, lookupNat] at h ⊢
    split at h
    · cases h
    · rw [if_neg ‹_›]
      exact ih h

/-- What a search finds once something stands in a free place: that, where it is sought and nothing else was found. -/
theorem find?_insertNat {α : Type} {p : Nat × α → Bool} {xs : List (Nat × α)} {k : Nat} {v : α} (free : lookupNat xs k = none)
    (one : p (k, v) = true → xs.find? p = none) :
    (insertNat xs k v).find? p = if p (k, v) then some (k, v) else xs.find? p := by
  induction xs with
  | nil =>
    simp only [insertNat, List.find?_cons, List.find?_nil]
    split <;> simp_all
  | cons e xs ih =>
    simp only [lookupNat] at free
    split at free
    · cases free
    · rename_i other
      simp only [insertNat]
      split
      · rw [List.find?_cons]
        split <;> simp_all
      · rw [List.find?_cons, List.find?_cons]
        cases he : p e with
        | true => simp_all
        | false => simpa [he] using ih free fun h => by simpa [he] using one h

theorem Quad.freeEntry_free {x : Quad} {e : Nat} (h : x.freeEntry = some e) : lookupNat x.tiles e = none := by
  simpa using List.find?_some h

/-- A tile that takes a free entry of a quad under a handle that is not bound: the handle is bound to it, and no other changes. -/
theorem Quad.boundShape_insert {x y : Quad} {k : Nat} {t : Tile} (free : lookupNat x.tiles k = none)
    (tiles : y.tiles = insertNat x.tiles k t) (used : t.freeing = false) (unbound : x.boundShape t.launch t.handle = none)
    (h : Fin 64) : y.boundShape t.launch h = if h = t.handle then some t.shape else x.boundShape t.launch h := by
  have named : (t.launch == t.launch && t.handle == h && !t.freeing) = (t.handle == h) := by simp [used]
  rw [Quad.boundShape, Quad.find, tiles, find?_insertNat free]
  · simp only [named, beq_iff_eq]
    by_cases hk : h = t.handle
    · simp [hk]
    · rw [if_neg (fun e => hk e.symm), if_neg hk, Quad.boundShape, Quad.find]
  · intro hp
    have hk : t.handle = h := by simpa only [named, beq_iff_eq] using hp
    exact hk ▸ Quad.boundShape_eq_none.mp unbound

/-- An allocation that succeeds found its handle unbound; one of some rows and columns takes a generation and a free entry of the
quad for its tile, and one of none does nothing (R95, R102, R272). -/
theorem allocTile_cases {q : Fin 64} {l : LaunchId} {h : Fin 64} {w : Word} {s u : State} (ok : allocTile q l h w s = .ok u) :
    (s.quads.get q).boundShape l h = none ∧
    ((shRows w = 0 ∨ shCols w = 0) ∧ u = s ∨
      ∃ e t n, lookupNat (s.quads.get q).tiles e = none ∧ t.launch = l ∧ t.handle = h ∧ t.shape = w ∧ t.freeing = false ∧
        u = (takeGen q s).2.updQuad q fun y => { y with tiles := insertNat y.tiles e t, sbNext := n }) := by
  simp only [allocTile] at ok
  split at ok
  · cases ok
  rename_i unbound
  refine ⟨Quad.boundShape_eq_none.mpr (by simp_all), ?_⟩
  split at ok
  · cases ok
    exact .inl ⟨by simp_all, rfl⟩
  split at ok
  · cases ok
  split at ok
  · cases ok
  split at ok
  · rename_i e base free _
    cases ok
    exact .inr ⟨e, _, _, Quad.freeEntry_free free, rfl, rfl, rfl, rfl, by
      simp only [State.updQuad]
      rfl⟩
  · cases ok

/-- What an allocation that succeeds leaves bound: its tile if that has rows and columns, and all that was bound. -/
theorem allocTile_ok {q : Fin 64} {l : LaunchId} {h : Fin 64} {w : Word} {s u : State} (ok : allocTile q l h w s = .ok u) :
    (s.quads.get q).boundShape l h = none ∧
    ((shRows w = 0 ∨ shCols w = 0) ∧ u = s ∨
      u.launches = s.launches ∧ ∀ r k,
        (u.quads.get r).boundShape l k = if r = q ∧ k = h then some w else (s.quads.get r).boundShape l k) := by
  obtain ⟨unbound, empty | ⟨e, t, n, free, rfl, rfl, rfl, used, rfl⟩⟩ := allocTile_cases ok
  · exact ⟨unbound, .inl empty⟩
  · refine ⟨unbound, .inr ⟨by rw [State.updQuad_launches, takeGen_launches], fun r k => ?_⟩⟩
    rw [State.quads_updQuad]
    by_cases hr : r = q
    · subst hr
      rw [if_pos rfl, Quad.boundShape_insert (takeGen_lookup free) rfl used (by rw [takeGen_boundShape, unbound]),
        takeGen_boundShape]
      simp only [true_and]
    · rw [if_neg hr, if_neg fun e => hr e.1, takeGen_boundShape]

/-- From `s` to `u` only allocations for launch `l` have been made: the launches stand as they did, and every handle of it that was
bound is bound in the same shape. -/
structure Allocated (l : LaunchId) (s u : State) : Prop where
  launches : u.launches = s.launches
  keeps : ∀ q h w, (s.quads.get q).boundShape l h = some w → (u.quads.get q).boundShape l h = some w

theorem Allocated.refl (l : LaunchId) (s : State) : Allocated l s s := ⟨rfl, fun _ _ _ h => h⟩

theorem Allocated.trans {l : LaunchId} {s t u : State} (h : Allocated l s t) (k : Allocated l t u) : Allocated l s u :=
  ⟨k.launches.trans h.launches, fun q hd w hw => k.keeps q hd w (h.keeps q hd w hw)⟩

theorem allocTile_allocated {q : Fin 64} {l : LaunchId} {h : Fin 64} {w : Word} {s u : State} (ok : allocTile q l h w s = .ok u) :
    Allocated l s u := by
  obtain ⟨unbound, ⟨-, rfl⟩ | ⟨hl, hb⟩⟩ := allocTile_ok ok
  · exact .refl l u
  · refine ⟨hl, fun r k x hx => ?_⟩
    rw [hb, if_neg, hx]
    rintro ⟨rfl, rfl⟩
    rw [unbound] at hx
    cases hx

theorem allocTile_binds {q : Fin 64} {l : LaunchId} {h : Fin 64} {w : Word} {s u : State} (ok : allocTile q l h w s = .ok u)
    (rows : shRows w ≠ 0) (cols : shCols w ≠ 0) : (u.quads.get q).boundShape l h = some w := by
  obtain ⟨-, ⟨hz, -⟩ | ⟨-, hb⟩⟩ := allocTile_ok ok
  · simp [rows, cols] at hz
  · rw [hb, if_pos ⟨rfl, rfl⟩]

/-- The tiles of a list allocated on a quad: each that has rows and columns is bound there, launch-wide ones on the first quad. -/
theorem allocList_ok {l : LaunchId} {q : Fin 64} {first : Bool} {ts : List (Fin 64 × Word)} {s u : State}
    (ok : allocList l q first ts s = .ok u) :
    Allocated l s u ∧ ∀ e ∈ ts, shRows e.2 ≠ 0 → shCols e.2 ≠ 0 → launchWide e.1 = false ∨ first = true →
      (u.quads.get q).boundShape l e.1 = some e.2 := by
  induction ts generalizing s with
  | nil =>
    cases ok
    exact ⟨.refl l _, by simp⟩
  | cons e ts ih =>
    rw [allocList] at ok
    split at ok
    · rename_i wide
      obtain ⟨ha, hb⟩ := ih ok
      refine ⟨ha, List.forall_mem_cons.mpr ⟨fun _ _ here => ?_, hb⟩⟩
      simp_all
    · split at ok
      · rename_i v hv
        obtain ⟨ha, hb⟩ := ih ok
        exact ⟨(allocTile_allocated hv).trans ha,
          List.forall_mem_cons.mpr ⟨fun rows cols _ => ha.keeps _ _ _ (allocTile_binds hv rows cols), hb⟩⟩
      · cases ok

/-- The tiles of a launch allocated on its quads (R95). -/
theorem allocQuads_ok {l : LaunchId} {ts : List (Fin 64 × Word)} {first : Bool} {qs : List (Fin 64)} {s u : State}
    (ok : allocQuads l ts first qs s = .ok u) :
    Allocated l s u ∧ ∀ q ∈ qs, ∀ e ∈ ts, shRows e.2 ≠ 0 → shCols e.2 ≠ 0 →
      launchWide e.1 = false ∨ (first = true ∧ qs.head? = some q) → (u.quads.get q).boundShape l e.1 = some e.2 := by
  induction qs generalizing first s with
  | nil =>
    cases ok
    exact ⟨.refl l _, by simp⟩
  | cons q qs ih =>
    rw [allocQuads] at ok
    split at ok
    · rename_i v hv
      obtain ⟨ha, hb⟩ := allocList_ok hv
      obtain ⟨hc, hd⟩ := ih ok
      refine ⟨ha.trans hc, List.forall_mem_cons.mpr ⟨fun e he rows cols here => ?_, fun r hr e he rows cols here => ?_⟩⟩
      · exact hc.keeps _ _ _ (hb e he rows cols (here.imp_right fun h => h.1))
      · rcases here with narrow | ⟨hf, hq⟩
        · exact hd r hr e he rows cols (.inl narrow)
        · cases hq
          exact hc.keeps _ _ _ (hb e he rows cols (.inr hf))
    · cases ok

end Sys2Proof.Machine
end

section
namespace Sys2Proof.Machine
open Sys2Proof.Safety

/-! ## A launch that starts (R305, R307, R32, R95, R345) -/

theorem foldl_keeps {α β : Type} (g : State → β) {f : State → α → State} (hf : ∀ s x, g (f s x) = g s) (l : List α)
    (s : State) : g (l.foldl f s) = g s := by
  induction l generalizing s with
  | nil => rfl
  | cons x t ih => rw [List.foldl_cons, ih, hf]

theorem updCore_tiles (s : State) (q : Fin 64) (c : Fin 4) (g : Core → Core) (r : Fin 64) :
    ((s.updCore q c g).quads.get r).tiles = (s.quads.get r).tiles := by
  simp only [State.updCore, State.quads_updQuad]
  split <;> simp_all [Quad.updCore]

/-- Local time that begins changes what its launch counts, and no other launch. -/
theorem beginTime_launches (y : Launch) (qs : List (Fin 64)) (s : State) :
    (beginTime y qs s).launches = (s.updLaunch y.id fun z =>
      { z with inflight := z.inflight + (dispatchedEvents y qs).length, distributed := true }).launches := by
  simp only [beginTime, postAll_launches, State.updLaunch]
  exact congrArg (List.map _) (foldl_keeps State.launches (fun _ _ => State.updCore_launches ..) _ _)

theorem beginTime_tiles (y : Launch) (qs : List (Fin 64)) (s : State) (r : Fin 64) :
    ((beginTime y qs s).quads.get r).tiles = (s.quads.get r).tiles := by
  obtain ⟨hq, -⟩ := (postAll_same _ _).fields
  rw [beginTime, hq, State.updLaunch_quads]
  exact foldl_keeps (fun t : State => (t.quads.get r).tiles) (fun _ _ => updCore_tiles ..) _ _

/-- The launch with the mask that its slot leaves it (R336). -/
def Launch.narrowed (y : Launch) (s : State) : Launch := { y with qmask := y.qmask &&& (s.slots.get y.id.hwq).qmask }

/-- The state in which it has that mask. -/
def narrowIn (y : Launch) (s : State) : State :=
  s.updLaunch y.id fun z => { z with qmask := y.qmask &&& (s.slots.get y.id.hwq).qmask }

theorem narrowIn_ctx (y : Launch) (s : State) (a : Agent) : (narrowIn y s).ctx a = s.ctx a := State.ctx_updLaunch ..

/-- A launch whose tiles are allocated begins: in local time on its cores, or by its distributors (R345, R33). -/
def launchBegun (y : Launch) (qs : List (Fin 64)) (s : State) : State :=
  let t := s.updLaunch y.id fun z => { z with accepted := true, next := qs.map fun _ => 0 }
  if y.rec_.ltm then post (.launchComplete y.id) (beginTime y qs t) else post (.launchDistribution y.id) t

/-- A launch may start: its partition's state, its mask and its slot's mask allow it (R388, R305, R336). -/
def startAllowed (y : Launch) (s : State) : Prop :=
  dispatchAllowed s (pIdx y.part) = true ∧ maskOk s y = true ∧ y.qmask &&& (s.slots.get y.id.hwq).qmask ≠ 0

/-- A launch that may not start is refused at once. -/
theorem startLaunch_refuses {y : Launch} {s : State} (h : ¬ startAllowed y s) : startLaunch y s = refuseLaunch y.id 0 0 s := by
  simp only [startLaunch]
  by_cases barred : (!dispatchAllowed s (pIdx y.part) || !maskOk s y) = true
  · rw [if_pos barred]
  · have apart : (y.qmask &&& (s.slots.get y.id.hwq).qmask == 0) = true := by simp_all [startAllowed]
    rw [if_neg barred, if_pos apart]

/-- The checks of a launch that may start, in their order. -/
theorem startLaunch_allowed {y : Launch} {s : State} (h : startAllowed y s) :
    startLaunch y s =
      let w := y.narrowed s
      let v := narrowIn y s
      let qs := launchQuads v w
      if quadsBusy v w || timeTaken v w qs then v
      else if y.rec_.ltm && !chansOk w.qmask y.chans then refuseLaunch y.id 6 0 v
      else if y.rec_.ltm && hasZeroCycle y.chans then refuseLaunch y.id 9 1 v
      else match allocQuads y.id y.rec_.tiles true qs v with
        | .error _ => refuseLaunch y.id 6 0 (freeTiles y.id v)
        | .ok u => launchBegun w qs u := by
  obtain ⟨allowed, mask, shared⟩ := h
  simp only [startLaunch, allowed, mask, Bool.not_true, Bool.or_self, Bool.false_eq_true, if_false,
    beq_eq_false_iff_ne.mpr shared]
  rfl

/-- A launch that is refused: it completes with this reason, and no strand has been made or changed (R344). -/
def LaunchRefused (l : LaunchId) (kind cause : BitVec 8) (s t : State) : Prop :=
  .launchComplete l ∈ t.md.inflight ∧
  (∀ z, t.launch l = some z → z.refused = true ∧ z.accepted = true ∧ z.kind = kind ∧ z.cause = cause) ∧
  ∀ a : Agent, t.ctx a = s.ctx a

theorem refuseLaunch_refused (l : LaunchId) (kind cause : Nat) (s : State) :
    LaunchRefused l (BitVec.ofNat 8 kind) (BitVec.ofNat 8 cause) s (refuseLaunch l kind cause s) := by
  refine ⟨by simp [refuseLaunch], fun z hz => ?_, fun a => by rw [refuseLaunch, post_ctx, State.ctx_updLaunch]⟩
  rw [refuseLaunch, launch_congr (post_launches _ _), launch_updLaunch_same _ _ _ (by simp)] at hz
  obtain ⟨x, -, rfl⟩ := Option.map_eq_some_iff.mp hz
  exact ⟨rfl, rfl, rfl, rfl⟩

theorem LaunchRefused.from {l : LaunchId} {kind cause : BitVec 8} {s t u : State} (h : LaunchRefused l kind cause t u)
    (same : ∀ a, t.ctx a = s.ctx a) : LaunchRefused l kind cause s u :=
  ⟨h.1, h.2.1, fun a => (h.2.2 a).trans (same a)⟩

/-- Freeing tiles changes no context. -/
theorem freeTiles_ctx (l : LaunchId) (s : State) (a : Agent) : (freeTiles l s).ctx a = s.ctx a := by
  have kept (q : Fin 64) : ((freeTiles l s).quads.get q).cores = (s.quads.get q).cores ∧
      ((freeTiles l s).quads.get q).harts = (s.quads.get q).harts := by
    simp only [freeTiles, Vector.each, Vector.get_ofFn]
    split <;> exact ⟨rfl, rfl⟩
  cases a with
  | strand q c k => simp only [State.ctx, State.core, (kept q).1]
  | hart q i => simp only [State.ctx, (kept q).2]
  | weir _ | cmd _ | sec => simp only [State.ctx, freeTiles]

/-- A launch that begins is accepted, and as little refused as it was. -/
theorem launchBegun_launch {y z x : Launch} {qs : List (Fin 64)} {s : State} (hx : s.launch y.id = some x)
    (hz : (launchBegun y qs s).launch y.id = some z) : z.accepted = true ∧ z.refused = x.refused := by
  simp only [launchBegun] at hz
  split at hz
  · rw [launch_congr (post_launches _ _), launch_congr (beginTime_launches ..), launch_updLaunch_same _ _ _ (by simp),
      launch_updLaunch_same _ _ _ (by simp), hx] at hz
    cases hz
    exact ⟨rfl, rfl⟩
  · rw [launch_congr (post_launches _ _), launch_updLaunch_same _ _ _ (by simp), hx] at hz
    cases hz
    exact ⟨rfl, rfl⟩

theorem launchBegun_tiles (y : Launch) (qs : List (Fin 64)) (s : State) (r : Fin 64) :
    ((launchBegun y qs s).quads.get r).tiles = (s.quads.get r).tiles := by
  simp only [launchBegun]
  split
  · rw [post_quads, beginTime_tiles, State.updLaunch_quads]
  · rw [post_quads, State.updLaunch_quads]

section
variable {s : State} {y : Launch} (found : s.launch y.id = some y)
include found

/-- A launch that is cancelled or refused completes with nothing sent. -/
theorem execLaunchDistribution_over (h : y.cancelled = true ∨ y.refused = true) :
    ∃ t, execLaunchDistribution y.id s = .next t ∧ .launchComplete y.id ∈ t.md.inflight := by
  refine ⟨_, by simp only [execLaunchDistribution, found, Bool.or_eq_true, h, if_true]; rfl, by simp⟩

/-- The quads of an accepted launch that take no dispatch keep it waiting (R351, R367, R295). -/
theorem execLaunchDistribution_waits (live : y.cancelled = false) (going : y.refused = false) (begun : y.accepted = true)
    (busy : quadsBusy s y = true) : execLaunchDistribution y.id s = .next s := by
  simp only [execLaunchDistribution, found, live, going, begun, busy]
  rfl

/-- The distributors of an accepted launch send, each its next strand (R345). -/
theorem execLaunchDistribution_sends (live : y.cancelled = false) (going : y.refused = false) (begun : y.accepted = true)
    (free : quadsBusy s y = false) (kept : y.todo = []) (plain : y.rec_.ltm = false) :
    execLaunchDistribution y.id s =
      let t := sendNext y.id (launchQuads s y).length (launchQuads s y) 0 s
      .next (post (.launchComplete y.id) (t.updLaunch y.id fun z =>
        { z with distributed := match t.launch y.id with | some z => allSent t z | none => true })) := by
  simp only [execLaunchDistribution, found, live, going, begun, free, kept, plain]
  rfl

section
variable (begins : y.cancelled = false ∧ y.refused = false ∧ y.accepted = false)
include begins

theorem execLaunchDistribution_starts : execLaunchDistribution y.id s = .next (startLaunch y s) := by
  obtain ⟨live, going, new⟩ := begins
  simp only [execLaunchDistribution, found, live, going, new]
  rfl

/-- A launch that may not start ends REFUSED with KIND 0. -/
theorem execLaunchDistribution_refuses (h : ¬ startAllowed y s) :
    ∃ t, execLaunchDistribution y.id s = .next t ∧ LaunchRefused y.id 0 0 s t := by
  refine ⟨_, by rw [execLaunchDistribution_starts found begins, startLaunch_refuses h], ?_⟩
  exact refuseLaunch_refused y.id 0 0 s

variable (allowed : startAllowed y s)
include allowed

/-- A launch whose quads are not free for it waits, with the mask that its slot leaves it. -/
theorem execLaunchDistribution_holds
    (h : quadsBusy (narrowIn y s) (y.narrowed s) = true ∨
      timeTaken (narrowIn y s) (y.narrowed s) (launchQuads (narrowIn y s) (y.narrowed s)) = true) :
    execLaunchDistribution y.id s = .next (narrowIn y s) := by
  rw [execLaunchDistribution_starts found begins, startLaunch_allowed allowed]
  simp only [Bool.or_eq_true, h, if_true]

variable (free : quadsBusy (narrowIn y s) (y.narrowed s) = false)
  (first : timeTaken (narrowIn y s) (y.narrowed s) (launchQuads (narrowIn y s) (y.narrowed s)) = false)
include free first

/-- A channel table that is refused (R307). -/
theorem execLaunchDistribution_badChannels (ltm : y.rec_.ltm = true) (bad : chansOk (y.narrowed s).qmask y.chans = false) :
    ∃ t, execLaunchDistribution y.id s = .next t ∧ LaunchRefused y.id 6 0 s t := by
  refine ⟨refuseLaunch y.id 6 0 (narrowIn y s), ?_, (refuseLaunch_refused ..).from (narrowIn_ctx y s)⟩
  rw [execLaunchDistribution_starts found begins, startLaunch_allowed allowed]
  simp only [free, first, ltm, bad]
  rfl

/-- A cycle of channels with lookahead sum 0 (R32). -/
theorem execLaunchDistribution_zeroCycle (ltm : y.rec_.ltm = true) (ok : chansOk (y.narrowed s).qmask y.chans = true)
    (cycle : hasZeroCycle y.chans = true) :
    ∃ t, execLaunchDistribution y.id s = .next t ∧ LaunchRefused y.id 9 1 s t := by
  refine ⟨refuseLaunch y.id 9 1 (narrowIn y s), ?_, (refuseLaunch_refused ..).from (narrowIn_ctx y s)⟩
  rw [execLaunchDistribution_starts found begins, startLaunch_allowed allowed]
  simp only [free, first, ltm, ok, cycle]
  rfl

variable (channels : y.rec_.ltm = false ∨ (chansOk (y.narrowed s).qmask y.chans = true ∧ hasZeroCycle y.chans = false))
include channels

/-- With its channels in order a launch goes by its tiles. -/
theorem execLaunchDistribution_tiles :
    execLaunchDistribution y.id s =
      .next (match allocQuads y.id y.rec_.tiles true (launchQuads (narrowIn y s) (y.narrowed s)) (narrowIn y s) with
        | .error _ => refuseLaunch y.id 6 0 (freeTiles y.id (narrowIn y s))
        | .ok u => launchBegun (y.narrowed s) (launchQuads (narrowIn y s) (y.narrowed s)) u) := by
  rw [execLaunchDistribution_starts found begins, startLaunch_allowed allowed]
  rcases channels with plain | ⟨ok, acyclic⟩
  · simp only [free, first, plain]
    rfl
  · simp only [free, first, ok, acyclic, Bool.not_true, Bool.and_false]
    rfl

/-- Tiles that are refused (R95). -/
theorem execLaunchDistribution_badTiles {e : Stop}
    (h : allocQuads y.id y.rec_.tiles true (launchQuads (narrowIn y s) (y.narrowed s)) (narrowIn y s) = .error e) :
    ∃ t, execLaunchDistribution y.id s = .next t ∧ LaunchRefused y.id 6 0 s t := by
  refine ⟨refuseLaunch y.id 6 0 (freeTiles y.id (narrowIn y s)), ?_,
    (refuseLaunch_refused ..).from fun a => (freeTiles_ctx ..).trans (narrowIn_ctx y s a)⟩
  rw [execLaunchDistribution_tiles found begins allowed free first channels, h]

/-- A launch that begins is accepted, and has its tiles. -/
theorem execLaunchDistribution_begins {u : State}
    (h : allocQuads y.id y.rec_.tiles true (launchQuads (narrowIn y s) (y.narrowed s)) (narrowIn y s) = .ok u) :
    ∃ t, execLaunchDistribution y.id s = .next t ∧ (∀ z, t.launch y.id = some z → z.accepted = true ∧ z.refused = false) ∧
      ∀ q ∈ launchQuads (narrowIn y s) (y.narrowed s), ∀ e ∈ y.rec_.tiles, shRows e.2 ≠ 0 → shCols e.2 ≠ 0 →
        launchWide e.1 = false ∨ (launchQuads (narrowIn y s) (y.narrowed s)).head? = some q →
        ∃ n tl, (t.quads.get q).find y.id e.1 = some (n, tl) ∧ tl.shape = e.2 := by
  obtain ⟨alloc, bound⟩ := allocQuads_ok h
  refine ⟨launchBegun (y.narrowed s) (launchQuads (narrowIn y s) (y.narrowed s)) u, ?_, fun z hz => ?_,
    fun q hq e he rows cols here => ?_⟩
  · rw [execLaunchDistribution_tiles found begins allowed free first channels, h]
  · have hu : u.launch y.id = some (y.narrowed s) := by
      rw [launch_congr alloc.launches, narrowIn, launch_updLaunch_same _ _ _ (by simp), found]
      rfl
    obtain ⟨ha, hr⟩ := launchBegun_launch hu hz
    exact ⟨ha, hr.trans begins.2.1⟩
  · refine Quad.boundShape_eq_some ?_
    rw [Quad.boundShape_congr (launchBegun_tiles ..)]
    exact bound q hq e he rows cols (here.imp_right fun h => ⟨rfl, h⟩)

end
end

/-! ## A launch that completes (R13, R14, R344) -/

/-- A launch that has left is not in the list. -/
theorem endLaunch_gone (y : Launch) (s : State) : (endLaunch y s).launch y.id = none := by
  have left : ∃ t : State, (endLaunch y s).launches = t.launches.filter fun z => z.id != y.id := by
    refine ⟨releaseBarriers y.id (freeTiles y.id (dropTime y.id (killStrands (slotsOf s y.id) s))), ?_⟩
    simp only [endLaunch, pokeLaunches_launches, apply_ite State.launches, post_launches, ite_self, setJob_launches,
      closeLevels_launches, bumpDone_launches]
  obtain ⟨t, ht⟩ := left
  rw [State.launch, ht, List.find?_eq_none]
  intro z hz
  simpa using (List.mem_filter.mp hz).2

section
variable {s : State} {y : Launch} (found : s.launch y.id = some y)
include found

/-- A launch with something outstanding, or a write of its slot held, does not complete. -/
theorem execLaunchComplete_waits (h : launchBusy s y = true ∨ (s.slots.get y.id.hwq).writesHeld = true) :
    execLaunchComplete y.id s = .next s := by
  simp only [execLaunchComplete, found, Bool.or_eq_true, h, if_true]

/-- One with nothing left writes its record, and leaves once it is written. -/
theorem execLaunchComplete_records (idle : launchBusy s y = false) (written : (s.slots.get y.id.hwq).writesHeld = false) :
    execLaunchComplete y.id s =
      let r := writeRecord { y with framesDropped := y.framesDropped || !(slotsOf s y.id).isEmpty } s
      .next (if r.1 then endLaunch y r.2 else r.2) := by
  simp only [execLaunchComplete, found, idle, written]
  rfl

end

/-- Settles O51: a launch's checks in their order, what its tiles and its record leave, and its strands' messages and arguments. -/
theorem launchEvents : Obligations.LaunchEvents := by
  unfold Obligations.LaunchEvents
  intro s l y found
  obtain rfl := launch_id found
  refine ⟨fun begins h => execLaunchDistribution_refuses found begins h,
    ⟨fun begins ok h => execLaunchDistribution_holds found begins ok h,
      fun begins ok free first => ⟨fun ltm bad => execLaunchDistribution_badChannels found begins ok free first ltm bad,
        fun ltm good cycle => execLaunchDistribution_zeroCycle found begins ok free first ltm good cycle,
        fun channels => ⟨fun e h => execLaunchDistribution_badTiles found begins ok free first channels h,
          fun u h => execLaunchDistribution_begins found begins ok free first channels h⟩⟩⟩,
    fun h => execLaunchDistribution_over found h,
    fun live going begun busy => execLaunchDistribution_waits found live going begun busy,
    fun live going begun free kept plain => execLaunchDistribution_sends found live going begun free kept plain,
    fun h => execLaunchComplete_waits found h, fun idle written => ?_,
    fun q c n => ⟨rfl, rfl, rfl, rfl, rfl, rfl⟩, fun k n => ?_⟩
  · have ends := execLaunchComplete_records found idle written
    refine ⟨fun done => ⟨_, ends.trans (congrArg _ (if_pos done)), rfl, endLaunch_gone ..⟩, fun held => ?_⟩
    exact ends.trans (congrArg _ (if_neg (by simp [held])))
  · refine ⟨fun h => ?_, fun h => ?_, fun h => ?_⟩ <;> simp only [strandArg, h]

end Sys2Proof.Machine
end

section
namespace Sys2Proof.Machine
open Sys2Proof.Safety

/-! ## The register fields: what a source reads and a destination writes (R44 to R46) -/

theorem genCheck_current (strict : Bool) (g : Gen) (v : Word) : genCheck strict g v g = .ok v := by simp [genCheck]

/-- A register of another generation raises UNINIT in a strict launch, and reads 0 in another (R45). -/
theorem genCheck_stale {g t : Gen} (h : t ≠ g) (strict : Bool) (v : Word) :
    genCheck strict g v t = if strict then uninit else .ok 0 := by
  simp [genCheck, h]

theorem readSrc_n (s : State) (a : Agent) (i : Fin 16) :
    readSrc s a (.n i) = genCheck (s.strict a) (s.ctx a).gen ((s.arch a).n.get i).data ((s.arch a).n.get i).tag := rfl

theorem readSrc_q (s : State) (a : Agent) (i : Fin 16) :
    readSrc s a (.q i) = genCheck (s.strict a) (s.ctx a).gen ((s.arch a).q.get i).data ((s.arch a).q.get i).tag := rfl

theorem Arch.setN_n (y : Arch) (i j : Fin 16) (v : Word) (g : Gen) :
    (y.setN i v g).n.get j = if j = i then { data := v, tag := g, scr := false } else y.n.get j := vget_set ..

theorem toList_getD {α : Type} {n : Nat} (v : Vector α n) (i : Fin n) (x : α) : v.toList.getD i.val x = v.get i := by
  simp [List.getD_eq_getElem?_getD, Vector.get_eq_getElem]

/-- A push puts its entry at q1, and what stood at each position stands one age older (R46). -/
theorem Arch.push_q (y : Arch) (e : QEnt) (j : Fin 16) :
    (y.push e).q.get j = if _h : j.val = 0 then e else y.q.get ⟨j.val - 1, by omega⟩ := by
  simp only [Arch.push, Vector.get_ofFn]
  split
  · rfl
  · exact toList_getD y.q ⟨j.val - 1, by omega⟩ e

theorem writeDst_arch (s : State) (a : Agent) (d : Dst) (v : Word) :
    (writeDst s a d v).arch a = (s.arch a).write d v (s.ctx a).gen := by
  simp only [State.arch, writeDst_ctx]

theorem writeDst_other (s : State) {a b : Agent} (d : Dst) (v : Word) (h : b ≠ a) : (writeDst s a d v).ctx b = s.ctx b :=
  State.ctx_updCtx_ne s _ h

theorem writeDst_drop (s : State) (a : Agent) (v : Word) : writeDst s a .drop v = s := State.updCtx_self rfl

/-- Settles O1: a source field's answer is the generation check of its register, and a destination field's write is a register
write or a push in its agent's context. -/
theorem registerFields : Obligations.RegisterFields := by
  unfold Obligations.RegisterFields
  refine ⟨fun s a f x tag field => ?_, fun s a v => ⟨fun i j => ?_, fun j => ?_, writeDst_drop s a v,
    fun d b h => writeDst_other s d v h⟩⟩
  · have reads : readSrc s a f = genCheck (s.strict a) (s.ctx a).gen x tag := by
      cases f with
      | n i => obtain ⟨rfl, rfl⟩ := field; exact readSrc_n s a i
      | q i => obtain ⟨rfl, rfl⟩ := field; exact readSrc_q s a i
    refine ⟨fun current => ?_, fun stale lax => ?_, fun stale strict => ?_⟩
    · rw [Reads, reads, current, genCheck_current]
    · rw [Reads, reads, genCheck_stale stale, lax]; rfl
    · rw [reads, genCheck_stale stale, strict]; rfl
  · rw [writeDst_arch]
    exact ⟨Arch.setN_n .., rfl⟩
  · rw [writeDst_arch]
    exact ⟨Arch.push_q .., rfl⟩

/-! ## Dead marks, and the loops that a jump leaves (R51, R58, R196) -/

/-- A bit of a register, as the model writes it. -/
theorem getLsbD_iff_div {w : Nat} (x : BitVec w) (i : Nat) : x.toNat / 2 ^ i % 2 = 1 ↔ x.getLsbD i = true := by
  rw [← BitVec.testBit_toNat, Nat.testBit_eq_decide_div_mod_eq, decide_eq_true_iff]

theorem Arch.markQueue_get (y : Arch) (k : Fin 16) :
    y.markQueue.q.get k = if y.cmask.getLsbD (16 + k.val) then { y.q.get k with tag := 0 } else y.q.get k := by
  simp only [Arch.markQueue, Vector.get_ofFn, getLsbD_iff_div]

theorem Arch.markNamed_get (y : Arch) (k : Fin 16) :
    y.markNamed.n.get k = if y.cmask.getLsbD k.val then (y.n.get k).dead else y.n.get k := by
  simp only [Arch.markNamed, Vector.get_ofFn, getLsbD_iff_div]

/-- Two flags written as a number are the two bits of that number. -/
theorem twoBits_getLsbD (a b : Bool) (l : Fin 2) :
    (BitVec.ofNat 2 ((if a then 1 else 0) + (if b then 2 else 0))).getLsbD l.val = if l = 0 then a else b := by
  revert a b l
  decide

/-- Loop `k`'s body, from ls_k to le_k, holds the address `t` (R51). -/
def Arch.bodyHolds (y : Arch) (t : Word) (k : Nat) : Bool :=
  decide ((y.loops.toList.getD (2 + k) Init.reg).data.toNat ≤ t.toNat) &&
    decide (t.toNat ≤ (y.loops.toList.getD (4 + k) Init.reg).data.toNat)

theorem Arch.jump_act (y : Arch) (t : Word) :
    (y.jump t).act =
      y.act &&& BitVec.ofNat 2 ((if y.bodyHolds t 0 then 1 else 0) + (if y.bodyHolds t 1 then 2 else 0)) := rfl

/-- A jump keeps a loop active exactly where its body holds the target (R51). -/
theorem Arch.jump_active (y : Arch) (t : Word) (l : Fin 2) :
    (y.jump t).act.getLsbD l.val = true ↔ y.act.getLsbD l.val = true ∧ y.bodyHolds t l.val = true := by
  rw [Arch.jump_act, BitVec.getLsbD_and, twoBits_getLsbD, Bool.and_eq_true]
  match l with
  | 0 => rfl
  | 1 => rfl

/-- Settles O10: each dead mark is a bit of CMASK, and a jump tests its target against each loop's body. -/
theorem deadMarks : Obligations.DeadMarks := by
  unfold Obligations.DeadMarks
  refine fun y t k l => ⟨?_, ?_, rfl, ?_, ?_, rfl, rfl, ?_⟩
  · rw [Arch.markQueue_get]; split <;> rfl
  · rw [Arch.markQueue_get]; split <;> rfl
  · rw [Arch.markNamed_get]; split <;> rfl
  · rw [Arch.markNamed_get]; split <;> rfl
  · rw [Arch.jump_active, Arch.bodyHolds, Bool.and_eq_true, decide_eq_true_iff, decide_eq_true_iff]

end Sys2Proof.Machine
end

section
namespace Sys2Proof.Machine
open Sys2Proof.Safety

/-! ## The register-only forms: what they leave unchanged (R44, R46, R183 to R194, R199) -/

theorem State.updCore_updCore (s : State) (q : Fin 64) (c : Fin 4) (f g : Core → Core) :
    (s.updCore q c f).updCore q c g = s.updCore q c fun x => g (f x) := by
  simp [State.updCore, State.updQuad, Quad.updCore, vget_set]

/-- Two updates of one agent's context are one. -/
theorem State.updCtx_updCtx (s : State) (a : Agent) (f g : Ctx → Ctx) :
    (s.updCtx a f).updCtx a g = s.updCtx a fun x => g (f x) := by
  cases a with
  | strand q c k => simp [State.updCtx, State.updCore_updCore, Core.updCtx, vget_set]
  | hart q h => simp [State.updCtx, State.updHart, State.updQuad, vget_set]
  | weir u => simp [State.updCtx, State.updHart, vget_set]
  | cmd x => simp [State.updCtx, vget_set]
  | sec => rfl

/-- An update of a context puts a context in its place. -/
theorem State.updCtx_eq_const (s : State) (a : Agent) (f : Ctx → Ctx) : s.updCtx a f = s.updCtx a fun _ => f (s.ctx a) := by
  cases a <;> rfl

/-- Two updates that agree on the context as it stands are one. -/
theorem State.updCtx_congr {s : State} {a : Agent} {f g : Ctx → Ctx} (h : f (s.ctx a) = g (s.ctx a)) :
    s.updCtx a f = s.updCtx a g := by
  rw [State.updCtx_eq_const s a f, State.updCtx_eq_const s a g, h]

/-- A quiet instruction goes on from the state as it is: there is no window for it to close or to use up. -/
theorem gate_of_quiet {i : Instr} {a : Agent} {s : State} (h : Quiet i a s) : gate i a s = .go s := by
  by_cases closing : (closes (shapeOf i).major || (s.arch a).backEdge) = true
  · simp [gate, h.issues, h.free, h.refused, h.cls, h.triggers, closing, h.wins, h.pend, h.region]
  · rw [Bool.not_eq_true, Bool.or_eq_false_iff] at closing
    obtain ⟨closed, back⟩ := closing
    rw [gate_open h.issues h.free h.cls h.triggers closed back h.wins h.pend h.region h.refused]
    simp [tickWindows, h.wins]

/-! ### The effect of a register-only form -/

/-- A context with destination `d` written and the flags `fl` raised. -/
def Ctx.withResult (y : Ctx) (d : Dst) (v : Word) (fl : Flags) : Ctx :=
  { y with arch := { y.arch.write d v y.gen with fflg := (y.arch.write d v y.gen).fflg ||| fl } }

/-- A destination written and flags raised, in one update of the agent's context. -/
def resultIn (s : State) (a : Agent) (d : Dst) (v : Word) (fl : Flags) : State := s.updCtx a fun y => y.withResult d v fl

/-- What a write of a destination leaves of a context's registers beside the named registers and the queue. -/
theorem Arch.write_keeps (y : Arch) (d : Dst) (v : Word) (g : Gen) :
    (y.write d v g).pc = y.pc ∧ (y.write d v g).act = y.act ∧ (y.write d v g).loops = y.loops ∧
    (y.write d v g).cmask = y.cmask ∧ (y.write d v g).frm = y.frm ∧ (y.write d v g).deps = y.deps ∧
    (y.write d v g).fflg = y.fflg := by
  cases d <;> simp [Arch.write, Arch.setN, Arch.push]

/-- A write leaves every named register but its destination. -/
theorem Arch.write_n_ne (y : Arch) {d : Dst} {j : Fin 16} (v : Word) (g : Gen) (h : d ≠ .n j) :
    (y.write d v g).n.get j = y.n.get j := by
  cases d with
  | n i => exact (Arch.setN_n y i j v g).trans (if_neg (by rintro rfl; exact h rfl))
  | push => rfl
  | drop => rfl

/-- A write leaves the queue unless it pushes. -/
theorem Arch.write_q (y : Arch) {d : Dst} (v : Word) (g : Gen) (h : d ≠ .push) : (y.write d v g).q = y.q := by
  cases d with
  | n i => rfl
  | push => exact absurd rfl h
  | drop => rfl

theorem writeDst_eq_resultIn (s : State) (a : Agent) (d : Dst) (v : Word) : writeDst s a d v = resultIn s a d v 0 :=
  State.updCtx_congr (by simp [Ctx.withResult])

/-- Flags raised after a write, whichever they are. -/
theorem updArch_fflg_writeDst (s : State) (a : Agent) (d : Dst) (v : Word) (fl : Flags) :
    ((writeDst s a d v).updArch a fun y => { y with fflg := y.fflg ||| fl }) = resultIn s a d v fl :=
  State.updCtx_updCtx ..

theorem raiseFlags_writeDst (s : State) (a : Agent) (d : Dst) (v : Word) (fl : Flags) :
    raiseFlags a fl (writeDst s a d v) = resultIn s a d v fl := by
  by_cases none : fl = 0
  · simp [raiseFlags, none, writeDst_eq_resultIn]
  · simp only [raiseFlags, beq_iff_eq, none, if_false, updArch_fflg_writeDst]

/-- A long-latency result without lookahead is written at once (R171). -/
theorem longResult_zero (s : State) (a : Agent) {la : Nat} (h : la = 0) (d : Dst) (v : Word) (fl : Flags) :
    longResult s a la d v fl = resultIn s a d v fl := by
  rw [longResult, if_pos h, updArch_fflg_writeDst]

/-- Instruction `i` leaves the PC to R199, is a word of 32 bits, and its effect is to write its destination and, where it is a
float form, to raise flags. -/
def WritesResult (i : Instr) (s : State) : Prop :=
  ∃ (body : Agent → Act) (d : Dst) (v : Word) (fl : Flags), exec i s = perform i body s ∧
    body s.md.who s = .ok (resultIn s s.md.who d v fl) ∧ (shapeOf i).len = 4 ∧ (shapeOf i).dst = some d ∧
    ((shapeOf i).major ≠ 0x0B → (shapeOf i).major ≠ 0x0C → fl = 0)

/-- Every source field of a list reads a word. -/
def AllRead (s : State) (fs : List Src) : Prop := ∀ f ∈ fs, ∃ x, Reads s s.md.who f x

section
variable {i : Instr} {s : State} {d : Dst} {a b : Src} {la : Fin 16} (len : (shapeOf i).len = 4)
  (dst : (shapeOf i).dst = some d)
include len dst

theorem writesResult_alu2 {f : Word → Word → Word} (runs : exec i s = perform i (alu2 d a b f) s)
    (reads : AllRead s [a, b]) : WritesResult i s := by
  obtain ⟨x, hx⟩ := reads a (by simp)
  obtain ⟨y, hy⟩ := reads b (by simp)
  exact ⟨_, d, f x y, 0, runs, by rw [alu2_ok hx hy, writeDst_eq_resultIn], len, dst, fun _ _ => rfl⟩

theorem writesResult_alu1 {f : Word → Word} (runs : exec i s = perform i (alu1 d a f) s) (reads : AllRead s [a]) :
    WritesResult i s := by
  obtain ⟨x, hx⟩ := reads a (by simp)
  exact ⟨_, d, f x, 0, runs, by rw [alu1_ok hx, writeDst_eq_resultIn], len, dst, fun _ _ => rfl⟩

theorem writesResult_long2 {f : Word → Word → Word} (runs : exec i s = perform i (long2 d a b la f) s) (noLa : la.val = 0)
    (reads : AllRead s [a, b]) : WritesResult i s := by
  obtain ⟨x, hx⟩ := reads a (by simp)
  obtain ⟨y, hy⟩ := reads b (by simp)
  exact ⟨_, d, f x y, 0, runs, by rw [long2_ok hx hy, longResult_zero _ _ noLa], len, dst, fun _ _ => rfl⟩

theorem writesResult_noSource {f : Agent → State → Word}
    (runs : exec i s = perform i (fun ag t => .ok (writeDst t ag d (f ag t))) s) : WritesResult i s :=
  ⟨_, d, f s.md.who s, 0, runs, by rw [writeDst_eq_resultIn], len, dst, fun _ _ => rfl⟩

theorem writesResult_fpuForm2 {f : RM → Word → Word → Word × Flags} (fpu : (shapeOf i).major = 0x0B)
    (runs : exec i s = perform i (fpuForm2 d a b f) s) (reads : AllRead s [a, b]) : WritesResult i s := by
  obtain ⟨x, hx⟩ := reads a (by simp)
  obtain ⟨y, hy⟩ := reads b (by simp)
  exact ⟨_, d, _, _, runs, by rw [fpuForm2_ok hx hy, raiseFlags_writeDst], len, dst, fun no _ => absurd fpu no⟩

theorem writesResult_fpuForm1 {f : RM → Word → Word × Flags} (fpu : (shapeOf i).major = 0x0B)
    (runs : exec i s = perform i (fpuForm1 d a f) s) (reads : AllRead s [a]) : WritesResult i s := by
  obtain ⟨x, hx⟩ := reads a (by simp)
  exact ⟨_, d, _, _, runs, by rw [fpuForm1_ok hx, raiseFlags_writeDst], len, dst, fun no _ => absurd fpu no⟩

theorem writesResult_fpl {body : Agent → Act} {v : Word} {fl : Flags} (fpl : (shapeOf i).major = 0x0C)
    (runs : exec i s = perform i body s) (noLa : la.val = 0)
    (ok : body s.md.who s = .ok (longResult s s.md.who la.val d v fl)) : WritesResult i s :=
  ⟨_, d, v, fl, runs, by rw [ok, longResult_zero _ _ noLa], len, dst, fun _ no => absurd fpl no⟩

end

/-- Every form of the majors 0x00 to 0x0C without lookahead, its sources read, has a result that it writes. -/
theorem writesResult_of_major_le {i : Instr} {s : State} (major : (shapeOf i).major ≤ 0x0C) (noLa : (shapeOf i).la = 0)
    (reads : AllRead s (shapeOf i).srcs) : WritesResult i s := by
  cases i
  case aluAdd | aluSub | aluAnd | aluOr | aluXor | aluSll | aluSrl | aluSra | aluSlt | aluSltu | aluMin | aluMax | aluMinu
      | aluMaxu =>
    exact writesResult_alu2 rfl rfl rfl reads
  case mulMul | mulMulh | mulMulhu | mulDiv | mulDivu | mulRem | mulRemu => exact writesResult_long2 rfl rfl rfl noLa reads
  case addi | andi | ori | xori | shiSll | shiSrl | shiSra | cmpi | bitsExt | bitsExtu =>
    exact writesResult_alu1 rfl rfl rfl reads
  case lui => exact writesResult_noSource rfl rfl (by rw [exec_lui, execLui])
  case auipc => exact writesResult_noSource rfl rfl (by rw [exec_auipc, execAuipc])
  case bitsIns d a pos len1 =>
    exact writesResult_alu2 (d := .n d) (b := .n d) rfl rfl rfl fun f named =>
      reads f ((List.Perm.swap (.n d) a []).mem_iff.mp named)
  case fpuAdd | fpuSub | fpuMul | fpuMin | fpuMax | fpuEq | fpuLt | fpuLe => exact writesResult_fpuForm2 rfl rfl rfl rfl reads
  case fpuCvts | fpuCvtf => exact writesResult_fpuForm1 rfl rfl rfl rfl reads
  case fplDiv d a b la =>
    obtain ⟨x, hx⟩ := reads a (List.mem_cons_self ..)
    obtain ⟨y, hy⟩ := reads b (List.mem_cons_of_mem _ (List.mem_cons_self ..))
    exact writesResult_fpl rfl rfl rfl rfl noLa (fplForm2_ok hx hy)
  case fplSqrt d a la =>
    obtain ⟨x, hx : readSrc s s.md.who a = .ok x⟩ := reads a (List.mem_cons_self ..)
    exact writesResult_fpl rfl rfl rfl (by rw [exec_fplSqrt, execFplSqrt]) noLa (by simp only [hx, ok_bind]; rfl)
  case fplFma d a b la =>
    obtain ⟨z, hz : readSrc s s.md.who (.n d) = .ok z⟩ := reads (.n d) (List.mem_cons_self ..)
    obtain ⟨x, hx : readSrc s s.md.who a = .ok x⟩ := reads a (List.mem_cons_of_mem _ (List.mem_cons_self ..))
    obtain ⟨y, hy : readSrc s s.md.who b = .ok y⟩ :=
      reads b (List.mem_cons_of_mem _ (List.mem_cons_of_mem _ (List.mem_cons_self ..)))
    exact writesResult_fpl rfl rfl rfl (by rw [exec_fplFma, execFplFma]) noLa (by simp only [hz, hx, hy, ok_bind]; rfl)
  all_goals exact absurd major (Nat.not_le_of_not_ble_eq_true Bool.false_ne_true)

/-! ### The retire of a register-only form -/

/-- The context that a register-only form leaves: the PC at the next word, and what retires with it. -/
def Ctx.nextWord (y : Ctx) : Ctx :=
  { y with arch := { y.arch with pc := y.arch.pc + 4 }, refused := if y.sp.inregion then y.refused else none, stepping := false
           answer := none, displaced := none, waited := [], latch := none, abortAt := none }

/-- Where no loop ends, the PC moves past the instruction and nothing else changes (R199). -/
theorem advance_noEdge {i : Instr} {a : Agent} {s : State} (len : (shapeOf i).len = 4) (end0 : (s.arch a).atEnd 0 = false)
    (end1 : (s.arch a).atEnd 1 = false) :
    advance i a s = s.updCtx a fun y => { y with arch := { y.arch with pc := y.arch.pc + 4 } } := by
  have noEdge : (s.arch a).backEdge = false := by simp [Arch.backEdge, end0, end1]
  simp only [advance, Arch.loopsBack, end0, end1, noEdge, Bool.false_and, Bool.or_self, Bool.false_eq_true, if_false]
  refine State.updCtx_congr ?_
  have e0 : (s.ctx a).arch.atEnd 0 = false := end0
  have e1 : (s.ctx a).arch.atEnd 1 = false := end1
  simp [Arch.advance, Arch.loopsBack, e0, e1, len, wd]

/-- The retire of an instruction at no loop's end, under no single step. -/
theorem retire_plain {i : Instr} {a : Agent} {s : State} (len : (shapeOf i).len = 4) (end0 : (s.arch a).atEnd 0 = false)
    (end1 : (s.arch a).atEnd 1 = false) (noStep : (s.ctx a).sp.sstep = false) :
    retire i a s = s.updCtx a Ctx.nextWord := by
  rw [retire, advance_noEdge len end0 end1, finish_used (by simpa using noStep), used, State.updCtx_updCtx]
  rfl

/-- Settles O60: a register-only form's step is one update of its agent's context, of its destination, its flags and the PC. -/
theorem registerFrame : Obligations.RegisterFrame := by
  unfold Obligations.RegisterFrame
  intro i s me sh old quiet major noLa reads end0 end1 noStep
  obtain ⟨body, d, v, fl, runs, ok, len, dst, flags⟩ := writesResult_of_major_le major noLa reads
  obtain ⟨pc, act, loops, cmask, frm, deps, fflg⟩ := old.arch.write_keeps d v old.gen
  have atEnd (k : Fin 2) : ((resultIn s me d v fl).arch me).atEnd k = old.arch.atEnd k := by
    simp [State.arch, resultIn, Ctx.withResult, Arch.atEnd, act, loops, pc, old]
  have step : exec i s = .next (s.updCtx me fun _ => (old.withResult d v fl).nextWord) := by
    rw [runs, perform_ok (gate_of_quiet quiet) ok, retire_plain len ((atEnd 0).trans end0) ((atEnd 1).trans end1)
      (by simpa [resultIn, Ctx.withResult] using noStep), resultIn, State.updCtx_updCtx, State.updCtx_eq_const]
  refine ⟨_, step, rfl, rfl, rfl, rfl, loops, act, cmask, frm, deps, congrArg (· + 4) pc, fun j other => ?_, fun noPush => ?_,
    fun noFpu noFpl => ?_⟩
  · exact old.arch.write_n_ne v old.gen fun e => other (dst.trans (congrArg some e))
  · exact old.arch.write_q v old.gen fun e => noPush (dst.trans (congrArg some e))
  · simpa [Ctx.nextWord, Ctx.withResult, flags noFpu noFpl] using fflg

end Sys2Proof.Machine
end

section
namespace Sys2Proof.Machine
open Sys2Proof.Safety

/-! ## The elements of a lane (R67, R243, R250, R251) -/

/-! ### Integers modulo 2^n -/

theorem wrap_congr {n : Nat} {v w : Int} (h : v ≡ w [ZMOD 2 ^ n]) : wrap n v = wrap n w := congrArg Int.toNat h

theorem two_pow_natCast (n : Nat) : (2 : Int) ^ n = ((2 ^ n : Nat) : Int) := (Nat.cast_pow 2 n).symm

theorem wrap_natCast (n m : Nat) : wrap n (m : Int) = m % 2 ^ n := by
  rw [wrap, two_pow_natCast, ← Int.natCast_emod, Int.toNat_natCast]

/-- A value that is congruent to a natural number wraps to that number's remainder. -/
theorem wrap_of_modEq {n m : Nat} {v : Int} (h : v ≡ (m : Int) [ZMOD 2 ^ n]) : wrap n v = m % 2 ^ n :=
  (wrap_congr h).trans (wrap_natCast n m)

/-- Two's complement as `BitVec` reads it. -/
theorem sInt_eq_toInt {n : Nat} (pos : 0 < n) (x : Nat) : sInt n x = (BitVec.ofNat n x).toInt := by
  have twice := Nat.two_pow_pred_mul_two pos
  have below : x % 2 ^ n < 2 ^ (n - 1) ↔ 2 * (x % 2 ^ n) < 2 ^ n := by omega
  simp only [sInt, BitVec.toInt, BitVec.toNat_ofNat, below]
  push_cast
  rfl

theorem tyWidth_pos (ty : LaneTy) : 0 < tyWidth ty := by cases ty <;> decide

theorem intVal_signed {ty : LaneTy} (h : tySigned ty = true) (x : Nat) : intVal ty x = (BitVec.ofNat (tyWidth ty) x).toInt := by
  rw [intVal, if_pos h, sInt_eq_toInt (tyWidth_pos ty)]

theorem intVal_unsigned {ty : LaneTy} (h : tySigned ty = false) {x : Nat} (hx : x < 2 ^ tyWidth ty) : intVal ty x = x := by
  simp [intVal, h, Nat.mod_eq_of_lt hx]

/-- Signed or not, the value of an element is its encoding modulo 2^n. -/
theorem intVal_modEq (ty : LaneTy) (x : Nat) : intVal ty x ≡ (x : Int) [ZMOD 2 ^ tyWidth ty] := by
  cases signed : tySigned ty
  · simp [intVal, signed, Int.ModEq]
  · rw [intVal_signed signed, BitVec.toInt_eq_toNat_bmod, BitVec.toNat_ofNat, Int.ModEq, two_pow_natCast, Int.bmod_emod,
      Int.natCast_emod, Int.emod_emod]

/-- An operation on integer elements is that operation modulo 2^n. -/
theorem elemArith_int {ty : LaneTy} (int : tyFmt ty = none) {g : RM → Xr → Xr → Xr → Xr × Flags} {k : Int → Int → Int → Int}
    {rm : RM} {x y z r : Nat} (h : k (intVal ty x) (intVal ty y) (intVal ty z) ≡ (r : Int) [ZMOD 2 ^ tyWidth ty]) :
    elemArith ty g k rm x y z = (r % 2 ^ tyWidth ty, 0) := by
  simp only [elemArith, int, wrap_of_modEq h]

/-- A difference modulo 2^n, in natural numbers. -/
theorem sub_modEq {n x y : Nat} {v w : Int} (hv : v ≡ (x : Int) [ZMOD 2 ^ n]) (hw : w ≡ (y : Int) [ZMOD 2 ^ n])
    (hy : y < 2 ^ n) : v - w ≡ ((x + 2 ^ n - y : Nat) : Int) [ZMOD 2 ^ n] := by
  rw [Nat.cast_sub (by omega)]
  push_cast
  refine (hv.sub hw).trans ?_
  rw [show (x : Int) + 2 ^ n - y = x - y + 2 ^ n by ring]
  exact (Int.add_modEq_right).symm

/-- A shift count is taken modulo n, and an unsigned element shifts zeros in (R250). -/
theorem elemShr_unsigned {ty : LaneTy} (h : tySigned ty = false) (rm : RM) {x y z : Nat} (hx : x < 2 ^ tyWidth ty) :
    elemShr ty rm x y z = (x / 2 ^ (y % tyWidth ty), 0) := by
  have small : x / 2 ^ (y % tyWidth ty) < 2 ^ tyWidth ty := (Nat.div_le_self ..).trans_lt hx
  simp only [elemShr, elemBits2, intVal_unsigned h hx]
  rw [two_pow_natCast, ← Int.natCast_ediv, wrap_natCast, Nat.mod_eq_of_lt small]

/-- A signed element shifts copies of its sign in. -/
theorem elemShr_signed {ty : LaneTy} (h : tySigned ty = true) (rm : RM) (x y z : Nat) :
    elemShr ty rm x y z = (((BitVec.ofNat (tyWidth ty) x).sshiftRight (y % tyWidth ty)).toNat, 0) := by
  simp only [elemShr, elemBits2, intVal_signed h, BitVec.sshiftRight, BitVec.toNat_ofInt, Int.shiftRight_eq_div_pow, wrap]
  push_cast
  rfl

theorem elemMin_int {ty : LaneTy} (int : tyFmt ty = none) (rm : RM) (x y z : Nat) :
    elemMinMax false ty rm x y z = (if intVal ty x < intVal ty y then x else y, 0) := by
  by_cases less : intVal ty x < intVal ty y <;> simp [elemMinMax, int, less]

theorem elemMax_int {ty : LaneTy} (int : tyFmt ty = none) (rm : RM) (x y z : Nat) :
    elemMinMax true ty rm x y z = (if intVal ty x < intVal ty y then y else x, 0) := by
  by_cases less : intVal ty x < intVal ty y <;> simp [elemMinMax, int, less]

/-- The complement of an element's bits. -/
theorem elemAndn_eq (ty : LaneTy) (rm : RM) (x y z : Nat) :
    elemAndn ty rm x y z = (x &&& (BitVec.ofNat (tyWidth ty) y ^^^ BitVec.allOnes (tyWidth ty)).toNat, 0) := by
  simp only [elemAndn, elemBits2, BitVec.xor_allOnes, BitVec.toNat_not, BitVec.toNat_ofNat]

theorem elemSign_neg {ty : LaneTy} (int : tyFmt ty = none) (rm : RM) (x z : Nat) {y : Nat} (hy : y < 2 ^ tyWidth ty) :
    elemSign true ty rm x y z = ((2 ^ tyWidth ty - y) % 2 ^ tyWidth ty, 0) := by
  have neg := sub_modEq (x := 0) (Int.ModEq.refl 0) (intVal_modEq ty y) hy
  rw [Int.zero_sub, Nat.zero_add] at neg
  simp only [elemSign, int, if_true, wrap_of_modEq neg]

/-! ### Two elements to a lane (R243) -/

/-- Two halves, each cut to 16 bits, as one word. -/
theorem ofNat_halves (lo hi : Nat) :
    BitVec.ofNat 32 (lo % 65536 + hi % 65536 * 65536) = BitVec.ofNat 16 hi ++ BitVec.ofNat 16 lo := by
  apply BitVec.eq_of_toNat_eq
  rw [BitVec.toNat_append, ← Nat.shiftLeft_add_eq_or_of_lt (BitVec.isLt _)]
  simp only [BitVec.toNat_ofNat, Nat.shiftLeft_eq]
  omega

theorem extractLsb'_lo (x : BitVec 32) : (x.extractLsb' (16 * 0) 16).toNat = x.toNat % 65536 := by
  simp [BitVec.extractLsb'_toNat]

theorem extractLsb'_hi (x : BitVec 32) : (x.extractLsb' (16 * 1) 16).toNat = x.toNat / 65536 := by
  have lt := x.isLt
  simp only [BitVec.extractLsb'_toNat, Nat.shiftRight_eq_div_pow]
  omega

theorem onLane_packed {ty : LaneTy} (h : packed16 ty = true) (f : ElemFn) (rm : RM) (x y z : BitVec 32) :
    onLane ty f rm x y z =
      (BitVec.ofNat 16 (f rm (x.toNat / 65536) (y.toNat / 65536) (z.toNat / 65536)).1 ++
        BitVec.ofNat 16 (f rm (x.toNat % 65536) (y.toNat % 65536) (z.toNat % 65536)).1,
       (f rm (x.toNat % 65536) (y.toNat % 65536) (z.toNat % 65536)).2 |||
        (f rm (x.toNat / 65536) (y.toNat / 65536) (z.toNat / 65536)).2) := by
  simp only [onLane, h, if_true, ofNat_halves]

/-! ### Writes of vector registers and masks (R49, R50, R244) -/

section
variable (q : Fin 64) (c : Fin 4) (k : Fin 24) (d : Fin 8) (M : BitVec 96) (s : State)

theorem readW_current {x : Fin 8} (h : ((s.core q c).w.get x).tag = (s.core q c).leaseGen) :
    readW s (.strand q c k) x = .ok ((s.core q c).w.get x).data := by
  simp [readW, laneCore, h]

theorem readM_current {x : Fin 8} (pos : x ≠ 0) (h : ((s.core q c).m.get x).tag = (s.core q c).leaseGen) :
    readM s (.strand q c k) x = .ok ((s.core q c).m.get x).data := by
  simp [readM, laneCore, pos, h]

/-- What a vector register holds of its lanes when it is written: its own, or zeros where it is stale (R49). -/
def keptLanes (y : Core) (d : Fin 8) : Lanes := if (y.w.get d).tag == y.leaseGen then (y.w.get d).data else Vector.replicate 96 0

theorem keptLanes_get (y : Core) (i : Fin 96) :
    (keptLanes y d).get i = if (y.w.get d).tag = y.leaseGen then (y.w.get d).data.get i else 0 := by
  simp only [keptLanes, beq_iff_eq]
  split
  · rfl
  · simp [Vector.get_eq_getElem]

/-- The lanes of vector register `d` after a write of `L` under the mask (R49). -/
def writtenLanes (y : Core) (d : Fin 8) (M : BitVec 96) (L : Lanes) : Lanes :=
  Vector.ofFn fun i => if M.getLsbD i.val then L.get i else (keptLanes y d).get i

/-- A write of a vector register changes its core's vector registers alone, and of them the one that it names. -/
theorem core_writeW (L : Lanes) :
    (writeW (.strand q c k) d M L s).core q c =
      { s.core q c with
        w := (s.core q c).w.set d.val ⟨writtenLanes (s.core q c) d M L, (s.core q c).leaseGen, false⟩ d.isLt } :=
  State.core_updCore_same ..

theorem writeW_w (L : Lanes) (e : Fin 8) :
    ((writeW (.strand q c k) d M L s).core q c).w.get e =
      if e = d then ⟨writtenLanes (s.core q c) d M L, (s.core q c).leaseGen, false⟩ else (s.core q c).w.get e := by
  rw [core_writeW, vget_set]

theorem readW_writeW (L : Lanes) :
    readW (writeW (.strand q c k) d M L s) (.strand q c k) d = .ok (writtenLanes (s.core q c) d M L) := by
  rw [readW_current, writeW_w, if_pos rfl]
  rw [writeW_w, if_pos rfl, core_writeW]

@[simp] theorem writeW_ctx (L : Lanes) (b : Agent) : (writeW (.strand q c k) d M L s).ctx b = s.ctx b := by
  apply State.ctx_updCore_keep
  intro x
  rfl

/-- A trace record leaves the masks and the generation of every core. -/
theorem traceIf_masks (a : Agent) (on : Trace → Bool) (ty p : Nat) :
    ((traceIf a on ty p s).core q c).m = (s.core q c).m ∧ ((traceIf a on ty p s).core q c).leaseGen = (s.core q c).leaseGen := by
  rcases traceIf_only a on ty p s with h | ⟨q', c', k', t, -, h⟩
  · rw [h]; exact ⟨rfl, rfl⟩
  · rw [h, State.core_updCore]
    split
    · rename_i same
      obtain ⟨rfl, rfl⟩ := same
      exact ⟨rfl, rfl⟩
    · exact ⟨rfl, rfl⟩

@[simp] theorem writeM_zero : writeM (.strand q c k) 0 M s = s := rfl

/-- A mask write puts the mask and the core's generation in its register, and leaves the others (R50). -/
theorem writeM_masks {d : Fin 8} (pos : d ≠ 0) :
    ((writeM (.strand q c k) d M s).core q c).leaseGen = (s.core q c).leaseGen ∧
    ∀ e : Fin 8, ((writeM (.strand q c k) d M s).core q c).m.get e =
      if e = d then { data := M, tag := (s.core q c).leaseGen, scr := false } else (s.core q c).m.get e := by
  simp only [writeM, beq_iff_eq, pos, if_false, traceIf_masks, updLaneCore, State.core_updCore_same, vget_set, implies_true,
    and_self]

theorem readM_writeM {d : Fin 8} (pos : d ≠ 0) : readM (writeM (.strand q c k) d M s) (.strand q c k) d = .ok M := by
  obtain ⟨gen, masks⟩ := writeM_masks q c k M s pos
  rw [readM_current q c k _ pos, masks, if_pos rfl]
  rw [masks, if_pos rfl, gen]

end

/-- Settles O37: integer elements by congruence modulo 2^n, float elements by their one rounding, lanes half by half, and the writes
of a vector register and of a mask. -/
theorem laneElements : Obligations.LaneElements := by
  unfold Obligations.LaneElements
  refine ⟨fun ty rm x y z => ?_, fun ty f rm x y z float => ?_, fun ty f rm x y z => ⟨fun two => ?_, fun one => ?_⟩,
    fun q c k d M L s => ⟨⟨_, readW_writeW q c k d M s L, fun i => ?_⟩, fun e other => ?_, ?_, writeW_ctx q c k d M s L,
      writeW_mm .., rfl, fun pos => ⟨readM_writeM q c k M s pos, fun e other => ?_⟩⟩⟩
  · intro n hx hy hz int
    have X := intVal_modEq ty x
    have Y := intVal_modEq ty y
    have Z := intVal_modEq ty z
    refine ⟨elemArith_int int (X.add Y), elemArith_int int (sub_modEq X Y hy), elemArith_int int (sub_modEq Y X hx),
      elemArith_int int (X.mul Y), elemArith_int int (Z.add (X.mul Y)), rfl, fun unsigned => ⟨elemShr_unsigned unsigned rm hx, ?_, ?_⟩,
      fun signed => ⟨elemShr_signed signed rm x y z, ?_, ?_⟩, elemAndn_eq .., elemSign_neg int rm x z hy⟩
    · simp only [elemMin_int int, intVal_unsigned unsigned hx, intVal_unsigned unsigned hy, Nat.cast_lt, Prod.mk.injEq, and_true]
      split <;> omega
    · simp only [elemMax_int int, intVal_unsigned unsigned hx, intVal_unsigned unsigned hy, Nat.cast_lt, Prod.mk.injEq, and_true]
      split <;> omega
    · rw [elemMin_int int, intVal_signed signed, intVal_signed signed]
    · rw [elemMax_int int, intVal_signed signed, intVal_signed signed]
  · simp only [elemAdd, elemSub, elemMul, elemFma, elemArith, float, and_self]
  · simp only [onLane_packed two, extractLsb'_lo, extractLsb'_hi, and_self]
  · simp only [onLane, one, Bool.false_eq_true, if_false]
  · rw [writtenLanes, Vector.get_ofFn, keptLanes_get]
  · rw [writeW_w, if_neg other]
  · rw [core_writeW]
  · rw [(writeM_masks q c k M s pos).2, if_neg other]

end Sys2Proof.Machine
end

section
namespace Sys2Proof.Machine
open Sys2Proof.Safety

/-! ## The results of the w forms and of the L16 words (R158, R243, R245, R250 to R252) -/

/-- An instruction issues into the state that its gate leaves, quiet or not. -/
theorem gate_go_of_issues {i : Instr} {s t : State} (h : Issues i s t) : gate i s.md.who s = .go t := by
  rcases h with ⟨quiet, rfl⟩ | h
  · exact gate_of_quiet quiet
  · exact h

/-- A lane form without named sources that is granted as it issues takes its effect. -/
theorem grantYields_plainForm {i : Instr} {f : Agent → Act} {q : Fin 64} {c : Fin 4} {k : Fin 24} {s v u : State}
    (runs : exec i s = performEasel i (plainForm f) s) (effect : f (.strand q c k) v = .ok u) :
    GrantYields i .lanes [] [] [] q c k s v u := by
  intro granted
  obtain ⟨t, issues, lease⟩ := granted.issues
  rw [runs]
  exact performEasel_granted granted.who (granted.who ▸ gate_go_of_issues issues) lease granted.reads granted.first granted.ready
    rfl rfl effect

section
variable {ty : LaneTy} {m d x y z : Fin 8} {f : ElemFn} {q : Fin 64} {c : Fin 4} {k : Fin 24} {v : State}
  {M : BitVec 96} {X Y Z : Lanes}

/-- The lanes of the mask in `d` with an element function of three fields' lanes, under FRM. -/
def elemResult (ty : LaneTy) (M : BitVec 96) (d : Fin 8) (f : ElemFn) (A B C : Fin 96 → BitVec 32) (a : Agent) (v : State) : State :=
  laneResult a M d (fun i => onLane ty f (rmOf v a) (A i) (B i) (C i)) v

/-- No lane of a field that a form does not read. -/
def noLanes : Fin 96 → BitVec 32 := fun _ => 0

theorem replicate_zero_get : (Vector.replicate 96 (0 : BitVec 32)).get = noLanes := by
  funext i
  simp [Vector.get_eq_getElem, noLanes]

variable (hM : readM v (.strand q c k) m = .ok M)
include hM

theorem laneOp_two (hX : readW v (.strand q c k) x = .ok X) (hY : readW v (.strand q c k) y = .ok Y) :
    laneOp ty rmOf m d (some x) (some y) none f (.strand q c k) v =
      .ok (elemResult ty M d f X.get Y.get noLanes (.strand q c k) v) := by
  rw [laneOp_ok (x := some x) (y := some y) (z := none) hM hX hY rfl, replicate_zero_get]
  rfl

theorem laneOp_one (hY : readW v (.strand q c k) y = .ok Y) :
    laneOp ty rmOf m d none (some y) none f (.strand q c k) v =
      .ok (elemResult ty M d f noLanes Y.get noLanes (.strand q c k) v) := by
  rw [laneOp_ok (x := none) (y := some y) (z := none) hM rfl hY rfl, replicate_zero_get]
  rfl

theorem laneOp_three (hX : readW v (.strand q c k) x = .ok X) (hY : readW v (.strand q c k) y = .ok Y)
    (hZ : readW v (.strand q c k) z = .ok Z) :
    laneOp ty rmOf m d (some x) (some y) (some z) f (.strand q c k) v =
      .ok (elemResult ty M d f X.get Y.get Z.get (.strand q c k) v) :=
  laneOp_ok hM hX hY hZ

/-- w.sel takes each lane of one of two fields, by the mask's bit (R250). -/
theorem selForm_ok (hX : readW v (.strand q c k) x = .ok X) (hY : readW v (.strand q c k) y = .ok Y) :
    selForm m d x y (.strand q c k) v =
      .ok (writeW (.strand q c k) d (BitVec.allOnes 96)
        (Vector.ofFn fun i => if M.getLsbD i.val then X.get i else Y.get i) v) := by
  simp only [selForm, hM, hX, hY, ok_bind]

end

/-- Settles O36: each form is a lane operation on the fields that it reads, with its element function. -/
theorem laneResults : Obligations.LaneResults := by
  unfold Obligations.LaneResults
  intro ty t16 m d x y z s v q c k M X Y Z D W me yields put o hM hX hY two one lt two16 one16
  have two_yields {i : Instr} {f : ElemFn}
      (runs : exec i s = performEasel i (plainForm (laneOp ty rmOf m d (some x) (some y) none f)) s) : yields i (two f) :=
    grantYields_plainForm runs (laneOp_two hM hX hY)
  have one_yields {i : Instr} {f : ElemFn}
      (runs : exec i s = performEasel i (plainForm (laneOp ty rmOf m d none (some y) none f)) s) : yields i (one f) :=
    grantYields_plainForm runs (laneOp_one hM hY)
  refine ⟨two_yields rfl, two_yields rfl, two_yields rfl, two_yields rfl, two_yields rfl, two_yields rfl, two_yields rfl,
    two_yields rfl, two_yields rfl, two_yields rfl, two_yields rfl, two_yields rfl, one_yields rfl, one_yields rfl, one_yields rfl,
    grantYields_plainForm rfl (selForm_ok hM hX hY), fun hZ => grantYields_plainForm rfl (laneOp_three hM hX hY hZ), fun hD => ?_⟩
  have two16_yields {i : Instr} {f : ElemFn}
      (runs : exec i s = performEasel i (plainForm (laneOp lt rmOf m d (some d) (some x) none f)) s) : yields i (two16 f) :=
    grantYields_plainForm runs (laneOp_two hM hD hX)
  have one16_yields {i : Instr} {f : ElemFn}
      (runs : exec i s = performEasel i (plainForm (laneOp lt rmOf m d none (some x) none f)) s) : yields i (one16 f) :=
    grantYields_plainForm runs (laneOp_one hM hX)
  exact ⟨grantYields_plainForm rfl (laneOp_three hM hX hY hD), two16_yields rfl, two16_yields rfl, two16_yields rfl,
    two16_yields rfl, two16_yields rfl, two16_yields rfl, two16_yields rfl, two16_yields rfl, two16_yields rfl,
    two16_yields rfl, two16_yields rfl, two16_yields rfl, one16_yields rfl, one16_yields rfl, one16_yields rfl,
    fun hW => grantYields_plainForm rfl (laneOp_three hM hX hW hD)⟩

end Sys2Proof.Machine
end

section
namespace Sys2Proof.Machine

/-! ## Tile storage (R101) and the residue of an accumulator entry (R85) -/

/-! ### A table after a write -/

theorem lookupNat_insertNat {α : Type} (xs : List (Nat × α)) (k : Nat) (v : α) (j : Nat) :
    lookupNat (insertNat xs k v) j = if k = j then some v else lookupNat xs j := by
  induction xs with
  | nil => rfl
  | cons e xs ih =>
    simp only [insertNat]
    split
    · rfl
    · split
      · rename_i same
        simp only [lookupNat, same]
        split <;> rfl
      · rename_i other
        simp only [lookupNat, ih]
        split
        · rw [if_neg (by omega)]
        · rfl

theorem Quad.granule_setGranule (x : Quad) (g h : Nat) (v : Granule) :
    (x.setGranule g v).granule h = if g = h then v else x.granule h := by
  simp only [Quad.granule, Quad.setGranule, lookupNat_insertNat]
  split <;> rfl

/-! ### The bytes of a granule -/

theorem toNat_ofNat_of_lt {n v : Nat} (hv : v < 2 ^ n) : (BitVec.ofNat n v).toNat = v := by
  rw [BitVec.toNat_ofNat, Nat.mod_eq_of_lt hv]

/-- A number put above another's bits keeps within the sum of their widths. -/
theorem mul_two_pow_add_lt {a m n v w : Nat} (hv : v < 2 ^ a) (hw : w < 2 ^ n) (sum : a + n = m) : v * 2 ^ n + w < 2 ^ m := by
  rw [← sum, Nat.pow_add]
  nlinarith

theorem leNat_lt (bs : List Byte) : leNat bs < 2 ^ (8 * bs.length) := by
  induction bs with
  | nil => exact Nat.one_pos
  | cons b bs ih =>
    have := b.isLt
    rw [leNat, List.length_cons, Nat.mul_succ, Nat.pow_add]
    omega

/-- A run of bytes is read back from its value, whatever stands above it (R2). -/
theorem leBytes_add_leNat (bs : List Byte) (high : Nat) : leBytes bs.length (high * 2 ^ (8 * bs.length) + leNat bs) = bs := by
  induction bs with
  | nil => rfl
  | cons b bs ih =>
    have lowByte : high * 2 ^ (8 * (b :: bs).length) + leNat (b :: bs) =
        256 * (high * 2 ^ (8 * bs.length) + leNat bs) + b.toNat := by
      rw [leNat, List.length_cons, Nat.mul_succ, Nat.pow_add]
      ring
    have byte : BitVec.ofNat 8 (256 * (high * 2 ^ (8 * bs.length) + leNat bs) + b.toNat) = b := by
      apply BitVec.eq_of_toNat_eq
      rw [BitVec.toNat_ofNat, Nat.mul_add_mod, Nat.mod_eq_of_lt b.isLt]
    rw [lowByte, List.length_cons, leBytes, byte, Nat.mul_add_div (by decide), Nat.div_eq_of_lt b.isLt, Nat.add_zero, ih]

section
variable {off : Nat} {bs : List Byte} (fits : off + bs.length ≤ 64)
include fits

/-- The value of a patched granule: what stood above the bytes, the bytes, and what stood below them. -/
theorem patchGranule_toNat (d : BitVec 512) :
    (patchGranule d off bs).toNat =
      (d.toNat / 2 ^ (8 * (off + bs.length)) * 2 ^ (8 * bs.length) + leNat bs) * 2 ^ (8 * off) + d.toNat % 2 ^ (8 * off) := by
  have above : d.toNat / 2 ^ (8 * (off + bs.length)) < 2 ^ (512 - 8 * (off + bs.length)) := by
    rw [Nat.div_lt_iff_lt_mul (Nat.two_pow_pos _), ← Nat.pow_add, Nat.sub_add_cancel (by omega)]
    exact d.isLt
  have below : d.toNat % 2 ^ (8 * off) < 2 ^ (8 * off) := Nat.mod_lt _ (Nat.two_pow_pos _)
  have regroup (high low : Nat) : high * 2 ^ (8 * (off + bs.length)) + leNat bs * 2 ^ (8 * off) + low =
      (high * 2 ^ (8 * bs.length) + leNat bs) * 2 ^ (8 * off) + low := by
    rw [Nat.mul_add, Nat.pow_add]
    ring
  rw [patchGranule, regroup, toNat_ofNat_of_lt]
  exact mul_two_pow_add_lt (mul_two_pow_add_lt above (leNat_lt bs) rfl) below (by omega)

/-- The bytes written into a granule are read back. -/
theorem granuleBytes_patchGranule (d : BitVec 512) : granuleBytes (patchGranule d off bs) off bs.length = bs := by
  have below : d.toNat % 2 ^ (8 * off) < 2 ^ (8 * off) := Nat.mod_lt _ (Nat.two_pow_pos _)
  rw [granuleBytes, patchGranule_toNat fits, Nat.mul_comm _ (2 ^ (8 * off)), Nat.mul_add_div (Nat.two_pow_pos _),
    Nat.div_eq_of_lt below, Nat.add_zero, leBytes_add_leNat]

/-- Of an empty granule, every byte outside those written stays zero. -/
theorem granuleBytes_patchGranule_zero {j : Nat} (outside : j < off ∨ off + bs.length ≤ j) :
    granuleBytes (patchGranule 0 off bs) j 1 = [0] := by
  have value : (patchGranule 0 off bs).toNat = leNat bs * 2 ^ (8 * off) := by
    rw [patchGranule_toNat fits, BitVec.ofNat_eq_ofNat, BitVec.toNat_zero, Nat.zero_div, Nat.zero_mod, Nat.zero_mul,
      Nat.zero_add, Nat.add_zero]
  have byte : BitVec.ofNat 8 (leNat bs * 2 ^ (8 * off) / 2 ^ (8 * j)) = 0 := by
    rcases outside with below | above
    · rw [show 8 * off = 8 * (off - j - 1) + 8 + 8 * j by omega, Nat.pow_add, Nat.pow_add, ← Nat.mul_assoc,
        Nat.mul_div_cancel _ (Nat.two_pow_pos _), ← Nat.mul_assoc]
      apply BitVec.eq_of_toNat_eq
      rw [BitVec.toNat_ofNat, Nat.mul_mod_left]
      rfl
    · have small : leNat bs * 2 ^ (8 * off) < 2 ^ (8 * j) :=
        calc leNat bs * 2 ^ (8 * off)
          _ < 2 ^ (8 * bs.length) * 2 ^ (8 * off) := Nat.mul_lt_mul_of_pos_right (leNat_lt bs) (Nat.two_pow_pos _)
          _ = 2 ^ (8 * bs.length + 8 * off) := (Nat.pow_add ..).symm
          _ ≤ 2 ^ (8 * j) := Nat.pow_le_pow_right (by decide) (by omega)
      rw [Nat.div_eq_of_lt small]
      rfl
  rw [granuleBytes, value, leBytes, leBytes, byte]

end

/-! ### A run of bytes within one granule -/

section
variable {off : Nat}

/-- A read within a granule of the tile's generation takes the granule's bytes. -/
theorem readTile_one_granule {x : Quad} {t : Tile} {len : Nat} (strict : Bool) (nonempty : 0 < len) (fits : off % 64 + len ≤ 64)
    (fresh : (x.granule (t.base + off / 64)).tag = t.gen) :
    readTile x strict t off len = .ok (granuleBytes (x.granule (t.base + off / 64)).data (off % 64) len) := by
  have all : min len (64 - off % 64) = len := by omega
  simp [readTile, readBytesFrom, Nat.pos_iff_ne_zero.mp nonempty, fresh, all]

/-- A write within a granule is one write of that granule. -/
theorem writeTile_one_granule (x : Quad) (t : Tile) {bs : List Byte} (nonempty : 0 < bs.length)
    (fits : off % 64 + bs.length ≤ 64) :
    writeTile t off bs x = writeGranule x t.gen (t.base + off / 64) (off % 64) bs := by
  have all : bs.length ≤ 64 - off % 64 := by omega
  simp [writeTile, writeBytesFrom, List.length_pos_iff.mp nonempty, List.take_of_length_le all, List.drop_of_length_le all]

end

/-- A write of a granule patches its data, or zeros where it is stale, and gives it the generation (R101). -/
theorem writeGranule_same (x : Quad) (gen : Gen) (g off : Nat) (bs : List Byte) :
    ∃ d, (writeGranule x gen g off bs).granule g = { data := patchGranule d off bs, tag := gen, scr := false } ∧
      ((x.granule g).tag ≠ gen → d = 0) := by
  refine ⟨_, by rw [writeGranule, Quad.granule_setGranule, if_pos rfl], fun stale => ?_⟩
  split
  · rfl
  · exact if_neg (by simpa using stale)

theorem writeGranule_other (x : Quad) (gen : Gen) {g h : Nat} (off : Nat) (bs : List Byte) (other : h ≠ g) :
    (writeGranule x gen g off bs).granule h = x.granule h := by
  rw [writeGranule, Quad.granule_setGranule, if_neg other.symm]

/-! ### The residue (R85) -/

theorem accEntry_toNat {v : Nat} (hv : v < 2 ^ 34) : (accEntry v).toNat = residue v * 2 ^ 34 + v := by
  have : residue v < 3 := Nat.mod_lt _ (by decide)
  rw [accEntry, Nat.mod_eq_of_lt hv, toNat_ofNat_of_lt (by omega)]

theorem accEntry_value {v : Nat} (hv : v < 2 ^ 34) : (accEntry v).toNat % 2 ^ 34 = v := by
  rw [accEntry_toNat hv, Nat.mul_add_mod', Nat.mod_eq_of_lt hv]

theorem accOk_accEntry {v : Nat} (hv : v < 2 ^ 34) : accOk (accEntry v) = true := by
  rw [accOk, accEntry_value hv, accEntry_toNat hv, beq_iff_eq]
  omega

/-- One flipped bit adds or takes away a power of 2, which 3 does not divide. -/
theorem residue_flip (k n : Nat) : residue (n ^^^ 2 ^ k) ≠ residue n := by
  induction k generalizing n with
  | zero =>
    have half : (n ^^^ 2 ^ 0) / 2 = n / 2 := by rw [Nat.xor_div_two]; simp
    have parity : (n ^^^ 2 ^ 0) % 2 = (n + 1) % 2 := Nat.xor_mod_two_eq
    simp only [residue]
    omega
  | succ k ih =>
    have half : (n ^^^ 2 ^ (k + 1)) / 2 = n / 2 ^^^ 2 ^ k := by
      rw [Nat.xor_div_two, Nat.pow_succ, Nat.mul_div_cancel _ (by decide)]
    have parity : (n ^^^ 2 ^ (k + 1)) % 2 = n % 2 := by
      rw [Nat.xor_mod_two_eq, Nat.pow_succ]
      omega
    have differs := ih (n / 2)
    simp only [residue] at differs ⊢
    omega

/-- An entry that passes its check does not pass with one bit flipped: a bit of the value changes its residue and not the stored
one, and a bit of the stored residue changes that one alone. -/
theorem accOk_flip {e : BitVec 36} (ok : accOk e = true) {k : Nat} (hk : k < 36) :
    accOk (e ^^^ BitVec.ofNat 36 (2 ^ k)) = false := by
  have bit : (BitVec.ofNat 36 (2 ^ k)).toNat = 2 ^ k := toNat_ofNat_of_lt (Nat.pow_lt_pow_right (by decide) hk)
  simp only [accOk, beq_iff_eq] at ok
  simp only [accOk, BitVec.toNat_xor, bit, Nat.xor_div_two_pow, Nat.xor_mod_two_pow, beq_eq_false_iff_ne, ok]
  by_cases inValue : k < 34
  · have low : 2 ^ k < 2 ^ 34 := Nat.pow_lt_pow_right (by decide) inValue
    rw [Nat.div_eq_of_lt low, Nat.mod_eq_of_lt low, Nat.xor_zero]
    exact (residue_flip k _).symm
  · have high : 2 ^ 34 ∣ 2 ^ k := Nat.pow_dvd_pow 2 (by omega)
    rw [Nat.mod_eq_zero_of_dvd high, Nat.xor_zero]
    have set : 2 ^ k / 2 ^ 34 ≠ 0 := (Nat.div_pos (Nat.le_of_dvd (Nat.two_pow_pos k) high) (by decide)).ne'
    simpa using set

/-- Settles O40: a write within one granule patches that granule's bytes and its tag, and the residue modulo 3 detects one bit. -/
theorem tileStorage : Obligations.TileStorage := by
  unfold Obligations.TileStorage
  refine ⟨fun x t off bs strict nonempty fits => ?_, fun v k hv =>
    ⟨accEntry_value hv, accOk_accEntry hv, accOk_flip (accOk_accEntry hv)⟩⟩
  obtain ⟨d, written, zeroed⟩ := writeGranule_same x t.gen (t.base + off / 64) (off % 64) bs
  rw [← writeTile_one_granule x t nonempty fits] at written
  refine ⟨?_, fun g other => ?_, by simp [written], fun stale j _ outside => ?_⟩
  · rw [readTile_one_granule strict nonempty fits (by rw [written]), written, granuleBytes_patchGranule fits]
  · rw [writeTile_one_granule x t nonempty fits, writeGranule_other x t.gen _ bs other]
  · rw [written, zeroed stale, granuleBytes_patchGranule_zero fits outside]

end Sys2Proof.Machine
end

section
namespace Sys2Proof.Machine
open Sys2Proof.Safety

/-! ## What an instruction comes to, by what its body answers (R171, R172, R246, R366) -/

/-- An agent that may not issue, or that an easel form of its own holds back, stays as it is (R17, R246). -/
theorem gate_held {i : Instr} {a : Agent} {s : State} (h : mayIssue s a = false ∨ dispatchHolds s a (shapeOf i) = true) :
    gate i a s = .stall s := by
  have held : (!mayIssue s a || dispatchHolds s a (shapeOf i)) = true := by simpa using h
  simp only [gate, held, if_true]

/-- Settles O2: a quiet instruction has no window to close, and one that is held back goes no further than the first check. -/
theorem quietIssues : Obligations.QuietIssues := fun _ _ => ⟨gate_of_quiet, gate_held⟩

section
variable {i : Instr} {body : Agent → Act} {a : Agent} {s t u : State} (who : s.md.who = a) (runs : exec i s = perform i body s)
include who runs

/-- An instruction whose body answers a state completes with it. -/
theorem yields_of_body (effect : body a t = .ok u) : Yields i s t u := by
  subst who
  exact fun issues => runs.trans (perform_ok (gate_go_of_issues issues) effect)

/-- An instruction whose body answers a program fault raises it. -/
theorem raises_of_body {kind cause : Nat} {value : Word} (effect : body a t = .error (.fault kind cause value)) :
    Raises i s t kind cause value := by
  subst who
  intro issues
  rw [runs, perform_error (gate_go_of_issues issues) effect]
  cases own : ownForms s s.md.who <;> simp [stopBehind, own, Stop.waits, stopped, atStop]

/-- An instruction whose body stalls stays where it is, with everything before it committed. -/
theorem exec_stalls (effect : body a t = .error .stall) (issues : Issues i s t) : exec i s = .next (atStop s) := by
  subst who
  rw [runs, perform_error (gate_go_of_issues issues) effect, stopBehind_waits rfl]
  rfl

/-- An instruction whose body leaves a mark and waits keeps its windows (R170). -/
theorem exec_waits (effect : body a t = .error (.wait u)) (issues : Issues i s t) :
    exec i s = .next (keepWindows a (pcTrigger s a).1 u) := by
  subst who
  rw [runs, perform_error (gate_go_of_issues issues) effect, stopBehind_waits rfl]
  rfl

/-- An instruction whose body parks its agent parks it, once everything before it has committed. -/
theorem parks_of_body {w : Why} (effect : body a t = .error (.park w)) (stops : Stops i s t) :
    ∃ u, exec i s = .next u ∧ (u.ctx a).st = .parked ∧ (u.ctx a).why = some w := by
  subst who
  obtain ⟨issues, alone⟩ := stops
  refine ⟨parkAgent s.md.who w (atStop s), ?_, ?_⟩
  · rw [runs, perform_error (gate_go_of_issues issues) effect, stopBehind_alone alone]
    rfl
  · simp only [parkAgent_ctx, if_true, and_self]

end

end Sys2Proof.Machine
end

section
namespace Sys2Proof.Machine
open Sys2Proof.Safety

/-! ## The tile forms (R267, R268, R271 to R274) -/

theorem awaitSweep_idle {x : Quad} (h : x.sweeping = false) : awaitSweep x = .ok () := by simp [awaitSweep, h, check]

theorem awaitSweep_sweeping {x : Quad} (h : x.sweeping = true) : awaitSweep x = .error .stall := by simp [awaitSweep, h, check]

theorem needEntries_room {x : Quad} {n : Nat} (h : sbRoom x n = true) : needEntries x n = .ok () := by
  simp [needEntries, h, check]

/-- Two updates of one quad are one. -/
theorem State.updQuad_updQuad (s : State) (q : Fin 64) (f g : Quad → Quad) :
    (s.updQuad q f).updQuad q g = s.updQuad q fun x => g (f x) := by
  simp [State.updQuad, vget_set]

section
variable {t u : State} {q : Fin 64} {c : Fin 4} {k : Fin 24} {l : LaunchId} {nw : Src} {h h2 : Fin 64} {w z : Word}
  {p : Nat × Tile}

/-! ### tile.alloc -/

/-- No tile takes part in an allocation of no rows or no columns (R98). -/
theorem allocTile_empty (legal : shapeOk w = true) (unbound : (t.quads.get q).find l h = none)
    (empty : shRows w = 0 ∨ shCols w = 0) : allocTile q l h w t = .ok t := by
  simp [allocTile, legal, unbound, empty]

/-- An illegal shape and a bound handle are refused (R98, R271). -/
theorem allocTile_refused (bad : shapeOk w = false ∨ ((t.quads.get q).find l h).isSome = true) : allocTile q l h w t = shape := by
  have refused : (!shapeOk w || ((t.quads.get q).find l h).isSome) = true := by simpa using bad
  simp only [allocTile, refused, if_true]

/-- A tile of a legal shape takes the entry and the place of lowest number and the next generation (R95, R99, R102). -/
theorem allocTile_bound {e base : Nat} {g : Gen} (legal : shapeOk w = true) (unbound : (t.quads.get q).find l h = none)
    (rows : shRows w ≠ 0) (cols : shCols w ≠ 0) (here : (launchWide h && (directory t l h).isSome) = false)
    (few : ((t.quads.get q).tiles.filter fun y => y.2.launch == l).length < 64) (entry : (t.quads.get q).freeEntry = some e)
    (place : (t.quads.get q).place w = some base)
    (gen : nextGen (t.quads.get q).liveGens 300 (t.quads.get q).qgen.toNat = some g) :
    allocTile q l h w t = .ok (t.updQuad q fun y =>
      { y with qgen := g, tiles := insertNat y.tiles e
                { launch := l, handle := h, shape := w, base := base, gen := g, freeing := false, serial := y.sbNext }
               sbNext := y.sbNext + 1 }) := by
  have taken : takeGen q t = (g, t.updQuad q fun x => { x with qgen := g }) := by simp only [takeGen, gen]
  have fewer : ¬ 64 ≤ ((t.quads.get q).tiles.filter fun y => y.2.launch == l).length := Nat.not_le.mpr few
  simp only [allocTile, legal, unbound, rows, cols, here, fewer, entry, place, taken, State.updQuad_updQuad, Option.isSome_none,
    Bool.not_true, Bool.or_self, Bool.false_eq_true, decide_false, if_false]

section
variable (idle : (t.quads.get q).sweeping = false) (launch : t.launchOf (.strand q c k) = some l)
  (reads : Reads t (.strand q c k) nw w)
include idle launch reads

/-- tile.alloc is its allocation, where the next generation needs no sweep (R103, R271). -/
theorem bodyTalloc_ok (alloc : allocTile q l h w t = .ok u)
    (gens : (shRows w != 0 && shCols w != 0 && needsSweep (t.quads.get q)) = false) :
    bodyTalloc nw h (.strand q c k) t = .ok u := by
  unfold Reads at reads
  simp only [bodyTalloc, quadOf, awaitSweep_idle idle, reads, launch, ok_bind, alloc, gens]
  rfl

theorem bodyTalloc_refused (alloc : allocTile q l h w t = shape) : bodyTalloc nw h (.strand q c k) t = shape := by
  unfold Reads at reads
  simp only [bodyTalloc, quadOf, awaitSweep_idle idle, reads, launch, ok_bind, alloc]
  rfl

end

/-! ### Handles -/

section
variable (launch : t.launchOf (.strand q c k) = some l)
include launch

/-- The binding of a strand's handle is that of its launch on its quad (R94, R268). -/
theorem handleOf_strand (h : Fin 64) : handleOf t (.strand q c k) h.val = (t.quads.get q).find l h := by
  simp only [handleOf, launch, quadOf, Fin.ofNat_val_eq_self]

theorem boundTile_found (found : (t.quads.get q).find l h = some p) : boundTile t (.strand q c k) h = .ok p := by
  simp only [boundTile, handleOf_strand launch, found]

theorem boundTile_unbound (unbound : (t.quads.get q).find l h = none) : boundTile t (.strand q c k) h = shape := by
  simp only [boundTile, handleOf_strand launch, unbound]

/-! ### tile.free -/

variable (idle : (t.quads.get q).sweeping = false)
include idle

/-- A free of a handle that is bound nowhere does nothing (R272). -/
theorem bodyTfree_unbound (unbound : (t.quads.get q).find l h = none)
    (here : (launchWide h && (directory t l h).isSome) = false) : bodyTfree h (.strand q c k) t = .ok t := by
  simp only [bodyTfree, quadOf, awaitSweep_idle idle, ok_bind, launch, unbound, here]
  rfl

/-- A free marks its tile and leaves its entry, which waits for every entry before it (R272). -/
theorem bodyTfree_bound {e : Nat} {tl : Tile} (found : (t.quads.get q).find l h = some (e, tl))
    (room : sbRoom (t.quads.get q) 1 = true) :
    bodyTfree h (.strand q c k) t = .ok (commitEntry q e tl.gen 0 (shRows tl.shape - 1) .free
      (t.updQuad q fun y => { y with tiles := insertNat y.tiles e { tl with freeing := true } })) := by
  simp only [bodyTfree, quadOf, awaitSweep_idle idle, ok_bind, launch, found, needEntries_room room]

/-! ### tile.st and tile.zero -/

variable (reads : Reads t (.strand q c k) nw w)
include reads

theorem bodyTzero_unbound (unbound : (t.quads.get q).find l h = none) : bodyTzero nw h (.strand q c k) t = shape := by
  unfold Reads at reads
  simp only [bodyTzero, quadOf, awaitSweep_idle idle, reads, ok_bind, boundTile_unbound launch unbound]
  rfl

theorem bodyTst_unbound (data : Reads t (.strand q c k) (.q 0) z) (unbound : (t.quads.get q).find l h = none) :
    bodyTst nw h (.strand q c k) t = shape := by
  unfold Reads at reads data
  simp only [bodyTst, quadOf, awaitSweep_idle idle, reads, data, ok_bind, boundTile_unbound launch unbound]
  rfl

/-- tile.st leaves an entry that puts q1 in the element at its turn (R267, R274). -/
theorem bodyTst_bound {e : Nat} {tl : Tile} (data : Reads t (.strand q c k) (.q 0) z)
    (found : (t.quads.get q).find l h = some (e, tl)) (element : elementOk tl w = true) (row : ewDrow w = 0) (one : bitAt w 0 = false)
    (room : sbRoom (t.quads.get q) 1 = true) :
    bodyTst nw h (.strand q c k) t = .ok (commitEntry q e tl.gen (ewRow w) (ewRow w) (.put (ewCol w) z) t) := by
  unfold Reads at reads data
  have legal : (elementOk tl w && ewDrow w == 0 && !bitAt w 0) = true := by simp [element, row, one]
  simp only [bodyTst, quadOf, awaitSweep_idle idle, reads, data, ok_bind, boundTile_found launch found, legal, check_true,
    needEntries_room room]

/-- tile.zero leaves an entry that zeroes its rows at its turn, and one of no rows does nothing (R267, R274). -/
theorem bodyTzero_bound {e : Nat} {tl : Tile} (found : (t.quads.get q).find l h = some (e, tl)) (high : bits w 63 48 = 0)
    (low : bits w 31 16 = 0) (rowMajor : shPlanes tl.shape = false) (first : bits w 47 32 < shRows tl.shape)
    (last : bits w 47 32 + bits w 15 0 ≤ shRows tl.shape) :
    bodyTzero nw h (.strand q c k) t =
      if bits w 15 0 = 0 then .ok t
      else needEntries (t.quads.get q) 1 >>= fun _ =>
        .ok (commitEntry q e tl.gen (bits w 47 32) (bits w 47 32 + bits w 15 0 - 1) .zero t) := by
  unfold Reads at reads
  simp only [bodyTzero, quadOf, awaitSweep_idle idle, reads, ok_bind, boundTile_found launch found, high, low, rowMajor, first,
    last, beq_self_eq_true, Bool.not_false, decide_true, Bool.and_self, check_true]

end
end

/-! ### tile.ld (R107, R108, R273, R274) -/

theorem noteWrite_canvas (tile : Nat) (gen : Gen) (lo hi : Nat) (x : Quad) :
    ∃ cv, noteWrite tile gen lo hi x = { x with canvas := cv } := by
  fun_cases noteWrite tile gen lo hi x
  · exact ⟨x.canvas, rfl⟩
  · exact ⟨_, rfl⟩
  · exact ⟨x.canvas, rfl⟩

/-- An entry goes behind those that stand, and may mark the canvas (R107, R110). -/
theorem makeEntry_eq (tile : Nat) (gen : Gen) (lo hi : Nat) (write : Bool) (o : SbOwner) (x : Quad) :
    ∃ cv, makeEntry tile gen lo hi write o x =
      { x with sb := x.sb ++ [{ id := x.sbNext, tile := tile, gen := gen, lo := lo, hi := hi, write := write, owner := o }]
               sbNext := x.sbNext + 1, canvas := cv } := by
  cases write with
  | false => exact ⟨x.canvas, rfl⟩
  | true =>
    obtain ⟨cv, noted⟩ := noteWrite_canvas tile gen lo hi x
    exact ⟨cv, by simp only [makeEntry, if_true, noted]⟩

/-- The entries of a form's claims go behind those that stand, and nothing else of the quad changes but the next entry's number
and the mark on the canvas. -/
theorem makeEntries_eq (o : SbOwner) (cs : List Claim) (x : Quad) :
    ∃ es n cv, makeEntries o cs x = { x with sb := x.sb ++ es, sbNext := n, canvas := cv } ∧ es.length = entryCount cs ∧
      ∀ e ∈ es, e.owner = o := by
  induction cs generalizing x with
  | nil => exact ⟨[], x.sbNext, x.canvas, by simp [makeEntries], rfl, by simp⟩
  | cons d cs ih =>
    cases entry : d.entry with
    | false =>
      obtain ⟨es, n, cv, made, len, own⟩ := ih x
      exact ⟨es, n, cv, by simp [makeEntries, entry, made], by simp [entryCount, entry, len], own⟩
    | true =>
      obtain ⟨cv', first⟩ := makeEntry_eq d.tile d.gen d.lo d.hi d.write o x
      obtain ⟨es, n, cv, made, len, own⟩ := ih (makeEntry d.tile d.gen d.lo d.hi d.write o x)
      refine ⟨{ id := x.sbNext, tile := d.tile, gen := d.gen, lo := d.lo, hi := d.hi, write := d.write, owner := o } :: es,
        n, cv, ?_, by simpa [entryCount, entry] using len, List.forall_mem_cons.mpr ⟨rfl, own⟩⟩
      simp only [makeEntries, entry, if_true, made]
      simp only [first, List.append_assoc, List.singleton_append]

theorem makeEntries_cores (o : SbOwner) (cs : List Claim) (x : Quad) : (makeEntries o cs x).cores = x.cores := by
  obtain ⟨es, n, cv, made, -, -⟩ := makeEntries_eq o cs x
  rw [made]

theorem makeEntries_harts (o : SbOwner) (cs : List Claim) (x : Quad) : (makeEntries o cs x).harts = x.harts := by
  obtain ⟨es, n, cv, made, -, -⟩ := makeEntries_eq o cs x
  rw [made]

/-- Entries in a board change no agent's context. -/
theorem State.ctx_makeEntries (s : State) (q : Fin 64) (o : SbOwner) (cs : List Claim) (a : Agent) :
    (s.updQuad q (makeEntries o cs)).ctx a = s.ctx a :=
  State.ctx_updQuad_keep s q _ (makeEntries_cores o cs) (makeEntries_harts o cs) a

/-- Operands that are given are what the form goes by, as it issues and at the end of its wait. -/
theorem operands_given {t : State} {a : Agent} {ops : List (Src × Word)} (given : Given t a ops) :
    operands a (ops.map Prod.fst) t = .ok (ops.map Prod.snd) := by
  rcases given with ⟨unlatched, reads⟩ | kept
  · have read (ps : List (Src × Word)) (h : ∀ p ∈ ps, Reads t a p.1 p.2) :
        (ps.map Prod.fst).mapM (readSrc t a) = .ok (ps.map Prod.snd) := by
      induction ps with
      | nil => rfl
      | cons p ps ih =>
        obtain ⟨first, rest⟩ := List.forall_mem_cons.mp h
        have hp : readSrc t a p.1 = .ok p.2 := first
        rw [List.map_cons, List.mapM_cons, hp, ih rest]
        rfl
    simp only [operands, unlatched, read ops reads]
  · simp only [operands, kept]

section
variable {t u : State} {q : Fin 64} {c : Fin 4} {k : Fin 24} {l : LaunchId} {nw : Src} {h h2 : Fin 64} {la : Nat} {w z : Word}

/-- A tile.ld that had no entry has one for each of its claims. -/
theorem loadEntries_makeEntries (cs : List Claim) {x : Quad} (noEntries : loadEntries x c k = []) :
    (loadEntries (makeEntries (.load c k) cs x) c k).length = entryCount cs := by
  obtain ⟨es, n, cv, made, len, own⟩ := makeEntries_eq (.load c k) cs x
  have mine : es.filter (fun e => e.owner == .load c k) = es := List.filter_eq_self.mpr fun e he => by simp [own e he]
  unfold loadEntries at noEntries
  simp only [made, loadEntries, List.filter_append, noEntries, mine, List.nil_append, len]

/-- A strand's tile.ld that waits for its turn: its entries stand in the board, and its word is kept (R107, R108). -/
def loadWaits (q : Fin 64) (c : Fin 4) (k : Fin 24) (w : Word) (cs : List Claim) (t : State) : State :=
  (t.updQuad q (makeEntries (.load c k) cs)).updCtx (.strand q c k) fun y => { y with latch := some [w] }

/-- The board of a quad stays as it is when a strand's context is changed. -/
theorem State.sb_updCtx (s : State) (q : Fin 64) (c : Fin 4) (k : Fin 24) (g : Ctx → Ctx) :
    ((s.updCtx (.strand q c k) g).quads.get q).sb = (s.quads.get q).sb := by
  simp only [State.updCtx, State.updCore, State.quads_updQuad, if_true, Quad.updCore]

theorem loadWaits_entries (cs : List Claim) (s : State) (noEntries : loadEntries (t.quads.get q) c k = []) :
    (loadEntries ((keepWindows (.strand q c k) s (loadWaits q c k w cs t)).quads.get q) c k).length = entryCount cs := by
  rw [← loadEntries_makeEntries cs noEntries]
  simp only [loadEntries, keepWindows, State.updFlight, loadWaits, State.sb_updCtx, State.quads_updQuad, if_true]

theorem loadWaits_ctx (cs : List Claim) (s : State) :
    ((keepWindows (.strand q c k) s (loadWaits q c k w cs t)).ctx (.strand q c k)).latch = some [w] ∧
      ((keepWindows (.strand q c k) s (loadWaits q c k w cs t)).ctx (.strand q c k)).arch = (t.ctx (.strand q c k)).arch := by
  obtain ⟨f, kept⟩ := keepWindows_ctx (.strand q c k) s (loadWaits q c k w cs t)
  rw [kept]
  simp only [loadWaits, State.ctx_updCtx_same, State.ctx_makeEntries, and_self]

section
variable {p : LoadOps} (idle : (t.quads.get q).sweeping = false) (noEntries : loadEntries (t.quads.get q) c k = [])
  (reads : Reads t (.strand q c k) nw w)
include idle noEntries reads

/-- A tile.ld whose tiles or word do not pass is refused before it makes an entry. -/
theorem bodyTld_refused (bad : loadOps h h2 w (.strand q c k) t = shape) : bodyTld nw h h2 la (.strand q c k) t = shape := by
  unfold Reads at reads
  simp only [bodyTld, noEntries, awaitSweep_idle idle, reads, bad, ok_bind]
  rfl

variable (ops : loadOps h h2 w (.strand q c k) t = .ok p) (room : sbRoom (t.quads.get q) (loadClaims p).length = true)
include ops room

/-- With nothing before it in its rows, a tile.ld has its effect as it issues. -/
theorem bodyTld_begins (begins : claimsBegin (t.quads.get q) (loadClaims p) = true) :
    bodyTld nw h h2 la (.strand q c k) t = loadEffect q p la (.strand q c k) t := by
  unfold Reads at reads
  simp only [bodyTld, noEntries, awaitSweep_idle idle, reads, ops, needEntries_room room, ok_bind, begins, if_true]

/-- Behind an earlier access to its rows a tile.ld makes its entries and waits (R107, R108). -/
theorem bodyTld_waits (begins : claimsBegin (t.quads.get q) (loadClaims p) = false) :
    bodyTld nw h h2 la (.strand q c k) t = .error (.wait (loadWaits q c k w (loadClaims p) t)) := by
  unfold Reads at reads
  simp only [bodyTld, noEntries, awaitSweep_idle idle, reads, ops, needEntries_room room, ok_bind, begins,
    Bool.false_eq_true, if_false]
  rfl

end

section
variable (launch : t.launchOf (.strand q c k) = some l)
include launch

/-- A tile.ld of an unbound handle has no tile (R268, R273). -/
theorem loadOps_unbound (unbound : (t.quads.get q).find l h = none) : loadOps h h2 w (.strand q c k) t = shape := by
  simp only [loadOps, boundTile_unbound launch unbound]
  rfl

variable {e : Nat} {tl : Tile} (found : (t.quads.get q).find l h = some (e, tl))
include found

/-- A word without TOTILE names one element. -/
theorem loadOps_element (element : elementOk tl w = true) (row : ewDrow w = 0) (one : bitAt w 0 = false) :
    loadOps h 0 w (.strand q c k) t = .ok { src := (e, tl), dst := none, word := w } := by
  have legal : loadOk { src := (e, tl), dst := none, word := w } 0 = true := by simp [loadOk, element, row]
  simp only [loadOps, boundTile_found launch found, one, Bool.false_eq_true, if_false, ok_bind, legal, check_true]

/-- A word with TOTILE names a row of each tile, of one shape of row. -/
theorem loadOps_row {e2 : Nat} {tl2 : Tile} (found2 : (t.quads.get q).find l h2 = some (e2, tl2)) (copy : bitAt w 0 = true)
    (legal : loadOk { src := (e, tl), dst := some (e2, tl2), word := w } h2 = true) :
    loadOps h h2 w (.strand q c k) t = .ok { src := (e, tl), dst := some (e2, tl2), word := w } := by
  simp only [loadOps, boundTile_found launch found, boundTile_found launch found2, copy, if_true, ok_bind, legal, check_true]

end

/-- At its turn a tile.ld of an element pushes its value (R274). -/
theorem loadEffect_element {a : Agent} {e : Nat} {tl : Tile} (value : elementValue (t.quads.get q) (t.strict a) tl w = .ok z) :
    loadEffect q { src := (e, tl), dst := none, word := w } la a t = .ok (longResult t a la .push z 0) := by
  simp only [loadEffect, value, ok_bind]

/-- At its turn a tile.ld of a row copies it to the row of the other tile (R274). -/
theorem loadEffect_row {a : Agent} {e e2 : Nat} {tl tl2 : Tile} {bs : List Byte}
    (row : readTile (t.quads.get q) (t.strict a) tl (rowOff tl (ewRow w))
      (rowBytes (shCols tl.shape) (tyBits (shType tl.shape))) = .ok bs) :
    loadEffect q { src := (e, tl), dst := some (e2, tl2), word := w } la a t = .ok (windowResult (t.updQuad q fun y =>
      noteWrite e2 tl2.gen (ewDrow w) (ewDrow w) (writeTile tl2 (rowOff tl2 (ewDrow w)) bs y)) a la .drop 0) := by
  simp only [loadEffect, row, ok_bind]

/-! A tile.ld that has made its entries. -/

section
variable (waits : loadEntries (t.quads.get q) c k ≠ [])
  (sound : waitedFault (t.ctx (.strand q c k)).waited (t.ctx (.strand q c k)) = none)
include waits sound

/-- A tile.ld with an entry of another command before one of its own stays at its place (R108). -/
theorem bodyTld_blocked (blocked : loadBegins (t.quads.get q) c k = false) :
    bodyTld nw h h2 la (.strand q c k) t = .error .stall := by
  obtain ⟨d, ds, entries⟩ := List.exists_cons_of_ne_nil waits
  simp only [bodyTld, entries, sound, blocked, Bool.not_false, if_true]

/-- At its turn a tile.ld takes its effect on the tiles of its entries, which leave the board (R108, R272). -/
theorem bodyTld_turn {p : LoadOps} (begins : loadBegins (t.quads.get q) c k = true) (given : Given t (.strand q c k) [(nw, w)])
    (ops : waitedOps (t.quads.get q) w (loadEntries (t.quads.get q) c k) = .ok p)
    (effect : loadEffect q p la (.strand q c k) t = .ok u) :
    bodyTld nw h h2 la (.strand q c k) t =
      .ok (dropLoads q c k (dropCancelled (.strand q c k) (t.ctx (.strand q c k)).waited u)) := by
  obtain ⟨d, ds, entries⟩ := List.exists_cons_of_ne_nil waits
  have word : operands (.strand q c k) [nw] t = .ok [w] := operands_given given
  rw [entries] at ops
  simp only [bodyTld, entries, sound, begins, Bool.not_true, Bool.false_eq_true, if_false, word, ok_bind,
    List.getD_cons_zero, ops, effect]

end
end

/-! ### The statement -/

section
variable {s t : State} {q : Fin 64} {c : Fin 4} {k : Fin 24} {nw : Src} {h h2 : Fin 64} {la : Fin 16} {w : Word}
  (who : s.md.who = .strand q c k)
include who

/-- During a sweep every tile form waits where it is (R103). -/
theorem exec_tileForm_sweeping (sweeping : (t.quads.get q).sweeping = true) (noEntries : loadEntries (t.quads.get q) c k = []) :
    ∀ i ∈ [Instr.tld nw h h2 la, .talloc nw h, .tfree h, .tst nw h, .tzero nw h], Issues i s t → exec i s = .next (atStop s) := by
  have swept := awaitSweep_sweeping sweeping
  simp only [List.forall_mem_cons, List.not_mem_nil, false_implies, implies_true, and_true]
  refine ⟨exec_stalls who rfl ?_, exec_stalls who rfl ?_, exec_stalls who rfl ?_, exec_stalls who rfl ?_, exec_stalls who rfl ?_⟩
  · simp only [bodyTld, noEntries, swept, error_bind]
  · simp only [bodyTalloc, quadOf, swept, error_bind]
  · simp only [bodyTfree, quadOf, swept, error_bind]
  · simp only [bodyTst, quadOf, swept, error_bind]
  · simp only [bodyTzero, quadOf, swept, error_bind]

/-- A tile.ld behind an earlier access to its rows has its entries in the board and keeps its word and registers (R107, R108). -/
theorem exec_tld_waits {p : LoadOps} (idle : (t.quads.get q).sweeping = false) (noEntries : loadEntries (t.quads.get q) c k = [])
    (reads : Reads t (.strand q c k) nw w) (ops : loadOps h h2 w (.strand q c k) t = .ok p)
    (room : sbRoom (t.quads.get q) (loadClaims p).length = true) (begins : claimsBegin (t.quads.get q) (loadClaims p) = false)
    (issues : Issues (.tld nw h h2 la) s t) :
    ∃ u, exec (.tld nw h h2 la) s = .next u ∧ (loadEntries (u.quads.get q) c k).length = entryCount (loadClaims p) ∧
      (u.ctx (.strand q c k)).latch = some [w] ∧ (u.ctx (.strand q c k)).arch = (t.ctx (.strand q c k)).arch :=
  ⟨_, exec_waits who rfl (bodyTld_waits idle noEntries reads ops room begins) issues, loadWaits_entries _ _ noEntries,
    loadWaits_ctx _ _⟩

end

/-- Settles O39: each form by its body's answer, on an unbound handle, on a bound one, and for tile.ld behind another access. -/
theorem tileForms : Obligations.TileForms := by
  unfold Obligations.TileForms
  intro nw h h2 la s t q c k l w z e e2 base g tl tl2 bs me x tld who launch
  change s.md.who = _ at who
  simp only [me, who] at launch ⊢
  refine ⟨exec_tileForm_sweeping who, fun idle => ⟨fun reads => ⟨?_, ?_, ?_⟩, ?_, ?_, ?_, ?_⟩, ?_⟩
  · intro legal unbound empty
    exact yields_of_body who rfl (bodyTalloc_ok idle launch reads (allocTile_empty legal unbound empty)
      (by rcases empty with noRows | noCols <;> simp [*]))
  · intro legal unbound rows cols here few entry place gen
    exact yields_of_body who rfl (bodyTalloc_ok idle launch reads
      (allocTile_bound legal unbound rows cols here few entry place gen) (by simp [needsSweep, x, gen]))
  · exact fun bad => raises_of_body who rfl (bodyTalloc_refused idle launch reads (allocTile_refused bad))
  · exact fun unbound here => yields_of_body who rfl (bodyTfree_unbound launch idle unbound here)
  · exact fun found room => yields_of_body who rfl (bodyTfree_bound launch idle found room)
  · intro reads unbound
    exact ⟨fun noEntries => raises_of_body who rfl (bodyTld_refused idle noEntries reads (loadOps_unbound launch unbound)),
      raises_of_body who rfl (bodyTzero_unbound launch idle reads unbound),
      fun data => raises_of_body who rfl (bodyTst_unbound launch idle reads data unbound)⟩
  · intro reads found
    refine ⟨fun element row one => ⟨?_, fun data room =>
      yields_of_body who rfl (bodyTst_bound launch idle reads data found element row one room)⟩, ?_, ?_⟩
    · rintro rfl noEntries room
      have ops := loadOps_element launch found element row one
      exact ⟨fun begins value =>
          yields_of_body who rfl ((bodyTld_begins idle noEntries reads ops room begins).trans (loadEffect_element value)),
        fun begins => exec_tld_waits who idle noEntries reads ops room begins⟩
    · intro found2 element copy planes row acc acc2 type cols noEntries room
      have ops := loadOps_row launch found found2 copy (h2 := h2) (by simp [loadOk, element, planes, row, acc, acc2, type, cols])
      exact ⟨fun begins bytes =>
          yields_of_body who rfl ((bodyTld_begins idle noEntries reads ops room begins).trans (loadEffect_row bytes)),
        fun begins => exec_tld_waits who idle noEntries reads ops room begins⟩
    · intro high low planes first last
      have body := bodyTzero_bound launch idle reads found high low planes first last
      exact ⟨fun noRows => yields_of_body who rfl (body.trans (if_pos noRows)), fun rows room =>
        yields_of_body who rfl (body.trans (by rw [if_neg rows, needEntries_room room, ok_bind]))⟩
  · intro p u waits sound
    exact ⟨fun begins given ops effect => yields_of_body who rfl (bodyTld_turn waits sound begins given ops effect),
      fun blocked => exec_stalls who rfl (bodyTld_blocked waits sound blocked)⟩

end Sys2Proof.Machine
end

section
namespace Sys2Proof.Machine
open Sys2Proof.Safety

/-! ## The canvas and drain forms (R110, R267, R275 to R283) -/

/-- An easel form that is granted as it issues takes its effect on the operands it reads and the tiles its handles name. -/
theorem grantYields_of_form {i : Instr} {f : EForm} {hs : List (Fin 64)} {ops : List (Src × Word)} {claims : List Claim}
    {q : Fin 64} {c : Fin 4} {k : Fin 24} {s v u : State} (runs : exec i s = performEasel i f s) (srcs : f.srcs = ops.map Prod.fst)
    (handles : f.handles (ops.map Prod.snd) = hs)
    (claimed : f.claims (ops.map Prod.snd) (resolveHandles v (.strand q c k) hs) (.strand q c k) v = claims)
    (effect : f.effect (ops.map Prod.snd) (resolveHandles v (.strand q c k) hs) (.strand q c k) v = .ok u) :
    GrantYields i f.unit hs ops claims q c k s v u := by
  subst handles
  intro granted
  obtain ⟨t, issues, lease⟩ := granted.issues
  rw [runs]
  exact performEasel_granted granted.who (granted.who ▸ gate_go_of_issues issues) lease granted.reads granted.first granted.ready
    srcs claimed effect

section
variable {nw : Src} {ha hb : Fin 64} {la : Fin 16} {s v : State} {q : Fin 64} {c : Fin 4} {k : Fin 24} {w : Word} {ts : Handles}

theorem opAt_single (w : Word) : opAt [w] 0 = w := rfl

/-- A tile that stands in its entry under its own serial is the tile that a form knows (R268). -/
theorem standing_entry {x : Quad} {e : Nat} {t : Tile} (here : x.entry e = some t) : standing x e t = some t := by
  simp [standing, here]

/-- A write to a tile that still stands reaches its quad. -/
theorem writeHeld_standing {p : Nat × Tile} {f : Quad → Quad} (here : (v.quads.get q).entry p.1 = some p.2) :
    writeHeld (.strand q c k) p f v = v.updQuad q f := by
  simp only [writeHeld, quadOf, standing_entry here, Option.isSome_some, if_true, updQuadOf]

/-! ### The loads -/

section
variable {ext : Bool} {b : WBind} (binds : loadBinding ext ha hb w ts (.strand q c k) v = .ok b)
include binds

theorem loadForm_claims : (loadForm ext nw ha hb).claims [w] ts (.strand q c k) v = bindClaims true b := by
  simp only [loadForm, opAt_single, binds]

/-- A load records the binding at its core and latches the canvas (R110, R277). -/
theorem loadForm_effect {l : Window × List Nat} (latched : latch (v.quads.get q) (v.strict (.strand q c k)) b = .ok l)
    (groups : metaOk b.shape b.row0 l.1 = true) :
    (loadForm ext nw ha hb).effect [w] ts (.strand q c k) v =
      .ok ((v.updCore q c fun y => { y with wbind := b }).updQuad q fun y => { y with canvas := some (canvasOf b l) }) := by
  simp only [loadForm, opAt_single, binds, quadOf, latched, ok_bind, groups, check_true]
  rfl

end

/-! ### The passes -/

section
variable {ext : Bool} {p : PassOps} (checked : passOps ext ha hb w ts (.strand q c k) v = .ok p)
include checked

/-- A pass of no rows claims nothing and does nothing. -/
theorem passClaims_none (noRows : pwRows w = 0) : passClaims ext ha hb [w] ts (.strand q c k) v = [] := by
  simp only [passClaims, opAt_single, checked]
  exact if_pos noRows

theorem passEffect_none (noRows : pwRows w = 0) : passEffect ext ha hb [w] ts (.strand q c k) v = .ok v := by
  simp only [passEffect, opAt_single, checked, ok_bind]
  exact if_pos noRows

/-- A pass that the injector does not strike leaves the rows of R281, and the canvas latched anew where it must reload (R110). -/
theorem passEffect_rows {l : Window × List Nat} {rows : List (Nat × AccRow)} (rowed : pwRows w ≠ 0)
    (weights : passWeights (v.quads.get q) (v.strict (.strand q c k)) (mustReload (v.quads.get q) p.bind) p.bind = .ok l)
    (passed : passRows (v.quads.get q) (v.strict (.strand q c k)) p (columnWeights p.bind l.1) l.2 w
      (List.range (pwRows w)) = .ok rows)
    (unstruck : injected (v.quads.get q) p.blocks = false) (here : (v.quads.get q).entry p.acc.1 = some p.acc.2) :
    passEffect ext ha hb [w] ts (.strand q c k) v = .ok (v.updQuad q fun y =>
      { y with canvas := if mustReload (v.quads.get q) p.bind = true then some (canvasOf p.bind l) else y.canvas
               acc := rows.foldl (fun m e => insertNat m e.1 e.2) y.acc }) := by
  have here' : ((v.updQuad q fun y => { y with
      canvas := if mustReload (v.quads.get q) p.bind = true then some (canvasOf p.bind l) else y.canvas }).quads.get q).entry
        p.acc.1 = some p.acc.2 := by
    rw [State.quads_updQuad, if_pos rfl]
    exact here
  simp only [passEffect, opAt_single, checked, ok_bind, if_neg rowed, weights, passed, unstruck, Bool.false_and,
    Bool.false_eq_true, if_false, writeHeld_standing here', State.updQuad_updQuad]

end

/-! ### The drain forms -/

section
variable {p : (Nat × Tile) × (Nat × Tile)} (checked : drainOps ha hb w ts (.strand q c k) v = .ok p)
include checked

/-- A drain writes the converted rows, and raises OF where a row that an integer drain reads has SAT (R282, R283). -/
theorem drainEffect_rows {rows : List (Nat × List Byte)}
    (drained : drainRows (v.quads.get q) p.1.2 p.2.2 w (List.range (dwRows w)) = .ok rows)
    (here : (v.quads.get q).entry p.2.1 = some p.2.2) :
    drainEffect ha hb [w] ts (.strand q c k) v =
      .ok (raiseFlags (.strand q c k)
        (if (dwKind w == 5 || dwKind w == 6) &&
            (List.range (dwRows w)).any fun r => (readAccRow (v.quads.get q) p.1.2 (dwRow w + r)).sat then 4 else 0)
        (v.updQuad q fun y => rows.foldl (fun z e => writeTile p.2.2 e.1 e.2 z) y)) := by
  simp only [drainEffect, opAt_single, checked, ok_bind, quadOf, drained, writeHeld_standing here]
  rfl

end

section
variable {e : Nat} {t : Tile} (checked : drainSource ha w ts (.strand q c k) v = .ok (e, t)) (reserved : bits w 63 19 = 0)
include checked reserved

/-- A zeroing of no rows claims nothing and does nothing. -/
theorem czeroForm_none (noRows : dwRows w = 0) :
    (czeroForm nw ha).claims [w] ts (.strand q c k) v = [] ∧ (czeroForm nw ha).effect [w] ts (.strand q c k) v = .ok v := by
  simp [czeroForm, opAt_single, checked, ok_bind, reserved, noRows, check_true]

/-- A zeroing claims its rows and clears them (R283). -/
theorem czeroForm_rows (rowed : dwRows w ≠ 0) (here : (v.quads.get q).entry e = some t) :
    (czeroForm nw ha).claims [w] ts (.strand q c k) v =
        [{ tile := e, gen := t.gen, lo := dwRow w, hi := dwRow w + dwRows w - 1, write := true }] ∧
      (czeroForm nw ha).effect [w] ts (.strand q c k) v =
        .ok (v.updQuad q (zeroRows t (dwRow w) (dwRow w + dwRows w - 1))) := by
  simp [czeroForm, opAt_single, checked, ok_bind, reserved, rowed, check_true, writeHeld_standing (p := (e, t)) here]

end
end

/-- Settles O41: each form is an easel form with the claims and the effect of its rule. -/
theorem canvasForms : Obligations.CanvasForms := by
  unfold Obligations.CanvasForms
  intro nw ha hb la s v q c k w ext me x hs hp ts tp yields
  refine ⟨?_, ?_, ?_, ?_⟩
  · intro b l binds latched groups
    have runs : exec (if ext then .canvasxLoad nw ha hb la else .cload nw ha hb la) s =
        performEasel (if ext then .canvasxLoad nw ha hb la else .cload nw ha hb la) (loadForm ext nw ha hb) s := by
      cases ext <;> rfl
    exact grantYields_of_form runs rfl rfl (loadForm_claims binds) (loadForm_effect binds latched groups)
  · intro p l rows checked i reload
    have runs : exec i s = performEasel i (passForm ext nw ha hb) s := by cases ext <;> rfl
    refine ⟨fun noRows => ?_, fun rowed weights passed unstruck here => ?_⟩
    · exact grantYields_of_form runs rfl rfl (passClaims_none checked noRows) (passEffect_none checked noRows)
    · exact grantYields_of_form runs rfl rfl rfl (passEffect_rows checked rowed weights passed unstruck here)
  · intro p rows checked drained here sat
    exact grantYields_of_form (f := drainForm nw ha hb) rfl rfl rfl rfl (drainEffect_rows checked drained here)
  · intro e t checked reserved
    refine ⟨fun noRows => ?_, fun rowed here => ?_⟩
    · obtain ⟨claims, effect⟩ := czeroForm_none (nw := nw) checked reserved noRows
      exact grantYields_of_form (f := czeroForm nw ha) rfl rfl rfl claims effect
    · obtain ⟨claims, effect⟩ := czeroForm_rows (nw := nw) checked reserved rowed here
      exact grantYields_of_form (f := czeroForm nw ha) rfl rfl rfl claims effect

end Sys2Proof.Machine
end

section
namespace Sys2Proof.Machine
open Sys2Proof.Safety

/-! ## The engx forms (R291 to R293, R396) -/

section
variable {d : Dst} {a b : Src} {s t u : State} {me : Agent} {h : Hart} {x y : Word} (who : s.md.who = me)

/-! ### dmard and dmawr -/

section
include who

section
variable (place : Reads t me a x) (length : Reads t me b y) {l : LenWord} {bs : List Byte} (legal : lenWord me false y = .ok l)
  (read : readLoc me l x t = .ok (bs, u))
include place length legal read

/-- dmard brings the bytes of its location into the staging buffer (R292). -/
theorem engxDmard_staged (direct : l.via = false) :
    Yields (.engxDmard d a b) s t
      (writeDst (u.updHart me fun h => { h with staging := patchBytes h.staging 0 bs }) me d (wd l.len)) := by
  unfold Reads at place length
  refine yields_of_body who exec_engxDmard ?_
  simp only [place, length, legal, read, direct, ok_bind, Bool.false_eq_true, if_false]

/-- dmard of a weir unit's VIA brings them into its port (R293). -/
theorem engxDmard_port {u' : State} (via : l.via = true) (appended : appendPort me l.port bs u = .ok u') :
    Yields (.engxDmard d a b) s t (writeDst u' me d (wd l.len)) := by
  unfold Reads at place length
  refine yields_of_body who exec_engxDmard ?_
  simp only [place, length, legal, read, via, appended, ok_bind, if_true]

end

section
variable (place : Reads t me a x) (length : Reads t me b y) {l : LenWord} (legal : lenWord me true y = .ok l)
include place length legal

/-- dmawr writes the staging buffer's bytes at its location (R292). -/
theorem engxDmawr_staged (here : t.hart me = some h) (direct : l.via = false)
    (written : writeLoc me l x (h.staging.take l.len) t = .ok u) :
    Yields (.engxDmawr d a b) s t (writeDst u me d (wd l.len)) := by
  unfold Reads at place length
  refine yields_of_body who exec_engxDmawr ?_
  simp only [place, length, legal, here, direct, written, ok_bind, Bool.false_eq_true, if_false]

/-- dmawr of a weir unit's VIA writes the sums of PORT 3 (R293). -/
theorem engxDmawr_port (via : l.via = true) (drained : drainPort me l x t = .ok u) :
    Yields (.engxDmawr d a b) s t (writeDst u me d (wd l.len)) := by
  unfold Reads at place length
  refine yields_of_body who exec_engxDmawr ?_
  simp only [place, length, legal, via, drained, ok_bind, if_true]

end

end

/-! ### mbox and kwait -/

/-- The microcode of a hart or a weir unit has no easel forms. -/
theorem ownForms_hart (here : t.hart me = some h) : ownForms s me = false := by
  cases me with
  | strand q c k => cases here
  | hart | weir | cmd | sec => rfl

theorem headRequest_hart (here : t.hart me = some h) : headRequest t me = h.queue.head? := by
  simp only [headRequest, here]

/-- A STATUS of 2 is a fault (R116). -/
theorem statusOf_two (n : Nat) : ∃ kind cause v, statusOf n 2 = some (.faulted kind cause v) := ⟨_, _, _, rfl⟩

/-- The registers with the words of a request in n0 to n3 (R292). -/
def Arch.withWords (y : Arch) (ws : List Word) (g : Gen) : Arch :=
  (((y.setN 0 (ws.getD 0 0) g).setN 1 (ws.getD 1 0) g).setN 2 (ws.getD 2 0) g).setN 3 (ws.getD 3 0) g

theorem Arch.withWords_n (y : Arch) (ws : List Word) (g : Gen) (i : Fin 16) :
    (y.withWords ws g).n.get i = if i.val < 4 then { data := ws.getD i.val 0, tag := g, scr := false } else y.n.get i := by
  simp only [Arch.withWords, Arch.setN_n]
  fin_cases i <;> rfl

/-- A loaded key and a length in range are what the gcm forms work on. -/
theorem gcmArgs_loaded {key : BitVec 128} {salt : BitVec 32} (here : t.hart me = some h) (loaded : h.gcm = some (key, salt))
    (nonempty : 1 ≤ y.toNat) (fits : y.toNat ≤ 4080) : gcmArgs t me y = .ok ((key, salt), y.toNat, h.staging) := by
  simp only [gcmArgs, here, loaded, nonempty, fits, ok_bind, decide_true, Bool.and_self, check_true]

section
include who

section
variable (here : t.hart me = some h)
include here

section
variable (empty : h.queue = [])
include empty

/-- mbox without a request does nothing. -/
theorem engxMbox_idle (reads : Reads t me a x) : Yields (.engxMbox a) s t t := by
  unfold Reads at reads
  refine yields_of_body who exec_engxMbox ?_
  simp only [reads, ok_bind, headRequest_hart here, empty, List.head?_nil]

/-- kwait without a request parks until there is one (R292). -/
theorem engxKwait_parks (issues : Issues .engxKwait s t) :
    ∃ u, exec .engxKwait s = .next u ∧ (u.ctx me).st = .parked ∧ (u.ctx me).why = some .request := by
  refine parks_of_body who exec_engxKwait ?_ ⟨issues, who ▸ ownForms_hart here⟩
  simp only [headRequest_hart here, empty, List.head?_nil]

end

section
variable {r : Request} {rest : List Request} (head : h.queue = r :: rest)
include head

/-- mbox ends the head request with the STATUS of its word (R116, R292). -/
theorem engxMbox_ends (reads : Reads t me a x) :
    Yields (.engxMbox a) s t (endRequest r (statusOf (fresh t).1 (bits x 47 40)) (fresh t).2) := by
  unfold Reads at reads
  refine yields_of_body who exec_engxMbox ?_
  simp only [reads, ok_bind, headRequest_hart here, head, List.head?_cons]

/-- kwait takes the head request's words into n0 to n3 (R292). -/
theorem engxKwait_takes :
    Yields .engxKwait s t (t.updCtx me fun y => { y with arch := y.arch.withWords (requestWords t r) y.gen }) := by
  refine yields_of_body who exec_engxKwait ?_
  simp only [headRequest_hart here, head, List.head?_cons]
  rfl

section
variable (reads : Reads t me a x) (slot : bits x 7 0 < 64)
include reads slot

/-- gcmkey loads the key and salt of a slot granted to the request's partition (R396). -/
theorem engxGcmkey_granted (granted : (t.mg.slots.get (Fin.ofNat 64 (bits x 7 0))).grant = some (pIdx (t.partOf me))) :
    Yields (.engxGcmkey a) s t (t.updHart me fun h =>
      { h with gcm := some ((t.mg.slots.get (Fin.ofNat 64 (bits x 7 0))).key,
                          (t.mg.slots.get (Fin.ofNat 64 (bits x 7 0))).salt) }) := by
  unfold Reads at reads
  refine yields_of_body who exec_engxGcmkey ?_
  simp only [reads, ok_bind, headRequest_hart here, head, List.head?_cons, slot, granted, Option.isSome_some, decide_true,
    beq_self_eq_true, Bool.and_self, check_true]

end
end
end

/-- gcmkey of another partition's slot, or of none's, raises PERM (R396). -/
theorem engxGcmkey_refused (reads : Reads t me a x)
    (other : (t.mg.slots.get (Fin.ofNat 64 (bits x 7 0))).grant ≠ some (pIdx (t.partOf me))) :
    Raises (.engxGcmkey a) s t 7 3 0 := by
  unfold Reads at reads
  refine raises_of_body who exec_engxGcmkey ?_
  simp only [reads, ok_bind, beq_eq_false_iff_ne.mpr other, Bool.and_false, check_false]
  rfl

section
variable {key : BitVec 128} {salt : BitVec 32} (args : gcmArgs t me y = .ok ((key, salt), y.toNat, h.staging))
  (reads : Reads t me a x) (length : Reads t me b y)
include args reads length

/-- gcmenc replaces the staging buffer's text by its cipher text and tag (R396). -/
theorem engxGcmenc_seals {sealed : List Byte × List Byte}
    (crypt : gcmEncrypt key.toNat (gcmIv (key, salt) x) (h.staging.take y.toNat) = sealed) :
    Yields (.engxGcmenc d a b) s t
      (writeDst (t.updHart me fun h => { h with staging := patchBytes h.staging 0 (sealed.1 ++ sealed.2) }) me d 0) := by
  unfold Reads at reads length
  refine yields_of_body who exec_engxGcmenc ?_
  simp only [reads, length, ok_bind, args, crypt]

/-- gcmdec leaves the text and answers 0 where the tag is right, and leaves zeros and answers 1 where it is not (R396). -/
theorem engxGcmdec_opens {text : Option (List Byte)}
    (crypt : gcmDecrypt key.toNat (gcmIv (key, salt) x) (h.staging.take y.toNat) ((h.staging.drop y.toNat).take 16) = text) :
    Yields (.engxGcmdec d a b) s t
      (writeDst (t.updHart me fun h => { h with staging := patchBytes h.staging 0 (text.getD (List.replicate y.toNat 0)) }) me d
        (if text.isSome then 0 else 1)) := by
  unfold Reads at reads length
  refine yields_of_body who exec_engxGcmdec ?_
  simp only [reads, length, ok_bind, args, crypt]
  cases text <;> rfl

end
end
end

/-- Settles O43: each form by what its words, its head request and its key have it do. -/
theorem microcodeForms : Obligations.MicrocodeForms := by
  unfold Obligations.MicrocodeForms
  intro d a b s t h x y me stage here place length
  refine ⟨fun l bs u u' legal read => ⟨?_, ?_⟩, fun l u legal => ⟨?_, ?_⟩, fun empty => ⟨?_, ?_⟩,
    fun r rest head => ⟨?_, ?_, ?_, ?_⟩, fun key salt loaded nonempty fits => ?_⟩
  · exact engxDmard_staged rfl place length legal read
  · exact engxDmard_port rfl place length legal read
  · exact engxDmawr_staged rfl place length legal here
  · exact engxDmawr_port rfl place length legal
  · exact engxMbox_idle rfl here empty place
  · exact engxKwait_parks rfl here empty
  · refine ⟨_, engxMbox_ends rfl here head place, fun zero => ?_, fun one => ?_, fun two => ?_⟩
    · rw [zero]
      rfl
    · rw [one]
      rfl
    · rw [two]
      exact statusOf_two _
  · refine ⟨_, engxKwait_takes rfl here head, fun i => ?_⟩
    rw [State.arch, State.ctx_updCtx_same]
    exact Arch.withWords_n ..
  · exact engxGcmkey_granted rfl here head place
  · exact fun _ => engxGcmkey_refused rfl place
  · have args := gcmArgs_loaded here loaded nonempty fits
    intro iv text tag
    refine ⟨?_, fun p opened => ?_, fun failed => ?_⟩
    · exact engxGcmenc_seals rfl args place length (sealed := gcmEncrypt key.toNat iv text) rfl
    · exact engxGcmdec_opens rfl args place length (text := .some p) opened
    · exact engxGcmdec_opens rfl args place length (text := .none) failed

end Sys2Proof.Machine
end

section
namespace Sys2Proof.Machine
open Sys2Proof.Safety

/-! ## The eng forms (R113, R114, R118, R284 to R289, R421) -/

/-! ### An engine after an update -/

theorem State.hart_updHart_same (s : State) (a : Agent) (g : Hart → Hart) : (s.updHart a g).hart a = (s.hart a).map g := by
  cases a with
  | hart q i => simp only [State.updHart, State.hart, State.quads_updQuad, if_true, vget_set, Option.map_some]
  | weir u => simp only [State.updHart, State.hart, vget_set, if_true, Option.map_some]
  | strand | cmd | sec => rfl

theorem State.hart_updCtx_same (s : State) (a : Agent) (g : Ctx → Ctx) :
    (s.updCtx a g).hart a = (s.hart a).map fun h => { h with ctx := g h.ctx } := by
  cases a with
  | hart q i => exact State.hart_updHart_same s (.hart q i) _
  | weir u => exact State.hart_updHart_same s (.weir u) _
  | strand | cmd | sec => rfl

/-- An update of a quad that keeps its harts keeps every engine. -/
theorem State.hart_updQuad_keep (s : State) (q : Fin 64) (g : Quad → Quad) (h : ∀ x, (g x).harts = x.harts) (a : Agent) :
    (s.updQuad q g).hart a = s.hart a := by
  cases a with
  | hart r i =>
    simp only [State.hart, State.quads_updQuad]
    split <;> simp_all
  | strand | weir | cmd | sec => rfl

theorem State.hart_updCtx_strand (s : State) (q : Fin 64) (c : Fin 4) (k : Fin 24) (g : Ctx → Ctx) (a : Agent) :
    (s.updCtx (.strand q c k) g).hart a = s.hart a :=
  State.hart_updQuad_keep s q (fun x => x.updCore c fun y => y.updCtx k g) (fun _ => rfl) a

/-- An engine's microcode is no strand (R118). -/
theorem engAgent_ne_strand (q r : Fin 64) (eng : BitVec 5) (c : Fin 4) (k : Fin 24) : .strand r c k ≠ engAgent q eng := by
  unfold engAgent
  split <;> exact nofun

theorem makeReady_engine (q : Fin 64) (eng : BitVec 5) (s : State) :
    makeReady (engAgent q eng) s = s.updCtx (engAgent q eng) fun y => { y with st := .running, why := none } := by
  unfold engAgent
  split <;> rfl

/-- An engine that waits for a request goes on. -/
def wakeEngine (a : Agent) (s : State) : State := if (s.ctx a).why == some .request then wake a s else s

/-- What a wake leaves of an engine: its queue and its next sequence number, and the strands' contexts. -/
theorem wakeEngine_keeps {q : Fin 64} {eng : BitVec 5} {s : State} {h : Hart} (here : s.hart (engAgent q eng) = some h) :
    (∃ h', (wakeEngine (engAgent q eng) s).hart (engAgent q eng) = some h' ∧ h'.queue = h.queue ∧ h'.nextSeq = h.nextSeq) ∧
      ∀ r c k, (wakeEngine (engAgent q eng) s).ctx (.strand r c k) = s.ctx (.strand r c k) := by
  unfold wakeEngine wake
  rw [makeReady_engine]
  split
  · split
    · have woken := State.hart_updCtx_same s (engAgent q eng) fun y => { y with st := .running, why := none }
      rw [here, Option.map_some] at woken
      exact ⟨⟨_, woken, rfl, rfl⟩, fun r c k => State.ctx_updCtx_ne _ _ (engAgent_ne_strand q r eng c k)⟩
    · exact ⟨⟨h, here, rfl, rfl⟩, fun _ _ _ => rfl⟩
  · exact ⟨⟨h, here, rfl, rfl⟩, fun _ _ _ => rfl⟩

/-! ### The promise word (R118) -/

theorem promiseWord_toNat (eng : BitVec 5) (seq : BitVec 11) (due : Nat) :
    (promiseWord eng seq due).toNat = eng.toNat * 2 ^ 59 + seq.toNat * 2 ^ 48 + due % 2 ^ 48 := by
  have he := eng.isLt
  have hs := seq.isLt
  have hd := Nat.mod_lt due (y := 2 ^ 48) (by decide)
  simp only [promiseWord, wd, BitVec.toNat_ofNat]
  omega

theorem promiseWord_eng (eng : BitVec 5) (seq : BitVec 11) (due : Nat) :
    (promiseWord eng seq due).toNat / 2 ^ 59 = eng.toNat := by
  have hs := seq.isLt
  rw [promiseWord_toNat]
  omega

theorem promiseWord_seq (eng : BitVec 5) (seq : BitVec 11) (due : Nat) :
    (promiseWord eng seq due).toNat / 2 ^ 48 % 2 ^ 11 = seq.toNat := by
  have hs := seq.isLt
  rw [promiseWord_toNat]
  omega

/-! ### The kick (R284) -/

theorem State.ctx_updHart_strand (s : State) (a : Agent) (g : Hart → Hart) (q : Fin 64) (c : Fin 4) (k : Fin 24) :
    (s.updHart a g).ctx (.strand q c k) = s.ctx (.strand q c k) := by
  cases a with
  | hart r i =>
    have kept := State.core_updQuad_keep s r (fun x => { x with harts := x.harts.set i.val (g (x.harts.get i)) i.isLt })
      (fun _ => rfl) q c
    exact congrArg (fun x => x.ctxs.get k) kept
  | strand | weir | cmd | sec => rfl

/-- The state after a kick of request `x` with sequence number `seq` by agent `a`, before its engine is woken: the entries stand,
the request is queued, and it is on its strand's list of outstanding requests. -/
def queueRequest (q : Fin 64) (a : Agent) (eng : BitVec 5) (seq : BitVec 11) (x : Request) (cs : List Claim) (due : Nat)
    (s : State) : State :=
  (((fresh s).2.updQuad q (makeEntries (.request eng seq) cs)).updHart (engAgent q eng) fun h =>
    { h with queue := h.queue ++ [x], nextSeq := h.nextSeq + 1, lastDue := wd due }).updCtx a fun y =>
      { y with outst := y.outst ++ [{ eng := eng, seq := seq, st := .running }] }

section
variable {q r : Fin 64} {c : Fin 4} {k : Fin 24} {eng : BitVec 5} {seq : BitVec 11} {x : Request} {cs : List Claim}
  {due : Nat} {s : State}

/-- The entries of a kick change no engine. -/
theorem entries_hart (o : SbOwner) (a : Agent) : ((fresh s).2.updQuad q (makeEntries o cs)).hart a = s.hart a := by
  rw [State.hart_updQuad_keep _ _ _ (makeEntries_harts o cs)]
  cases a <;> rfl

theorem queueRequest_hart {h : Hart} (here : s.hart (engAgent q eng) = some h) :
    (queueRequest q (.strand r c k) eng seq x cs due s).hart (engAgent q eng) =
      some { h with queue := h.queue ++ [x], nextSeq := h.nextSeq + 1, lastDue := wd due } := by
  rw [queueRequest, State.hart_updCtx_strand, State.hart_updHart_same, entries_hart, here, Option.map_some]

theorem queueRequest_outst :
    ((queueRequest q (.strand r c k) eng seq x cs due s).ctx (.strand r c k)).outst =
      (s.ctx (.strand r c k)).outst ++ [{ eng := eng, seq := seq, st := .running }] := by
  rw [queueRequest, State.ctx_updCtx_same, State.ctx_updHart_strand, State.ctx_makeEntries, fresh_ctx]

end

section
variable {kind : Nat} {q r : Fin 64} {c : Fin 4} {k : Fin 24} {l : Launch} {record : Word} {rs : Rec} {p act : Nat × Tile}
  {eng : BitVec 5} {t : State} {hart : Hart}

/-- A kick that its engine, the board and the list of its strand have room for, without a barrier tag, queues one request. -/
theorem kick_queues (here : t.hart (engAgent q eng) = some hart) (untagged : tagOf kind (t.ctx (.strand r c k)).sp.btag = none)
    (board : sbRoom (t.quads.get q) (reqClaims kind (reqRows kind (Rec.rows rs) p.2.shape act.2.shape) p act).length = true)
    (queue : hart.queue.length < (if eng.toNat < 16 then 16 else 32)) (list : (t.ctx (.strand r c k)).outst.length < 32) :
    ∃ x due cs, kick kind q (.strand r c k) l record rs p act eng t = .ok (promiseWord eng hart.nextSeq due,
        wakeEngine (engAgent q eng) (queueRequest q (.strand r c k) eng hart.nextSeq x cs due t)) ∧
      x.kind = kind ∧ x.record = record ∧ x.seq = hart.nextSeq ∧ x.tentry = p.1 ∧ x.tgen = p.2.gen ∧ x.launch = l.id := by
  have tests : kickTests q (reqClaims kind (reqRows kind (Rec.rows rs) p.2.shape act.2.shape) p act).length (engAgent q eng) eng
      (.strand r c k) t = .ok () := by
    simp only [kickTests, needEntries_room board, here, queue, list, ok_bind, decide_true, check_true]
  simp only [kick, tests, untagged, ok_bind, here]
  exact ⟨_, _, _, rfl, rfl, rfl, rfl, rfl, rfl, rfl⟩

end

/-! ### The form (R284) -/

section
variable {kind : Nat} {d : Dst} {a : Src} {h : Fin 64} {la : Nat} {t z u u2 u' : State} {q : Fin 64} {c : Fin 4} {k : Fin 24}
  {l : Launch} {v w : Word} {p act : Nat × Tile} {rs : Rec} {pa : Nat} {eng : BitVec 5}
  (idle : (t.quads.get q).sweeping = false) (reads : Reads t (.strand q c k) a v) (launch : t.launchRec (.strand q c k) = some l)
  (bound : boundTile t (.strand q c k) h = .ok p) (performed : drained (.strand q c k) t = .ok z)
include idle reads launch bound performed

/-- A form of a copy hart reads its record, and kicks the hart with fewer requests (R114, R284). -/
theorem bodyEng_copy (copy : kind ≠ 5) (narrow : (kind == 4 && launchWide h) = false)
    (recs : readRecs kind (.strand q c k) (v &&& ~~~ (0x1F : Word)) z = .ok (rs, pa, u))
    (kicked : kick kind q (.strand q c k) l v rs p p (BitVec.ofNat 5 (pickHart (u.quads.get q)).val) u = .ok (w, u')) :
    bodyEng kind d a h la (.strand q c k) t = .ok (windowResult u' (.strand q c k) la d w) := by
  unfold Reads at reads
  simp only [bodyEng, quadOf, awaitSweep_idle idle, reads, launch, bound, performed, ok_bind, if_neg copy, narrow, Bool.not_false,
    check_true, recs, kicked]

/-- A weir form reads both records, and kicks the unit of the channel that homes the weights (R114, R284, R288). -/
theorem bodyEng_weir (activations : boundTile t (.strand q c k) (Fin.ofNat 64 (bits v 5 0)) = .ok act)
    (recs : readRecs 5 (.strand q c k) (v &&& ~~~ (0x3F : Word)) z = .ok (rs, pa, u)) {n : Fin 16}
    (picked : pickWeir (requesterOf u (.strand q c k)) (wd (Rec.base rs)) pa u = .ok (n, u2))
    (kicked : kick 5 q (.strand q c k) l (v &&& ~~~ (0x3F : Word)) rs p act (BitVec.ofNat 5 (16 + n.val)) u2 = .ok (w, u')) :
    bodyEng 5 d a h la (.strand q c k) t = .ok (windowResult u' (.strand q c k) la d w) := by
  unfold Reads at reads
  have notColl : ((5 : Nat) == 4 && launchWide h) = false := rfl
  simp only [bodyEng, quadOf, awaitSweep_idle idle, reads, launch, bound, performed, ok_bind, if_true, activations, notColl,
    Bool.not_false, check_true, recs, picked, kicked]

end

/-! ## The barrier forms (R122, R289, R290) -/

section
variable {d : Dst} {a : Src} {b : Fin 16} {s t : State} {q : Fin 64} {c : Fin 4} {k : Fin 24} {l : LaunchId} {v : Word}

section
variable (launch : t.launchOf (.strand q c k) = some l)
include launch

theorem ownsBar_owned (own : ((t.quads.get q).bars.get b).owner = some l) : ownsBar t (.strand q c k) b = true := by
  simp only [ownsBar, launch, quadOf, own, beq_self_eq_true]

theorem ownsBar_other (other : ((t.quads.get q).bars.get b).owner ≠ some l) : ownsBar t (.strand q c k) b = false := by
  simp only [ownsBar, launch, quadOf, beq_eq_false_iff_ne.mpr other]

end

variable (who : s.md.who = .strand q c k)
include who

/-! ### barr.wait -/

theorem bwait_refused (own : ownsBar t (.strand q c k) b = false) : Raises (.bwait b) s t 7 3 0 := by
  refine raises_of_body who exec_bwait ?_
  simp only [own, Bool.not_false, if_true]
  rfl

theorem bwait_passes (own : ownsBar t (.strand q c k) b = true) (done : ((t.quads.get q).bars.get b).pending = 0) :
    Yields (.bwait b) s t t := by
  refine yields_of_body who exec_bwait ?_
  simp only [own, quadOf, done, Bool.not_true, Bool.false_eq_true, if_false, beq_self_eq_true, if_true]

theorem bwait_parks (own : ownsBar t (.strand q c k) b = true) (pending : ((t.quads.get q).bars.get b).pending ≠ 0)
    (stops : Stops (.bwait b) s t) :
    ∃ u, exec (.bwait b) s = .next u ∧ (u.ctx (.strand q c k)).st = .parked ∧
      (u.ctx (.strand q c k)).why = some (.barrier b) := by
  refine parks_of_body who exec_bwait ?_ stops
  simp only [own, quadOf, beq_eq_false_iff_ne.mpr pending, Bool.not_true, Bool.false_eq_true, if_false]

variable (reads : Reads t (.strand q c k) a v)
include reads

/-! ### barr.arm -/

theorem barm_clears (zero : v = 0) : Yields (.barm a b) s t (t.updSpec (.strand q c k) fun p => { p with btag := 0 }) := by
  unfold Reads at reads
  refine yields_of_body who exec_barm ?_
  simp only [reads, ok_bind, zero, beq_self_eq_true, if_true]

theorem barm_tags (nonzero : v ≠ 0) (own : ownsBar t (.strand q c k) b = true) :
    Yields (.barm a b) s t (t.updSpec (.strand q c k) fun p => { p with btag := BitVec.ofNat 5 (16 + b.val) }) := by
  unfold Reads at reads
  refine yields_of_body who exec_barm ?_
  simp only [reads, ok_bind, beq_eq_false_iff_ne.mpr nonzero, own, Bool.false_eq_true, if_false, if_true]

theorem barm_refused (nonzero : v ≠ 0) (own : ownsBar t (.strand q c k) b = false) : Raises (.barm a b) s t 7 3 0 := by
  unfold Reads at reads
  refine raises_of_body who exec_barm ?_
  simp only [reads, ok_bind, beq_eq_false_iff_ne.mpr nonzero, own, Bool.false_eq_true, if_false]
  rfl

/-! ### barr.claim -/

/-- The state with the owner of a barrier set. -/
def setOwner (q : Fin 64) (b : Fin 16) (o : Option LaunchId) (s : State) : State :=
  s.updQuad q fun x => x.updBar b fun y => { y with owner := o }

section
variable (nonzero : v ≠ 0)
include nonzero

theorem barrClaim_free (launch : t.launchOf (.strand q c k) = some l) (free : ((t.quads.get q).bars.get b).owner = none) :
    Yields (.barrClaim d a b) s t (writeDst (setOwner q b (some l) t) (.strand q c k) d 1) := by
  unfold Reads at reads
  refine yields_of_body who exec_barrClaim ?_
  simp only [reads, ok_bind, bne_iff_ne.mpr nonzero, quadOf, free, launch, if_true]
  rfl

/-- A claim of a barrier that has an owner answers whether that is the launch. -/
theorem barrClaim_taken {m : LaunchId} (taken : ((t.quads.get q).bars.get b).owner = some m) :
    Yields (.barrClaim d a b) s t (writeDst t (.strand q c k) d (if ownsBar t (.strand q c k) b then 1 else 0)) := by
  unfold Reads at reads
  refine yields_of_body who exec_barrClaim ?_
  simp only [reads, ok_bind, bne_iff_ne.mpr nonzero, quadOf, taken, if_true]

end

section
variable (zero : v = 0)
include zero

theorem barrClaim_notOwned (own : ownsBar t (.strand q c k) b = false) :
    Yields (.barrClaim d a b) s t (writeDst t (.strand q c k) d 0) := by
  unfold Reads at reads
  refine yields_of_body who exec_barrClaim ?_
  simp only [reads, ok_bind, zero, bne_self_eq_false, Bool.false_eq_true, if_false, own, Bool.not_false, if_true]

variable (own : ownsBar t (.strand q c k) b = true)
include own

theorem barrClaim_pending (pending : ((t.quads.get q).bars.get b).pending ≠ 0) :
    Yields (.barrClaim d a b) s t (writeDst t (.strand q c k) d 2) := by
  unfold Reads at reads
  refine yields_of_body who exec_barrClaim ?_
  simp only [reads, ok_bind, zero, bne_self_eq_false, Bool.false_eq_true, if_false, own, Bool.not_true, quadOf,
    bne_iff_ne.mpr pending, if_true]

theorem barrClaim_released (done : ((t.quads.get q).bars.get b).pending = 0) :
    Yields (.barrClaim d a b) s t (writeDst (setOwner q b none t) (.strand q c k) d 1) := by
  unfold Reads at reads
  refine yields_of_body who exec_barrClaim ?_
  simp only [reads, ok_bind, zero, bne_self_eq_false, Bool.false_eq_true, if_false, own, Bool.not_true, quadOf, done]
  rfl

end
end

/-- Settles O42: an eng form comes to its kick, a kick queues its request, and each barrier form goes by the barrier's owner. -/
theorem engineForms : Obligations.EngineForms := by
  unfold Obligations.EngineForms
  intro d a h b la s t q c k l v me who reads
  change s.md.who = _ at who
  simp only [me, who] at reads ⊢
  refine ⟨?_, ?_, fun launch => ?_⟩
  · intro kind p act rs pa z u u' u2 eng w le idle launch performed bound activations narrow recs engine kicked
    refine yields_of_body who (body := bodyEng kind d a h la.val) (by interval_cases kind <;> rfl) ?_
    by_cases weir : kind = 5
    · subst weir
      simp only [if_true] at activations recs engine
      obtain ⟨n, picked, rfl⟩ := engine
      exact bodyEng_weir idle reads launch bound performed activations recs picked kicked
    · simp only [if_neg weir] at activations recs engine kicked
      obtain ⟨rfl, rfl⟩ := engine
      subst activations
      refine bodyEng_copy idle reads launch bound performed weir ?_ recs kicked
      simpa using narrow
  · intro kind p act rs record eng hart here untagged board queue list
    obtain ⟨x, due, cs, kicked, hkind, hrecord, hseq, hentry, hgen, hlaunch⟩ := kick_queues here untagged board queue list
    obtain ⟨⟨hart', woken, hqueue, hnext⟩, others⟩ := wakeEngine_keeps (queueRequest_hart (seq := hart.nextSeq) here)
    refine ⟨_, _, x, kicked, promiseWord_eng .., promiseWord_seq .., ⟨hart', woken, hqueue, hnext⟩, hkind, hrecord, hseq,
      hentry, hgen, hlaunch, ?_⟩
    rw [others, queueRequest_outst]
  · exact ⟨barm_clears who reads, fun nonzero own => barm_tags who reads nonzero (ownsBar_owned launch own),
      fun nonzero other => barm_refused who reads nonzero (ownsBar_other launch other),
      fun nonzero free => barrClaim_free who reads nonzero launch free,
      fun nonzero own => by simpa [ownsBar_owned launch own] using barrClaim_taken who reads nonzero own,
      fun m nonzero taken other => by
        have notOurs : ((t.quads.get q).bars.get b).owner ≠ some l.id := by simpa [taken] using other
        simpa [ownsBar_other launch notOurs] using barrClaim_taken who reads nonzero taken,
      fun zero other => barrClaim_notOwned who reads zero (ownsBar_other launch other),
      fun zero own pending => barrClaim_pending who reads zero (ownsBar_owned launch own) pending,
      fun zero own done => barrClaim_released who reads zero (ownsBar_owned launch own) done,
      fun other => bwait_refused who (ownsBar_other launch other),
      fun own done => bwait_passes who (ownsBar_owned launch own) done,
      fun own pending stops => bwait_parks who (ownsBar_owned launch own) pending stops⟩

end Sys2Proof.Machine
end

section
namespace Sys2Proof.Laws

/-! ## A word as its fields, from bit 0 up (R160) -/

/-- The word whose fields are those listed, each a width and a value, the lowest first. -/
def joined : List (Nat × Nat) → Nat
  | [] => 0
  | (k, v) :: l => v + 2 ^ k * joined l

/-- The fields of `w` from bit `lo` up, of the widths listed. -/
def cut (w : Nat) : Nat → List Nat → List (Nat × Nat)
  | _, [] => []
  | lo, k :: ks => (k, fld w lo k) :: cut w (lo + k) ks

section
variable {w lo n k v : Nat} {l : List (Nat × Nat)}

theorem fld_lt : fld w lo n < 2 ^ n := Nat.mod_lt _ (Nat.two_pow_pos n)

/-- Two fields side by side are one. -/
theorem fld_add (w lo n k : Nat) : fld w lo (n + k) = fld w lo n + 2 ^ n * fld w (lo + n) k := by
  rw [fld, fld, fld, Nat.pow_add, Nat.mod_mul, Nat.div_div_eq_div_mul, ← Nat.pow_add]

/-- The fields that a word is cut into join to the word. -/
theorem joined_cut (w lo : Nat) (ks : List Nat) : joined (cut w lo ks) = fld w lo ks.sum := by
  induction ks generalizing lo with
  | nil => simp [cut, joined, fld, Nat.mod_one]
  | cons k ks ih => rw [cut, joined, ih, List.sum_cons, fld_add]

theorem fld_whole (fits : w < 2 ^ n) : fld w 0 n = w := by
  rw [fld, Nat.pow_zero, Nat.div_one, Nat.mod_eq_of_lt fits]

@[simp] theorem fld_joined_head (fits : v < 2 ^ k) : fld (joined ((k, v) :: l)) 0 k = v := by
  rw [fld, joined, Nat.pow_zero, Nat.div_one, Nat.add_mul_mod_self_left, Nat.mod_eq_of_lt fits]

@[simp] theorem fld_joined_skip (fits : v < 2 ^ k) (above : k ≤ lo) :
    fld (joined ((k, v) :: l)) lo n = fld (joined l) (lo - k) n := by
  obtain ⟨j, rfl⟩ := Nat.exists_eq_add_of_le above
  rw [fld, fld, joined, Nat.pow_add, ← Nat.div_div_eq_div_mul, Nat.add_mul_div_left _ _ (Nat.two_pow_pos k),
    Nat.div_eq_of_lt fits, Nat.zero_add, Nat.add_sub_cancel_left]

/-- Two fields that are read as one. -/
@[simp] theorem fld_joined_pair {j u : Nat} (width : n = k + j) (low : v < 2 ^ k) (high : u < 2 ^ j) :
    fld (joined ((k, v) :: (j, u) :: l)) 0 n = v + 2 ^ k * u := by
  rw [width, fld_add, fld_joined_head low, Nat.zero_add, fld_joined_skip low le_rfl, Nat.sub_self, fld_joined_head high]

/-- A field that lies within the lowest `k` bits is read from them alone. -/
theorem fld_mod (within : lo + n ≤ k) : fld (w % 2 ^ k) lo n = fld w lo n := by
  obtain ⟨j, rfl⟩ := Nat.exists_eq_add_of_le within
  rw [fld, fld, Nat.pow_add, Nat.pow_add, Nat.mul_assoc, Nat.mod_mul_right_div_self, Nat.mod_mul_right_mod]

end

/-! ## The codes of the operands (R44, R157, R161, R163, R168) -/

@[simp] theorem toNat_lt_of_le {n k : Nat} (x : BitVec n) (le : 2 ^ n ≤ k) : x.toNat < k := x.isLt.trans_le le

@[simp] theorem val_lt_of_le {n k : Nat} (x : Fin n) (le : n ≤ k) : x.val < k := x.isLt.trans_le le

@[simp] theorem Src.code_lt (a : Src) : a.code < 32 := src_code_lt a
@[simp] theorem Dst.code_lt (d : Dst) : d.code < 32 := dst_code_lt d
@[simp] theorem Cond.code_lt (c : Cond) : c.code < 8 := cond_code_lt c
@[simp] theorem LdSize.code_lt (c : LdSize) : c.code < 8 := ldSize_code_lt c
@[simp] theorem StSize.code_lt (c : StSize) : c.code < 8 := stSize_code_lt c
@[simp] theorem FenceKind.code_lt (c : FenceKind) : c.code < 4 := fenceKind_code_lt c
@[simp] theorem LaneTy.code_lt (t : LaneTy) : t.code < 16 := laneTy_code_lt t
@[simp] theorem L16Ty.code_lt (t : L16Ty) : t.code < 4 := l16Ty_code_lt t
@[simp] theorem toNat_le_one (b : Bool) : b.toNat ≤ 1 := Bool.toNat_le b

@[simp] theorem toNat_beq_one (b : Bool) : (b.toNat == 1) = b := by cases b <;> rfl

@[simp] theorem srcOf_code (a : Src) : srcOf a.code = a := by
  cases a with
  | n i => simp [srcOf, Src.code, i.isLt]
  | q i => simp [srcOf, Src.code]

@[simp] theorem dstOf_code (d : Dst) : dstOf d.code = some d := by
  cases d with
  | n i => simp [dstOf, Dst.code, i.isLt]
  | push => rfl
  | drop => rfl

@[simp] theorem condOf_code (c : Cond) : condOf c.code = some c := by cases c <;> rfl
@[simp] theorem ldSizeOf_code (c : LdSize) : ldSizeOf c.code = some c := by cases c <;> rfl
@[simp] theorem stSizeOf_code (c : StSize) : stSizeOf c.code = some c := by cases c <;> rfl
@[simp] theorem fenceOf_code (c : FenceKind) : fenceOf c.code = some c := by cases c <;> rfl
@[simp] theorem laneTyOf_code (t : LaneTy) : laneTyOf t.code = some t := by cases t <;> rfl
@[simp] theorem l16TyOf_code (t : L16Ty) : l16TyOf t.code = some t := by cases t <;> rfl

theorem code_srcOf {f : Nat} (lt : f < 32) : (srcOf f).code = f := by
  unfold srcOf
  split
  · exact Nat.mod_eq_of_lt ‹_›
  · simp only [Src.code, Fin.ofNat]
    omega

theorem code_dstOf {f : Nat} {d : Dst} (h : dstOf f = some d) : d.code = f := by
  unfold dstOf at h
  split_ifs at h with named push drop <;> cases h
  · exact Nat.mod_eq_of_lt named
  · exact push.symm
  · exact drop.symm

theorem code_condOf {f : Nat} {c : Cond} (h : condOf f = some c) : c.code = f := by
  unfold condOf at h
  split at h <;> cases h <;> rfl

theorem code_ldSizeOf {f : Nat} {c : LdSize} (h : ldSizeOf f = some c) : c.code = f := by
  unfold ldSizeOf at h
  split at h <;> cases h <;> rfl

theorem code_stSizeOf {f : Nat} {c : StSize} (h : stSizeOf f = some c) : c.code = f := by
  unfold stSizeOf at h
  split at h <;> cases h <;> rfl

theorem code_fenceOf {f : Nat} {c : FenceKind} (h : fenceOf f = some c) : c.code = f := by
  unfold fenceOf at h
  split at h <;> cases h <;> rfl

theorem code_laneTyOf {f : Nat} {t : LaneTy} (h : laneTyOf f = some t) : t.code = f := by
  unfold laneTyOf at h
  split at h <;> cases h <;> rfl

theorem code_l16TyOf {f : Nat} {t : L16Ty} (h : l16TyOf f = some t) : t.code = f := by
  unfold l16TyOf at h
  split at h <;> cases h <;> rfl

section
variable (w lo : Nat)

@[simp] theorem code_fA : (fA w).code = fld w 12 5 := code_srcOf fld_lt
@[simp] theorem code_fB : (fB w).code = fld w 17 5 := code_srcOf fld_lt
@[simp] theorem code_srcOf_fld : (srcOf (fld w lo 5)).code = fld w lo 5 := code_srcOf fld_lt
@[simp] theorem val_fLa : (fLa w).val = fld w 28 4 := Nat.mod_eq_of_lt fld_lt
@[simp] theorem val_f8 : (f8 w lo).val = fld w lo 3 := Nat.mod_eq_of_lt fld_lt
@[simp] theorem val_f64 : (f64 w lo).val = fld w lo 6 := Nat.mod_eq_of_lt fld_lt

@[simp] theorem fld_mod_of_le {n k : Nat} (le : 2 ^ n ≤ k) : fld w lo n % k = fld w lo n :=
  Nat.mod_eq_of_lt (fld_lt.trans_le le)

/-- A field of one bit, as the Boolean that it stands for. -/
@[simp] theorem toNat_fld_one : (fld w lo 1 == 1).toNat = fld w lo 1 := by
  have bit : fld w lo 1 < 2 := fld_lt
  interval_cases fld w lo 1 <;> rfl

end

/-! ## What the parts of a decoder accept (R177) -/

section
variable {i : Instr}

theorem pick_ok {α : Type} {o : Option α} {r : Reject} {f : α → Except Reject Instr} :
    pick o r f = .ok i ↔ ∃ x, o = some x ∧ f x = .ok i := by
  cases o <;> simp [pick]

theorem need_ok {p : Bool} {r : Reject} {x : Except Reject Instr} : need p r x = .ok i ↔ p = true ∧ x = .ok i := by
  cases p <;> simp [need]

theorem needDst_ok {w : Nat} {f : Dst → Except Reject Instr} :
    needDst w f = .ok i ↔ ∃ d : Dst, d.code = fld w 7 5 ∧ f d = .ok i := by
  unfold needDst
  constructor
  · intro h
    split at h
    · exact ⟨_, code_dstOf ‹_›, h⟩
    · cases h
  · rintro ⟨d, code, h⟩
    rw [← code, dstOf_code]
    exact h

end

@[simp] theorem pick_some {α : Type} (x : α) (r : Reject) (f : α → Except Reject Instr) : pick (some x) r f = f x := by
  rw [pick]

@[simp] theorem need_true (r : Reject) (x : Except Reject Instr) : need true r x = x := by
  rw [need, if_pos rfl]

/-! ## The 32-bit word of a major opcode -/

/-- The 32-bit word of the major opcode `m` with the fields listed above it. -/
def majorWord (m : Nat) (l : List (Nat × Nat)) : Nat := joined ((1, 1) :: (6, m) :: l)

section
variable {m lo n : Nat} {l : List (Nat × Nat)}

theorem decodeWord_majorWord : decodeWord (majorWord m l) = decode32 (majorWord m l % 4294967296) := by
  rw [decodeWord, if_neg (by rw [majorWord, joined]; omega)]

@[simp] theorem fld_majorWord_major (major : m < 64) : fld (majorWord m l % 4294967296) 1 6 = m := by
  refine (fld_mod (k := 32) (by decide)).trans ?_
  rw [majorWord, fld_joined_skip (by decide) (by decide), fld_joined_head major]

@[simp] theorem fld_majorWord (major : m < 64) (above : 7 ≤ lo) (within : lo + n ≤ 32) :
    fld (majorWord m l % 4294967296) lo n = fld (joined l) (lo - 7) n := by
  refine (fld_mod (k := 32) within).trans ?_
  rw [majorWord, fld_joined_skip (by decide) (by omega), fld_joined_skip major (by omega), Nat.sub_sub]

@[simp] theorem needDst_majorWord (major : m < 64) (d : Dst) (f : Dst → Except Reject Instr) :
    needDst (majorWord m ((5, d.code) :: l) % 4294967296) f = f d := by
  have code : fld (majorWord m ((5, d.code) :: l) % 4294967296) 7 5 = d.code := by simp [major]
  rw [needDst, code, dstOf_code]

end

/-- `w` is a 32-bit word of the major opcode `m`. -/
structure IsWord (m w : Nat) : Prop where
  fits : w < 2 ^ 32
  odd : fld w 0 1 = 1
  major : fld w 1 6 = m

/-- A word of a major opcode is the sum of the fields that it is cut into. -/
theorem IsWord.eq_sum {m w : Nat} (word : IsWord m w) (ks : List Nat) (sum : ks.sum = 25) :
    w = 1 + 2 * (m + 64 * joined (cut w 7 ks)) := by
  have whole := joined_cut w 0 (1 :: 6 :: ks)
  rw [List.sum_cons, List.sum_cons, sum, fld_whole word.fits, cut, cut, word.odd, word.major] at whole
  exact whole.symm

/-! ## The two directions, for one instruction (R154, R160) -/

/-- The instruction is well formed, and its word is the `n` bits of `w`. -/
def Encodes (i : Instr) (n w : Nat) : Prop := i.wf = true ∧ encode i = some (n, w)

/-- The word of the instruction, if it has one, decodes to it. -/
def DecodesBack (i : Instr) : Prop := ∀ n w, encode i = some (n, w) → decodeWord w = .ok i

theorem DecodesBack.of_encodes {i : Instr} {n w : Nat} (encoded : encode i = some (n, w)) (decodes : decodeWord w = .ok i) :
    DecodesBack i := by
  intro _ _ word
  rw [encoded] at word
  cases word
  exact decodes

theorem Encodes.of_eq {i : Instr} {n v w : Nat} (encodes : Encodes i n v) (eq : v = w) : Encodes i n w := eq ▸ encodes

end Sys2Proof.Laws
end

section
namespace Sys2Proof.Laws

/-! ## The tables of the forms: what their instructions encode to (R183 to R187, R191, R215, R250 to R265, R275 to R284) -/

theorem encodes_aluOf {k : Nat} {f : Dst → Src → Src → Instr} (form : aluOf k = some f)
    (d : Dst) (a b : Src) :
    Encodes (f d a b) 32 (1 + k * 4194304 + d.code * 128 + a.code * 4096 + b.code * 131072) := by
  unfold aluOf at form
  split at form <;> cases form <;> exact ⟨rfl, rfl⟩

theorem encodes_mulOf {k : Nat} {f : Dst → Src → Src → Fin 16 → Instr} (form : mulOf k = some f)
    (d : Dst) (a b : Src) (la : Fin 16) :
    Encodes (f d a b la) 32 (3 + k * 4194304 + d.code * 128 + a.code * 4096 + b.code * 131072 + la.val * 268435456) := by
  unfold mulOf at form
  split at form <;> cases form <;> exact ⟨rfl, rfl⟩

theorem encodes_immOf {k : Nat} {f : Dst → Src → BitVec 15 → Instr} (form : immOf k = some f)
    (d : Dst) (a : Src) (imm : BitVec 15) :
    Encodes (f d a imm) 32 (1 + k * 2 + d.code * 128 + a.code * 4096 + imm.toNat * 131072) := by
  unfold immOf at form
  split at form <;> cases form <;> exact ⟨rfl, rfl⟩

theorem encodes_shiOf {k : Nat} {f : Dst → Src → BitVec 6 → Instr} (form : shiOf k = some f)
    (d : Dst) (a : Src) (count : BitVec 6) :
    Encodes (f d a count) 32 (13 + k * 8388608 + d.code * 128 + a.code * 4096 + count.toNat * 131072) := by
  unfold shiOf at form
  split at form <;> cases form <;> exact ⟨rfl, rfl⟩

theorem encodes_fpuOf {k : Nat} {f : Dst → Src → Src → Instr} (form : fpuOf k = some f)
    (d : Dst) (a b : Src) :
    Encodes (f d a b) 32 (23 + k * 4194304 + d.code * 128 + a.code * 4096 + b.code * 131072) := by
  unfold fpuOf at form
  split at form <;> cases form <;> exact ⟨rfl, rfl⟩

theorem encodes_amoOf {k : Nat} {f : Bool → Bool → Bool → Dst → Fin 16 → Src → Fin 16 → Instr} (form : amoOf k = some f)
    (wide acq rel : Bool) (d : Dst) (a : Fin 16) (b : Src) (la : Fin 16) :
    Encodes (f wide acq rel d a b la) 32
      (53 + k * 4194304 + wide.toNat * 65536 + acq.toNat * 134217728 + rel.toNat * 67108864 + d.code * 128 +
      a.val * 4096 + b.code * 131072 + la.val * 268435456) := by
  unfold amoOf at form
  split at form <;> cases form <;> exact ⟨rfl, rfl⟩

theorem encodes_w3Of {k : Nat} {f : LaneTy → Fin 8 → Fin 8 → Fin 8 → Fin 8 → Instr} (form : w3Of k = some f)
    (ty : LaneTy) (m d a b : Fin 8)
    (cls : (if k == 11 || k == 12 then ty.isInt else ty.isArith) = true) :
    Encodes (f ty m d a b) 32
      (65 + k * 8388608 + ty.code * 524288 + m.val * 65536 + d.val * 128 + a.val * 1024 + b.val * 8192) := by
  unfold w3Of at form
  split at form <;> cases form <;> exact ⟨cls, rfl⟩

theorem encodes_w2Of {k : Nat} {f : LaneTy → Fin 8 → Fin 8 → Fin 8 → Instr} (form : w2Of k = some f)
    (ty : LaneTy) (m d b : Fin 8)
    (cls : (if k == 13 then ty.isArith else ty.isSigned) = true) :
    Encodes (f ty m d b) 32 (65 + k * 8388608 + ty.code * 524288 + m.val * 65536 + d.val * 128 + b.val * 8192) := by
  unfold w2Of at form
  split at form <;> cases form <;> exact ⟨cls, rfl⟩

theorem encodes_wmathOf {k : Nat} {f : LaneTy → Fin 8 → Fin 8 → Fin 8 → Instr} (form : wmathOf k = some f)
    (ty : LaneTy) (m d b : Fin 8)
    (cls : (if k < 5 then ty == .f32 || ty == .bf16 else ty.isArith) = true) :
    Encodes (f ty m d b) 32 (67 + k * 8388608 + ty.code * 524288 + m.val * 65536 + d.val * 128 + b.val * 8192) := by
  unfold wmathOf at form
  split at form <;> cases form <;> exact ⟨cls, rfl⟩

theorem encodes_wcmpOf {k : Nat} {f : LaneTy → Fin 8 → Fin 8 → Fin 8 → Fin 8 → Instr} (form : wcmpOf k = some f)
    (ty : LaneTy) (m d a b : Fin 8)
    (cls : ty.isWord = true) :
    Encodes (f ty m d a b) 32
      (69 + k * 8388608 + ty.code * 524288 + m.val * 65536 + d.val * 128 + a.val * 1024 + b.val * 8192) := by
  unfold wcmpOf at form
  split at form <;> cases form <;> exact ⟨cls, rfl⟩

theorem encodes_wboolOf {k : Nat} {f : Fin 8 → Fin 8 → Fin 8 → Fin 8 → Instr} (form : wboolOf k = some f)
    (m d a b : Fin 8) :
    Encodes (f m d a b) 32 (69 + k * 8388608 + m.val * 65536 + d.val * 128 + a.val * 1024 + b.val * 8192) := by
  unfold wboolOf at form
  split at form <;> cases form <;> exact ⟨rfl, rfl⟩

theorem encodes_wcvtOf {k : Nat} {f : LaneTy → Fin 8 → Fin 8 → Fin 8 → Fin 8 → Instr} (form : wcvtOf k = some f)
    (ty : LaneTy) (m d a b : Fin 8)
    (cls : (if k < 3 then ty.isNarrowFloat else ty.isCvtInt) = true) :
    Encodes (f ty m d a b) 32
      (73 + k * 8388608 + ty.code * 524288 + m.val * 65536 + d.val * 128 + a.val * 1024 + b.val * 8192) := by
  unfold wcvtOf at form
  split at form <;> cases form <;> exact ⟨cls, rfl⟩

theorem encodes_wsampOf {k t : Nat} {f : Fin 8 → Fin 8 → Fin 8 → Fin 8 → Instr} (form : wsampOf k = some (t, f))
    (m d a b : Fin 8) :
    Encodes (f m d a b) 32 (75 + k * 8388608 + t * 524288 + m.val * 65536 + d.val * 128 + a.val * 1024 + b.val * 8192) := by
  unfold wsampOf at form
  split at form <;> cases form <;> exact ⟨rfl, rfl⟩

theorem encodes_canvasOf {k : Nat} {f : Src → Fin 64 → Fin 64 → Fin 16 → Instr} (form : canvasOf k = some f)
    (nw : Src) (ha hb : Fin 64) (la : Fin 16) :
    Encodes (f nw ha hb la) 32 (83 + k * 16777216 + nw.code * 128 + ha.val * 4096 + hb.val * 262144 + la.val * 268435456) := by
  unfold canvasOf at form
  split at form <;> cases form <;> exact ⟨rfl, rfl⟩

theorem encodes_canvasxOf {k : Nat} {f : Src → Fin 64 → Fin 64 → Fin 16 → Instr} (form : canvasxOf k = some f)
    (nw : Src) (ha hb : Fin 64) (la : Fin 16) :
    Encodes (f nw ha hb la) 32 (101 + k * 16777216 + nw.code * 128 + ha.val * 4096 + hb.val * 262144 + la.val * 268435456) := by
  unfold canvasxOf at form
  split at form <;> cases form <;> exact ⟨rfl, rfl⟩

theorem encodes_engOf {k : Nat} {f : Dst → Src → Fin 64 → Fin 16 → Instr} (form : engOf k = some f)
    (d : Dst) (a : Src) (h : Fin 64) (la : Fin 16) :
    Encodes (f d a h la) 32 (85 + k * 8388608 + d.code * 128 + a.code * 4096 + h.val * 131072 + la.val * 268435456) := by
  unfold engOf at form
  split at form <;> cases form <;> exact ⟨rfl, rfl⟩

/-! ## The decoder of each major opcode (R175) -/

section
variable {w : Nat}

theorem decode32_alu (major : fld w 1 6 = 0) : decode32 w = decAlu w := by rw [decode32, major]; rfl
theorem decode32_mul (major : fld w 1 6 = 1) : decode32 w = decMul w := by rw [decode32, major]; rfl
theorem decode32_addi (major : fld w 1 6 = 2) : decode32 w = decImm 2 w := by rw [decode32, major]; rfl
theorem decode32_andi (major : fld w 1 6 = 3) : decode32 w = decImm 3 w := by rw [decode32, major]; rfl
theorem decode32_ori (major : fld w 1 6 = 4) : decode32 w = decImm 4 w := by rw [decode32, major]; rfl
theorem decode32_xori (major : fld w 1 6 = 5) : decode32 w = decImm 5 w := by rw [decode32, major]; rfl
theorem decode32_shi (major : fld w 1 6 = 6) : decode32 w = decShi w := by rw [decode32, major]; rfl
theorem decode32_cmpi (major : fld w 1 6 = 7) : decode32 w = decCmpi w := by rw [decode32, major]; rfl
theorem decode32_lui (major : fld w 1 6 = 8) : decode32 w = decUi .lui w := by rw [decode32, major]; rfl
theorem decode32_auipc (major : fld w 1 6 = 9) : decode32 w = decUi .auipc w := by rw [decode32, major]; rfl
theorem decode32_bits (major : fld w 1 6 = 0xA) : decode32 w = decBits w := by rw [decode32, major]; rfl
theorem decode32_fpu (major : fld w 1 6 = 0xB) : decode32 w = decFpu w := by rw [decode32, major]; rfl
theorem decode32_fpl (major : fld w 1 6 = 0xC) : decode32 w = decFpl w := by rw [decode32, major]; rfl
theorem decode32_br (major : fld w 1 6 = 0x10) : decode32 w = decBr w := by rw [decode32, major]; rfl
theorem decode32_jal (major : fld w 1 6 = 0x11) : decode32 w = decJal w := by rw [decode32, major]; rfl
theorem decode32_jr (major : fld w 1 6 = 0x12) : decode32 w = decJr w := by rw [decode32, major]; rfl
theorem decode32_loop (major : fld w 1 6 = 0x13) : decode32 w = decLoop w := by rw [decode32, major]; rfl
theorem decode32_sys (major : fld w 1 6 = 0x14) : decode32 w = decSys w := by rw [decode32, major]; rfl
theorem decode32_yield (major : fld w 1 6 = 0x15) : decode32 w = decYield w := by rw [decode32, major]; rfl
theorem decode32_ld (major : fld w 1 6 = 0x18) : decode32 w = decLd w := by rw [decode32, major]; rfl
theorem decode32_st (major : fld w 1 6 = 0x19) : decode32 w = decSt w := by rw [decode32, major]; rfl
theorem decode32_amo (major : fld w 1 6 = 0x1A) : decode32 w = decAmo w := by rw [decode32, major]; rfl
theorem decode32_wait (major : fld w 1 6 = 0x1B) : decode32 w = decWait w := by rw [decode32, major]; rfl
theorem decode32_region (major : fld w 1 6 = 0x1C) : decode32 w = decRegion w := by rw [decode32, major]; rfl
theorem decode32_cache (major : fld w 1 6 = 0x1D) : decode32 w = decCache w := by rw [decode32, major]; rfl
theorem decode32_msg (major : fld w 1 6 = 0x1E) : decode32 w = decMsg w := by rw [decode32, major]; rfl
theorem decode32_ltm (major : fld w 1 6 = 0x1F) : decode32 w = decLtm w := by rw [decode32, major]; rfl
theorem decode32_w (major : fld w 1 6 = 0x20) : decode32 w = decW w := by rw [decode32, major]; rfl
theorem decode32_wmath (major : fld w 1 6 = 0x21) : decode32 w = decWmath w := by rw [decode32, major]; rfl
theorem decode32_wmask (major : fld w 1 6 = 0x22) : decode32 w = decWmask w := by rw [decode32, major]; rfl
theorem decode32_wmove (major : fld w 1 6 = 0x23) : decode32 w = decWmove w := by rw [decode32, major]; rfl
theorem decode32_wcvt (major : fld w 1 6 = 0x24) : decode32 w = decWcvt w := by rw [decode32, major]; rfl
theorem decode32_wsamp (major : fld w 1 6 = 0x25) : decode32 w = decWsamp w := by rw [decode32, major]; rfl
theorem decode32_tile (major : fld w 1 6 = 0x28) : decode32 w = decTile w := by rw [decode32, major]; rfl
theorem decode32_canvas (major : fld w 1 6 = 0x29) : decode32 w = decCanvas w := by rw [decode32, major]; rfl
theorem decode32_eng (major : fld w 1 6 = 0x2A) : decode32 w = decEng w := by rw [decode32, major]; rfl
theorem decode32_barr (major : fld w 1 6 = 0x2B) : decode32 w = decBarr w := by rw [decode32, major]; rfl
theorem decode32_engx (major : fld w 1 6 = 0x30) : decode32 w = decEngx w := by rw [decode32, major]; rfl
theorem decode32_priv (major : fld w 1 6 = 0x31) : decode32 w = decPriv w := by rw [decode32, major]; rfl
theorem decode32_canvasx (major : fld w 1 6 = 0x32) : decode32 w = decCanvasx w := by rw [decode32, major]; rfl

end

end Sys2Proof.Laws
end

section
namespace Sys2Proof.Laws

/-! ## The word of an instruction decodes to it (R154 to R175) -/

/-- An instruction decodes back when its word is that of a major opcode with some fields, which the decoder of the opcode takes to
the instruction. -/
theorem DecodesBack.of_fields {i : Instr} {v m : Nat} {dec : Nat → Except Reject Instr}
    (dispatch : ∀ {w}, fld w 1 6 = m → decode32 w = dec w) (l : List (Nat × Nat)) (encoded : encode i = some (32, v))
    (word : v = majorWord m l ∧ m < 64) (decodes : dec (majorWord m l % 4294967296) = .ok i) : DecodesBack i :=
  .of_encodes encoded (by rw [word.1, decodeWord_majorWord, dispatch (fld_majorWord_major word.2), decodes])

/-! ### The forms that a table gives -/

theorem decodesBack_aluOf {k : Nat} {f : Dst → Src → Src → Instr} (form : aluOf k = some f)
    (d : Dst) (a b : Src) (fits : k < 64 := by decide) : DecodesBack (f d a b) :=
  .of_fields decode32_alu [(5, d.code), (5, a.code), (5, b.code), (6, k), (4, 0)]
    (encodes_aluOf form d a b).2 (by simp only [majorWord, joined]; omega) (by simp [decAlu, fA, fB, form, fits])

theorem decodesBack_mulOf {k : Nat} {f : Dst → Src → Src → Fin 16 → Instr} (form : mulOf k = some f)
    (d : Dst) (a b : Src) (la : Fin 16) (fits : k < 64 := by decide) : DecodesBack (f d a b la) :=
  .of_fields decode32_mul [(5, d.code), (5, a.code), (5, b.code), (6, k), (4, la.val)]
    (encodes_mulOf form d a b la).2 (by simp only [majorWord, joined]; omega) (by simp [decMul, fA, fB, fLa, form, fits])

theorem decodesBack_shiOf {k : Nat} {f : Dst → Src → BitVec 6 → Instr} (form : shiOf k = some f)
    (d : Dst) (a : Src) (count : BitVec 6) (fits : k < 4 := by decide) : DecodesBack (f d a count) :=
  .of_fields decode32_shi [(5, d.code), (5, a.code), (6, count.toNat), (2, k), (7, 0)]
    (encodes_shiOf form d a count).2 (by simp only [majorWord, joined]; omega) (by simp [decShi, fA, form, fits])

theorem decodesBack_fpuOf {k : Nat} {f : Dst → Src → Src → Instr} (form : fpuOf k = some f)
    (d : Dst) (a b : Src) : DecodesBack (f d a b) := by
  have encoded := (encodes_fpuOf form d a b).2
  generalize row : k = j at form
  unfold fpuOf at form
  split at form <;> cases form
  all_goals
    exact .of_fields decode32_fpu [(5, d.code), (5, a.code), (5, b.code), (6, k), (4, 0)] encoded
      (by simp only [majorWord, joined]; omega) (by simp [decFpu, fA, fB, row, fpuOf])

theorem decodesBack_amoOf {k : Nat} {f : Bool → Bool → Bool → Dst → Fin 16 → Src → Fin 16 → Instr} (form : amoOf k = some f)
    (wide acq rel : Bool) (d : Dst) (a : Fin 16) (b : Src) (la : Fin 16) : DecodesBack (f wide acq rel d a b la) := by
  have encoded := (encodes_amoOf form wide acq rel d a b la).2
  generalize row : k = j at form
  unfold amoOf at form
  split at form <;> cases form
  all_goals
    exact .of_fields decode32_amo
      [(5, d.code), (4, a.val), (1, wide.toNat), (5, b.code), (4, k), (1, rel.toNat), (1, acq.toNat), (4, la.val)] encoded
      (by simp only [majorWord, joined]; omega) (by simp [decAmo, fB, fLa, row, amoOf])

theorem decodesBack_w3Of {k : Nat} {f : LaneTy → Fin 8 → Fin 8 → Fin 8 → Fin 8 → Instr} (form : w3Of k = some f)
    (ty : LaneTy) (m d a b : Fin 8)
    (cls : (if k == 11 || k == 12 then ty.isInt else ty.isArith) = true) : DecodesBack (f ty m d a b) := by
  have encoded := (encodes_w3Of form ty m d a b cls).2
  generalize row : k = j at form
  unfold w3Of at form
  split at form <;> cases form
  all_goals
    simp [row] at cls
    exact .of_fields decode32_w [(3, d.val), (3, a.val), (3, b.val), (3, m.val), (4, ty.code), (6, k), (3, 0)] encoded
      (by simp only [majorWord, joined]; omega) (by simp [decW, f8, row, w3Of, w2Of, cls])

theorem decodesBack_w2Of {k : Nat} {f : LaneTy → Fin 8 → Fin 8 → Fin 8 → Instr} (form : w2Of k = some f)
    (ty : LaneTy) (m d b : Fin 8)
    (cls : (if k == 13 then ty.isArith else ty.isSigned) = true) : DecodesBack (f ty m d b) := by
  have encoded := (encodes_w2Of form ty m d b cls).2
  generalize row : k = j at form
  unfold w2Of at form
  split at form <;> cases form
  all_goals
    simp [row] at cls
    exact .of_fields decode32_w [(3, d.val), (3, 0), (3, b.val), (3, m.val), (4, ty.code), (6, k), (3, 0)] encoded
      (by simp only [majorWord, joined]; omega) (by simp [decW, f8, row, w2Of, cls])

theorem decodesBack_wmathOf {k : Nat} {f : LaneTy → Fin 8 → Fin 8 → Fin 8 → Instr} (form : wmathOf k = some f)
    (ty : LaneTy) (m d b : Fin 8)
    (cls : (if k < 5 then ty == .f32 || ty == .bf16 else ty.isArith) = true) : DecodesBack (f ty m d b) := by
  have encoded := (encodes_wmathOf form ty m d b cls).2
  generalize row : k = j at form
  unfold wmathOf at form
  split at form <;> cases form
  all_goals
    simp [row] at cls
    exact .of_fields decode32_wmath [(3, d.val), (3, 0), (3, b.val), (3, m.val), (4, ty.code), (6, k), (3, 0)] encoded
      (by simp only [majorWord, joined]; omega) (by simp [decWmath, f8, row, wmathOf, need_ok, cls])

theorem decodesBack_wcmpOf {k : Nat} {f : LaneTy → Fin 8 → Fin 8 → Fin 8 → Fin 8 → Instr} (form : wcmpOf k = some f)
    (ty : LaneTy) (m d a b : Fin 8)
    (cls : ty.isWord = true) : DecodesBack (f ty m d a b) := by
  have encoded := (encodes_wcmpOf form ty m d a b cls).2
  generalize row : k = j at form
  unfold wcmpOf at form
  split at form <;> cases form
  all_goals
    exact .of_fields decode32_wmask [(3, d.val), (3, a.val), (3, b.val), (3, m.val), (4, ty.code), (6, k), (3, 0)] encoded
      (by simp only [majorWord, joined]; omega) (by simp [decWmask, f8, row, wcmpOf, cls])

theorem decodesBack_wboolOf {k : Nat} {f : Fin 8 → Fin 8 → Fin 8 → Fin 8 → Instr} (form : wboolOf k = some f)
    (m d a b : Fin 8) : DecodesBack (f m d a b) := by
  have encoded := (encodes_wboolOf form m d a b).2
  generalize row : k = j at form
  unfold wboolOf at form
  split at form <;> cases form
  all_goals
    exact .of_fields decode32_wmask [(3, d.val), (3, a.val), (3, b.val), (3, m.val), (4, 0), (6, k), (3, 0)] encoded
      (by simp only [majorWord, joined]; omega) (by simp [decWmask, f8, row, wboolOf, wcmpOf])

theorem decodesBack_wcvtOf {k : Nat} {f : LaneTy → Fin 8 → Fin 8 → Fin 8 → Fin 8 → Instr} (form : wcvtOf k = some f)
    (ty : LaneTy) (m d a b : Fin 8)
    (cls : (if k < 3 then ty.isNarrowFloat else ty.isCvtInt) = true) : DecodesBack (f ty m d a b) := by
  have encoded := (encodes_wcvtOf form ty m d a b cls).2
  generalize row : k = j at form
  unfold wcvtOf at form
  split at form <;> cases form
  all_goals
    simp [row] at cls
    exact .of_fields decode32_wcvt [(3, d.val), (3, a.val), (3, b.val), (3, m.val), (4, ty.code), (6, k), (3, 0)] encoded
      (by simp only [majorWord, joined]; omega) (by simp [decWcvt, f8, row, wcvtOf, cls])

theorem decodesBack_wsampOf {k t : Nat} {f : Fin 8 → Fin 8 → Fin 8 → Fin 8 → Instr} (form : wsampOf k = some (t, f))
    (m d a b : Fin 8) (fits : k < 64 := by decide) (code : t < 16 := by decide) : DecodesBack (f m d a b) :=
  .of_fields decode32_wsamp [(3, d.val), (3, a.val), (3, b.val), (3, m.val), (4, t), (6, k), (3, 0)]
    (encodes_wsampOf form m d a b).2 (by simp only [majorWord, joined]; omega) (by simp [decWsamp, f8, form, fits, code])

theorem decodesBack_canvasOf {k : Nat} {f : Src → Fin 64 → Fin 64 → Fin 16 → Instr} (form : canvasOf k = some f)
    (nw : Src) (ha hb : Fin 64) (la : Fin 16) : DecodesBack (f nw ha hb la) := by
  have encoded := (encodes_canvasOf form nw ha hb la).2
  generalize row : k = j at form
  unfold canvasOf at form
  split at form <;> cases form
  all_goals
    exact .of_fields decode32_canvas [(5, nw.code), (6, ha.val), (6, hb.val), (4, k), (4, la.val)] encoded
      (by simp only [majorWord, joined]; omega) (by simp [decCanvas, fLa, f64, row, canvasOf])

theorem decodesBack_canvasxOf {k : Nat} {f : Src → Fin 64 → Fin 64 → Fin 16 → Instr} (form : canvasxOf k = some f)
    (nw : Src) (ha hb : Fin 64) (la : Fin 16) (fits : k < 16 := by decide) : DecodesBack (f nw ha hb la) :=
  .of_fields decode32_canvasx [(5, nw.code), (6, ha.val), (6, hb.val), (4, k), (4, la.val)]
    (encodes_canvasxOf form nw ha hb la).2 (by simp only [majorWord, joined]; omega) (by simp [decCanvasx, fLa, f64, form, fits])

theorem decodesBack_engOf {k : Nat} {f : Dst → Src → Fin 64 → Fin 16 → Instr} (form : engOf k = some f)
    (d : Dst) (a : Src) (h : Fin 64) (la : Fin 16) (fits : k < 32 := by decide) : DecodesBack (f d a h la) :=
  .of_fields decode32_eng [(5, d.code), (5, a.code), (6, h.val), (5, k), (4, la.val)]
    (encodes_engOf form d a h la).2 (by simp only [majorWord, joined]; omega) (by simp [decEng, fA, fLa, f64, form, fits])

/-! ### The other forms -/

theorem decodesBack_addi (d : Dst) (a : Src) (imm : BitVec 15) : DecodesBack (.addi d a imm) :=
  .of_fields decode32_addi [(5, d.code), (5, a.code), (15, imm.toNat)] rfl
    (by simp only [majorWord, joined]; omega) (by simp [decImm, fA, immOf])

theorem decodesBack_andi (d : Dst) (a : Src) (imm : BitVec 15) : DecodesBack (.andi d a imm) :=
  .of_fields decode32_andi [(5, d.code), (5, a.code), (15, imm.toNat)] rfl
    (by simp only [majorWord, joined]; omega) (by simp [decImm, fA, immOf])

theorem decodesBack_ori (d : Dst) (a : Src) (imm : BitVec 15) : DecodesBack (.ori d a imm) :=
  .of_fields decode32_ori [(5, d.code), (5, a.code), (15, imm.toNat)] rfl
    (by simp only [majorWord, joined]; omega) (by simp [decImm, fA, immOf])

theorem decodesBack_xori (d : Dst) (a : Src) (imm : BitVec 15) : DecodesBack (.xori d a imm) :=
  .of_fields decode32_xori [(5, d.code), (5, a.code), (15, imm.toNat)] rfl
    (by simp only [majorWord, joined]; omega) (by simp [decImm, fA, immOf])

theorem decodesBack_cmpi (c : Cond) (d : Dst) (a : Src) (imm : BitVec 12) : DecodesBack (.cmpi c d a imm) :=
  .of_fields decode32_cmpi [(5, d.code), (5, a.code), (3, c.code), (12, imm.toNat)] rfl
    (by simp only [majorWord, joined]; omega) (by simp [decCmpi, fA])

theorem decodesBack_lui (d : Dst) (imm : BitVec 20) : DecodesBack (.lui d imm) :=
  .of_fields decode32_lui [(5, d.code), (20, imm.toNat)] rfl
    (by simp only [majorWord, joined]; omega) (by simp [decUi])

theorem decodesBack_auipc (d : Dst) (imm : BitVec 20) : DecodesBack (.auipc d imm) :=
  .of_fields decode32_auipc [(5, d.code), (20, imm.toNat)] rfl
    (by simp only [majorWord, joined]; omega) (by simp [decUi])

theorem decodesBack_bitsExt (d : Dst) (a : Src) (pos len1 : BitVec 6) (wf : pos.toNat + len1.toNat + 1 ≤ 64) :
    DecodesBack (.bitsExt d a pos len1) :=
  .of_fields decode32_bits [(5, d.code), (5, a.code), (6, pos.toNat), (6, len1.toNat), (3, 0)] rfl
    (by simp only [majorWord, joined]; omega) (by simp [decBits, fA, wf])

theorem decodesBack_bitsExtu (d : Dst) (a : Src) (pos len1 : BitVec 6) (wf : pos.toNat + len1.toNat + 1 ≤ 64) :
    DecodesBack (.bitsExtu d a pos len1) :=
  .of_fields decode32_bits [(5, d.code), (5, a.code), (6, pos.toNat), (6, len1.toNat), (3, 1)] rfl
    (by simp only [majorWord, joined]; omega) (by simp [decBits, fA, wf])

theorem decodesBack_bitsIns (d : Fin 16) (a : Src) (pos len1 : BitVec 6) (wf : pos.toNat + len1.toNat + 1 ≤ 64) :
    DecodesBack (.bitsIns d a pos len1) :=
  .of_fields decode32_bits [(5, d.val), (5, a.code), (6, pos.toNat), (6, len1.toNat), (3, 2)] rfl
    (by simp only [majorWord, joined]; omega) (by simp [decBits, fA, wf])

theorem decodesBack_fpuCvts (d : Dst) (a : Src) : DecodesBack (.fpuCvts d a) :=
  .of_fields decode32_fpu [(5, d.code), (5, a.code), (5, 0), (6, 5), (4, 0)] rfl
    (by simp only [majorWord, joined]; omega) (by simp [decFpu, fA])

theorem decodesBack_fpuCvtf (d : Dst) (a : Src) : DecodesBack (.fpuCvtf d a) :=
  .of_fields decode32_fpu [(5, d.code), (5, a.code), (5, 0), (6, 6), (4, 0)] rfl
    (by simp only [majorWord, joined]; omega) (by simp [decFpu, fA])

theorem decodesBack_fplDiv (d : Dst) (a b : Src) (la : Fin 16) : DecodesBack (.fplDiv d a b la) :=
  .of_fields decode32_fpl [(5, d.code), (5, a.code), (5, b.code), (6, 0), (4, la.val)] rfl
    (by simp only [majorWord, joined]; omega) (by simp [decFpl, fA, fB, fLa])

theorem decodesBack_fplSqrt (d : Dst) (a : Src) (la : Fin 16) : DecodesBack (.fplSqrt d a la) :=
  .of_fields decode32_fpl [(5, d.code), (5, a.code), (5, 0), (6, 1), (4, la.val)] rfl
    (by simp only [majorWord, joined]; omega) (by simp [decFpl, fA, fLa])

theorem decodesBack_fplFma (d : Fin 16) (a b : Src) (la : Fin 16) : DecodesBack (.fplFma d a b la) :=
  .of_fields decode32_fpl [(5, d.val), (5, a.code), (5, b.code), (6, 2), (4, la.val)] rfl
    (by simp only [majorWord, joined]; omega) (by simp [decFpl, fA, fB, fLa])

theorem decodesBack_br (c : Cond) (a b : Src) (off : BitVec 12) : DecodesBack (.br c a b off) :=
  .of_fields decode32_br [(5, a.code), (5, b.code), (3, c.code), (12, off.toNat)] rfl
    (by simp only [majorWord, joined]; omega) (by simp [decBr, fA])

theorem decodesBack_jalCall (off : BitVec 20) : DecodesBack (.jalCall off) :=
  .of_fields decode32_jal [(5, 14), (20, off.toNat)] rfl
    (by simp only [majorWord, joined]; omega) (by simp [decJal])

theorem decodesBack_jalJump (off : BitVec 20) : DecodesBack (.jalJump off) :=
  .of_fields decode32_jal [(5, 31), (20, off.toNat)] rfl
    (by simp only [majorWord, joined]; omega) (by simp [decJal])

theorem decodesBack_jrJump (a : Src) : DecodesBack (.jrJump a) :=
  .of_fields decode32_jr [(5, 0), (5, a.code), (5, 0), (6, 0), (4, 0)] rfl
    (by simp only [majorWord, joined]; omega) (by simp [decJr, fA])

theorem decodesBack_jrCall (a : Src) : DecodesBack (.jrCall a) :=
  .of_fields decode32_jr [(5, 0), (5, a.code), (5, 0), (6, 1), (4, 0)] rfl
    (by simp only [majorWord, joined]; omega) (by simp [decJr, fA])

theorem decodesBack_jrRet : DecodesBack .jrRet :=
  .of_fields decode32_jr [(5, 0), (5, 0), (5, 0), (6, 2), (4, 0)] rfl
    (by simp only [majorWord, joined]; omega) (by simp [decJr])

theorem decodesBack_loopSet (k : Fin 2) (a : Fin 16) (stop : BitVec 15) (wf : 2 ≤ stop.toNat) : DecodesBack (.loopSet k a stop) :=
  .of_fields decode32_loop [(1, k.val), (4, 0), (5, a.val), (15, stop.toNat)] rfl
    (by simp only [majorWord, joined]; omega) (by simp [decLoop, wf, Nat.le_of_lt_succ k.isLt])

theorem decodesBack_gets (d : Dst) (num : BitVec 12) : DecodesBack (.gets d num) :=
  .of_fields decode32_sys [(5, d.code), (5, 0), (12, num.toNat), (3, 0)] rfl
    (by simp only [majorWord, joined]; omega) (by simp [decSys])

theorem decodesBack_sets (a : Src) (num : BitVec 12) : DecodesBack (.sets a num) :=
  .of_fields decode32_sys [(5, 0), (5, a.code), (12, num.toNat), (3, 1)] rfl
    (by simp only [majorWord, joined]; omega) (by simp [decSys, fA])

theorem decodesBack_trap (a : Src) (code : BitVec 12) : DecodesBack (.trap a code) :=
  .of_fields decode32_sys [(5, 0), (5, a.code), (12, code.toNat), (3, 2)] rfl
    (by simp only [majorWord, joined]; omega) (by simp [decSys, fA])

theorem decodesBack_rte : DecodesBack .rte :=
  .of_fields decode32_sys [(22, 0), (3, 3)] rfl
    (by simp only [majorWord, joined]; omega) (by simp [decSys])

theorem decodesBack_brk (a : Src) (code : BitVec 12) : DecodesBack (.brk a code) :=
  .of_fields decode32_sys [(5, 0), (5, a.code), (12, code.toNat), (3, 4)] rfl
    (by simp only [majorWord, joined]; omega) (by simp [decSys, fA])

theorem decodesBack_sysc (a : Src) (code : BitVec 12) : DecodesBack (.sysc a code) :=
  .of_fields decode32_sys [(5, 0), (5, a.code), (12, code.toNat), (3, 5)] rfl
    (by simp only [majorWord, joined]; omega) (by simp [decSys, fA])

theorem decodesBack_yieldPt (index : BitVec 12) : DecodesBack (.yieldPt index) :=
  .of_fields decode32_yield [(10, 0), (12, index.toNat), (3, 0)] rfl
    (by simp only [majorWord, joined]; omega) (by simp [decYield])

theorem decodesBack_ld (sz : LdSize) (acq : Bool) (d : Dst) (base : Src) (off : BitVec 7) (la : Fin 16) :
    DecodesBack (.ld sz acq d base off la) :=
  .of_fields decode32_ld [(5, d.code), (5, base.code), (3, sz.code), (1, acq.toNat), (7, off.toNat), (4, la.val)] rfl
    (by simp only [majorWord, joined]; omega) (by simp [decLd, fA, fLa])

theorem decodesBack_st (sz : StSize) (rel : Bool) (data base : Src) (off : BitVec 7) : DecodesBack (.st sz rel data base off) :=
  .of_fields decode32_st [(5, data.code), (5, base.code), (3, sz.code), (1, rel.toNat), (7, off.toNat), (4, 0)] rfl
    (by simp only [majorWord, joined]; omega) (by simp [decSt, fA])

theorem decodesBack_amoCas (wide acq rel : Bool) (d a : Fin 16) (b : Src) (la : Fin 16) :
    DecodesBack (.amoCas wide acq rel d a b la) :=
  .of_fields decode32_amo
    [(5, d.val), (4, a.val), (1, wide.toNat), (5, b.code), (4, 9), (1, rel.toNat), (1, acq.toNat), (4, la.val)] rfl
    (by simp only [majorWord, joined]; omega) (by simp [decAmo, fB, fLa])

theorem decodesBack_waita (d : Dst) (a b : Src) : DecodesBack (.waita d a b) :=
  .of_fields decode32_wait [(5, d.code), (5, a.code), (5, b.code), (6, 0), (4, 0)] rfl
    (by simp only [majorWord, joined]; omega) (by simp [decWait, fA, fB])

theorem decodesBack_waitp (d : Dst) (a : Src) : DecodesBack (.waitp d a) :=
  .of_fields decode32_wait [(5, d.code), (5, a.code), (5, 0), (6, 1), (4, 0)] rfl
    (by simp only [majorWord, joined]; omega) (by simp [decWait, fA])

theorem decodesBack_park (d : Dst) (a b : Src) : DecodesBack (.park d a b) :=
  .of_fields decode32_wait [(5, d.code), (5, a.code), (5, b.code), (6, 2), (4, 0)] rfl
    (by simp only [majorWord, joined]; omega) (by simp [decWait, fA, fB])

theorem decodesBack_region : DecodesBack .region :=
  .of_fields decode32_region [(15, 0), (6, 0), (4, 0)] rfl
    (by simp only [majorWord, joined]; omega) (by simp [decRegion])

theorem decodesBack_commit : DecodesBack .commit :=
  .of_fields decode32_region [(15, 0), (6, 1), (4, 0)] rfl
    (by simp only [majorWord, joined]; omega) (by simp [decRegion])

theorem decodesBack_flushr (a b : Src) : DecodesBack (.flushr a b) :=
  .of_fields decode32_cache [(5, 0), (5, a.code), (5, b.code), (6, 0), (4, 0)] rfl
    (by simp only [majorWord, joined]; omega) (by simp [decCache, fA, fB])

theorem decodesBack_invr (a b : Src) : DecodesBack (.invr a b) :=
  .of_fields decode32_cache [(5, 0), (5, a.code), (5, b.code), (6, 1), (4, 0)] rfl
    (by simp only [majorWord, joined]; omega) (by simp [decCache, fA, fB])

theorem decodesBack_pref (a : Src) : DecodesBack (.pref a) :=
  .of_fields decode32_cache [(5, 0), (5, a.code), (5, 0), (6, 2), (4, 0)] rfl
    (by simp only [majorWord, joined]; omega) (by simp [decCache, fA])

theorem decodesBack_fence (kind : FenceKind) : DecodesBack (.fence kind) :=
  .of_fields decode32_cache [(10, 0), (2, kind.code), (3, 0), (6, 3), (4, 0)] rfl
    (by simp only [majorWord, joined]; omega) (by simp [decCache])

theorem decodesBack_spark (a b : Src) : DecodesBack (.spark a b) :=
  .of_fields decode32_msg [(5, 0), (5, a.code), (5, b.code), (4, 0), (2, 0), (4, 0)] rfl
    (by simp only [majorWord, joined]; omega) (by simp [decMsg, fA, fB])

theorem decodesBack_frame (d : Dst) (a b : Src) : DecodesBack (.frame d a b) :=
  .of_fields decode32_msg [(5, d.code), (5, a.code), (5, b.code), (4, 1), (2, 0), (4, 0)] rfl
    (by simp only [majorWord, joined]; omega) (by simp [decMsg, fA, fB])

theorem decodesBack_migrAddr (d : Dst) (a : Src) : DecodesBack (.migrAddr d a) :=
  .of_fields decode32_msg [(5, d.code), (5, a.code), (5, 0), (4, 2), (2, 0), (4, 0)] rfl
    (by simp only [majorWord, joined]; omega) (by simp [decMsg, fA])

theorem decodesBack_migrTile (d : Dst) (a : Src) : DecodesBack (.migrTile d a) :=
  .of_fields decode32_msg [(5, d.code), (5, a.code), (5, 0), (4, 3), (2, 0), (4, 0)] rfl
    (by simp only [majorWord, joined]; omega) (by simp [decMsg, fA])

theorem decodesBack_exit : DecodesBack .exit :=
  .of_fields decode32_msg [(15, 0), (4, 4), (2, 0), (4, 0)] rfl
    (by simp only [majorWord, joined]; omega) (by simp [decMsg])

theorem decodesBack_send (reg : Fin 16) (a b : Src) : DecodesBack (.send reg a b) :=
  .of_fields decode32_msg [(5, 0), (5, a.code), (5, b.code), (4, reg.val), (2, 1), (4, 0)] rfl
    (by simp only [majorWord, joined]; omega) (by simp [decMsg, fA, fB])

theorem decodesBack_vtget (d : Dst) : DecodesBack (.vtget d) :=
  .of_fields decode32_ltm [(5, d.code), (10, 0), (6, 0), (4, 0)] rfl
    (by simp only [majorWord, joined]; omega) (by simp [decLtm])

theorem decodesBack_vtset (d : Dst) (a : Src) : DecodesBack (.vtset d a) :=
  .of_fields decode32_ltm [(5, d.code), (5, a.code), (5, 0), (6, 1), (4, 0)] rfl
    (by simp only [majorWord, joined]; omega) (by simp [decLtm, fA])

theorem decodesBack_announce (a : Src) : DecodesBack (.announce a) :=
  .of_fields decode32_ltm [(5, 0), (5, a.code), (5, 0), (6, 2), (4, 0)] rfl
    (by simp only [majorWord, joined]; omega) (by simp [decLtm, fA])

theorem decodesBack_sendt (a b : Src) : DecodesBack (.sendt a b) :=
  .of_fields decode32_ltm [(5, 0), (5, a.code), (5, b.code), (6, 3), (4, 0)] rfl
    (by simp only [majorWord, joined]; omega) (by simp [decLtm, fA, fB])

theorem decodesBack_wFma (ty : LaneTy) (m d a b c : Fin 8) (wf : ty.isArith = true) : DecodesBack (.wFma ty m d a b c) :=
  .of_fields decode32_w [(3, d.val), (3, a.val), (3, b.val), (3, m.val), (4, ty.code), (6, 16), (3, c.val)] rfl
    (by simp only [majorWord, joined]; omega) (by simp [decW, f8, wf])

theorem decodesBack_wSel (ty : LaneTy) (m d a b : Fin 8) (wf : ty.isArith = true) : DecodesBack (.wSel ty m d a b) :=
  .of_fields decode32_w [(3, d.val), (3, a.val), (3, b.val), (3, m.val), (4, ty.code), (6, 17), (3, 0)] rfl
    (by simp only [majorWord, joined]; omega) (by simp [decW, f8, wf])

theorem decodesBack_wmathPerm (ty : LaneTy) (m d a b : Fin 8) (wf : ty.isWord = true) : DecodesBack (.wmathPerm ty m d a b) :=
  .of_fields decode32_wmath [(3, d.val), (3, a.val), (3, b.val), (3, m.val), (4, ty.code), (6, 8), (3, 0)] rfl
    (by simp only [majorWord, joined]; omega) (by simp [decWmath, f8, wf])

theorem decodesBack_wmoveBcast (m : Fin 8) (a : Src) (b : Fin 8) : DecodesBack (.wmoveBcast m a b) :=
  .of_fields decode32_wmove [(5, 0), (5, a.code), (3, b.val), (2, 0), (3, 0), (3, m.val), (4, 0)] rfl
    (by simp only [majorWord, joined]; omega) (by simp [decWmove, fA, f8])

theorem decodesBack_wmoveExt (d : Dst) (a : Src) (b : Fin 8) : DecodesBack (.wmoveExt d a b) :=
  .of_fields decode32_wmove [(5, d.code), (5, a.code), (3, b.val), (2, 0), (3, 1), (3, 0), (4, 0)] rfl
    (by simp only [majorWord, joined]; omega) (by simp [decWmove, fA, f8])

theorem decodesBack_wmoveTrld (m : Fin 8) (a : Src) (b : Fin 8) : DecodesBack (.wmoveTrld m a b) :=
  .of_fields decode32_wmove [(5, 0), (5, a.code), (3, b.val), (2, 0), (3, 2), (3, m.val), (4, 0)] rfl
    (by simp only [majorWord, joined]; omega) (by simp [decWmove, fA, f8])

theorem decodesBack_wmoveTrst (m : Fin 8) (a : Src) (b : Fin 8) : DecodesBack (.wmoveTrst m a b) :=
  .of_fields decode32_wmove [(5, 0), (5, a.code), (3, b.val), (2, 0), (3, 3), (3, m.val), (4, 0)] rfl
    (by simp only [majorWord, joined]; omega) (by simp [decWmove, fA, f8])

theorem decodesBack_wmoveMpop (m : Fin 8) (d : Dst) : DecodesBack (.wmoveMpop m d) :=
  .of_fields decode32_wmove [(5, d.code), (5, 0), (3, 0), (2, 0), (3, 4), (3, m.val), (4, 0)] rfl
    (by simp only [majorWord, joined]; omega) (by simp [decWmove, f8])

theorem decodesBack_talloc (nw : Src) (h : Fin 64) : DecodesBack (.talloc nw h) :=
  .of_fields decode32_tile [(5, nw.code), (6, h.val), (6, 0), (4, 0), (4, 0)] rfl
    (by simp only [majorWord, joined]; omega) (by simp [decTile, f64])

theorem decodesBack_tfree (h : Fin 64) : DecodesBack (.tfree h) :=
  .of_fields decode32_tile [(5, 0), (6, h.val), (6, 0), (4, 1), (4, 0)] rfl
    (by simp only [majorWord, joined]; omega) (by simp [decTile, f64])

theorem decodesBack_tld (nw : Src) (ha hb : Fin 64) (la : Fin 16) : DecodesBack (.tld nw ha hb la) :=
  .of_fields decode32_tile [(5, nw.code), (6, ha.val), (6, hb.val), (4, 2), (4, la.val)] rfl
    (by simp only [majorWord, joined]; omega) (by simp [decTile, fLa, f64])

theorem decodesBack_tst (nw : Src) (h : Fin 64) : DecodesBack (.tst nw h) :=
  .of_fields decode32_tile [(5, nw.code), (6, h.val), (6, 0), (4, 3), (4, 0)] rfl
    (by simp only [majorWord, joined]; omega) (by simp [decTile, f64])

theorem decodesBack_tzero (nw : Src) (h : Fin 64) : DecodesBack (.tzero nw h) :=
  .of_fields decode32_tile [(5, nw.code), (6, h.val), (6, 0), (4, 4), (4, 0)] rfl
    (by simp only [majorWord, joined]; omega) (by simp [decTile, f64])

theorem decodesBack_czero (nw : Src) (ha : Fin 64) (la : Fin 16) : DecodesBack (.czero nw ha la) :=
  .of_fields decode32_canvas [(5, nw.code), (6, ha.val), (6, 0), (4, 3), (4, la.val)] rfl
    (by simp only [majorWord, joined]; omega) (by simp [decCanvas, fLa, f64])

theorem decodesBack_barm (a : Src) (b : Fin 16) : DecodesBack (.barm a b) :=
  .of_fields decode32_barr [(5, 0), (5, a.code), (4, b.val), (1, 0), (6, 0), (4, 0)] rfl
    (by simp only [majorWord, joined]; omega) (by simp [decBarr, fA])

theorem decodesBack_barrClaim (d : Dst) (a : Src) (b : Fin 16) : DecodesBack (.barrClaim d a b) :=
  .of_fields decode32_barr [(5, d.code), (5, a.code), (4, b.val), (1, 0), (6, 1), (4, 0)] rfl
    (by simp only [majorWord, joined]; omega) (by simp [decBarr, fA])

theorem decodesBack_bwait (b : Fin 16) : DecodesBack (.bwait b) :=
  .of_fields decode32_barr [(10, 0), (4, b.val), (1, 0), (6, 2), (4, 0)] rfl
    (by simp only [majorWord, joined]; omega) (by simp [decBarr])

theorem decodesBack_engxDmard (d : Dst) (a b : Src) : DecodesBack (.engxDmard d a b) :=
  .of_fields decode32_engx [(5, d.code), (5, a.code), (5, b.code), (6, 0), (4, 0)] rfl
    (by simp only [majorWord, joined]; omega) (by simp [decEngx, fA, fB])

theorem decodesBack_engxDmawr (d : Dst) (a b : Src) : DecodesBack (.engxDmawr d a b) :=
  .of_fields decode32_engx [(5, d.code), (5, a.code), (5, b.code), (6, 1), (4, 0)] rfl
    (by simp only [majorWord, joined]; omega) (by simp [decEngx, fA, fB])

theorem decodesBack_engxMbox (a : Src) : DecodesBack (.engxMbox a) :=
  .of_fields decode32_engx [(5, 0), (5, a.code), (5, 0), (6, 2), (4, 0)] rfl
    (by simp only [majorWord, joined]; omega) (by simp [decEngx, fA])

theorem decodesBack_engxKwait : DecodesBack .engxKwait :=
  .of_fields decode32_engx [(15, 0), (6, 3), (4, 0)] rfl
    (by simp only [majorWord, joined]; omega) (by simp [decEngx])

theorem decodesBack_engxGcmkey (a : Src) : DecodesBack (.engxGcmkey a) :=
  .of_fields decode32_engx [(5, 0), (5, a.code), (5, 0), (6, 4), (4, 0)] rfl
    (by simp only [majorWord, joined]; omega) (by simp [decEngx, fA])

theorem decodesBack_engxGcmenc (d : Dst) (a b : Src) : DecodesBack (.engxGcmenc d a b) :=
  .of_fields decode32_engx [(5, d.code), (5, a.code), (5, b.code), (6, 5), (4, 0)] rfl
    (by simp only [majorWord, joined]; omega) (by simp [decEngx, fA, fB])

theorem decodesBack_engxGcmdec (d : Dst) (a b : Src) : DecodesBack (.engxGcmdec d a b) :=
  .of_fields decode32_engx [(5, d.code), (5, a.code), (5, b.code), (6, 6), (4, 0)] rfl
    (by simp only [majorWord, joined]; omega) (by simp [decEngx, fA, fB])

theorem decodesBack_tlbinv (a b : Src) : DecodesBack (.tlbinv a b) :=
  .of_fields decode32_priv [(5, 0), (5, a.code), (5, b.code), (6, 0), (4, 0)] rfl
    (by simp only [majorWord, joined]; omega) (by simp [decPriv, fA, fB])

theorem decodesBack_genscrub (d : Dst) (a : Src) : DecodesBack (.genscrub d a) :=
  .of_fields decode32_priv [(5, d.code), (5, a.code), (5, 0), (6, 1), (4, 0)] rfl
    (by simp only [majorWord, joined]; omega) (by simp [decPriv, fA])

theorem decodesBack_qown (d : Dst) (a b : Src) : DecodesBack (.qown d a b) :=
  .of_fields decode32_priv [(5, d.code), (5, a.code), (5, b.code), (6, 2), (4, 0)] rfl
    (by simp only [majorWord, joined]; omega) (by simp [decPriv, fA, fB])

theorem decodesBack_halt (a b : Src) : DecodesBack (.halt a b) :=
  .of_fields decode32_priv [(5, 0), (5, a.code), (5, b.code), (6, 3), (4, 0)] rfl
    (by simp only [majorWord, joined]; omega) (by simp [decPriv, fA, fB])

theorem decodesBack_stoprec (d : Dst) (a : Src) : DecodesBack (.stoprec d a) :=
  .of_fields decode32_priv [(5, d.code), (5, a.code), (5, 0), (6, 4), (4, 0)] rfl
    (by simp only [majorWord, joined]; omega) (by simp [decPriv, fA])

theorem decodesBack_cctl (a b : Src) : DecodesBack (.cctl a b) :=
  .of_fields decode32_priv [(5, 0), (5, a.code), (5, b.code), (6, 5), (4, 0)] rfl
    (by simp only [majorWord, joined]; omega) (by simp [decPriv, fA, fB])

theorem decodesBack_pset (a b : Src) : DecodesBack (.pset a b) :=
  .of_fields decode32_priv [(5, 0), (5, a.code), (5, b.code), (6, 6), (4, 0)] rfl
    (by simp only [majorWord, joined]; omega) (by simp [decPriv, fA, fB])

/-! ## The 16-bit lane word (R157 to R159) -/

/-- L16 add of f32 with every field 0 is the halfword 0, which is no instruction. -/
theorem l16Add_wf (ty : L16Ty) (m d s : Fin 8) :
    (Instr.l16Add ty m d s).wf = true ↔ ty.code * 2048 + m.val * 8192 + d.val * 32 + s.val * 256 ≠ 0 := by
  have zero : (m == 0 && d == 0 && s == 0 && ty == .f32) = true ↔ ty.code = 0 ∧ m.val = 0 ∧ d.val = 0 ∧ s.val = 0 := by
    cases ty <;> simp [L16Ty.code, and_assoc]
  have wf : (Instr.l16Add ty m d s).wf = !(m == 0 && d == 0 && s == 0 && ty == .f32) := rfl
  rw [wf, Bool.not_eq_true', ← Bool.not_eq_true, zero]
  omega

section
variable {k : Nat} {f : L16Ty → Fin 8 → Fin 8 → Fin 8 → Instr} (form : l16Of k = some f)
include form

theorem l16Of_lt : k < 16 := by
  unfold l16Of at form
  split at form <;> cases form <;> decide

theorem encode_l16Of (ty : L16Ty) (m d s : Fin 8) :
    encode (f ty m d s) = some (16, k * 2 + ty.code * 2048 + m.val * 8192 + d.val * 32 + s.val * 256) := by
  unfold l16Of at form
  split at form <;> cases form <;> rfl

theorem wf_l16Of (ty : L16Ty) (m d s : Fin 8) :
    (f ty m d s).wf = true ↔ (if k == 11 || k == 12 then ty.isInt else true) = true ∧
      k * 2 + ty.code * 2048 + m.val * 8192 + d.val * 32 + s.val * 256 ≠ 0 := by
  unfold l16Of at form
  split at form <;> cases form
  case h_1 => simp [l16Add_wf]
  all_goals exact ⟨fun wf => ⟨wf, by omega⟩, And.left⟩

theorem decodesBack_l16Of (ty : L16Ty) (m d s : Fin 8) (wf : (f ty m d s).wf = true) : DecodesBack (f ty m d s) := by
  obtain ⟨cls, nonzero⟩ := (wf_l16Of form ty m d s).mp wf
  have kLt := l16Of_lt form
  have tyLt := l16Ty_code_lt ty
  have word : k * 2 + ty.code * 2048 + m.val * 8192 + d.val * 32 + s.val * 256 =
      joined [(1, 0), (4, k), (3, d.val), (3, s.val), (2, ty.code), (3, m.val)] := by
    simp only [joined]
    omega
  refine .of_encodes (encode_l16Of form ty m d s) ?_
  rw [decodeWord, if_pos (by omega), Nat.mod_eq_of_lt (by omega), decode16, Nat.mod_eq_of_lt (by omega),
    beq_eq_false_iff_ne.mpr nonzero, Bool.not_false, need_true, word]
  simpa [f8, form, kLt, need_ok] using cls

end

end Sys2Proof.Laws
end

section
namespace Sys2Proof.Laws

/-! ## What decodes is a well-formed instruction, whose word it is (R154 to R175) -/

section
variable {w : Nat} {i : Instr}

theorem encodes_alu (word : IsWord 0 w) (h : decAlu w = .ok i) : Encodes i 32 w := by
  have whole := word.eq_sum [5, 5, 5, 6, 4] rfl
  simp only [joined, cut, Nat.reduceAdd] at whole
  simp [decAlu, pick_ok, need_ok, needDst_ok] at h
  obtain ⟨f, form, la, d, dst, rfl⟩ := h
  exact .of_eq (encodes_aluOf form ..) (by simp; omega)

theorem encodes_mul (word : IsWord 1 w) (h : decMul w = .ok i) : Encodes i 32 w := by
  have whole := word.eq_sum [5, 5, 5, 6, 4] rfl
  simp only [joined, cut, Nat.reduceAdd] at whole
  simp [decMul, pick_ok, needDst_ok] at h
  obtain ⟨f, form, d, dst, rfl⟩ := h
  exact .of_eq (encodes_mulOf form ..) (by simp; omega)

theorem encodes_imm {m : Nat} (word : IsWord m w) (h : decImm m w = .ok i) : Encodes i 32 w := by
  have whole := word.eq_sum [5, 5, 15] rfl
  simp only [joined, cut, Nat.reduceAdd] at whole
  simp [decImm, pick_ok, needDst_ok] at h
  obtain ⟨f, form, d, dst, rfl⟩ := h
  exact .of_eq (encodes_immOf form ..) (by simp; omega)

theorem encodes_shi (word : IsWord 6 w) (h : decShi w = .ok i) : Encodes i 32 w := by
  have whole := word.eq_sum [5, 5, 6, 2, 7] rfl
  simp only [joined, cut, Nat.reduceAdd] at whole
  simp [decShi, pick_ok, need_ok, needDst_ok] at h
  obtain ⟨f, form, high, d, dst, rfl⟩ := h
  exact .of_eq (encodes_shiOf form ..) (by simp; omega)

theorem encodes_cmpi (word : IsWord 7 w) (h : decCmpi w = .ok i) : Encodes i 32 w := by
  have whole := word.eq_sum [5, 5, 3, 12] rfl
  simp only [joined, cut, Nat.reduceAdd] at whole
  simp [decCmpi, pick_ok, needDst_ok] at h
  obtain ⟨c, cond, d, dst, rfl⟩ := h
  have cond := code_condOf cond
  exact .of_eq ⟨rfl, rfl⟩ (by simp; omega)

theorem encodes_lui (word : IsWord 8 w) (h : decUi .lui w = .ok i) : Encodes i 32 w := by
  have whole := word.eq_sum [5, 20] rfl
  simp only [joined, cut, Nat.reduceAdd] at whole
  simp [decUi, needDst_ok] at h
  obtain ⟨d, dst, rfl⟩ := h
  exact .of_eq ⟨rfl, rfl⟩ (by simp; omega)

theorem encodes_auipc (word : IsWord 9 w) (h : decUi .auipc w = .ok i) : Encodes i 32 w := by
  have whole := word.eq_sum [5, 20] rfl
  simp only [joined, cut, Nat.reduceAdd] at whole
  simp [decUi, needDst_ok] at h
  obtain ⟨d, dst, rfl⟩ := h
  exact .of_eq ⟨rfl, rfl⟩ (by simp; omega)

theorem encodes_bits (word : IsWord 0xA w) (h : decBits w = .ok i) : Encodes i 32 w := by
  have whole := word.eq_sum [5, 5, 6, 6, 3] rfl
  simp only [joined, cut, Nat.reduceAdd] at whole
  simp [decBits, need_ok] at h
  obtain ⟨len, h⟩ := h
  split at h <;> simp [need_ok, needDst_ok] at h
  · obtain ⟨d, dst, rfl⟩ := h
    exact .of_eq ⟨decide_eq_true (by simpa using len), rfl⟩ (by simp; omega)
  · obtain ⟨d, dst, rfl⟩ := h
    exact .of_eq ⟨decide_eq_true (by simpa using len), rfl⟩ (by simp; omega)
  · obtain ⟨dst, rfl⟩ := h
    exact .of_eq ⟨decide_eq_true (by simpa using len), rfl⟩ (by simp; omega)

theorem encodes_fpu (word : IsWord 0xB w) (h : decFpu w = .ok i) : Encodes i 32 w := by
  have whole := word.eq_sum [5, 5, 5, 6, 4] rfl
  simp only [joined, cut, Nat.reduceAdd] at whole
  simp [decFpu, need_ok] at h
  obtain ⟨fn, la, h⟩ := h
  split at h <;> simp [pick_ok, need_ok, needDst_ok] at h
  · obtain ⟨b, d, dst, rfl⟩ := h
    exact .of_eq ⟨rfl, rfl⟩ (by simp; omega)
  · obtain ⟨b, d, dst, rfl⟩ := h
    exact .of_eq ⟨rfl, rfl⟩ (by simp; omega)
  · obtain ⟨f, form, d, dst, rfl⟩ := h
    exact .of_eq (encodes_fpuOf form ..) (by simp; omega)

theorem encodes_fpl (word : IsWord 0xC w) (h : decFpl w = .ok i) : Encodes i 32 w := by
  have whole := word.eq_sum [5, 5, 5, 6, 4] rfl
  simp only [joined, cut, Nat.reduceAdd] at whole
  simp [decFpl] at h
  split at h <;> simp [need_ok, needDst_ok] at h
  · obtain ⟨d, dst, rfl⟩ := h
    exact .of_eq ⟨rfl, rfl⟩ (by simp; omega)
  · obtain ⟨b, d, dst, rfl⟩ := h
    exact .of_eq ⟨rfl, rfl⟩ (by simp; omega)
  · obtain ⟨dst, rfl⟩ := h
    exact .of_eq ⟨rfl, rfl⟩ (by simp; omega)

theorem encodes_br (word : IsWord 0x10 w) (h : decBr w = .ok i) : Encodes i 32 w := by
  have whole := word.eq_sum [5, 5, 3, 12] rfl
  simp only [joined, cut, Nat.reduceAdd] at whole
  simp [decBr, pick_ok] at h
  obtain ⟨c, cond, rfl⟩ := h
  have cond := code_condOf cond
  exact .of_eq ⟨rfl, rfl⟩ (by simp; omega)

theorem encodes_jal (word : IsWord 0x11 w) (h : decJal w = .ok i) : Encodes i 32 w := by
  have whole := word.eq_sum [5, 20] rfl
  simp only [joined, cut, Nat.reduceAdd] at whole
  simp [decJal] at h
  split at h <;> simp at h
  · subst h
    exact .of_eq ⟨rfl, rfl⟩ (by simp; omega)
  · subst h
    exact .of_eq ⟨rfl, rfl⟩ (by simp; omega)

theorem encodes_jr (word : IsWord 0x12 w) (h : decJr w = .ok i) : Encodes i 32 w := by
  have whole := word.eq_sum [5, 5, 5, 6, 4] rfl
  simp only [joined, cut, Nat.reduceAdd] at whole
  simp [decJr, need_ok] at h
  obtain ⟨fn, ⟨⟨la, b⟩, dst⟩, h⟩ := h
  split at h <;> simp [need_ok] at h
  · subst h
    exact .of_eq ⟨rfl, rfl⟩ (by simp; omega)
  · subst h
    exact .of_eq ⟨rfl, rfl⟩ (by simp; omega)
  · simp only [imp_false] at *
    obtain ⟨a, rfl⟩ := h
    exact .of_eq ⟨rfl, rfl⟩ (by omega)

theorem encodes_loop (word : IsWord 0x13 w) (h : decLoop w = .ok i) : Encodes i 32 w := by
  have whole := word.eq_sum [1, 4, 5, 15] rfl
  simp only [joined, cut, Nat.reduceAdd] at whole
  simp [decLoop, need_ok] at h
  obtain ⟨stop, ⟨zero, a⟩, rfl⟩ := h
  exact .of_eq ⟨decide_eq_true (by simpa using stop), rfl⟩ (by simp; omega)

theorem encodes_sys (word : IsWord 0x14 w) (h : decSys w = .ok i) : Encodes i 32 w := by
  have whole := word.eq_sum [5, 5, 12, 3] rfl
  simp only [joined, cut, Nat.reduceAdd] at whole
  simp [decSys] at h
  split at h <;> simp [need_ok, needDst_ok] at h
  · obtain ⟨a, d, dst, rfl⟩ := h
    exact .of_eq ⟨rfl, rfl⟩ (by simp; omega)
  · obtain ⟨dst, rfl⟩ := h
    exact .of_eq ⟨rfl, rfl⟩ (by simp; omega)
  · obtain ⟨dst, rfl⟩ := h
    exact .of_eq ⟨rfl, rfl⟩ (by simp; omega)
  · obtain ⟨zero, rfl⟩ := h
    have whole := word.eq_sum [22, 3] rfl
    simp only [joined, cut, Nat.reduceAdd] at whole
    exact .of_eq ⟨rfl, rfl⟩ (by omega)
  · obtain ⟨dst, rfl⟩ := h
    exact .of_eq ⟨rfl, rfl⟩ (by simp; omega)
  · obtain ⟨dst, rfl⟩ := h
    exact .of_eq ⟨rfl, rfl⟩ (by simp; omega)

theorem encodes_yield (word : IsWord 0x15 w) (h : decYield w = .ok i) : Encodes i 32 w := by
  have whole := word.eq_sum [10, 12, 3] rfl
  simp only [joined, cut, Nat.reduceAdd] at whole
  simp [decYield, need_ok] at h
  obtain ⟨op, zero, rfl⟩ := h
  exact .of_eq ⟨rfl, rfl⟩ (by simp; omega)

theorem encodes_ld (word : IsWord 0x18 w) (h : decLd w = .ok i) : Encodes i 32 w := by
  have whole := word.eq_sum [5, 5, 3, 1, 7, 4] rfl
  simp only [joined, cut, Nat.reduceAdd] at whole
  simp [decLd, pick_ok, needDst_ok] at h
  obtain ⟨sz, size, d, dst, rfl⟩ := h
  have size := code_ldSizeOf size
  exact .of_eq ⟨rfl, rfl⟩ (by simp; omega)

theorem encodes_st (word : IsWord 0x19 w) (h : decSt w = .ok i) : Encodes i 32 w := by
  have whole := word.eq_sum [5, 5, 3, 1, 7, 4] rfl
  simp only [joined, cut, Nat.reduceAdd] at whole
  simp [decSt, pick_ok, need_ok] at h
  obtain ⟨sz, size, la, rfl⟩ := h
  have size := code_stSizeOf size
  exact .of_eq ⟨rfl, rfl⟩ (by simp; omega)

theorem encodes_amo (word : IsWord 0x1A w) (h : decAmo w = .ok i) : Encodes i 32 w := by
  have whole := word.eq_sum [5, 4, 1, 5, 4, 1, 1, 4] rfl
  simp only [joined, cut, Nat.reduceAdd] at whole
  simp [decAmo, need_ok] at h
  obtain ⟨fn, h⟩ := h
  split at h <;> simp [pick_ok, need_ok, needDst_ok] at h
  · obtain ⟨dst, rfl⟩ := h
    exact .of_eq ⟨rfl, rfl⟩ (by simp; omega)
  · obtain ⟨f, form, d, dst, rfl⟩ := h
    exact .of_eq (encodes_amoOf form ..) (by simp; omega)

theorem encodes_wait (word : IsWord 0x1B w) (h : decWait w = .ok i) : Encodes i 32 w := by
  have whole := word.eq_sum [5, 5, 5, 6, 4] rfl
  simp only [joined, cut, Nat.reduceAdd] at whole
  simp [decWait, need_ok] at h
  obtain ⟨fn, la, h⟩ := h
  split at h <;> simp [need_ok, needDst_ok] at h
  · obtain ⟨d, dst, rfl⟩ := h
    exact .of_eq ⟨rfl, rfl⟩ (by simp; omega)
  · obtain ⟨b, d, dst, rfl⟩ := h
    exact .of_eq ⟨rfl, rfl⟩ (by simp; omega)
  · simp only [imp_false] at *
    obtain ⟨d, dst, rfl⟩ := h
    exact .of_eq ⟨rfl, rfl⟩ (by simp; omega)

theorem encodes_region (word : IsWord 0x1C w) (h : decRegion w = .ok i) : Encodes i 32 w := by
  have whole := word.eq_sum [15, 6, 4] rfl
  simp only [joined, cut, Nat.reduceAdd] at whole
  simp [decRegion, need_ok] at h
  obtain ⟨fn, ⟨la, zero⟩, h⟩ := h
  split at h <;> simp at h
  · subst h
    exact .of_eq ⟨rfl, rfl⟩ (by omega)
  · simp only [imp_false] at *
    subst h
    exact .of_eq ⟨rfl, rfl⟩ (by omega)

theorem encodes_cache (word : IsWord 0x1D w) (h : decCache w = .ok i) : Encodes i 32 w := by
  have whole := word.eq_sum [5, 5, 5, 6, 4] rfl
  simp only [joined, cut, Nat.reduceAdd] at whole
  simp [decCache, need_ok] at h
  obtain ⟨fn, h⟩ := h
  split at h <;> simp [pick_ok, need_ok] at h
  · obtain ⟨⟨la, dst⟩, rfl⟩ := h
    exact .of_eq ⟨rfl, rfl⟩ (by simp; omega)
  · obtain ⟨⟨la, dst⟩, rfl⟩ := h
    exact .of_eq ⟨rfl, rfl⟩ (by simp; omega)
  · obtain ⟨⟨⟨la, dst⟩, b⟩, rfl⟩ := h
    exact .of_eq ⟨rfl, rfl⟩ (by simp; omega)
  · simp only [imp_false] at *
    obtain ⟨op, kind, code, ⟨la, zero⟩, rfl⟩ := h
    have whole := word.eq_sum [10, 2, 3, 6, 4] rfl
    simp only [joined, cut, Nat.reduceAdd] at whole
    have code := code_fenceOf code
    exact .of_eq ⟨rfl, rfl⟩ (by omega)

theorem encodes_msg (word : IsWord 0x1E w) (h : decMsg w = .ok i) : Encodes i 32 w := by
  have whole := word.eq_sum [5, 5, 5, 6, 4] rfl
  simp only [joined, cut, Nat.reduceAdd] at whole
  unfold decMsg at h
  split at h <;> simp [need_ok] at h
  · rename_i send
    simp at send
    obtain ⟨⟨la, dst⟩, rfl⟩ := h
    have whole := word.eq_sum [5, 5, 5, 4, 2, 4] rfl
    simp only [joined, cut, Nat.reduceAdd] at whole
    exact .of_eq ⟨rfl, rfl⟩ (by simp; omega)
  · obtain ⟨fn, la, h⟩ := h
    split at h <;> simp [need_ok, needDst_ok] at h
    · obtain ⟨dst, rfl⟩ := h
      exact .of_eq ⟨rfl, rfl⟩ (by simp; omega)
    · obtain ⟨d, dst, rfl⟩ := h
      exact .of_eq ⟨rfl, rfl⟩ (by simp; omega)
    · obtain ⟨b, d, dst, rfl⟩ := h
      exact .of_eq ⟨rfl, rfl⟩ (by simp; omega)
    · obtain ⟨b, d, dst, rfl⟩ := h
      exact .of_eq ⟨rfl, rfl⟩ (by simp; omega)
    · simp only [imp_false] at *
      obtain ⟨zero, rfl⟩ := h
      have whole := word.eq_sum [15, 6, 4] rfl
      simp only [joined, cut, Nat.reduceAdd] at whole
      exact .of_eq ⟨rfl, rfl⟩ (by omega)

theorem encodes_ltm (word : IsWord 0x1F w) (h : decLtm w = .ok i) : Encodes i 32 w := by
  have whole := word.eq_sum [5, 5, 5, 6, 4] rfl
  simp only [joined, cut, Nat.reduceAdd] at whole
  simp [decLtm, need_ok] at h
  obtain ⟨fn, la, h⟩ := h
  split at h <;> simp [need_ok, needDst_ok] at h
  · obtain ⟨zero, d, dst, rfl⟩ := h
    have whole := word.eq_sum [5, 10, 6, 4] rfl
    simp only [joined, cut, Nat.reduceAdd] at whole
    exact .of_eq ⟨rfl, rfl⟩ (by omega)
  · obtain ⟨b, d, dst, rfl⟩ := h
    exact .of_eq ⟨rfl, rfl⟩ (by simp; omega)
  · obtain ⟨⟨b, dst⟩, rfl⟩ := h
    exact .of_eq ⟨rfl, rfl⟩ (by simp; omega)
  · simp only [imp_false] at *
    obtain ⟨dst, rfl⟩ := h
    exact .of_eq ⟨rfl, rfl⟩ (by simp; omega)

theorem encodes_w (word : IsWord 0x20 w) (h : decW w = .ok i) : Encodes i 32 w := by
  have whole := word.eq_sum [3, 3, 3, 3, 4, 6, 3] rfl
  simp only [joined, cut, Nat.reduceAdd] at whole
  simp only [decW, pick_ok, need_ok] at h
  obtain ⟨fn, ty, lane, h⟩ := h
  have lane := code_laneTyOf lane
  split at h
  · simp [need_ok] at h
    obtain ⟨cls, rfl⟩ := h
    exact .of_eq ⟨cls, rfl⟩ (by simp; omega)
  · simp [need_ok] at h
    obtain ⟨cls, c, rfl⟩ := h
    exact .of_eq ⟨cls, rfl⟩ (by simp; omega)
  · split at h
    · rename_i form
      simp only [need_ok, Bool.and_eq_true, beq_iff_eq, Except.ok.injEq] at h
      obtain ⟨cls, ⟨c, a⟩, rfl⟩ := h
      exact .of_eq (encodes_w2Of form _ _ _ _ (by simpa using cls)) (by simp; omega)
    · simp only [pick_ok, need_ok, beq_iff_eq, Except.ok.injEq] at h
      obtain ⟨f, form, cls, c, rfl⟩ := h
      exact .of_eq (encodes_w3Of form _ _ _ _ _ cls) (by simp; omega)

theorem encodes_wmath (word : IsWord 0x21 w) (h : decWmath w = .ok i) : Encodes i 32 w := by
  have whole := word.eq_sum [3, 3, 3, 3, 4, 6, 3] rfl
  simp only [joined, cut, Nat.reduceAdd] at whole
  simp only [decWmath, pick_ok, need_ok] at h
  obtain ⟨fn, ty, lane, h⟩ := h
  have lane := code_laneTyOf lane
  split at h <;> simp only [pick_ok, need_ok, Bool.and_eq_true, beq_iff_eq, Except.ok.injEq] at h
  · obtain ⟨cls, c, rfl⟩ := h
    exact .of_eq ⟨cls, rfl⟩ (by simp; omega)
  · obtain ⟨f, form, cls, ⟨c, a⟩, rfl⟩ := h
    exact .of_eq (encodes_wmathOf form _ _ _ _ cls) (by simp; omega)

theorem encodes_wmask (word : IsWord 0x22 w) (h : decWmask w = .ok i) : Encodes i 32 w := by
  have whole := word.eq_sum [3, 3, 3, 3, 4, 6, 3] rfl
  simp only [joined, cut, Nat.reduceAdd] at whole
  simp only [decWmask] at h
  split at h <;> simp only [pick_ok, need_ok, Bool.and_eq_true, beq_iff_eq, Except.ok.injEq] at h
  · rename_i form
    obtain ⟨ty, lane, cls, c, rfl⟩ := h
    have lane := code_laneTyOf lane
    exact .of_eq (encodes_wcmpOf form _ _ _ _ _ cls) (by simp; omega)
  · obtain ⟨f, form, ⟨c, ty⟩, rfl⟩ := h
    exact .of_eq (encodes_wboolOf form ..) (by simp; omega)

theorem encodes_wmove (word : IsWord 0x23 w) (h : decWmove w = .ok i) : Encodes i 32 w := by
  have whole := word.eq_sum [5, 5, 3, 2, 3, 3, 4] rfl
  simp only [joined, cut, Nat.reduceAdd] at whole
  simp [decWmove, need_ok] at h
  obtain ⟨⟨fn, op⟩, la, h⟩ := h
  split at h <;> simp [need_ok, needDst_ok] at h
  · obtain ⟨dst, rfl⟩ := h
    exact .of_eq ⟨rfl, rfl⟩ (by simp; omega)
  · obtain ⟨m, d, dst, rfl⟩ := h
    exact .of_eq ⟨rfl, rfl⟩ (by simp; omega)
  · obtain ⟨dst, rfl⟩ := h
    exact .of_eq ⟨rfl, rfl⟩ (by simp; omega)
  · obtain ⟨dst, rfl⟩ := h
    exact .of_eq ⟨rfl, rfl⟩ (by simp; omega)
  · simp only [imp_false] at *
    obtain ⟨⟨b, a⟩, d, dst, rfl⟩ := h
    exact .of_eq ⟨rfl, rfl⟩ (by simp; omega)

theorem encodes_wcvt (word : IsWord 0x24 w) (h : decWcvt w = .ok i) : Encodes i 32 w := by
  have whole := word.eq_sum [3, 3, 3, 3, 4, 6, 3] rfl
  simp only [joined, cut, Nat.reduceAdd] at whole
  simp only [decWcvt, pick_ok, need_ok, beq_iff_eq, Except.ok.injEq] at h
  obtain ⟨f, form, ty, lane, cls, c, rfl⟩ := h
  have lane := code_laneTyOf lane
  exact .of_eq (encodes_wcvtOf form _ _ _ _ _ cls) (by simp; omega)

theorem encodes_wsamp (word : IsWord 0x25 w) (h : decWsamp w = .ok i) : Encodes i 32 w := by
  have whole := word.eq_sum [3, 3, 3, 3, 4, 6, 3] rfl
  simp only [joined, cut, Nat.reduceAdd] at whole
  simp only [decWsamp, pick_ok, need_ok, beq_iff_eq, Except.ok.injEq] at h
  obtain ⟨⟨t, f⟩, form, ty, c, rfl⟩ := h
  exact .of_eq (encodes_wsampOf form ..) (by simp; omega)

theorem encodes_tile (word : IsWord 0x28 w) (h : decTile w = .ok i) : Encodes i 32 w := by
  have whole := word.eq_sum [5, 6, 6, 4, 4] rfl
  simp only [joined, cut, Nat.reduceAdd] at whole
  simp [decTile, need_ok] at h
  obtain ⟨fn, h⟩ := h
  split at h <;> simp [need_ok] at h
  · obtain ⟨⟨la, b⟩, rfl⟩ := h
    exact .of_eq ⟨rfl, rfl⟩ (by simp; omega)
  · obtain ⟨⟨⟨la, b⟩, nw⟩, rfl⟩ := h
    exact .of_eq ⟨rfl, rfl⟩ (by simp; omega)
  · subst h
    exact .of_eq ⟨rfl, rfl⟩ (by simp; omega)
  · obtain ⟨⟨la, b⟩, rfl⟩ := h
    exact .of_eq ⟨rfl, rfl⟩ (by simp; omega)
  · simp only [imp_false] at *
    obtain ⟨⟨la, b⟩, rfl⟩ := h
    exact .of_eq ⟨rfl, rfl⟩ (by simp; omega)

theorem encodes_canvas (word : IsWord 0x29 w) (h : decCanvas w = .ok i) : Encodes i 32 w := by
  have whole := word.eq_sum [5, 6, 6, 4, 4] rfl
  simp only [joined, cut, Nat.reduceAdd] at whole
  simp [decCanvas] at h
  split at h <;> simp [pick_ok, need_ok] at h
  · obtain ⟨b, rfl⟩ := h
    exact .of_eq ⟨rfl, rfl⟩ (by simp; omega)
  · obtain ⟨f, form, rfl⟩ := h
    exact .of_eq (encodes_canvasOf form ..) (by simp; omega)

theorem encodes_canvasx (word : IsWord 0x32 w) (h : decCanvasx w = .ok i) : Encodes i 32 w := by
  have whole := word.eq_sum [5, 6, 6, 4, 4] rfl
  simp only [joined, cut, Nat.reduceAdd] at whole
  simp [decCanvasx, pick_ok] at h
  obtain ⟨f, form, rfl⟩ := h
  exact .of_eq (encodes_canvasxOf form ..) (by simp; omega)

theorem encodes_eng (word : IsWord 0x2A w) (h : decEng w = .ok i) : Encodes i 32 w := by
  have whole := word.eq_sum [5, 5, 6, 5, 4] rfl
  simp only [joined, cut, Nat.reduceAdd] at whole
  simp [decEng, pick_ok, needDst_ok] at h
  obtain ⟨f, form, d, dst, rfl⟩ := h
  exact .of_eq (encodes_engOf form ..) (by simp; omega)

theorem encodes_barr (word : IsWord 0x2B w) (h : decBarr w = .ok i) : Encodes i 32 w := by
  have whole := word.eq_sum [5, 5, 4, 1, 6, 4] rfl
  simp only [joined, cut, Nat.reduceAdd] at whole
  simp [decBarr, need_ok] at h
  obtain ⟨⟨fn, bit⟩, la, h⟩ := h
  split at h <;> simp [need_ok, needDst_ok] at h
  · obtain ⟨dst, rfl⟩ := h
    exact .of_eq ⟨rfl, rfl⟩ (by simp; omega)
  · obtain ⟨d, dst, rfl⟩ := h
    exact .of_eq ⟨rfl, rfl⟩ (by simp; omega)
  · simp only [imp_false] at *
    obtain ⟨zero, rfl⟩ := h
    have whole := word.eq_sum [10, 4, 1, 6, 4] rfl
    simp only [joined, cut, Nat.reduceAdd] at whole
    exact .of_eq ⟨rfl, rfl⟩ (by simp; omega)

theorem encodes_engx (word : IsWord 0x30 w) (h : decEngx w = .ok i) : Encodes i 32 w := by
  have whole := word.eq_sum [5, 5, 5, 6, 4] rfl
  simp only [joined, cut, Nat.reduceAdd] at whole
  simp [decEngx, need_ok] at h
  obtain ⟨fn, la, h⟩ := h
  split at h <;> simp [need_ok, needDst_ok] at h
  · obtain ⟨d, dst, rfl⟩ := h
    exact .of_eq ⟨rfl, rfl⟩ (by simp; omega)
  · obtain ⟨d, dst, rfl⟩ := h
    exact .of_eq ⟨rfl, rfl⟩ (by simp; omega)
  · obtain ⟨⟨b, dst⟩, rfl⟩ := h
    exact .of_eq ⟨rfl, rfl⟩ (by simp; omega)
  · obtain ⟨zero, rfl⟩ := h
    have whole := word.eq_sum [15, 6, 4] rfl
    simp only [joined, cut, Nat.reduceAdd] at whole
    exact .of_eq ⟨rfl, rfl⟩ (by omega)
  · obtain ⟨⟨b, dst⟩, rfl⟩ := h
    exact .of_eq ⟨rfl, rfl⟩ (by simp; omega)
  · obtain ⟨d, dst, rfl⟩ := h
    exact .of_eq ⟨rfl, rfl⟩ (by simp; omega)
  · simp only [imp_false] at *
    obtain ⟨d, dst, rfl⟩ := h
    exact .of_eq ⟨rfl, rfl⟩ (by simp; omega)

theorem encodes_priv (word : IsWord 0x31 w) (h : decPriv w = .ok i) : Encodes i 32 w := by
  have whole := word.eq_sum [5, 5, 5, 6, 4] rfl
  simp only [joined, cut, Nat.reduceAdd] at whole
  simp [decPriv, need_ok] at h
  obtain ⟨fn, la, h⟩ := h
  split at h <;> simp [need_ok, needDst_ok] at h
  · obtain ⟨dst, rfl⟩ := h
    exact .of_eq ⟨rfl, rfl⟩ (by simp; omega)
  · obtain ⟨b, d, dst, rfl⟩ := h
    exact .of_eq ⟨rfl, rfl⟩ (by simp; omega)
  · obtain ⟨d, dst, rfl⟩ := h
    exact .of_eq ⟨rfl, rfl⟩ (by simp; omega)
  · obtain ⟨dst, rfl⟩ := h
    exact .of_eq ⟨rfl, rfl⟩ (by simp; omega)
  · obtain ⟨b, d, dst, rfl⟩ := h
    exact .of_eq ⟨rfl, rfl⟩ (by simp; omega)
  · obtain ⟨dst, rfl⟩ := h
    exact .of_eq ⟨rfl, rfl⟩ (by simp; omega)
  · simp only [imp_false] at *
    obtain ⟨dst, rfl⟩ := h
    exact .of_eq ⟨rfl, rfl⟩ (by simp; omega)

end

end Sys2Proof.Laws
end

section
namespace Sys2Proof.Laws

/-! ## Decoding and encoding agree (R154 to R175) -/

/-- The word of a well-formed instruction decodes to it, by the instruction's row in the table of the opcodes. -/
theorem decodesBack_of_wf {i : Instr} (wf : i.wf = true) : DecodesBack i := by
  cases i with
  | aluAdd d a b => exact decodesBack_aluOf (k := 0) rfl d a b
  | aluSub d a b => exact decodesBack_aluOf (k := 1) rfl d a b
  | aluAnd d a b => exact decodesBack_aluOf (k := 2) rfl d a b
  | aluOr d a b => exact decodesBack_aluOf (k := 3) rfl d a b
  | aluXor d a b => exact decodesBack_aluOf (k := 4) rfl d a b
  | aluSll d a b => exact decodesBack_aluOf (k := 5) rfl d a b
  | aluSrl d a b => exact decodesBack_aluOf (k := 6) rfl d a b
  | aluSra d a b => exact decodesBack_aluOf (k := 7) rfl d a b
  | aluSlt d a b => exact decodesBack_aluOf (k := 8) rfl d a b
  | aluSltu d a b => exact decodesBack_aluOf (k := 9) rfl d a b
  | aluMin d a b => exact decodesBack_aluOf (k := 10) rfl d a b
  | aluMax d a b => exact decodesBack_aluOf (k := 11) rfl d a b
  | aluMinu d a b => exact decodesBack_aluOf (k := 12) rfl d a b
  | aluMaxu d a b => exact decodesBack_aluOf (k := 13) rfl d a b
  | mulMul d a b la => exact decodesBack_mulOf (k := 0) rfl d a b la
  | mulMulh d a b la => exact decodesBack_mulOf (k := 1) rfl d a b la
  | mulMulhu d a b la => exact decodesBack_mulOf (k := 2) rfl d a b la
  | mulDiv d a b la => exact decodesBack_mulOf (k := 3) rfl d a b la
  | mulDivu d a b la => exact decodesBack_mulOf (k := 4) rfl d a b la
  | mulRem d a b la => exact decodesBack_mulOf (k := 5) rfl d a b la
  | mulRemu d a b la => exact decodesBack_mulOf (k := 6) rfl d a b la
  | addi d a imm => exact decodesBack_addi d a imm
  | andi d a imm => exact decodesBack_andi d a imm
  | ori d a imm => exact decodesBack_ori d a imm
  | xori d a imm => exact decodesBack_xori d a imm
  | shiSll d a count => exact decodesBack_shiOf (k := 0) rfl d a count
  | shiSrl d a count => exact decodesBack_shiOf (k := 1) rfl d a count
  | shiSra d a count => exact decodesBack_shiOf (k := 2) rfl d a count
  | cmpi c d a imm => exact decodesBack_cmpi c d a imm
  | lui d imm => exact decodesBack_lui d imm
  | auipc d imm => exact decodesBack_auipc d imm
  | bitsExt d a pos len1 => exact decodesBack_bitsExt d a pos len1 (of_decide_eq_true wf)
  | bitsExtu d a pos len1 => exact decodesBack_bitsExtu d a pos len1 (of_decide_eq_true wf)
  | bitsIns d a pos len1 => exact decodesBack_bitsIns d a pos len1 (of_decide_eq_true wf)
  | fpuAdd d a b => exact decodesBack_fpuOf (k := 0) rfl d a b
  | fpuSub d a b => exact decodesBack_fpuOf (k := 1) rfl d a b
  | fpuMul d a b => exact decodesBack_fpuOf (k := 2) rfl d a b
  | fpuMin d a b => exact decodesBack_fpuOf (k := 3) rfl d a b
  | fpuMax d a b => exact decodesBack_fpuOf (k := 4) rfl d a b
  | fpuCvts d a => exact decodesBack_fpuCvts d a
  | fpuCvtf d a => exact decodesBack_fpuCvtf d a
  | fpuEq d a b => exact decodesBack_fpuOf (k := 7) rfl d a b
  | fpuLt d a b => exact decodesBack_fpuOf (k := 8) rfl d a b
  | fpuLe d a b => exact decodesBack_fpuOf (k := 9) rfl d a b
  | fplDiv d a b la => exact decodesBack_fplDiv d a b la
  | fplSqrt d a la => exact decodesBack_fplSqrt d a la
  | fplFma d a b la => exact decodesBack_fplFma d a b la
  | br c a b off => exact decodesBack_br c a b off
  | jalCall off => exact decodesBack_jalCall off
  | jalJump off => exact decodesBack_jalJump off
  | jrJump a => exact decodesBack_jrJump a
  | jrCall a => exact decodesBack_jrCall a
  | jrRet => exact decodesBack_jrRet
  | loopSet k a stop => exact decodesBack_loopSet k a stop (of_decide_eq_true wf)
  | gets d num => exact decodesBack_gets d num
  | sets a num => exact decodesBack_sets a num
  | trap a code => exact decodesBack_trap a code
  | rte => exact decodesBack_rte
  | brk a code => exact decodesBack_brk a code
  | sysc a code => exact decodesBack_sysc a code
  | yieldPt index => exact decodesBack_yieldPt index
  | ld sz acq d base off la => exact decodesBack_ld sz acq d base off la
  | st sz rel data base off => exact decodesBack_st sz rel data base off
  | amoAdd wide acq rel d a b la => exact decodesBack_amoOf (k := 0) rfl wide acq rel d a b la
  | amoAnd wide acq rel d a b la => exact decodesBack_amoOf (k := 1) rfl wide acq rel d a b la
  | amoOr wide acq rel d a b la => exact decodesBack_amoOf (k := 2) rfl wide acq rel d a b la
  | amoXor wide acq rel d a b la => exact decodesBack_amoOf (k := 3) rfl wide acq rel d a b la
  | amoMin wide acq rel d a b la => exact decodesBack_amoOf (k := 4) rfl wide acq rel d a b la
  | amoMax wide acq rel d a b la => exact decodesBack_amoOf (k := 5) rfl wide acq rel d a b la
  | amoMinu wide acq rel d a b la => exact decodesBack_amoOf (k := 6) rfl wide acq rel d a b la
  | amoMaxu wide acq rel d a b la => exact decodesBack_amoOf (k := 7) rfl wide acq rel d a b la
  | amoSwap wide acq rel d a b la => exact decodesBack_amoOf (k := 8) rfl wide acq rel d a b la
  | amoCas wide acq rel d a b la => exact decodesBack_amoCas wide acq rel d a b la
  | waita d a b => exact decodesBack_waita d a b
  | waitp d a => exact decodesBack_waitp d a
  | park d a b => exact decodesBack_park d a b
  | region => exact decodesBack_region
  | commit => exact decodesBack_commit
  | flushr a b => exact decodesBack_flushr a b
  | invr a b => exact decodesBack_invr a b
  | pref a => exact decodesBack_pref a
  | fence kind => exact decodesBack_fence kind
  | spark a b => exact decodesBack_spark a b
  | frame d a b => exact decodesBack_frame d a b
  | migrAddr d a => exact decodesBack_migrAddr d a
  | migrTile d a => exact decodesBack_migrTile d a
  | exit => exact decodesBack_exit
  | send reg a b => exact decodesBack_send reg a b
  | vtget d => exact decodesBack_vtget d
  | vtset d a => exact decodesBack_vtset d a
  | announce a => exact decodesBack_announce a
  | sendt a b => exact decodesBack_sendt a b
  | wAdd ty m d a b => exact decodesBack_w3Of (k := 0) rfl ty m d a b wf
  | wSub ty m d a b => exact decodesBack_w3Of (k := 1) rfl ty m d a b wf
  | wRsub ty m d a b => exact decodesBack_w3Of (k := 2) rfl ty m d a b wf
  | wMul ty m d a b => exact decodesBack_w3Of (k := 3) rfl ty m d a b wf
  | wMac ty m d a b => exact decodesBack_w3Of (k := 4) rfl ty m d a b wf
  | wMin ty m d a b => exact decodesBack_w3Of (k := 5) rfl ty m d a b wf
  | wMax ty m d a b => exact decodesBack_w3Of (k := 6) rfl ty m d a b wf
  | wAnd ty m d a b => exact decodesBack_w3Of (k := 7) rfl ty m d a b wf
  | wOr ty m d a b => exact decodesBack_w3Of (k := 8) rfl ty m d a b wf
  | wXor ty m d a b => exact decodesBack_w3Of (k := 9) rfl ty m d a b wf
  | wAndn ty m d a b => exact decodesBack_w3Of (k := 10) rfl ty m d a b wf
  | wShl ty m d a b => exact decodesBack_w3Of (k := 11) rfl ty m d a b wf
  | wShr ty m d a b => exact decodesBack_w3Of (k := 12) rfl ty m d a b wf
  | wMov ty m d b => exact decodesBack_w2Of (k := 13) rfl ty m d b wf
  | wAbs ty m d b => exact decodesBack_w2Of (k := 14) rfl ty m d b wf
  | wNeg ty m d b => exact decodesBack_w2Of (k := 15) rfl ty m d b wf
  | wFma ty m d a b c => exact decodesBack_wFma ty m d a b c wf
  | wSel ty m d a b => exact decodesBack_wSel ty m d a b wf
  | l16Add ty m d s => exact decodesBack_l16Of (k := 0) rfl ty m d s wf
  | l16Sub ty m d s => exact decodesBack_l16Of (k := 1) rfl ty m d s wf
  | l16Rsub ty m d s => exact decodesBack_l16Of (k := 2) rfl ty m d s wf
  | l16Mul ty m d s => exact decodesBack_l16Of (k := 3) rfl ty m d s wf
  | l16Mac ty m d s => exact decodesBack_l16Of (k := 4) rfl ty m d s wf
  | l16Min ty m d s => exact decodesBack_l16Of (k := 5) rfl ty m d s wf
  | l16Max ty m d s => exact decodesBack_l16Of (k := 6) rfl ty m d s wf
  | l16And ty m d s => exact decodesBack_l16Of (k := 7) rfl ty m d s wf
  | l16Or ty m d s => exact decodesBack_l16Of (k := 8) rfl ty m d s wf
  | l16Xor ty m d s => exact decodesBack_l16Of (k := 9) rfl ty m d s wf
  | l16Andn ty m d s => exact decodesBack_l16Of (k := 10) rfl ty m d s wf
  | l16Shl ty m d s => exact decodesBack_l16Of (k := 11) rfl ty m d s wf
  | l16Shr ty m d s => exact decodesBack_l16Of (k := 12) rfl ty m d s wf
  | l16Mov ty m d s => exact decodesBack_l16Of (k := 13) rfl ty m d s wf
  | l16Abs ty m d s => exact decodesBack_l16Of (k := 14) rfl ty m d s wf
  | l16Neg ty m d s => exact decodesBack_l16Of (k := 15) rfl ty m d s wf
  | wmathExp2 ty m d b => exact decodesBack_wmathOf (k := 0) rfl ty m d b wf
  | wmathLog2 ty m d b => exact decodesBack_wmathOf (k := 1) rfl ty m d b wf
  | wmathRecip ty m d b => exact decodesBack_wmathOf (k := 2) rfl ty m d b wf
  | wmathRsqrt ty m d b => exact decodesBack_wmathOf (k := 3) rfl ty m d b wf
  | wmathTanh ty m d b => exact decodesBack_wmathOf (k := 4) rfl ty m d b wf
  | wmathRsum ty m d b => exact decodesBack_wmathOf (k := 5) rfl ty m d b wf
  | wmathRmax ty m d b => exact decodesBack_wmathOf (k := 6) rfl ty m d b wf
  | wmathScan ty m d b => exact decodesBack_wmathOf (k := 7) rfl ty m d b wf
  | wmathPerm ty m d a b => exact decodesBack_wmathPerm ty m d a b wf
  | wmaskEq ty m d a b => exact decodesBack_wcmpOf (k := 0) rfl ty m d a b wf
  | wmaskLt ty m d a b => exact decodesBack_wcmpOf (k := 1) rfl ty m d a b wf
  | wmaskLe ty m d a b => exact decodesBack_wcmpOf (k := 2) rfl ty m d a b wf
  | wmaskAnd m d a b => exact decodesBack_wboolOf (k := 3) rfl m d a b
  | wmaskOr m d a b => exact decodesBack_wboolOf (k := 4) rfl m d a b
  | wmaskXor m d a b => exact decodesBack_wboolOf (k := 5) rfl m d a b
  | wmoveBcast m a b => exact decodesBack_wmoveBcast m a b
  | wmoveExt d a b => exact decodesBack_wmoveExt d a b
  | wmoveTrld m a b => exact decodesBack_wmoveTrld m a b
  | wmoveTrst m a b => exact decodesBack_wmoveTrst m a b
  | wmoveMpop m d => exact decodesBack_wmoveMpop m d
  | wcvtUp ty m d a b => exact decodesBack_wcvtOf (k := 0) rfl ty m d a b wf
  | wcvtDown ty m d a b => exact decodesBack_wcvtOf (k := 1) rfl ty m d a b wf
  | wcvtDownsat ty m d a b => exact decodesBack_wcvtOf (k := 2) rfl ty m d a b wf
  | wcvtToint ty m d a b => exact decodesBack_wcvtOf (k := 3) rfl ty m d a b wf
  | wcvtFromint ty m d a b => exact decodesBack_wcvtOf (k := 4) rfl ty m d a b wf
  | wsampTopk m d a b => exact decodesBack_wsampOf (k := 0) rfl m d a b
  | wsampCbg m d a b => exact decodesBack_wsampOf (k := 1) rfl m d a b
  | wsampDraw m d a b => exact decodesBack_wsampOf (k := 2) rfl m d a b
  | wsampPick m d a b => exact decodesBack_wsampOf (k := 3) rfl m d a b
  | talloc nw h => exact decodesBack_talloc nw h
  | tfree h => exact decodesBack_tfree h
  | tld nw ha hb la => exact decodesBack_tld nw ha hb la
  | tst nw h => exact decodesBack_tst nw h
  | tzero nw h => exact decodesBack_tzero nw h
  | cload nw ha hb la => exact decodesBack_canvasOf (k := 0) rfl nw ha hb la
  | cpass nw ha hb la => exact decodesBack_canvasOf (k := 1) rfl nw ha hb la
  | cdrain nw ha hb la => exact decodesBack_canvasOf (k := 2) rfl nw ha hb la
  | czero nw ha la => exact decodesBack_czero nw ha la
  | canvasxLoad nw ha hb la => exact decodesBack_canvasxOf (k := 0) rfl nw ha hb la
  | canvasxPass nw ha hb la => exact decodesBack_canvasxOf (k := 1) rfl nw ha hb la
  | cpyIn d a h la => exact decodesBack_engOf (k := 0) rfl d a h la
  | cpyOut d a h la => exact decodesBack_engOf (k := 1) rfl d a h la
  | gath d a h la => exact decodesBack_engOf (k := 2) rfl d a h la
  | scat d a h la => exact decodesBack_engOf (k := 3) rfl d a h la
  | coll d a h la => exact decodesBack_engOf (k := 4) rfl d a h la
  | weir d a h la => exact decodesBack_engOf (k := 5) rfl d a h la
  | barm a b => exact decodesBack_barm a b
  | barrClaim d a b => exact decodesBack_barrClaim d a b
  | bwait b => exact decodesBack_bwait b
  | engxDmard d a b => exact decodesBack_engxDmard d a b
  | engxDmawr d a b => exact decodesBack_engxDmawr d a b
  | engxMbox a => exact decodesBack_engxMbox a
  | engxKwait => exact decodesBack_engxKwait
  | engxGcmkey a => exact decodesBack_engxGcmkey a
  | engxGcmenc d a b => exact decodesBack_engxGcmenc d a b
  | engxGcmdec d a b => exact decodesBack_engxGcmdec d a b
  | tlbinv a b => exact decodesBack_tlbinv a b
  | genscrub d a => exact decodesBack_genscrub d a
  | qown d a b => exact decodesBack_qown d a b
  | halt a b => exact decodesBack_halt a b
  | stoprec d a => exact decodesBack_stoprec d a
  | cctl a b => exact decodesBack_cctl a b
  | pset a b => exact decodesBack_pset a b
  | _ => exact fun _ _ encoded => nomatch encoded

theorem encodes_of_decode32 {w : Nat} {i : Instr} (fits : w < 2 ^ 32) (odd : fld w 0 1 = 1) (h : decode32 w = .ok i) :
    Encodes i 32 w := by
  have word (m : Nat) (major : fld w 1 6 = m) : IsWord m w := ⟨fits, odd, major⟩
  unfold decode32 at h
  split at h
  · exact encodes_alu (word _ ‹_›) h
  · exact encodes_mul (word _ ‹_›) h
  · exact encodes_imm (word _ ‹_›) h
  · exact encodes_imm (word _ ‹_›) h
  · exact encodes_imm (word _ ‹_›) h
  · exact encodes_imm (word _ ‹_›) h
  · exact encodes_shi (word _ ‹_›) h
  · exact encodes_cmpi (word _ ‹_›) h
  · exact encodes_lui (word _ ‹_›) h
  · exact encodes_auipc (word _ ‹_›) h
  · exact encodes_bits (word _ ‹_›) h
  · exact encodes_fpu (word _ ‹_›) h
  · exact encodes_fpl (word _ ‹_›) h
  · exact encodes_br (word _ ‹_›) h
  · exact encodes_jal (word _ ‹_›) h
  · exact encodes_jr (word _ ‹_›) h
  · exact encodes_loop (word _ ‹_›) h
  · exact encodes_sys (word _ ‹_›) h
  · exact encodes_yield (word _ ‹_›) h
  · exact encodes_ld (word _ ‹_›) h
  · exact encodes_st (word _ ‹_›) h
  · exact encodes_amo (word _ ‹_›) h
  · exact encodes_wait (word _ ‹_›) h
  · exact encodes_region (word _ ‹_›) h
  · exact encodes_cache (word _ ‹_›) h
  · exact encodes_msg (word _ ‹_›) h
  · exact encodes_ltm (word _ ‹_›) h
  · exact encodes_w (word _ ‹_›) h
  · exact encodes_wmath (word _ ‹_›) h
  · exact encodes_wmask (word _ ‹_›) h
  · exact encodes_wmove (word _ ‹_›) h
  · exact encodes_wcvt (word _ ‹_›) h
  · exact encodes_wsamp (word _ ‹_›) h
  · exact encodes_tile (word _ ‹_›) h
  · exact encodes_canvas (word _ ‹_›) h
  · exact encodes_eng (word _ ‹_›) h
  · exact encodes_barr (word _ ‹_›) h
  · exact encodes_engx (word _ ‹_›) h
  · exact encodes_priv (word _ ‹_›) h
  · exact encodes_canvasx (word _ ‹_›) h
  · cases h

theorem encodes_of_decode16 {w : Nat} {i : Instr} (fits : w < 2 ^ 16) (even : fld w 0 1 = 0) (h : decode16 w = .ok i) :
    Encodes i 16 w := by
  have whole := joined_cut w 0 [1, 4, 3, 3, 2, 3]
  simp only [List.sum_cons, List.sum_nil, Nat.reduceAdd, fld_whole fits, joined, cut, even] at whole
  simp only [decode16, pick_ok, need_ok, Except.ok.injEq] at h
  obtain ⟨nonzero, f, form, ty, code, cls, rfl⟩ := h
  have code := code_l16TyOf code
  have word : fld w 1 4 * 2 + ty.code * 2048 + (f8 w 13).val * 8192 + (f8 w 5).val * 32 + (f8 w 8).val * 256 = w := by
    simp only [val_f8]
    omega
  refine .of_eq ⟨(wf_l16Of form ..).mpr ⟨cls, ?_⟩, encode_l16Of form ..⟩ word
  rw [word]
  intro zero
  simp [zero] at nonzero

theorem encodes_of_decodeWord {w : Nat} {i : Instr} (h : decodeWord w = .ok i) :
    Encodes i (8 * wordBytes w) (w % 2 ^ (8 * wordBytes w)) := by
  unfold decodeWord at h
  unfold wordBytes
  split at h
  case isTrue even =>
    rw [if_pos even]
    exact encodes_of_decode16 (Nat.mod_lt _ (by decide)) (by rw [fld]; omega) h
  case isFalse odd =>
    rw [if_neg odd]
    exact encodes_of_decode32 (Nat.mod_lt _ (by decide)) (by rw [fld]; omega) h

/-! ### The bytes of a word (R2, R154) -/

@[simp] theorem length_leBytes (k v : Nat) : (leBytes k v).length = k := by
  induction k generalizing v with
  | zero => rfl
  | succ k ih => rw [leBytes, List.length_cons, ih]

theorem leNat_leBytes (k v : Nat) : leNat (leBytes k v) = v % 256 ^ k := by
  induction k generalizing v with
  | zero => rw [leBytes, leNat, Nat.pow_zero, Nat.mod_one]
  | succ k ih => rw [Nat.pow_succ', Nat.mod_mul, leBytes, leNat, ih, BitVec.toNat_ofNat]

theorem wordBytes_le (w : Nat) : wordBytes w ≤ 4 := by
  unfold wordBytes
  split <;> decide

/-- The decoder reads a word that fits its length from the word's bytes. -/
theorem decodeTableWord_of_decodeWord {n w : Nat} {i : Instr} (h : decodeWord w = .ok i) (length : n = 8 * wordBytes w)
    (fits : w < 2 ^ n) : decodeTableWord n w = some i := by
  have short := wordBytes_le w
  have bound : w < 256 ^ 4 := fits.trans_le (Nat.pow_le_pow_right (by decide) (by omega : n ≤ 32))
  have read : leNat ((leBytes 4 w).take 4) = w := by
    rw [List.take_of_length_le (length_leBytes 4 w).le, leNat_leBytes, Nat.mod_eq_of_lt bound]
  rw [decodeTableWord, Nat.mod_eq_of_lt fits]
  simp only [decode, read, length_leBytes, Nat.not_lt.mpr short, if_false, h]

/-- Settles O58: each instruction's word is the sum of its fields, which its decoder reads back; and a decoder accepts only fields
that sum to the word of what it answers. -/
theorem encodeDecode : Obligations.EncodeDecode := by
  unfold Obligations.EncodeDecode
  refine ⟨fun i n w wf encoded => ?_, fun w i decoded => encodes_of_decodeWord decoded⟩
  have decoded := decodesBack_of_wf wf n w encoded
  have word := (encodes_of_decodeWord decoded).2
  rw [encoded, Option.some.injEq, Prod.mk.injEq] at word
  obtain ⟨length, low⟩ := word
  have fits : w < 2 ^ n := by
    rw [low, length]
    exact Nat.mod_lt _ (Nat.two_pow_pos _)
  exact ⟨decoded, decodeTableWord_of_decodeWord decoded length fits, fits, length⟩

/-- Settles O57: each word is decoded, a closed computation. -/
theorem decodeWords : Obligations.DecodeWords := by
  unfold Obligations.DecodeWords
  decide

end Sys2Proof.Laws
end

section
namespace Sys2Proof.Machine

/-! ## The step, by the move that comes next (R154, R155, R176, R177, R381; log 2) -/

section
variable {s s1 : State} {a : Agent} {w : Nat}

theorem step_exec {i : Instr} (move : nextMove s = .exec i s1) : step s = exec i s1 := by rw [step, move]

theorem step_done (move : nextMove s = .done s1) : step s = .next s1 := by rw [step, move]

/-- An agent stopped before its instruction waits for the easel forms of its own that have not retired. -/
theorem step_stopAfterForms {e : Stop} (move : nextMove s = stopAfterForms a e s1) :
    step s = if ownForms s1 a then .next s1 else stopped a e s1 := by
  unfold stopAfterForms at move
  split at move
  · rw [if_pos ‹_›, step_done move]
  · rw [if_neg ‹_›, step, move]

theorem nextMove_deliver {n : Nat} {e : Instr} {rest : List Turn} (turn : s.md.turns = .deliver n :: rest)
    (sent : s.md.inflight[n]? = some e) (first : overtakes s n e = false) :
    nextMove s = .exec e { s with
      md := { s.md with turns := rest, inflight := s.md.inflight.eraseIdx n, req := { s.md.req with on := false } } } := by
  have inOrder : overtakes { s with md := { s.md with turns := rest } } n e = false := first
  simp [nextMove, turn, takeTurn, sent, inOrder]

theorem notIssuing_of_why (why : (s.ctx a).why ≠ some .debug) : notIssuing a s = s := by
  cases a with
  | strand q c k => simp [notIssuing, why]
  | hart | weir | cmd | sec => rfl

/-- The word that an agent runs next, and the state after its fetch. -/
def nextWord (a : Agent) (s : State) : Except Stop (Nat × State) :=
  match (s.ctx a).displaced with
  | some w => .ok (w.toNat, s)
  | none => fetchWord a s

theorem nextWord_displaced {d : BitVec 32} (placed : (s.ctx a).displaced = some d) : nextWord a s = .ok (d.toNat, s) := by
  rw [nextWord, placed]

theorem nextWord_fetched (bare : (s.ctx a).displaced = none) : nextWord a s = fetchWord a s := by rw [nextWord, bare]

/-- The move of an agent with a word at hand: the word or its decoding stops it, or its instruction executes. -/
def wordMove (a : Agent) (w : Nat) (s : State) : Move :=
  match rawStop a w with
  | some e => stopAfterForms a e s
  | none => match decode (leBytes 4 w) with
    | .error _ => stopAfterForms a (.fault 1 0 0) s
    | .ok (i, _) => .exec i s

theorem wordMove_rawStop {e : Stop} (raw : rawStop a w = some e) : wordMove a w s = stopAfterForms a e s := by
  rw [wordMove, raw]

theorem wordMove_error {r : Reject} (raw : rawStop a w = none) (rejected : decode (leBytes 4 w) = .error r) :
    wordMove a w s = stopAfterForms a (.fault 1 0 0) s := by
  rw [wordMove, raw, rejected]

theorem wordMove_ok {i : Instr} {bs : List Byte} (raw : rawStop a w = none) (decoded : decode (leBytes 4 w) = .ok (i, bs)) :
    wordMove a w s = .exec i s := by
  rw [wordMove, raw, decoded]

/-- The move of an agent by the answer of its fetch. -/
def fetchedMove (a : Agent) (s : State) : Except Stop (Nat × State) → Move
  | .error e => stopAfterForms a e s
  | .ok (w, s1) => wordMove a w s1

/-! The step of an agent's own turn, from the state in which the turn is its own. -/

variable {t : State} {rest : List Turn} (turn : s.md.turns = .run a :: rest)
  (own : t = { s with md := { s.md with turns := rest, who := a } })
include turn own

theorem nextMove_held (held : mayIssue t a = false) : nextMove s = .done (notIssuing a t) := by
  subst own
  simp [nextMove, turn, takeTurn, nextInstr, held]

theorem nextMove_issues (issues : mayIssue t a = true) : nextMove s = fetchedMove a t (nextWord a t) := by
  subst own
  simp only [nextMove, turn, takeTurn, nextInstr, issues]
  rfl

theorem nextMove_fetchStops (issues : mayIssue t a = true) {e : Stop} (fails : nextWord a t = .error e) :
    nextMove s = stopAfterForms a e t := by
  rw [nextMove_issues turn own issues, fails, fetchedMove]

theorem nextMove_word (issues : mayIssue t a = true) (word : nextWord a t = .ok (w, s1)) : nextMove s = wordMove a w s1 := by
  rw [nextMove_issues turn own issues, word, fetchedMove]

end

/-- Settles O56: a turn of an agent's own goes by its next word, and the other turns by what they name. -/
theorem stepRunsDecoded : Obligations.StepRunsDecoded := by
  unfold Obligations.StepRunsDecoded
  intro s s1 a rest w s0
  refine ⟨fun turn => ⟨fun held => ?_, fun issues => ⟨fun fetched => ?_, fun e bare fails => ?_⟩⟩, fun idle => ?_,
    fun n e turn sent first => step_exec (nextMove_deliver turn sent first)⟩
  · have stays := step_done (nextMove_held (t := s0) turn rfl held)
    exact ⟨stays, fun why => by rw [stays, notIssuing_of_why why]⟩
  · have word : nextWord a s0 = .ok (w, s1) := by
      rcases fetched with ⟨d, placed, rfl, rfl⟩ | ⟨bare, ok⟩
      · exact nextWord_displaced placed
      · rw [nextWord_fetched bare, ok]
    have move : nextMove s = wordMove a w s1 := nextMove_word (t := s0) turn rfl issues word
    exact ⟨fun e raw => step_stopAfterForms (move.trans (wordMove_rawStop raw)), fun raw =>
      ⟨fun i bs decoded => step_exec (move.trans (wordMove_ok raw decoded)),
        fun r rejected => step_stopAfterForms (move.trans (wordMove_error raw rejected))⟩⟩
  · have fetch : nextWord a s0 = .error e := by rw [nextWord_fetched bare, fails]
    exact step_stopAfterForms (nextMove_fetchStops (t := s0) turn rfl issues fetch)
  · exact step_done (by rw [nextMove, idle])

end Sys2Proof.Machine
end

section
namespace Sys2Proof.Machine
open Sys2Proof.Safety

/-! ## The integer forms in words of bits (R183 to R190) -/

/-! ### Integers of 64 bits -/

/-- The low 64 bits of an integer, as a word. -/
theorem wd_wrap (v : Int) : wd (wrap 64 v) = BitVec.ofInt 64 v := by
  apply BitVec.eq_of_toNat_eq
  simp only [wrap, BitVec.toNat_ofNat, BitVec.toNat_ofInt]
  omega

/-- The model's sign extension of an immediate is that of its bits. -/
theorem sext_toNat {n : Nat} (v : BitVec n) (pos : 0 < n) (short : n ≤ 64) : sext n v.toNat = v.signExtend 64 := by
  have low : v.toNat % 2 ^ n = v.toNat := Nat.mod_eq_of_lt v.isLt
  have half : 2 ^ n = 2 * 2 ^ (n - 1) := by rw [← Nat.pow_succ', Nat.succ_eq_add_one, Nat.sub_add_cancel pos]
  have bound : 2 ^ n ≤ 2 ^ 64 := Nat.pow_le_pow_right Nat.two_pos short
  have lt := v.isLt
  simp only [sext, low, BitVec.signExtend, BitVec.toInt_eq_toNat_cond]
  apply BitVec.eq_of_toNat_eq
  split
  · rw [if_pos (by omega), BitVec.ofInt_natCast]
  · rw [if_neg (by omega), BitVec.toNat_ofNat, BitVec.toNat_ofInt]
    omega

theorem zeroExtend_eq_wd {n : Nat} (v : BitVec n) : v.zeroExtend 64 = wd v.toNat := by
  apply BitVec.eq_of_toNat_eq
  rw [BitVec.toNat_setWidth, BitVec.toNat_ofNat]

/-- The high word of a signed product (R184). -/
theorem mulhs_eq (x y : Word) : mulhs x y = (x.signExtend 128 * y.signExtend 128).extractLsb' 64 64 := by
  have product : x.signExtend 128 * y.signExtend 128 = BitVec.ofInt 128 (x.toInt * y.toInt) := (BitVec.ofInt_mul ..).symm
  apply BitVec.eq_of_toNat_eq
  rw [product, BitVec.extractLsb'_toNat, BitVec.toNat_ofInt, Nat.shiftRight_eq_div_pow, mulhs, BitVec.toNat_ofNat, wrap]
  norm_num

/-- The high word of an unsigned product (R184). -/
theorem mulhu_eq (x y : Word) : mulhu x y = (x.zeroExtend 128 * y.zeroExtend 128).extractLsb' 64 64 := by
  have bound : x.toNat * y.toNat < 2 ^ 128 :=
    calc x.toNat * y.toNat < 2 ^ 64 * 2 ^ 64 := Nat.mul_lt_mul'' x.isLt y.isLt
      _ = 2 ^ 128 := by norm_num
  have wide (z : Word) : z.toNat % 2 ^ 128 = z.toNat := Nat.mod_eq_of_lt (by have := z.isLt; omega)
  apply BitVec.eq_of_toNat_eq
  rw [BitVec.extractLsb'_toNat, BitVec.toNat_mul, BitVec.toNat_setWidth, BitVec.toNat_setWidth, wide, wide,
    Nat.mod_eq_of_lt bound, Nat.shiftRight_eq_div_pow, mulhu, BitVec.toNat_ofNat]

theorem divS_eq (x y : Word) : divS x y = if y = 0 then BitVec.allOnes 64 else x.sdiv y := by
  simp only [divS, beq_iff_eq]
  split
  · rfl
  · apply BitVec.eq_of_toInt_eq
    rw [wd_wrap, BitVec.toInt_ofInt, BitVec.toInt_sdiv]

theorem remS_eq (x y : Word) : remS x y = if y = 0 then x else x.srem y := by
  simp only [remS, beq_iff_eq, wd_wrap, ← BitVec.toInt_srem, BitVec.ofInt_toInt]

theorem divU_eq (x y : Word) : divU x y = if y = 0 then BitVec.allOnes 64 else x.udiv y := by
  simp only [divU, beq_iff_eq]
  split
  · rfl
  · exact BitVec.eq_of_toNat_eq (by rw [BitVec.toNat_ofNat, BitVec.udiv_eq, BitVec.toNat_udiv, Nat.mod_eq_of_lt (Nat.div_lt_of_lt x.isLt)])

theorem remU_eq (x y : Word) : remU x y = if y = 0 then x else x.umod y := by
  simp only [remU, beq_iff_eq]
  split
  · rfl
  · exact BitVec.eq_of_toNat_eq (by
      rw [BitVec.toNat_ofNat, BitVec.umod_eq, BitVec.toNat_umod, Nat.mod_eq_of_lt (Nat.lt_of_le_of_lt (Nat.mod_le ..) x.isLt)])

/-- The PC with its low 15 bits clear (R189). -/
theorem clearLow15 (x : Word) : wd (x.toNat / 32768 * 32768) = x &&& ~~~ (0x7FFF : Word) := by
  have ones (k : Nat) : (0x7FFF : Word).getLsbD k = decide (k < 15) := Nat.testBit_two_pow_sub_one 15 k
  have upper (k : Nat) : (x.toNat / 32768 * 32768).testBit k = (decide (15 ≤ k) && x.getLsbD (k - 15 + 15)) := by
    rw [show 32768 = 2 ^ 15 from rfl, Nat.testBit_mul_two_pow, Nat.testBit_div_two_pow, BitVec.testBit_toNat]
  apply BitVec.eq_of_getLsbD_eq
  intro k word
  rw [BitVec.getLsbD_ofNat, BitVec.getLsbD_and, BitVec.getLsbD_not, ones, upper]
  by_cases high : 15 ≤ k
  · simp [word, high, Nat.not_lt.mpr high, Nat.sub_add_cancel high]
  · simp [high, Nat.lt_of_not_le high]

/-! ### Bit fields (R190) -/

theorem bitsOf_eq (x : Word) (pos len1 : BitVec 6) : bitsOf x pos len1 = (x.extractLsb' pos.toNat (len1.toNat + 1)).toNat := by
  rw [bitsOf, BitVec.extractLsb'_toNat, Nat.shiftRight_eq_div_pow]

/-- A number with a field of `n` bits replaced, bit by bit. -/
theorem testBit_replaceField (old new p n k : Nat) :
    (old - old / 2 ^ p % 2 ^ n * 2 ^ p + new % 2 ^ n * 2 ^ p).testBit k =
      if p ≤ k ∧ k < p + n then new.testBit (k - p) else old.testBit k := by
  have split : 2 ^ p * (2 ^ n * (old / 2 ^ p / 2 ^ n) + old / 2 ^ p % 2 ^ n) + old % 2 ^ p = old := by
    rw [Nat.div_add_mod, Nat.div_add_mod]
  have cut : old - old / 2 ^ p % 2 ^ n * 2 ^ p + new % 2 ^ n * 2 ^ p =
      2 ^ p * (2 ^ n * (old / 2 ^ p / 2 ^ n) + new % 2 ^ n) + old % 2 ^ p := by
    rw [Nat.sub_eq_of_eq_add' (split.symm.trans (by ring) : old = old / 2 ^ p % 2 ^ n * 2 ^ p +
      (2 ^ p * (2 ^ n * (old / 2 ^ p / 2 ^ n)) + old % 2 ^ p))]
    ring
  rw [cut, Nat.testBit_two_pow_mul_add _ (Nat.mod_lt _ (Nat.two_pow_pos p)),
    Nat.testBit_two_pow_mul_add _ (Nat.mod_lt _ (Nat.two_pow_pos n))]
  by_cases below : k < p
  · simp [below, Nat.not_le.mpr below, Nat.testBit_mod_two_pow]
  · by_cases inside : k - p < n
    · have here : p ≤ k ∧ k < p + n := by omega
      simp [below, inside, here, Nat.testBit_mod_two_pow]
    · have above : ¬ (p ≤ k ∧ k < p + n) := by omega
      have place : k - p - n + n + p = k := by omega
      simp [below, inside, above, Nat.testBit_div_two_pow, place]

/-- An insertion, bit by bit (R190). -/
theorem insertBits_getLsbD (old x : Word) (pos len1 : BitVec 6) {k : Nat} (word : k < 64) :
    (insertBits old x pos len1).getLsbD k =
      if pos.toNat ≤ k ∧ k < pos.toNat + len1.toNat + 1 then x.getLsbD (k - pos.toNat) else old.getLsbD k := by
  simp only [insertBits, bitsOf, BitVec.getLsbD_ofNat, word, decide_true, Bool.true_and, testBit_replaceField, BitVec.testBit_toNat,
    Nat.add_assoc]

/-! ### The statements -/

/-- Settles O3: each form's body reads its sources and writes its result; the orders are those of the integers. -/
theorem aluResults : Obligations.AluResults := by
  unfold Obligations.AluResults
  intro d a b s t x y hx hy
  have two {i : Instr} {f : Word → Word → Word} {v : Word} (runs : exec i s = perform i (alu2 d a b f) s) (result : f x y = v) :
      Yields i s t (writeDst t s.md.who d v) := yields_of_body rfl runs (result ▸ alu2_ok hx hy)
  refine ⟨two rfl rfl, two rfl rfl, two rfl rfl, two rfl rfl, two rfl rfl, two rfl rfl, two rfl rfl, two rfl rfl,
    two rfl ?_, two rfl ?_, two rfl ?_, two rfl ?_, two rfl ?_, two rfl ?_⟩
  all_goals simp only [BitVec.slt_iff_toInt_lt, BitVec.ult_iff_lt, BitVec.lt_def]

/-- Settles O4: each form's result is the operation of words that the rule names, a zero divisor apart. -/
theorem mulResults : Obligations.MulResults := by
  unfold Obligations.MulResults
  intro d a b la s t x y hx hy put
  have long {i : Instr} {f : Word → Word → Word} {v : Word} (runs : exec i s = perform i (long2 d a b la f) s)
      (result : f x y = v) : Yields i s t (put v) := yields_of_body rfl runs (result ▸ long2_ok hx hy)
  exact ⟨long rfl rfl, long rfl (mulhs_eq x y), long rfl (mulhu_eq x y), long rfl (divS_eq x y), long rfl (divU_eq x y),
    long rfl (remS_eq x y), long rfl (remU_eq x y)⟩

/-- Settles O5: each immediate is extended as its rule says, and each condition is the order of the integers. -/
theorem immediateResults : Obligations.ImmediateResults := by
  unfold Obligations.ImmediateResults
  intro d a i15 i12 i20 n s t x put
  have ext20 : sext 20 i20.toNat = i20.signExtend 64 := sext_toNat i20 (by decide) (by decide)
  have upper {i : Instr} {f : Agent → State → Word} {v : Word}
      (runs : exec i s = perform i (fun ag t => .ok (writeDst t ag d (f ag t))) s) (result : f s.md.who t = v) :
      Yields i s t (put v) := yields_of_body rfl runs (result ▸ rfl)
  refine ⟨upper (by rw [exec_lui, execLui]) (by rw [ext20]), upper (by rw [exec_auipc, execAuipc]) (by rw [ext20, clearLow15]), fun hx => ?_⟩
  have one {i : Instr} {f : Word → Word} {v : Word} (runs : exec i s = perform i (alu1 d a f) s) (result : f x = v) :
      Yields i s t (put v) := yields_of_body rfl runs (result ▸ alu1_ok hx)
  have ext15 : imm15 i15 = i15.signExtend 64 := sext_toNat i15 (by decide) (by decide)
  have zext15 : zimm15 i15 = i15.zeroExtend 64 := (zeroExtend_eq_wd i15).symm
  have ext12 : sext 12 i12.toNat = i12.signExtend 64 := sext_toNat i12 (by decide) (by decide)
  have int12 : (i12.signExtend 64).toInt = i12.toInt := BitVec.toInt_signExtend_of_le (by decide)
  refine ⟨one rfl (by rw [ext15]), one rfl (by rw [ext15]), one rfl (by rw [zext15]), one rfl (by rw [ext15]), one rfl rfl,
    one rfl rfl, one rfl rfl, one rfl ?_, one rfl ?_, one rfl ?_, one rfl ?_, one rfl ?_, one rfl ?_⟩
  all_goals simp only [condHolds, ext12, int12, BitVec.slt_eq_decide, BitVec.ult_eq_decide, beq_iff_eq, bne_iff_ne, ne_eq,
    Bool.not_eq_true', decide_eq_false_iff_not, decide_eq_true_eq, ite_not]

/-- Settles O6: an extraction is the field's own extension, and an insertion replaces the field's bits. -/
theorem bitFieldResults : Obligations.BitFieldResults := by
  unfold Obligations.BitFieldResults
  intro d r a pos len1 s t x old fits hx field
  have len : bitsOf x pos len1 = field.toNat := bitsOf_eq x pos len1
  have signed : sext (len1.toNat + 1) (bitsOf x pos len1) = field.signExtend 64 := by
    rw [len, sext_toNat field (by omega) (by omega)]
  have unsigned : wd (bitsOf x pos len1) = field.zeroExtend 64 := by rw [len, zeroExtend_eq_wd]
  exact ⟨yields_of_body rfl rfl (signed ▸ alu1_ok hx), yields_of_body rfl rfl (unsigned ▸ alu1_ok hx), fun hold =>
    ⟨insertBits old x pos len1, yields_of_body rfl rfl (alu2_ok hx hold), fun k => insertBits_getLsbD old x pos len1⟩⟩

/-- Settles O7: each form's body reads its sources and rounds one exact value. -/
theorem floatResults : Obligations.FloatResults := by
  unfold Obligations.FloatResults
  intro d r a b la s t x y z hx hy rm val short round long
  have two {i : Instr} {f : RM → Word → Word → Word × Flags} (runs : exec i s = perform i (fpuForm2 d a b f) s) :
      Yields i s t (short (f rm x y).1 (f rm x y).2) := yields_of_body rfl runs (fpuForm2_ok hx hy)
  have one {i : Instr} {f : RM → Word → Word × Flags} (runs : exec i s = perform i (fpuForm1 d a f) s) :
      Yields i s t (short (f rm x).1 (f rm x).2) := yields_of_body rfl runs (fpuForm1_ok hx)
  unfold Reads at hx hy
  refine ⟨two (f := fpuAddR) rfl, two (f := fpuSubR) rfl, two (f := fpuMulR) rfl, two (f := fun _ => fpuMinMaxR false) rfl,
    two (f := fun _ => fpuMinMaxR true) rfl, one (f := fpuCvtsR) rfl, one (f := fpuCvtfR) rfl, two (f := fun _ => fpuCmpR eqF) rfl,
    two (f := fun _ => fpuCmpR ltF) rfl, two (f := fun _ => fpuCmpR leF) rfl, yields_of_body rfl rfl (fplForm2_ok hx hy),
    yields_of_body rfl (by rw [exec_fplSqrt, execFplSqrt]) ?_, fun hz => yields_of_body rfl (by rw [exec_fplFma, execFplFma]) ?_⟩
  · simp only [hx, ok_bind]
    rfl
  · unfold Reads at hz
    simp only [hz, hx, hy, ok_bind]
    rfl

end Sys2Proof.Machine
end

section
namespace Sys2Proof.Machine
open Sys2Proof.Safety

/-! ## The forms that set the PC themselves: what becomes of them once they issue (R170, R172, R199) -/

/-! ### Nothing left to commit -/

/-- Nothing outstanding of a context can commit now: its oldest entry, if there is one, is an easel form, which commits as it
retires (R172, R246). -/
def Ctx.Settled (y : Ctx) : Prop := ∀ p rest, y.fl.pend = p :: rest → p.form = true

theorem Ctx.Settled.congr {y z : Ctx} (settled : y.Settled) (same : z.fl.pend = y.fl.pend) : z.Settled := by
  unfold Ctx.Settled
  rwa [same]

theorem Ctx.Settled.of_nil {y : Ctx} (none : y.fl.pend = []) : y.Settled := by
  intro p rest some
  simp [none] at some

theorem performAll_pend (a : Agent) (es : List BufEnt) (s : State) :
    ((performAll a es s).ctx a).fl.pend = (s.ctx a).fl.pend := by
  induction es generalizing s with
  | nil => rfl
  | cons e es ih =>
    rw [performAll, ih]
    simp only [performHeld]
    split
    · simp [State.updFlight]
    · split
      · simp [State.updFlight]
      · split
        · rw [(storeAll_same _ _ s).ctx a]
        all_goals rfl

/-- A commit takes the oldest entry away, or leaves the state as it is where that is an easel form. -/
theorem commitOne_cases (a : Agent) (s : State) :
    ((s.ctx a).Settled ∧ commitOne a s = s) ∨
      ((commitOne a s).ctx a).fl.pend.length + 1 = (s.ctx a).fl.pend.length := by
  rcases outstanding : (s.ctx a).fl.pend with _ | ⟨p, rest⟩
  · exact .inl ⟨.of_nil outstanding, by simp only [commitOne, outstanding]⟩
  · by_cases form : p.form = true
    · refine .inl ⟨fun p' rest' h => ?_, by simp only [commitOne, outstanding, form, if_true]⟩
      rw [outstanding, List.cons.injEq] at h
      exact h.1 ▸ form
    · right
      simp only [commitOne, outstanding, form, Bool.false_eq_true, if_false, performAll_pend, State.ctx_updCtx_same,
        List.length_map, List.length_cons]

theorem commitN_of_settled {a : Agent} {s : State} (settled : (s.ctx a).Settled) (n : Nat) : commitN a n s = s := by
  induction n with
  | zero => rfl
  | succ n ih =>
    have one : commitOne a s = s := by
      unfold commitOne
      split
      · rfl
      · rename_i p rest outstanding
        rw [if_pos (settled p rest outstanding)]
    rw [commitN, one, ih]

theorem commitAll_of_settled {a : Agent} {s : State} (settled : (s.ctx a).Settled) : commitAll a s = s :=
  commitN_of_settled settled _

theorem commitN_settles {a : Agent} {n : Nat} {s : State} (enough : (s.ctx a).fl.pend.length ≤ n) :
    ((commitN a n s).ctx a).Settled := by
  induction n generalizing s with
  | zero => exact .of_nil (List.length_eq_zero_iff.mp (Nat.le_zero.mp enough))
  | succ n ih =>
    rcases commitOne_cases a s with ⟨settled, stays⟩ | fewer
    · rw [commitN, stays, commitN_of_settled settled]
      exact settled
    · exact ih (by omega)

/-- Once everything outstanding has committed, nothing is left that can. -/
theorem commitAll_settles (a : Agent) (s : State) : ((commitAll a s).ctx a).Settled := commitN_settles (Nat.le_refl _)

/-- A form that closes the windows issues once everything outstanding has committed (R170, R172). -/
theorem settled_of_issues {i : Instr} {s t : State} (closed : closes (shapeOf i).major = true) (issues : Issues i s t) :
    (t.ctx s.md.who).Settled := by
  have go := gate_go_of_issues issues
  unfold gate at go
  simp only [closed, Bool.true_or, if_true] at go
  split at go
  · cases go
  split at go
  · cases go
  split at go
  · cases go
  split at go
  · cases go
  split at go <;> split at go <;> cases go
  · rename_i empty _
    exact .of_nil (List.isEmpty_iff.mp ((Bool.and_eq_true_iff).mp empty).2)
  · exact (commitAll_settles s.md.who (pcTrigger s s.md.who).1).congr (by simp [State.updFlight])

/-- A retire with nothing left to commit changes no register of any context. -/
theorem finish_arch_settled {a : Agent} {s : State} (b : Agent) (settled : (s.ctx a).Settled) :
    (finish a s).arch b = s.arch b := by
  have used_settled : ((used a s).ctx a).Settled := settled.congr (congrArg Flight.pend (used_ctx a a s).2.2.2.2)
  cases a with
  | strand =>
    simp only [finish, endStep]
    split
    · rw [commitAll_of_settled used_settled, parkAgent_arch, State.arch_updSpec, used_arch]
    · rw [used_arch]
  | hart | weir | cmd | sec => exact used_arch ..

/-! ### The bodies -/

section
variable {i : Instr} {body : Agent → Act} {me : Agent} {s t u : State} (who : s.md.who = me) (runs : exec i s = performJump i body s)
include who runs

/-- A form whose body sets the PC completes with what its body answers. -/
theorem jumps_of_body (effect : body me t = .ok u) : Jumps i s t u := by
  subst who
  exact fun issues => runs.trans (performJump_ok (gate_go_of_issues issues) effect)

/-- A form that sets the PC and whose body answers a program fault raises it. -/
theorem raises_of_jumpBody {kind cause : Nat} {value : Word} (effect : body me t = .error (.fault kind cause value)) :
    Raises i s t kind cause value := by
  subst who
  intro issues
  rw [runs, performJump_error (gate_go_of_issues issues) effect]
  cases own : ownForms s s.md.who <;> simp [stopBehind, own, Stop.waits, stopped, atStop]

/-- A form that sets the PC, closes the windows and leaves what is outstanding completes with its effect's registers. -/
theorem goes_of_body (closed : closes (shapeOf i).major = true) (effect : body me t = .ok u)
    (kept : (u.ctx me).fl.pend = (t.ctx me).fl.pend) (issues : Issues i s t) :
    ∃ v, exec i s = .next v ∧ v.arch me = u.arch me := by
  refine ⟨_, jumps_of_body who runs effect issues, ?_⟩
  subst who
  exact finish_arch_settled _ ((settled_of_issues closed issues).congr kept)

end

/-! ## br, jal and jr (R51, R58, R195 to R197) -/

theorem jumpTo_ctx (a : Agent) (x : Word) (s : State) :
    (jumpTo a x s).ctx a = { s.ctx a with arch := (s.arch a).jump x } := by
  simp only [jumpTo, traceIf_ctx, State.ctx_updArch_same, State.arch]

theorem moveTo_ctx (a : Agent) (x : Word) (s : State) :
    (moveTo a x s).ctx a = { s.ctx a with arch := { s.arch a with pc := x } } := by
  simp only [moveTo, traceIf_ctx, setPc, State.ctx_updArch_same, State.arch]

theorem link_ctx (a : Agent) (s : State) :
    (link a s).ctx a = { s.ctx a with arch := ((s.arch a).setN 14 ((s.arch a).pc + 4) (s.ctx a).gen).markQueue } :=
  State.ctx_updCtx_same ..

theorem advance_pend (i : Instr) (a : Agent) (s : State) : ((advance i a s).ctx a).fl.pend = (s.ctx a).fl.pend := by
  have moved : ((advance i a s).ctx a).fl.pend = (if (s.arch a).backEdge then { (s.ctx a).fl with wins := [] } else (s.ctx a).fl).pend := by
    simp only [advance]
    split <;> simp only [traceIf_ctx, State.ctx_updCtx_same]
  rw [moved]
  split <;> rfl

section
variable {i : Instr} {body : Agent → Act} {me : Agent} {s t : State} (who : s.md.who = me) (runs : exec i s = performJump i body s)
  (closed : closes (shapeOf i).major = true)
include who runs closed

/-- A form that closes the windows and jumps to `x`. -/
theorem goes_of_jumpTo {x : Word} (effect : body me t = .ok (jumpTo me x t)) (issues : Issues i s t) :
    ∃ u, exec i s = .next u ∧ u.arch me = (t.arch me).jump x := by
  obtain ⟨u, next, regs⟩ := goes_of_body who runs closed effect (by rw [jumpTo_ctx]) issues
  exact ⟨u, next, by rw [regs, State.arch, jumpTo_ctx]⟩

/-- A form that closes the windows and moves the PC to `x` behind an effect on its registers. -/
theorem goes_of_moveTo {x : Word} {v : State} {y : Arch} (effect : body me t = .ok (moveTo me x v))
    (own : v.ctx me = { t.ctx me with arch := y }) (issues : Issues i s t) :
    ∃ u, exec i s = .next u ∧ u.arch me = { y with pc := x } := by
  obtain ⟨u, next, regs⟩ := goes_of_body who runs closed effect (by rw [moveTo_ctx, own]) issues
  exact ⟨u, next, by rw [regs, State.arch, moveTo_ctx, State.arch, own]⟩

/-- A form that closes the windows and moves on behind an effect on its registers. -/
theorem goes_of_advance {v : State} {y : Arch} (effect : body me t = .ok (advance i me v))
    (own : v.ctx me = { t.ctx me with arch := y }) (issues : Issues i s t) :
    ∃ u, exec i s = .next u ∧ u.arch me = y.advance (shapeOf i).len (t.ctx me).gen := by
  obtain ⟨u, next, regs⟩ := goes_of_body who runs closed effect (by rw [advance_pend, own]) issues
  exact ⟨u, next, by rw [regs, advance_arch, State.arch, own]⟩

end

theorem checkTarget_even {x : Word} (even : x.toNat % 2 = 0) : checkTarget x = .ok () := by
  simp only [checkTarget, even, beq_self_eq_true, check_true]

theorem checkTarget_odd {x : Word} (odd : x.toNat % 2 = 1) : checkTarget x = .error (.fault 5 0 x) := by
  simp only [checkTarget, odd, Nat.reduceBEq, check_false, alignF]

section
variable {me : Agent} {s t : State} {a b : Src} {x y : Word} (who : s.md.who = me)
include who

theorem exec_br_goes {c : Cond} {o : BitVec 12} (hx : Reads t me a x) (hy : Reads t me b y) (issues : Issues (.br c a b o) s t) :
    ∃ u, exec (.br c a b o) s = .next u ∧ u.arch me = if condHolds c x y then
      (t.arch me).jump ((t.arch me).pc + 2 * o.signExtend 64) else (t.arch me).advance 4 (t.ctx me).gen := by
  unfold Reads at hx hy
  cases taken : condHolds c x y
  · exact goes_of_advance who (by rw [exec_br, execBr]) rfl (v := t) (y := t.arch me)
      (by simp only [hx, hy, ok_bind, taken, Bool.false_eq_true, if_false]) rfl issues
  · exact goes_of_jumpTo who (by rw [exec_br, execBr]) rfl
      (by simp only [hx, hy, ok_bind, taken, if_true, sext_toNat o (by decide) (by decide)]) issues

theorem exec_jalJump_goes {o : BitVec 20} (issues : Issues (.jalJump o) s t) :
    ∃ u, exec (.jalJump o) s = .next u ∧ u.arch me = (t.arch me).jump ((t.arch me).pc + 2 * o.signExtend 64) :=
  goes_of_jumpTo who (by rw [exec_jalJump, execJalJump]) rfl (by rw [sext_toNat o (by decide) (by decide)]) issues

theorem exec_jalCall_goes {o : BitVec 20} (issues : Issues (.jalCall o) s t) :
    ∃ u, exec (.jalCall o) s = .next u ∧ u.arch me =
      { ((t.arch me).setN 14 ((t.arch me).pc + 4) (t.ctx me).gen).markQueue with pc := (t.arch me).pc + 2 * o.signExtend 64 } :=
  goes_of_moveTo who (by rw [exec_jalCall, execJalCall]) rfl (by rw [sext_toNat o (by decide) (by decide)]) (link_ctx me t) issues

section
variable (even : x.toNat % 2 = 0)
include even

theorem exec_jrJump_goes (hx : Reads t me a x) (issues : Issues (.jrJump a) s t) :
    ∃ u, exec (.jrJump a) s = .next u ∧ u.arch me = (t.arch me).jump x := by
  unfold Reads at hx
  exact goes_of_jumpTo who (by rw [exec_jrJump, execJrJump]) rfl (by simp only [hx, ok_bind, checkTarget_even even]) issues

theorem exec_jrCall_goes (hx : Reads t me a x) (issues : Issues (.jrCall a) s t) :
    ∃ u, exec (.jrCall a) s = .next u ∧ u.arch me =
      { ((t.arch me).setN 14 ((t.arch me).pc + 4) (t.ctx me).gen).markQueue with pc := x } := by
  unfold Reads at hx
  exact goes_of_moveTo who (by rw [exec_jrCall, execJrCall]) rfl (by simp only [hx, ok_bind, checkTarget_even even])
    (link_ctx me t) issues

theorem exec_jrRet_goes (hx : Reads t me (.n 14) x) (issues : Issues .jrRet s t) :
    ∃ u, exec .jrRet s = .next u ∧ u.arch me = { (t.arch me).markQueue.markNamed with pc := x } := by
  unfold Reads at hx
  exact goes_of_moveTo (v := t.updArch me fun y => y.markQueue.markNamed) who (by rw [exec_jrRet, execJrRet]) rfl
    (by simp only [hx, ok_bind, checkTarget_even even]) (State.ctx_updArch_same ..) issues

end

section
variable (odd : x.toNat % 2 = 1)
include odd

theorem jrJump_odd (hx : Reads t me a x) : Raises (.jrJump a) s t 5 0 x := by
  unfold Reads at hx
  exact raises_of_jumpBody who (by rw [exec_jrJump, execJrJump]) (by simp only [hx, ok_bind, checkTarget_odd odd, error_bind])

theorem jrCall_odd (hx : Reads t me a x) : Raises (.jrCall a) s t 5 0 x := by
  unfold Reads at hx
  exact raises_of_jumpBody who (by rw [exec_jrCall, execJrCall]) (by simp only [hx, ok_bind, checkTarget_odd odd, error_bind])

theorem jrRet_odd (hx : Reads t me (.n 14) x) : Raises .jrRet s t 5 0 x := by
  unfold Reads at hx
  exact raises_of_jumpBody who (by rw [exec_jrRet, execJrRet]) (by simp only [hx, ok_bind, checkTarget_odd odd, error_bind])

end
end

/-- Settles O9: each body reads its sources and its target, and moves the PC behind its marks; an odd target ends it before. -/
theorem branchesAndJumps : Obligations.BranchesAndJumps := by
  unfold Obligations.BranchesAndJumps
  intro c a b o12 o20 s t x y me r g goes
  refine ⟨exec_jalJump_goes rfl, exec_jalCall_goes rfl, fun hx hy => ⟨fun taken issues => ?_, fun fails issues => ?_⟩,
    fun hx => ⟨fun even => ⟨exec_jrJump_goes rfl even hx, exec_jrCall_goes rfl even hx⟩,
      fun odd => ⟨jrJump_odd rfl odd hx, jrCall_odd rfl odd hx⟩⟩,
    fun hx => ⟨fun even => exec_jrRet_goes rfl even hx, fun odd => jrRet_odd rfl odd hx⟩⟩
  · simpa only [taken, if_true] using exec_br_goes rfl hx hy issues
  · simpa only [fails, Bool.false_eq_true, if_false] using exec_br_goes rfl hx hy issues

end Sys2Proof.Machine
end

section
namespace Sys2Proof.Machine
open Sys2Proof.Safety

/-! ## Hardware loops: the back-edge and the set-up (R198, R199) -/

/-! ### The loop registers -/

/-- The data of loop register `i`: lc_k is register k, ls_k is 2 + k, le_k is 4 + k (R52). -/
def Arch.loopReg (y : Arch) (i : Nat) : Word := (y.loops.toList.getD i Init.reg).data

/-- Loop `k` is active and ends at the PC. -/
def Arch.Ends (y : Arch) (k : Fin 2) : Prop := y.act.getLsbD k.val = true ∧ y.loopReg (4 + k.val) = y.pc

theorem Arch.atEnd_iff (y : Arch) (k : Fin 2) : y.atEnd k = true ↔ y.Ends k := by
  rw [Arch.atEnd, Bool.and_eq_true, beq_iff_eq, beq_iff_eq, getLsbD_iff_div]
  rfl

theorem Arch.atEnd_of_not {y : Arch} {k : Fin 2} (h : ¬ y.Ends k) : y.atEnd k = false :=
  Bool.eq_false_iff.mpr fun e => h ((y.atEnd_iff k).mp e)

theorem Arch.loopsBack_iff (y : Arch) (k : Fin 2) : y.loopsBack k = true ↔ y.Ends k ∧ 1 < (y.loopReg k.val).toNat := by
  rw [Arch.loopsBack, Bool.and_eq_true, Arch.atEnd_iff, decide_eq_true_iff]
  rfl

theorem Arch.loopsBack_of_not {y : Arch} {k : Fin 2} (h : ¬ y.Ends k) : y.loopsBack k = false :=
  Bool.eq_false_iff.mpr fun e => h ((y.loopsBack_iff k).mp e).1

theorem Arch.loopsBack_of_le {y : Arch} {k : Fin 2} (h : (y.loopReg k.val).toNat ≤ 1) : y.loopsBack k = false :=
  Bool.eq_false_iff.mpr fun e => Nat.not_lt.mpr h ((y.loopsBack_iff k).mp e).2

theorem Arch.setLoop_loops (y : Arch) {i : Nat} (h : i < 6) (v : Word) (g : Gen) (j : Nat) :
    (y.setLoop i v g).loops.toList.getD j Init.reg =
      if j = i then { data := v, tag := g, scr := false } else y.loops.toList.getD j Init.reg := by
  have inside : i < y.loops.toList.length := by simpa using h
  simp only [Arch.setLoop, Vector.toList_setIfInBounds, List.getD_eq_getElem?_getD, List.getElem?_set, inside, if_true]
  by_cases e : i = j
  · simp [e]
  · simp [e, Ne.symm e]

theorem Arch.setLoop_loopReg (y : Arch) {i : Nat} (h : i < 6) (v : Word) (g : Gen) (j : Nat) :
    (y.setLoop i v g).loopReg j = if j = i then v else y.loopReg j := by
  simp only [Arch.loopReg, y.setLoop_loops h]
  split <;> rfl

/-! ### One back-edge -/

theorem clearBit_getLsbD (x : BitVec 2) (k j : Fin 2) :
    (x &&& ~~~ BitVec.ofNat 2 (2 ^ k.val)).getLsbD j.val = (x.getLsbD j.val && decide (j ≠ k)) := by
  revert x k j
  decide

theorem clearBoth (x : BitVec 2) : x &&& ~~~ BitVec.ofNat 2 (2 ^ 1) &&& ~~~ BitVec.ofNat 2 (2 ^ 0) = 0 := by
  revert x
  decide

/-- A back-edge that branches: the count goes down and the PC returns to the loop's start. -/
theorem Arch.edge_back {y : Arch} {k : Fin 2} (back : y.loopsBack k = true) (g : Gen) :
    y.edge k g = { y.setLoop k.val (y.loopReg k.val - 1) g with pc := y.loopReg (2 + k.val) } := by
  rw [Arch.edge, if_pos back]
  rfl

theorem Arch.edge_back_act {y : Arch} {k : Fin 2} (back : y.loopsBack k = true) (g : Gen) : (y.edge k g).act = y.act := by
  rw [y.edge_back back]
  rfl

theorem Arch.edge_back_pc {y : Arch} {k : Fin 2} (back : y.loopsBack k = true) (g : Gen) :
    (y.edge k g).pc = y.loopReg (2 + k.val) := by
  rw [y.edge_back back]

/-- A back-edge that falls through: the count becomes 0 and the loop ends. -/
theorem Arch.edge_falls {y : Arch} {k : Fin 2} (falls : y.loopsBack k = false) (g : Gen) :
    y.edge k g = { y.setLoop k.val 0 g with act := y.act &&& ~~~ BitVec.ofNat 2 (2 ^ k.val) } := by
  rw [Arch.edge, if_neg (by simp [falls])]

theorem Arch.edge_back_loopReg {y : Arch} {k : Fin 2} (back : y.loopsBack k = true) (g : Gen) (j : Nat) :
    (y.edge k g).loopReg j = if j = k.val then y.loopReg k.val - 1 else y.loopReg j := by
  rw [y.edge_back back]
  exact y.setLoop_loopReg (by omega) ..

theorem Arch.edge_falls_loopReg {y : Arch} {k : Fin 2} (falls : y.loopsBack k = false) (g : Gen) (j : Nat) :
    (y.edge k g).loopReg j = if j = k.val then 0 else y.loopReg j := by
  rw [y.edge_falls falls]
  exact y.setLoop_loopReg (by omega) ..

theorem Arch.edge_falls_act {y : Arch} {k : Fin 2} (falls : y.loopsBack k = false) (g : Gen) (j : Fin 2) :
    (y.edge k g).act.getLsbD j.val = (y.act.getLsbD j.val && decide (j ≠ k)) := by
  rw [y.edge_falls falls]
  exact clearBit_getLsbD ..

theorem Arch.edge_falls_pc {y : Arch} {k : Fin 2} (falls : y.loopsBack k = false) (g : Gen) : (y.edge k g).pc = y.pc := by
  rw [y.edge_falls falls]
  rfl

/-- A loop that falls through leaves the other loop's end where it was. -/
theorem Arch.edge_falls_ends {y : Arch} {k j : Fin 2} (falls : y.loopsBack k = false) (other : j ≠ k) (g : Gen) :
    (y.edge k g).Ends j ↔ y.Ends j := by
  have le : 4 + j.val ≠ k.val := by omega
  simp only [Arch.Ends, y.edge_falls_act falls, y.edge_falls_loopReg falls, y.edge_falls_pc falls, other, le, ne_eq,
    not_false_iff, decide_true, Bool.and_true, if_false]

/-! ### The retire of an instruction that is no taken branch -/

section
variable {y : Arch} (len : Nat) (g : Gen)

/-- Loop 1 goes back, whatever loop 0 does. -/
theorem Arch.advance_back1 (back : y.loopsBack 1 = true) : y.advance len g = y.edge 1 g := by rw [Arch.advance, if_pos back]

/-- The state in which loop 0 is examined: loop 1 has fallen through where it ends here. -/
def Arch.after1 (y : Arch) (g : Gen) : Arch := if y.atEnd 1 then y.edge 1 g else y

/-- Loop 1 does not go back, and loop 0 does. -/
theorem Arch.advance_back0 (falls : y.loopsBack 1 = false) (back : (y.after1 g).loopsBack 0 = true) :
    y.advance len g = (y.after1 g).edge 0 g := by
  unfold Arch.after1 at *
  simp only [Arch.advance, falls, Bool.false_eq_true, if_false, back, if_true]

/-- No loop goes back: the PC moves past the instruction. -/
theorem Arch.advance_past (falls : y.loopsBack 1 = false) (falls0 : (y.after1 g).loopsBack 0 = false) :
    y.advance len g = { (if (y.after1 g).atEnd 0 then (y.after1 g).edge 0 g else y.after1 g) with pc := y.pc + wd len } := by
  unfold Arch.after1 at *
  simp only [Arch.advance, falls, Bool.false_eq_true, if_false, falls0]

theorem Arch.after1_of_not (no : ¬ y.Ends 1) : y.after1 g = y := by rw [Arch.after1, Arch.atEnd_of_not no]; rfl

theorem Arch.after1_of_ends (ends : y.Ends 1) : y.after1 g = y.edge 1 g := by rw [Arch.after1, if_pos ((y.atEnd_iff 1).mpr ends)]

/-- A back-edge is taken exactly where a loop ends. -/
theorem Arch.backEdge_iff (y : Arch) : y.backEdge = true ↔ ∃ k : Fin 2, y.Ends k := by
  rw [Arch.backEdge, Bool.or_eq_true, Arch.atEnd_iff, Arch.atEnd_iff, Fin.exists_fin_two, or_comm]

/-- Where loop `k` alone ends, the retire is its back-edge. -/
theorem Arch.advance_alone_back {k j : Fin 2} (other : j ≠ k) (alone : ¬ y.Ends j) (back : y.loopsBack k = true) :
    y.advance len g = y.edge k g := by
  match k, j with
  | 1, _ => exact Arch.advance_back1 len g back
  | 0, 1 => rw [Arch.advance_back0 len g (Arch.loopsBack_of_not alone) (by rwa [y.after1_of_not g alone]), y.after1_of_not g alone]
  | 0, 0 => exact absurd rfl other

theorem Arch.advance_alone_falls {k j : Fin 2} (other : j ≠ k) (alone : ¬ y.Ends j) (ends : y.Ends k)
    (falls : y.loopsBack k = false) : y.advance len g = { y.edge k g with pc := y.pc + wd len } := by
  match k, j with
  | 1, 0 =>
    have none : ¬ (y.after1 g).Ends 0 := by rwa [y.after1_of_ends g ends, y.edge_falls_ends falls other]
    rw [Arch.advance_past len g falls (Arch.loopsBack_of_not none), Arch.atEnd_of_not none, y.after1_of_ends g ends]
    rfl
  | 0, 1 =>
    have same := y.after1_of_not g alone
    rw [Arch.advance_past len g (Arch.loopsBack_of_not alone) (by rwa [same]), same, (y.atEnd_iff 0).mpr ends]
    rfl
  | 0, 0 => exact absurd rfl other
  | 1, 1 => exact absurd rfl other

/-- Where both loops end and loop 1 falls through, loop 0 is examined with its end and its count as they were. -/
theorem Arch.advance_both (ends0 : y.Ends 0) (ends1 : y.Ends 1) (falls : y.loopsBack 1 = false) :
    y.advance len g = if (y.edge 1 g).loopsBack 0 then (y.edge 1 g).edge 0 g
      else { (y.edge 1 g).edge 0 g with pc := y.pc + wd len } := by
  have after := y.after1_of_ends g ends1
  have here : (y.edge 1 g).atEnd 0 = true := ((y.edge 1 g).atEnd_iff 0).mpr ((y.edge_falls_ends falls (by decide) g).mpr ends0)
  cases back : (y.edge 1 g).loopsBack 0
  · rw [Arch.advance_past len g falls (by rwa [after]), after, here]
    rfl
  · rw [Arch.advance_back0 len g falls (by rwa [after]), after]
    rfl

theorem Arch.advance_none (no0 : ¬ y.Ends 0) (no1 : ¬ y.Ends 1) : y.advance len g = { y with pc := y.pc + wd len } := by
  have same := y.after1_of_not g no1
  rw [Arch.advance_past len g (Arch.loopsBack_of_not no1) (by rw [same]; exact Arch.loopsBack_of_not no0), same,
    Arch.atEnd_of_not no0]
  rfl

end

/-- Every open window closes at a back-edge. -/
theorem advance_wins {i : Instr} {a : Agent} {s : State} (edge : (s.arch a).backEdge = true) :
    ((advance i a s).ctx a).fl.wins = [] := by
  simp only [advance, edge, if_true]
  split <;> simp only [traceIf_ctx, State.ctx_updCtx_same]

/-- Settles O11: the retire examines loop 1, then loop 0, and each back-edge has its own registers to change. -/
theorem loopBackEdge : Obligations.LoopBackEdge := by
  unfold Obligations.LoopBackEdge
  intro y len g reg ends z
  refine ⟨fun k j other here alone => ⟨fun more => ?_, fun last => ?_⟩,
    fun ends0 ends1 => ⟨fun more => ?_, fun last more => ?_, fun last last0 => ?_⟩, fun no0 no1 => y.advance_none len g no0 no1,
    y.backEdge_iff, fun i a s edge => advance_wins edge, fun t => ⟨rfl, rfl⟩⟩
  · have back : y.loopsBack k = true := (y.loopsBack_iff k).mpr ⟨here, more⟩
    have z_eq : z = y.edge k g := y.advance_alone_back len g other alone back
    have count (i : Nat) : reg z i = if i = k.val then reg y k.val - 1 else reg y i := z_eq ▸ y.edge_back_loopReg back g i
    exact ⟨z_eq ▸ y.edge_back_pc back g, (count _).trans (if_pos rfl), z_eq ▸ y.edge_back_act back g,
      (count _).trans (if_neg (Fin.val_ne_of_ne other))⟩
  · have falls : y.loopsBack k = false := Arch.loopsBack_of_le last
    have z_eq : z = { y.edge k g with pc := y.pc + wd len } := y.advance_alone_falls len g other alone here falls
    have count (i : Nat) : reg z i = if i = k.val then 0 else reg y i := z_eq ▸ y.edge_falls_loopReg falls g i
    have active (i : Fin 2) : z.act.getLsbD i.val = (y.act.getLsbD i.val && decide (i ≠ k)) := z_eq ▸ y.edge_falls_act falls g i
    exact ⟨z_eq ▸ rfl, (count _).trans (if_pos rfl), by simp [active], by simp [active, other],
      (count _).trans (if_neg (Fin.val_ne_of_ne other))⟩
  · have back : y.loopsBack 1 = true := (y.loopsBack_iff 1).mpr ⟨ends1, more⟩
    have z_eq : z = y.edge 1 g := y.advance_back1 len g back
    have count (i : Nat) : reg z i = if i = 1 then reg y 1 - 1 else reg y i := z_eq ▸ y.edge_back_loopReg back g i
    exact ⟨z_eq ▸ y.edge_back_pc back g, count 1, count 0, z_eq ▸ y.edge_back_act back g⟩
  all_goals
    have falls : y.loopsBack 1 = false := Arch.loopsBack_of_le last
    have count1 (i : Nat) : reg (y.edge 1 g) i = if i = 1 then 0 else reg y i := y.edge_falls_loopReg falls g i
    have kept0 : (y.edge 1 g).loopReg (0 : Fin 2).val = reg y 0 := count1 0
  · have back : (y.edge 1 g).loopsBack 0 = true :=
      ((y.edge 1 g).loopsBack_iff 0).mpr ⟨(y.edge_falls_ends falls (by decide) g).mpr ends0, by rwa [kept0]⟩
    have z_eq : z = (y.edge 1 g).edge 0 g := (y.advance_both len g ends0 ends1 falls).trans (if_pos back)
    have count (i : Nat) : reg z i = if i = 0 then reg (y.edge 1 g) 0 - 1 else reg (y.edge 1 g) i :=
      z_eq ▸ (y.edge 1 g).edge_back_loopReg back g i
    have active (i : Fin 2) : z.act.getLsbD i.val = (y.act.getLsbD i.val && decide (i ≠ 1)) := by
      rw [z_eq, (y.edge 1 g).edge_back_act back, y.edge_falls_act falls]
    have active0 : y.act.getLsbD 0 = true := ends0.1
    refine ⟨?_, (count 1).trans (count1 1), (count 0).trans (congrArg (· - 1) (count1 0)), by simpa using active 1,
      (active 0).trans (by simp [active0])⟩
    rw [z_eq, (y.edge 1 g).edge_back_pc back]
    exact count1 2
  · have falls0 : (y.edge 1 g).loopsBack 0 = false := Arch.loopsBack_of_le (by rwa [kept0])
    have z_eq : z = { (y.edge 1 g).edge 0 g with pc := y.pc + wd len } :=
      (y.advance_both len g ends0 ends1 falls).trans (if_neg (by simp [falls0]))
    have count (i : Nat) : reg z i = if i = 0 then 0 else reg (y.edge 1 g) i :=
      z_eq ▸ (y.edge 1 g).edge_falls_loopReg falls0 g i
    refine ⟨z_eq ▸ rfl, (count 1).trans (count1 1), count 0, ?_⟩
    rw [z_eq, (y.edge 1 g).edge_falls falls0, y.edge_falls falls]
    exact clearBoth y.act

end Sys2Proof.Machine
end

section
namespace Sys2Proof.Machine
open Sys2Proof.Safety

/-! ### loop (R198) -/

/-- The registers of loop `k` as a loop form sets them, its body from `ls` to `le` (R198). -/
def Arch.setUp (y : Arch) (k : Fin 2) (ls le c : Word) (g : Gen) : Arch :=
  ((y.setLoop (2 + k.val) ls g).setLoop (4 + k.val) le g).setLoop k.val c g

theorem loopBit (k : Fin 2) : BitVec.ofNat 2 (2 ^ k.val) = 1 <<< k.val := by
  revert k
  decide

/-- What a loop form with a count of 0 leaves of its agent's context (R198, R199). -/
theorem skipLoop_ctx (a : Agent) (k : Fin 2) (f : Ctx → Arch) (past : Word) (s : State) :
    (skipLoop a k f past s).ctx a =
      let y := s.ctx a
      let z : Arch := { f y with act := y.arch.act &&& ~~~ BitVec.ofNat 2 (2 ^ k.val) }
      { y with arch := if z.loopsBack 1 || z.loopsBack 0 then z.advance 4 y.gen else { z.advance 4 y.gen with pc := past } } :=
  State.ctx_updCtx_same ..

section
variable {me : Agent} {s t : State} {k : Fin 2} {r : Fin 16} {stop : BitVec 15} {c : Word} (who : s.md.who = me)
  (issues : Issues (.loopSet k r stop) s t)
include who issues

/-- With a count the loop becomes active, and the loop form moves on. -/
theorem exec_loopSet_counts (hc : Reads t me (.n r) c) (some : c ≠ 0) :
    ∃ u, exec (.loopSet k r stop) s = .next u ∧ u.arch me =
      ({ (t.arch me).setUp k ((t.arch me).pc + 4) ((t.arch me).pc + 2 * stop.zeroExtend 64) c (t.ctx me).gen with
          act := (t.arch me).act ||| 1 <<< k.val } : Arch).advance 4 (t.ctx me).gen := by
  unfold Reads at hc
  refine goes_of_advance who (by rw [exec_loopSet, execLoopSet]) rfl (v := t.updCtx me fun y =>
    { y with arch := { y.arch.setUp k ((t.arch me).pc + 4) ((t.arch me).pc + 2 * wd stop.toNat) c y.gen with
                        act := y.arch.act ||| BitVec.ofNat 2 (2 ^ k.val) } }) ?_ ?_ issues
  · simp only [hc, ok_bind, beq_iff_eq, some, if_false]
    rfl
  · rw [State.ctx_updCtx_same, loopBit, zeroExtend_eq_wd]
    rfl

/-- With a count of 0 the loop ends, and the loop form goes past the word at its end, unless another loop goes back. -/
theorem exec_loopSet_skips {h : Nat} {t' : State} (hc : Reads t me (.n r) 0)
    (fetched : codeHalf me ((t.arch me).pc + 2 * stop.zeroExtend 64) t = .ok (h, t')) (kept : t'.ctx me = t.ctx me) :
    let le := (t.arch me).pc + 2 * stop.zeroExtend 64
    let z : Arch := { (t.arch me).setUp k ((t.arch me).pc + 4) le 0 (t.ctx me).gen with act := (t.arch me).act &&& ~~~ (1 <<< k.val : BitVec 2) }
    ∃ u, exec (.loopSet k r stop) s = .next u ∧ u.arch me =
      if z.loopsBack 1 || z.loopsBack 0 then z.advance 4 (t.ctx me).gen
      else { z.advance 4 (t.ctx me).gen with pc := le + if h % 2 = 0 then 2 else 4 } := by
  unfold Reads at hc
  rw [zeroExtend_eq_wd] at fetched
  obtain ⟨u, next, regs⟩ := goes_of_body who (by rw [exec_loopSet, execLoopSet]) rfl (u := skipLoop me k
    (fun y => y.arch.setUp k ((t.arch me).pc + 4) ((t.arch me).pc + 2 * wd stop.toNat) 0 y.gen) ((t.arch me).pc + 2 * wd stop.toNat + if h % 2 = 0 then 2 else 4) t') (by
      simp only [hc, fetched, ok_bind, beq_self_eq_true, if_true]
      rfl) (by rw [skipLoop_ctx, kept]) issues
  refine ⟨u, next, ?_⟩
  rw [regs, State.arch, skipLoop_ctx, kept, loopBit, zeroExtend_eq_wd]
  rfl

end

/-- Settles O12: the loop form writes its loop's registers, and a count of 0 clears the active bit before the back-edge is examined. -/
theorem loopSetup : Obligations.LoopSetup := by
  unfold Obligations.LoopSetup
  intro k r stop s t c me i y g le set bit issues hc
  refine ⟨exec_loopSet_counts rfl issues hc, fun h t' zero fetched kept => ?_⟩
  subst zero
  exact exec_loopSet_skips rfl issues hc fetched kept

end Sys2Proof.Machine
end

section
namespace Sys2Proof.Machine
open Sys2Proof.Safety

/-! ## Special registers (R53 to R59, R200 to R202) -/

/-! ### A register below 0x100 after a write -/

/-- The low bits of a word, as a field of `n` bits reads (R4). -/
theorem wd_ofNat_low {n : Nat} (v : Word) (short : n ≤ 64) : wd (BitVec.ofNat n v.toNat).toNat = v &&& wd (2 ^ n - 1) := by
  have bound : 2 ^ n ≤ 2 ^ 64 := Nat.pow_le_pow_right Nat.two_pos short
  have pos : 0 < 2 ^ n := Nat.two_pow_pos n
  apply BitVec.eq_of_toNat_eq
  rw [BitVec.toNat_and, BitVec.toNat_ofNat, BitVec.toNat_ofNat, BitVec.toNat_ofNat, Nat.mod_eq_of_lt (by omega : 2 ^ n - 1 < 2 ^ 64),
    Nat.and_two_pow_sub_one_eq_mod, Nat.mod_eq_of_lt (Nat.lt_of_lt_of_le (Nat.mod_lt _ pos) bound)]

/-- A loop register that a write has given a value reads that value: it carries the context's generation. -/
theorem lowReg_setLoop {a : Agent} {num i : Nat} {s : State} (x : Word) (inside : i < 6)
    (reads : ∀ s : State, lowReg s a num = some (genCheck (s.strict a) (s.ctx a).gen
      ((s.ctx a).arch.loops.toList.getD i Init.reg).data ((s.ctx a).arch.loops.toList.getD i Init.reg).tag)) :
    lowReg (s.updCtx a fun y => { y with arch := y.arch.setLoop i x y.gen }) a num = some (.ok x) := by
  rw [reads, State.ctx_updCtx_same, Arch.setLoop_loops _ inside, if_pos rfl, genCheck_current]

/-- A register that reads a field of its agent's context reads that of the context which a write has left. -/
theorem lowReg_written {a : Agent} {num : Nat} {v w : Word} {s : State} {f : Ctx → Ctx} (field : Ctx → Word)
    (reads : ∀ s : State, lowReg s a num = some (.ok (field (s.ctx a)))) (write : writeLow a num v s = s.updCtx a f)
    (value : field (f (s.ctx a)) = w) : lowReg (writeLow a num v s) a num = some (.ok w) := by
  rw [reads, write, State.ctx_updCtx_same, value]

/-- A write of a register below 0x100 changes its agent's context alone, and neither its named registers nor its queue. -/
theorem writeLow_context (a : Agent) (num : Nat) (v : Word) (s : State) :
    ∃ f : Ctx → Ctx, writeLow a num v s = s.updCtx a f ∧
      ∀ y, (f y).arch.n = y.arch.n ∧ (f y).arch.q = y.arch.q := by
  unfold writeLow
  split
  case h_14 => exact ⟨id, (State.updCtx_self rfl).symm, fun _ => ⟨rfl, rfl⟩⟩
  all_goals exact ⟨_, rfl, fun _ => ⟨rfl, rfl⟩⟩

theorem writeLow_frame (a : Agent) (num : Nat) (v : Word) (s : State) :
    (writeLow a num v s).mm = s.mm ∧ ((writeLow a num v s).arch a).n = (s.arch a).n ∧
      ((writeLow a num v s).arch a).q = (s.arch a).q ∧ (writeLow a num v s).parts = s.parts := by
  obtain ⟨f, write, keeps⟩ := writeLow_context a num v s
  obtain ⟨named, queue⟩ := keeps (s.ctx a)
  rw [write, State.arch, State.ctx_updCtx_same]
  exact ⟨State.updCtx_mm .., named, queue, State.updCtx_parts ..⟩

/-! ### LCS (R200) -/

theorem bitAt_eq (v : Word) (k : Nat) : bitAt v k = v.getLsbD k := by
  rw [Bool.eq_iff_iff, bitAt, beq_iff_eq, getLsbD_iff_div]

/-- The three registers of loop `k` carry the generation `g`. -/
def Arch.loopCurrent (y : Arch) (g : Gen) (k : Nat) : Bool := [k, 2 + k, 4 + k].all fun i => (y.loops.toList.getD i Init.reg).tag == g

theorem writeLcs_act (g : Gen) (v : Word) (y : Arch) (k : Fin 2) :
    (writeLcs g v y).act.getLsbD k.val = (v.getLsbD k.val && y.loopCurrent g k.val) := by
  have bits : (writeLcs g v y).act = BitVec.ofNat 2 ((if (bitAt v 0 && y.loopCurrent g 0) = true then 1 else 0) +
      (if (bitAt v 1 && y.loopCurrent g 1) = true then 2 else 0)) := rfl
  rw [bits, twoBits_getLsbD, bitAt_eq, bitAt_eq]
  match k with
  | 0 => rfl
  | 1 => rfl

theorem writeLcs_sact (g : Gen) (v : Word) (y : Arch) : (writeLcs g v y).sact = v.extractLsb' 2 2 := by
  apply BitVec.eq_of_toNat_eq
  rw [BitVec.extractLsb'_toNat, Nat.shiftRight_eq_div_pow, writeLcs, BitVec.toNat_ofNat, bits, Nat.mod_mod]

/-- LCS reads ACT in its low bits and SACT in the next (R54). -/
theorem lcs_word (act sact : BitVec 2) : wd (act.toNat + 4 * sact.toNat) = act.setWidth 64 + 4 * sact.setWidth 64 := by
  revert act sact
  decide

/-! ### gets and sets -/

section
variable {s t : State} {me : Agent} {num : Nat}

/-- A number from 0x100 is no register of a strand or an engine hart (R54, R55). -/
theorem readReg_high (noCore : cselOf t me = none) (high : 0x100 ≤ num) : readReg t me num = .error (.fault 7 3 0) := by
  rw [readReg, if_neg (Nat.not_lt.mpr high), noCore]
  rfl

theorem writeReg_high (v : Word) (noCore : cselOf t me = none) (high : 0x100 ≤ num) :
    writeReg me num v t = .error (.fault 7 3 0) := by
  rw [writeReg, if_neg (Nat.not_lt.mpr high), noCore]
  rfl

theorem readReg_unassigned (low : num < 0x100) (none : lowReg t me num = none) : readReg t me num = .error (.fault 1 0 0) := by
  rw [readReg, if_pos low, none]
  rfl

theorem writeReg_unassigned (v : Word) (low : num < 0x100) (none : lowReg t me num = none) :
    writeReg me num v t = .error (.fault 1 0 0) := by
  rw [writeReg, if_pos low, none]
  rfl

end

section
variable {s t : State} {me : Agent} {d : Dst} {a : Src} {num : BitVec 12} {x : Word} (who : s.md.who = me)
include who

theorem gets_yields {v : Word} (value : readReg t me num.toNat = .ok v) : Yields (.gets d num) s t (writeDst t me d v) :=
  yields_of_body who (by rw [exec_gets, execGets]) (by simp only [value, ok_bind])

theorem gets_raises {kind cause : Nat} {value : Word} (refused : readReg t me num.toNat = .error (.fault kind cause value)) :
    Raises (.gets d num) s t kind cause value :=
  raises_of_body who (by rw [exec_gets, execGets]) (by simp only [refused, error_bind])

section
variable (hx : Reads t me a x)
include hx

theorem sets_raises {kind cause : Nat} {value : Word} (refused : writeReg me num.toNat x t = .error (.fault kind cause value)) :
    Raises (.sets a num) s t kind cause value := by
  unfold Reads at hx
  exact raises_of_jumpBody who (by rw [exec_sets, execSets]) (by simp only [hx, refused, ok_bind, error_bind])

/-- A sets at no loop's end writes its register and moves on. -/
theorem sets_jumps {u : State} (noEdge : ((t.arch me).backEdge || (t.arch me).atEnd 0 || (t.arch me).atEnd 1) = false)
    (written : writeReg me num.toNat x t = .ok u) : Jumps (.sets a num) s t (setPc u me ((t.arch me).pc + 4)) := by
  unfold Reads at hx
  have ends (k : Fin 2) (h : (t.arch me).atEnd k = false) : ¬ (t.arch me).Ends k := fun e => by
    simp [((t.arch me).atEnd_iff k).mpr e] at h
  have next : ((advance (.sets a num) me t).arch me).pc = (t.arch me).pc + 4 := by
    simp only [Bool.or_eq_false_iff] at noEdge
    obtain ⟨⟨-, end0⟩, end1⟩ := noEdge
    rw [advance_arch, (t.arch me).advance_none _ _ (ends 0 end0) (ends 1 end1)]
    rfl
  exact jumps_of_body who (by rw [exec_sets, execSets])
    (by simp only [hx, written, ok_bind, noEdge, Bool.false_eq_true, if_false, next])

/-- At a loop's end the back-edge goes by the registers before the write (R202). -/
theorem sets_atLoopEnd {w u : State} (edge : ((t.arch me).backEdge || (t.arch me).atEnd 0 || (t.arch me).atEnd 1) = true)
    (allowed : writeReg me num.toNat x t = .ok w) (written : writeReg me num.toNat x (advance (.sets a num) me t) = .ok u) :
    Jumps (.sets a num) s t u := by
  unfold Reads at hx
  exact jumps_of_body who (by rw [exec_sets, execSets]) (by simp only [hx, allowed, ok_bind, edge, if_true, written])

end
end

/-- Settles O13: gets and sets go by readReg and writeReg, and each register below 0x100 is a field of its agent's context. -/
theorem specialRegisters : Obligations.SpecialRegisters := by
  unfold Obligations.SpecialRegisters
  constructor
  · intro d a num s t x me loopEnds
    exact ⟨fun v => gets_yields rfl, fun hx noEdge u => sets_jumps rfl hx noEdge, fun hx edge w u => sets_atLoopEnd rfl hx edge,
      fun noCore high => ⟨gets_raises rfl (readReg_high noCore high), fun hx => sets_raises rfl hx (writeReg_high x noCore high)⟩,
      fun low none => ⟨gets_raises rfl (readReg_unassigned low none), fun hx => sets_raises rfl hx (writeReg_unassigned x low none)⟩⟩
  · intro s a v after
    refine ⟨lowReg_written (fun y => wd y.arch.cmask.toNat) (fun _ => rfl) rfl (wd_ofNat_low v (by decide)),
      lowReg_written (fun y => wd y.sp.trapc.toNat) (fun _ => rfl) rfl (wd_ofNat_low v (by decide)),
      lowReg_written (fun y => y.sp.trappc) (fun _ => rfl) rfl rfl, lowReg_written (fun y => y.sp.trapv) (fun _ => rfl) rfl rfl,
      lowReg_written (fun y => wd y.arch.frm.toNat) (fun _ => rfl) rfl (wd_ofNat_low v (by decide)),
      lowReg_written (fun y => wd y.arch.fflg.toNat) (fun _ => rfl) rfl (wd_ofNat_low v (by decide)),
      lowReg_setLoop v (by decide) fun _ => rfl, lowReg_setLoop v (by decide) fun _ => rfl, ?_, ?_, ?_,
      fun n => writeLow_frame a n v s⟩
    · simp only [List.forall_mem_cons, List.not_mem_nil, false_implies, implies_true, and_true]
      exact ⟨lowReg_setLoop _ (by decide) fun _ => rfl, lowReg_setLoop _ (by decide) fun _ => rfl,
        lowReg_setLoop _ (by decide) fun _ => rfl, lowReg_setLoop _ (by decide) fun _ => rfl⟩
    · have own : (writeLow a 0x021 v s).arch a = writeLcs (s.ctx a).gen v (s.arch a) :=
        congrArg Ctx.arch (State.ctx_updCtx_same ..)
      rw [own]
      refine ⟨writeLcs_sact .., rfl, fun k => ?_,
        lowReg_written (fun y => wd (y.arch.act.toNat + 4 * y.arch.sact.toNat)) (fun _ => rfl) rfl (lcs_word ..)⟩
      rw [writeLcs_act, Bool.and_eq_true, Arch.loopCurrent]
      simp only [List.all_eq_true, beq_iff_eq]
    · simp only [List.forall_mem_cons, List.not_mem_nil, false_implies, implies_true, and_true]
      exact ⟨rfl, rfl, rfl, rfl, rfl, rfl, rfl, rfl, rfl, rfl, rfl, rfl⟩

end Sys2Proof.Machine
end

section
namespace Sys2Proof.Machine
open Sys2Proof.Safety

/-! ## Recoverable traps and yield points (R120, R203 to R207, R225, R381) -/

/-! ### Taking a trap -/

/-- The trap frame of R203 in `u`: its cause, value and return PC, and the registers of the state `old` in which the instruction
stopped with the PC at the handler. -/
def TrapTaken (me : Agent) (old u : State) (cause : BitVec 8) (v ret : Word) : Prop :=
  (u.ctx me).sp.trapc = cause ∧ (u.ctx me).sp.trapv = v ∧ (u.ctx me).sp.trappc = ret ∧ (u.ctx me).sp.intrap = true ∧
    u.arch me = { old.arch me with sact := (old.arch me).act, act := 0, pc := old.traph me }

section
variable {i : Instr} {body : Agent → Act} {me : Agent} {s t : State} (who : s.md.who = me) (runs : exec i s = perform i body s)
  (stops : Stops i s t)
include who runs stops

/-- An instruction whose body answers a trap takes it. -/
theorem exec_takesTrap {cause : Nat} {v ret : Word} (effect : body me t = .error (.trap cause v ret)) :
    ∃ u, exec i s = .next u ∧ TrapTaken me (atStop s) u (BitVec.ofNat 8 cause) v ret := by
  subst who
  obtain ⟨issues, alone⟩ := stops
  obtain ⟨u, next, regs, hcause, hv, hret, hin, -⟩ := stopped_trap s.md.who cause v ret (pcTrigger s s.md.who).1
  refine ⟨u, ?_, hcause, hv, hret, hin, regs⟩
  rw [runs, perform_error (gate_go_of_issues issues) effect, stopBehind_alone alone, next]

/-- An instruction whose body holds its agent for the debugger stops it with the registers that it leaves. -/
theorem exec_holdsForDebug {w : State} (effect : body me t = .error (.hold .debug w)) :
    ∃ u, exec i s = .next u ∧ (u.ctx me).st = .parked ∧ (u.ctx me).why = some .debug ∧ u.arch me = w.arch me := by
  subst who
  obtain ⟨issues, alone⟩ := stops
  obtain ⟨u, next, parked, why, regs, -⟩ := stopped_hold s.md.who .debug (pcTrigger s s.md.who).1 w
  refine ⟨u, ?_, parked, why, regs⟩
  rw [runs, perform_error (gate_go_of_issues issues) effect, stopBehind_alone alone, next]

end

/-- At an armed breakpoint the strand holds at the instruction. -/
theorem breakpointStop_holds {a : Agent} {t : State} (here : atBreakpoint t a = true) :
    ∃ w, breakpointStop a t = .hold .debug w ∧ (w.arch a).pc = (t.arch a).pc := by
  cases a with
  | strand q c k =>
    refine ⟨_, rfl, ?_⟩
    simp only [State.arch, State.ctx_updCtx_same, (commitAll_committed (.strand q c k) t).own.pc]
  | hart | weir | cmd | sec => exact absurd here Bool.false_ne_true

/-- In a quiet state a form that is no easel form has no form of its strand's before it. -/
theorem ownForms_of_quiet {i : Instr} {a : Agent} {s : State} (quiet : Quiet i a s) (plain : isEasel (shapeOf i).major = false) :
    ownForms s a = false := by
  cases a with
  | strand q c k =>
    have free := quiet.free
    have outside : inWindow (s.ctx (.strand q c k)) (shapeOf i) = false := by simp only [inWindow, quiet.pend]
    simp only [dispatchHolds, plain, outside, Bool.not_false, Bool.or_true, Bool.false_eq_true, if_false, Bool.and_true,
      Bool.not_eq_false'] at free
    simp only [ownForms, List.any_eq_false]
    intro e listed mine
    exact List.not_mem_nil (List.isEmpty_iff.mp free ▸ List.mem_filter.mpr ⟨listed, mine⟩)
  | hart | weir | cmd | sec => rfl

/-! ### sysc, brk and trap -/

/-- An armed breakpoint stands at the agent's PC (R381). -/
def Armed (t : State) (me : Agent) : Prop := atBreakpoint t me = true ∧ (t.ctx me).displaced = none

theorem armed_iff (t : State) (me : Agent) : (atBreakpoint t me && (t.ctx me).displaced.isNone) = true ↔ Armed t me := by
  rw [Bool.and_eq_true, Option.isNone_iff_eq_none, Armed]

section
variable {a : Src} {code : BitVec 12} {me : Agent} {s t : State} {x : Word} (who : s.md.who = me) (hx : Reads t me a x)
include who hx

/-- A trap whose operand is 0 retires with no effect (log 44). -/
theorem trap_zero (zero : x = 0) : Yields (.trap a code) s t t := by
  unfold Reads at hx
  exact yields_of_body who (by rw [exec_trap, execTrap]) (by simp only [hx, ok_bind, zero, beq_self_eq_true, if_true])

section
variable (none : noTrap t me = true)
include none

theorem sysc_refused : Raises (.sysc a code) s t 1 0 0 := by
  unfold Reads at hx
  exact raises_of_body who (by rw [exec_sysc, execSysc]) (by simp only [hx, ok_bind, none, if_true, illegal])

theorem trap_refused (nonzero : x ≠ 0) : Raises (.trap a code) s t 1 0 0 := by
  unfold Reads at hx
  exact raises_of_body who (by rw [exec_trap, execTrap]) (by simp only [hx, ok_bind, beq_iff_eq, nonzero, none, if_true, if_false, illegal])

theorem brk_refused (unarmed : ¬ Armed t me) : Raises (.brk a code) s t 1 0 0 := by
  unfold Reads at hx
  exact raises_of_body who (by rw [exec_brk, execBrk])
    (by simp only [hx, ok_bind, armed_iff, unarmed, none, if_true, if_false, illegal])

end

section
variable (armed : Armed t me)
include armed

theorem brk_stops (stops : Stops (.brk a code) s t) :
    ∃ u, exec (.brk a code) s = .next u ∧ (u.ctx me).st = .parked ∧ (u.ctx me).why = some .debug ∧ (u.arch me).pc = (t.arch me).pc := by
  unfold Reads at hx
  obtain ⟨w, hold, pc⟩ := breakpointStop_holds armed.1
  obtain ⟨u, next, parked, why, regs⟩ := exec_holdsForDebug (w := w) who (by rw [exec_brk, execBrk]) stops
    (by simp only [hx, ok_bind, armed_iff, armed, if_true, hold])
  exact ⟨u, next, parked, why, (congrArg Arch.pc regs).trans pc⟩

theorem trap_stops (can : noTrap t me = false) (nonzero : x ≠ 0) (stops : Stops (.trap a code) s t) :
    ∃ u, exec (.trap a code) s = .next u ∧ (u.ctx me).st = .parked ∧ (u.ctx me).why = some .debug ∧ (u.arch me).pc = (t.arch me).pc := by
  unfold Reads at hx
  obtain ⟨w, hold, pc⟩ := breakpointStop_holds armed.1
  obtain ⟨u, next, parked, why, regs⟩ := exec_holdsForDebug (w := w) who (by rw [exec_trap, execTrap]) stops
    (by simp only [hx, ok_bind, beq_iff_eq, nonzero, can, armed_iff, armed, if_true, if_false, hold, Bool.false_eq_true])
  exact ⟨u, next, parked, why, (congrArg Arch.pc regs).trans pc⟩

end

section
variable (can : noTrap t me = false)
include can

theorem sysc_taken (stops : Stops (.sysc a code) s t) :
    ∃ u, exec (.sysc a code) s = .next u ∧ TrapTaken me (atStop s) u 3 x ((t.arch me).pc + 4) := by
  unfold Reads at hx
  exact exec_takesTrap who (by rw [exec_sysc, execSysc]) stops (by simp only [hx, ok_bind, can, Bool.false_eq_true, if_false])

section
variable (unarmed : ¬ Armed t me)
include unarmed

theorem brk_taken (stops : Stops (.brk a code) s t) :
    ∃ u, exec (.brk a code) s = .next u ∧ TrapTaken me (atStop s) u 2 x (t.arch me).pc := by
  unfold Reads at hx
  exact exec_takesTrap who (by rw [exec_brk, execBrk]) stops
    (by simp only [hx, ok_bind, armed_iff, unarmed, can, Bool.false_eq_true, if_false])

theorem trap_taken (nonzero : x ≠ 0) (stops : Stops (.trap a code) s t) :
    ∃ u, exec (.trap a code) s = .next u ∧ TrapTaken me (atStop s) u 2 x (t.arch me).pc := by
  unfold Reads at hx
  exact exec_takesTrap who (by rw [exec_trap, execTrap]) stops
    (by simp only [hx, ok_bind, beq_iff_eq, nonzero, armed_iff, unarmed, can, Bool.false_eq_true, if_false])

end
end
end

/-! ### LATE (R120) -/

/-- The fields of a promise word (R118). -/
theorem promise_fields (eng : BitVec 5) (seq : BitVec 11) (due : BitVec 48) :
    bits (eng ++ seq ++ due) 63 59 = eng.toNat ∧ bits (eng ++ seq ++ due) 58 48 = seq.toNat ∧
      bits (eng ++ seq ++ due) 47 0 = due.toNat := by
  have word : (eng ++ seq ++ due).toNat = (eng.toNat * 2 ^ 11 + seq.toNat) * 2 ^ 48 + due.toNat := by
    rw [BitVec.toNat_append, ← Nat.shiftLeft_add_eq_or_of_lt due.isLt, BitVec.toNat_append,
      ← Nat.shiftLeft_add_eq_or_of_lt seq.isLt, Nat.shiftLeft_eq, Nat.shiftLeft_eq]
  have heng := eng.isLt
  have hseq := seq.isLt
  have hdue := due.isLt
  simp only [bits, word]
  omega

/-- A wait.p on a running request whose DUE has passed takes LATE. -/
theorem waitp_late {d : Dst} {a : Src} {me : Agent} {s t : State} {eng : BitVec 5} {seq : BitVec 11} {due : BitVec 48} {r : OutReq}
    (who : s.md.who = me) (hx : Reads t me a (eng ++ seq ++ due)) (can : noTrap t me = false)
    (engine : eng = 0 ∨ eng = 1 ∨ 16 ≤ eng.toNat) (fresh : (t.ctx me).latch = none)
    (listed : (t.ctx me).outst.find? (fun r => r.eng == eng && r.seq == seq) = some r) (runs : r.st = .running)
    (late : duePassed t due.toNat = true) (stops : Stops (.waitp d a) s t) :
    ∃ u, exec (.waitp d a) s = .next u ∧ TrapTaken me (atStop s) u 1 (lateWord t (ownId t me) eng seq) (t.arch me).pc := by
  obtain ⟨feng, fseq, fdue⟩ := promise_fields eng seq due
  have read : operands me [a] t = .ok [eng ++ seq ++ due] := operands_given (ops := [(a, eng ++ seq ++ due)]) (.inl ⟨fresh, by simpa using hx⟩)
  have engOk : promiseEngOk (eng ++ seq ++ due) = true := by
    simp only [promiseEngOk, feng, Bool.or_eq_true, decide_eq_true_iff, or_assoc]
    exact engine.imp (congrArg BitVec.toNat) (Or.imp_left (congrArg BitVec.toNat))
  have allowed : lateAllowed t me = true := by
    simp only [noTrap, Bool.or_eq_false_iff] at can
    obtain ⟨⟨outside, handler⟩, -⟩ := can
    simp only [lateAllowed, outside, bne, handler, Bool.not_false, Bool.and_self]
  exact exec_takesTrap who (by rw [exec_waitp, execWaitp]) stops (by
    simp only [read, ok_bind, List.getD_cons_zero, engOk, check_true, feng, fseq, fdue, BitVec.ofNat_toNat, BitVec.setWidth_eq, listed, runs, late,
      allowed, Bool.and_self, if_true])

/-- Settles O14: a body answers a trap or a stop for the debugger, and a state that is quiet has nothing for either to wait for. -/
theorem trapEntry : Obligations.TrapEntry := by
  unfold Obligations.TrapEntry
  intro a code s t x me old pc armed taken enters stops hx
  refine ⟨fun can => ⟨sysc_taken rfl hx can, fun unarmed => ⟨brk_taken rfl hx can unarmed, fun nonzero => trap_taken rfl hx can unarmed nonzero⟩,
      fun armed nonzero => trap_stops rfl hx armed can nonzero, ?_⟩,
    trap_zero rfl hx, fun armed => brk_stops rfl hx armed, ?_⟩
  · rintro d eng seq due r rfl engOk fresh listed runs late
    exact waitp_late rfl hx can engOk fresh listed runs late
  · rintro rfl can unarmed
    exact ⟨fun quiet => sysc_taken rfl hx can ⟨.inl ⟨quiet, rfl⟩, ownForms_of_quiet quiet rfl⟩,
      fun quiet => brk_taken rfl hx can unarmed ⟨.inl ⟨quiet, rfl⟩, ownForms_of_quiet quiet rfl⟩,
      fun quiet nonzero => trap_taken rfl hx can unarmed nonzero ⟨.inl ⟨quiet, rfl⟩, ownForms_of_quiet quiet rfl⟩⟩

/-- Settles O15: each form asks whether a trap can be taken before it takes one. -/
theorem trapRefused : Obligations.TrapRefused := by
  unfold Obligations.TrapRefused
  intro a code s t x me hx barred
  have none : noTrap t me = true := by simpa [noTrap, or_assoc] using barred
  exact ⟨sysc_refused rfl hx none, trap_refused rfl hx none, brk_refused rfl hx none⟩

/-! ### rte (R206) -/

/-- A retire keeps its agent's generation. -/
theorem finish_gen (a : Agent) (s : State) : ((finish a s).ctx a).gen = (s.ctx a).gen := by
  have kept := (used_ctx a a s).2.2.2.1
  cases a with
  | strand q c k =>
    simp only [finish, endStep]
    split
    · rw [parkAgent_ctx, if_pos rfl, State.updSpec, State.ctx_updCtx_same, ← kept,
        ← (commitAll_committed (.strand q c k) (used (.strand q c k) s)).own.gen]
    · exact kept
  | hart | weir | cmd | sec => exact kept

/-- A retire leaves INTRAP as it is. -/
theorem finish_intrap (a : Agent) (s : State) : ((finish a s).ctx a).sp.intrap = (s.ctx a).sp.intrap := by
  rcases finish_sp a a s with kept | stepped
  · rw [kept]
  · rw [stepped]

/-- The context behind a return from a trap (R206). -/
def Ctx.trapReturned (y : Ctx) : Ctx :=
  { y with sp := { y.sp with intrap := false }, arch := { y.arch with act := y.arch.sact, sact := 0, pc := y.sp.trappc } }

theorem returnFromTrap_ok {a : Agent} {t : State} (inside : (t.ctx a).sp.intrap = true) (even : (t.ctx a).sp.trappc.toNat % 2 = 0) :
    returnFromTrap a t = .ok (t.updCtx a Ctx.trapReturned) := by
  simp only [returnFromTrap, inside, even, Bool.not_true, Bool.false_eq_true, if_false, Nat.zero_ne_one]
  rfl

/-- Settles O16: the return asks for a handler and an even address, and closes the windows before it. -/
theorem trapReturn : Obligations.TrapReturn := by
  unfold Obligations.TrapReturn
  intro s t me y
  refine ⟨fun outside => ?_, fun inside odd => ?_, fun inside even issues => ?_⟩
  · exact raises_of_jumpBody rfl (by rw [exec_rte, execRte]) (by simp only [returnFromTrap, y, me, outside, Bool.not_false, if_true, illegal])
  · exact raises_of_jumpBody rfl (by rw [exec_rte, execRte])
      (by simp only [returnFromTrap, y, me, inside, odd, Bool.not_true, Bool.false_eq_true, if_true, if_false, alignF])
  · have effect := returnFromTrap_ok inside even
    have runs : exec .rte s = performJump .rte returnFromTrap s := by rw [exec_rte, execRte]
    have settled : ((t.updCtx me Ctx.trapReturned).ctx me).Settled :=
      (settled_of_issues (i := .rte) rfl issues).congr (by rw [State.ctx_updCtx_same]; rfl)
    refine ⟨_, jumps_of_body rfl runs effect issues, ?_, ?_, ?_⟩
    · rw [finish_intrap, State.ctx_updCtx_same]
      rfl
    · rw [finish_gen, State.ctx_updCtx_same]
      rfl
    · rw [finish_arch_settled _ settled, State.arch, State.ctx_updCtx_same]
      rfl

/-! ### yield (R22, R207) -/

/-- The record that a yield names keeps no vector register (R207, R306). -/
def recordDead (t : State) (l : Launch) (index : BitVec 12) : Bool :=
  match liveRecord t l index with
  | some r => r.wlive == 0
  | none => false

theorem recordDead_iff (t : State) (l : Launch) (index : BitVec 12) :
    recordDead t l index = true ↔ ∃ r, liveRecord t l index = some r ∧ r.wlive = 0 := by
  unfold recordDead
  cases liveRecord t l index <;> simp

/-- An index that the launch's records hold, or that names none, is not refused (R207). -/
theorem legalIndex {index : BitVec 12} {n : Nat} (legal : index = 0xFFF ∨ index.toNat < n) :
    (index.toNat ≠ 4095 ∧ n ≤ index.toNat) = False := by
  rw [eq_iff_iff, iff_false, not_and, ne_eq, not_le]
  exact fun other => legal.resolve_left fun e => other (by rw [e]; rfl)

section
variable {index : BitVec 12} {s t : State} {q : Fin 64} {c : Fin 4} {k : Fin 24} {l : Launch} (who : s.md.who = .strand q c k)
  (launch : t.launchRec (.strand q c k) = some l)
include who launch

/-- An index without a liveness record (R207). -/
theorem yieldPt_refused (unknown : ¬ (index = 0xFFF ∨ index.toNat < (liveRecords t l).length)) : Raises (.yieldPt index) s t 1 0 0 := by
  have beyond : index.toNat ≠ 4095 ∧ (liveRecords t l).length ≤ index.toNat := by
    rw [not_or, not_lt] at unknown
    exact ⟨fun e => unknown.1 (BitVec.eq_of_toNat_eq e), unknown.2⟩
  exact raises_of_body who (by rw [exec_yieldPt, execYieldPt]) (by simp only [launch, beyond, and_self, if_true, illegal, ne_eq, not_false_iff])

section
variable (legal : index = 0xFFF ∨ index.toNat < (liveRecords t l).length)
include legal

theorem yieldPt_inRegion (region : (t.ctx (.strand q c k)).sp.inregion = true) : Yields (.yieldPt index) s t t :=
  yields_of_body who (by rw [exec_yieldPt, execYieldPt]) (by simp only [launch, legalIndex legal, region, if_true, if_false])

section
variable (noRegion : (t.ctx (.strand q c k)).sp.inregion = false)
include noRegion

/-- A pending pre-emption of the queue: the yield retires into the save. -/
theorem yieldPt_saves {j : Fin 16} (pending : preemptedSlot t (.strand q c k) = some j) : Yields (.yieldPt index) s t
    (post (.saveComplete j) (yieldTo q c k (some (.saving index (yieldRanges t q (some l) index))) t)) :=
  yields_of_body who (by rw [exec_yieldPt, execYieldPt])
    (by simp only [launch, legalIndex legal, noRegion, Bool.false_eq_true, if_false, pending])

section
variable (none : preemptedSlot t (.strand q c k) = none)
include none

/-- With its quantum not used up, or no other strand ready, a strand goes on. -/
theorem yieldPt_passes (goesOn : (t.core q c).quantum < 40960 ∨ (t.core q c).ready = []) : Yields (.yieldPt index) s t t := by
  have stays : ¬ (40960 ≤ (t.core q c).quantum ∧ (!(t.core q c).ready.isEmpty) = true) := by
    rintro ⟨used, ready⟩
    exact goesOn.elim (Nat.not_lt.mpr used) fun empty => by simp [empty] at ready
  exact yields_of_body who (by rw [exec_yieldPt, execYieldPt])
    (by simp only [launch, legalIndex legal, noRegion, Bool.false_eq_true, if_false, none, stays])

/-- With its quantum used up and another strand ready, a strand goes to the tail of the ready list. -/
theorem yieldPt_leaves (used : 40960 ≤ (t.core q c).quantum) (ready : (t.core q c).ready ≠ []) :
    Yields (.yieldPt index) s t (yieldTo q c k Option.none (if recordDead t l index && (t.core q c).holder == some k then
      releaseLease q c t else t)) := by
  have leaves : 40960 ≤ (t.core q c).quantum ∧ (!(t.core q c).ready.isEmpty) = true := ⟨used, by simpa using ready⟩
  refine yields_of_body who (by rw [exec_yieldPt, execYieldPt]) ?_
  simp only [launch, legalIndex legal, noRegion, Bool.false_eq_true, if_false, none, leaves, and_self, if_true]
  rfl

end
end
end
end

/-- On an agent with no launch an index names no record (log 44). -/
theorem yieldPt_noLaunch_refused {index : BitVec 12} {s t : State} (launch : t.launchRec s.md.who = none) (named : index ≠ 0xFFF) :
    Raises (.yieldPt index) s t 1 0 0 := by
  have beyond : index.toNat ≠ 4095 := fun e => named (BitVec.eq_of_toNat_eq e)
  exact raises_of_body rfl (by rw [exec_yieldPt, execYieldPt])
    (by simp only [launch, beyond, List.length_nil, Nat.zero_le, and_self, if_true, illegal, ne_eq, not_false_iff])

theorem yieldPt_noLaunch_passes {index : BitVec 12} {s t : State} (launch : t.launchRec s.md.who = none) (unnamed : index = 0xFFF)
    (noStrand : ∀ q c k, s.md.who ≠ .strand q c k) : Yields (.yieldPt index) s t t := by
  refine yields_of_body rfl (by rw [exec_yieldPt, execYieldPt]) ?_
  simp only [launch, legalIndex (.inl unnamed), if_false]
  split
  · rfl
  · split
    · exact absurd ‹_› (noStrand _ _ _)
    all_goals rfl

/-- Settles O17: the yield's body asks, in this order, for the record, the region, the pre-emption and the quantum. -/
theorem yieldPoints : Obligations.YieldPoints := by
  unfold Obligations.YieldPoints
  intro index s t me i
  refine ⟨fun q c k l who launch => ?_, fun launch => ⟨yieldPt_noLaunch_refused launch, yieldPt_noLaunch_passes launch⟩⟩
  rw [who] at launch
  intro legal dead
  have lease : (recordDead t l index && (t.core q c).holder == some k) = true ↔ dead := by
    rw [Bool.and_eq_true, beq_iff_eq, recordDead_iff, ← exists_and_right]
    simp only [dead, and_assoc]
  refine ⟨yieldPt_refused who launch, fun known region => yieldPt_inRegion who launch known (who ▸ region),
    fun known outside => ?_⟩
  rw [who] at outside ⊢
  refine ⟨fun j => yieldPt_saves who launch known outside, fun none => ⟨yieldPt_passes who launch known outside none,
    fun used ready => ⟨fun keeps => ?_, fun gives => ?_⟩⟩⟩
  · have leaves := yieldPt_leaves who launch known outside none used ready
    rwa [if_neg (mt lease.mp keeps)] at leaves
  · have leaves := yieldPt_leaves who launch known outside none used ready
    rwa [if_pos (lease.mpr gives)] at leaves

end Sys2Proof.Machine
end

section
namespace Sys2Proof.Machine
open Sys2Proof.Safety

/-! ## NaN, zero and infinity in the scalar float forms (R69, R86, R192, R194) -/

/-! ### NaN operands -/

theorem Xr.isNan_iff (v : Xr) : v.isNan = true ↔ ∃ q, v = .nan q := by cases v <;> simp [Xr.isNan]

theorem anyNan {f : Fmt} {a b : Nat} (nan : (∃ q, f.val a = .nan q) ∨ ∃ q, f.val b = .nan q) :
    ((f.val a).isNan || (f.val b).isNan) = true := by
  rw [Bool.or_eq_true, Xr.isNan_iff, Xr.isNan_iff]
  exact nan

section
variable {f : Fmt} {a b : Nat} (nan : (∃ q, f.val a = .nan q) ∨ ∃ q, f.val b = .nan q)
include nan

theorem eqF_nan : (eqF f a b).1 = false := by simp only [eqF, anyNan nan, if_true]

theorem ltF_nan : ltF f a b = (false, 16) := by
  simp only [ltF, anyNan nan, if_true]
  rfl

theorem leF_nan : leF f a b = (false, 16) := by
  simp only [leF, anyNan nan, if_true]
  rfl

end

section
variable {x y : Xr} (nan : (∃ q, x = .nan q) ∨ ∃ q, y = .nan q)
include nan

theorem addX_nan (rm : RM) : (addX rm x y).1 = .nan false := by
  rcases nan with ⟨q, rfl⟩ | ⟨q, rfl⟩
  · cases y <;> rfl
  · cases x <;> rfl

theorem mulX_nan : (mulX x y).1 = .nan false := by
  rcases nan with ⟨q, rfl⟩ | ⟨q, rfl⟩
  · cases y <;> rfl
  · cases x <;> rfl

theorem divX_nan : (divX x y).1 = .nan false := by
  rcases nan with ⟨q, rfl⟩ | ⟨q, rfl⟩
  · cases y <;> rfl
  · cases x <;> rfl

end

/-- An operation whose exact result is a NaN gives the canonical NaN (R69). -/
theorem fpu2_nan {rm : RM} {g : Xr → Xr → Xr × Flags} {x y : Word} {q : Bool}
    (exactly : (g (fF32.val (low32 x)) (fF32.val (low32 y))).1 = .nan q) : (fpu2 rm g x y).1 = 0x7FC0_0000 := by
  simp only [fpu2, arith, exactly, roundFmt]
  decide

/-! ### Division by zero (R194) -/

/-- An infinity's encoding is that infinity. -/
theorem val_infBits (neg : Bool) : fF32.val (low32 (wd (fF32.infBits neg))) = .inf neg := by
  revert neg
  decide

theorem fplDivR_byZero {rm : RM} {x y : Word} {nx ny : Bool} {n d e : Nat} (hx : fF32.val (low32 x) = .fin nx (n + 1) d)
    (hy : fF32.val (low32 y) = .fin ny 0 e) : fplDivR rm x y = (wd (fF32.infBits (nx != ny)), 8) := by
  have quotient : divX (.fin nx (n + 1) d) (.fin ny 0 e) = (.inf (nx != ny), 8) := by simp [divX, flDZ]
  have rounded : roundFmt fF32 false rm (.inf (nx != ny)) = (fF32.infBits (nx != ny), 0) := rfl
  simp only [fplDivR, fpu2, arith, hx, hy, quotient, rounded]
  rfl

theorem fplDivR_zeros (rm : RM) : fplDivR rm 0 0 = (0x7FC0_0000, 16) := by
  cases rm <;> decide

theorem fplSqrtR_negZero (rm : RM) : fplSqrtR rm 0x8000_0000 = (0x8000_0000, 0) := by
  cases rm <;> decide

theorem fpuCvtsR_nan {rm : RM} {x : Word} {q : Bool} (nan : fF32.val (low32 x) = .nan q) : fpuCvtsR rm x = (0, 16) := by
  simp only [fpuCvtsR, nan, roundIntTy]
  decide

/-! ### Finite operands: order (R86, R192) -/

/-- The denominator of a finite value is no zero. -/
theorem val_den_pos {f : Fmt} {b n d : Nat} {neg : Bool} (finite : f.val b = .fin neg n d) : 0 < d := by
  have scaled (m k : Nat) (e : Int) (pos : 0 < k) : 0 < (scale2 m k e).2 := by
    simp only [scale2, pow2]
    split
    · exact Nat.mul_pos pos (Nat.two_pow_pos _)
    · exact Nat.mul_pos pos Nat.one_pos
  unfold Fmt.val at finite
  dsimp only at finite
  split_ifs at finite <;> obtain ⟨-, -, rfl⟩ := Xr.fin.inj finite
  · exact scaled _ _ _ (Nat.two_pow_pos _)
  · exact Nat.one_pos
  · exact scaled _ _ _ (Nat.two_pow_pos _)

/-- The exact value of a sign and a ratio. -/
def ratOf (neg : Bool) (n d : Nat) : ℚ := (sgn neg n : ℚ) / d

section
variable {s t : Bool} {n d m e : Nat} (hd : 0 < d) (he : 0 < e)
include hd he

theorem ratOf_lt : ratOf s n d < ratOf t m e ↔ sgn s n * (e : Int) < sgn t m * (d : Int) := by
  rw [ratOf, ratOf, div_lt_div_iff₀ (Nat.cast_pos.mpr hd) (Nat.cast_pos.mpr he)]
  exact_mod_cast Iff.rfl

/-- The model's order of finite values is that of their exact values. -/
theorem cmpX_fin : cmpX (.fin s n d) (.fin t m e) =
    if ratOf s n d < ratOf t m e then -1 else if ratOf t m e < ratOf s n d then 1 else 0 := by
  simp only [cmpX, ratOf_lt hd he, ratOf_lt he hd]

end

/-- The low 32 bits of a source, as a word (R191). -/
theorem wd_low32 (z : Word) : wd (low32 z) = z &&& 0xFFFF_FFFF := by
  have field := wd_ofNat_low (n := 32) z (by decide)
  rwa [BitVec.toNat_ofNat] at field

section
variable {x y : Word} {nx ny : Bool} {n d m e : Nat} (hx : fF32.val (low32 x) = .fin nx n d) (hy : fF32.val (low32 y) = .fin ny m e)
include hx hy

/-- A comparison of finite operands goes by their order and raises no flag. -/
theorem fpuCmpR_fin {f : Fmt → Nat → Nat → Bool × Flags} {p : Int → Bool} {P : Prop} [Decidable P]
    (runs : f fF32 (low32 x) (low32 y) = (p (cmpX (.fin nx n d) (.fin ny m e)), 0))
    (order : p (if ratOf nx n d < ratOf ny m e then -1 else if ratOf ny m e < ratOf nx n d then 1 else 0) = decide P) :
    fpuCmpR f x y = (if P then 1 else 0, 0) := by
  rw [cmpX_fin (val_den_pos hx) (val_den_pos hy), order] at runs
  simp only [fpuCmpR, runs]
  by_cases h : P <;> simp [h]

theorem fpuCmpR_eq : fpuCmpR eqF x y = (if ratOf nx n d = ratOf ny m e then 1 else 0, 0) := by
  refine fpuCmpR_fin hx hy (p := (· == 0)) (by simp [eqF, hx, hy, Xr.isNan]) ?_
  rcases lt_trichotomy (ratOf nx n d) (ratOf ny m e) with lt | eq | gt
  · simp [lt, lt.ne]
  · simp [eq]
  · simp [gt, gt.ne', not_lt.mpr gt.le]

theorem fpuCmpR_lt : fpuCmpR ltF x y = (if ratOf nx n d < ratOf ny m e then 1 else 0, 0) := by
  refine fpuCmpR_fin hx hy (p := fun c => decide (c < 0)) (by simp [ltF, hx, hy, Xr.isNan]) ?_
  rcases lt_trichotomy (ratOf nx n d) (ratOf ny m e) with lt | eq | gt
  · simp [lt]
  · simp [eq]
  · simp [gt, not_lt.mpr gt.le]

theorem fpuCmpR_le : fpuCmpR leF x y = (if ratOf nx n d ≤ ratOf ny m e then 1 else 0, 0) := by
  refine fpuCmpR_fin hx hy (p := fun c => decide (c ≤ 0)) (by simp [leF, hx, hy, Xr.isNan]) ?_
  rcases lt_trichotomy (ratOf nx n d) (ratOf ny m e) with lt | eq | gt
  · simp [lt, lt.le]
  · simp [eq]
  · simp [gt, not_lt.mpr gt.le]

/-- Min and max take one encoding or the other by the order of the values, -0 below +0 (R86). -/
theorem fpuMinMaxR_fin (max : Bool) {P : Prop} [Decidable P]
    (less : P ↔ ratOf nx n d < ratOf ny m e ∨ (ratOf nx n d = ratOf ny m e ∧ nx = true ∧ ny = false)) :
    fpuMinMaxR max x y = (if decide P == max then y &&& 0xFFFF_FFFF else x &&& 0xFFFF_FFFF, 0) := by
  have order : (decide (cmpX (.fin nx n d) (.fin ny m e) < 0) || (cmpX (.fin nx n d) (.fin ny m e) == 0 && nx && !ny)) = decide P := by
    rw [Bool.eq_iff_iff, decide_eq_true_iff, less, cmpX_fin (val_den_pos hx) (val_den_pos hy)]
    rcases lt_trichotomy (ratOf nx n d) (ratOf ny m e) with lt | eq | gt
    · simp [lt]
    · simp [eq]
    · simp [gt, not_lt.mpr gt.le, gt.ne']
  simp only [fpuMinMaxR, minMaxF, hx, hy, Xr.isNan, Xr.isSig, Xr.isNeg, Bool.or_self, Bool.and_self, Bool.false_eq_true, if_false, order]
  split <;> simp only [wd_low32]

end

end Sys2Proof.Machine
end

section
namespace Sys2Proof.Machine
open Sys2Proof.Safety

/-! ## Conversions between f32 and s32 (R71, R72, R191, R192) -/

/-! ### Rounding to an integer (R71) -/

/-- The integer that `v` rounds to is `X` rounded under the mode, for a value of sign `neg`. -/
def RoundsTo (rm : RM) (neg : Bool) (X : ℚ) (v : Int) : Prop :=
  match rm with
  | .rne => |X - v| < 1 / 2 ∨ (|X - v| = 1 / 2 ∧ v % 2 = 0)
  | .rtz => v = if neg = true then ⌈X⌉ else ⌊X⌋
  | .rup => v = ⌈X⌉
  | .rdn => v = ⌊X⌋

/-- A sign turns the value about. -/
theorem ratOf_neg (n d : Nat) : ratOf true n d = -ratOf false n d := by simp [ratOf, sgn, neg_div]

section
variable {n d : Nat} (pos : 0 < d)
include pos

/-- A magnitude is its quotient and the part below 1. -/
theorem ratOf_split : ratOf false n d = (n / d : Nat) + (n % d : Nat) / (d : ℚ) := by
  have hd : (d : ℚ) ≠ 0 := Nat.cast_ne_zero.mpr pos.ne'
  have whole : (n : ℚ) = d * (n / d : Nat) + (n % d : Nat) := by exact_mod_cast (Nat.div_add_mod n d).symm
  simp only [ratOf, sgn, Bool.false_eq_true, if_false, Int.cast_natCast]
  field_simp
  linarith

theorem rest_lt : ((n % d : Nat) : ℚ) / d < 1 := by
  rw [div_lt_one (Nat.cast_pos.mpr pos)]
  exact_mod_cast Nat.mod_lt n pos

theorem floor_ratOf : ⌊ratOf false n d⌋ = (n / d : Nat) := by
  rw [Int.floor_eq_iff, ratOf_split pos]
  have low : 0 ≤ ((n % d : Nat) : ℚ) / d := by positivity
  have high := rest_lt (n := n) pos
  rw [Int.cast_natCast]
  exact ⟨by linarith, by linarith⟩

theorem ceil_ratOf : ⌈ratOf false n d⌉ = if n % d = 0 then ((n / d : Nat) : Int) else (n / d : Nat) + 1 := by
  rw [Int.ceil_eq_iff, ratOf_split pos]
  have high := rest_lt (n := n) pos
  split
  · rename_i none
    simp only [none, Int.cast_natCast, Nat.cast_zero, zero_div, add_zero, le_refl, and_true]
    linarith
  · rename_i some
    have low : 0 < ((n % d : Nat) : ℚ) / d := div_pos (Nat.cast_pos.mpr (Nat.pos_of_ne_zero some)) (Nat.cast_pos.mpr pos)
    simp only [Int.cast_add, Int.cast_natCast, Int.cast_one]
    exact ⟨by linarith, by linarith⟩

omit pos in
/-- Where nothing is left of the division the quotient is the result. -/
theorem roundNat_whole (rm : RM) (neg : Bool) (none : n % d = 0) : roundNat rm neg n d = n / d := by
  simp only [roundNat, none, if_true]

omit pos in
/-- Else it is the quotient or the next. -/
theorem roundNat_near (rm : RM) (neg : Bool) : roundNat rm neg n d = n / d ∨ roundNat rm neg n d = n / d + 1 := by
  unfold roundNat
  dsimp only
  split
  · exact .inl rfl
  · cases rm with
    | rtz => exact .inl rfl
    | rup | rdn => dsimp only; split <;> simp
    | rne => dsimp only; split_ifs <;> simp

/-- A magnitude rounded to nearest, ties to even. -/
theorem roundNat_rne (neg : Bool) :
    |ratOf false n d - roundNat .rne neg n d| < 1 / 2 ∨
      (|ratOf false n d - roundNat .rne neg n d| = 1 / 2 ∧ roundNat .rne neg n d % 2 = 0) := by
  have hd : (0 : ℚ) < d := Nat.cast_pos.mpr pos
  have low : 0 ≤ ((n % d : Nat) : ℚ) / d := by positivity
  have high := rest_lt (n := n) pos
  have half_lt : 2 * (n % d) < d ↔ ((n % d : Nat) : ℚ) / d < 1 / 2 := by
    rw [div_lt_div_iff₀ hd two_pos, mul_comm, one_mul]
    exact_mod_cast Iff.rfl
  have lt_half : d < 2 * (n % d) ↔ 1 / 2 < ((n % d : Nat) : ℚ) / d := by
    rw [div_lt_div_iff₀ two_pos hd, mul_comm _ (2 : ℚ), one_mul]
    exact_mod_cast Iff.rfl
  rw [ratOf_split pos]
  by_cases none : n % d = 0
  · left
    simp [roundNat_whole .rne neg none, none]
  simp only [roundNat, none, if_false, half_lt, lt_half]
  split
  · left
    rw [add_sub_cancel_left, abs_of_nonneg low]
    assumption
  · split
    · left
      rw [Nat.cast_add, Nat.cast_one, add_sub_add_left_eq_sub, abs_sub_comm, abs_of_pos (by linarith)]
      linarith
    · have tie : ((n % d : Nat) : ℚ) / d = 1 / 2 := by linarith
      right
      split
      · rw [add_sub_cancel_left, tie]
        exact ⟨abs_of_pos (by norm_num), by assumption⟩
      · rw [Nat.cast_add, Nat.cast_one, add_sub_add_left_eq_sub, tie]
        exact ⟨by norm_num, by omega⟩

/-- The magnitude is its rounding exactly where nothing is left of the division. -/
theorem roundNat_exact (rm : RM) (neg : Bool) : ratOf false n d = (roundNat rm neg n d : ℚ) ↔ n % d = 0 := by
  have hd : (0 : ℚ) < d := Nat.cast_pos.mpr pos
  have high := rest_lt (n := n) pos
  rw [ratOf_split pos]
  refine ⟨fun same => ?_, fun none => by simp [roundNat_whole rm neg none, none]⟩
  have rest : ((n % d : Nat) : ℚ) / d = 0 := by
    rcases roundNat_near (n := n) (d := d) rm neg with near | near
    · rw [near] at same
      linarith
    · rw [near, Nat.cast_add, Nat.cast_one] at same
      linarith
  exact_mod_cast (div_eq_zero_iff.mp rest).resolve_right hd.ne'

/-- The modes that take the quotient. -/
theorem roundNat_down {rm : RM} {neg : Bool} (down : rm = .rtz ∨ (rm = .rup ∧ neg = true) ∨ (rm = .rdn ∧ neg = false)) :
    (roundNat rm neg n d : Int) = ⌊ratOf false n d⌋ := by
  rw [floor_ratOf pos]
  rcases down with rfl | ⟨rfl, rfl⟩ | ⟨rfl, rfl⟩ <;> simp [roundNat]

/-- The modes that take the next integer where the quotient is not exact. -/
theorem roundNat_up {rm : RM} {neg : Bool} (up : (rm = .rup ∧ neg = false) ∨ (rm = .rdn ∧ neg = true)) :
    (roundNat rm neg n d : Int) = ⌈ratOf false n d⌉ := by
  rw [ceil_ratOf pos]
  rcases up with ⟨rfl, rfl⟩ | ⟨rfl, rfl⟩ <;> simp only [roundNat] <;> split <;> simp

/-- A value with a sign rounds to its magnitude's rounding with that sign. -/
theorem roundNat_roundsTo (rm : RM) (neg : Bool) :
    RoundsTo rm neg (ratOf neg n d) (if neg then -(roundNat rm neg n d : Int) else roundNat rm neg n d) := by
  cases neg with
  | false =>
    cases rm with
    | rne =>
      simp only [RoundsTo, Bool.false_eq_true, if_false, Int.cast_natCast]
      exact_mod_cast roundNat_rne (n := n) pos false
    | rtz => exact roundNat_down pos (.inl rfl)
    | rup => exact roundNat_up pos (.inl ⟨rfl, rfl⟩)
    | rdn => exact roundNat_down pos (.inr (.inr ⟨rfl, rfl⟩))
  | true =>
    rw [ratOf_neg]
    cases rm with
    | rne =>
      have near := roundNat_rne (n := n) pos true
      simp only [RoundsTo, if_true, Int.cast_neg, Int.cast_natCast, ← neg_sub', abs_neg, Int.neg_emod_two]
      exact_mod_cast near
    | rtz => exact (congrArg Neg.neg (roundNat_down pos (.inl rfl))).trans Int.ceil_neg.symm
    | rup => exact (congrArg Neg.neg (roundNat_down pos (.inr (.inl ⟨rfl, rfl⟩)))).trans Int.ceil_neg.symm
    | rdn => exact (congrArg Neg.neg (roundNat_up pos (.inr ⟨rfl, rfl⟩))).trans Int.floor_neg.symm

end

/-! ### f32 to s32 (R72, R192) -/

/-- A finite operand rounds to an integer under the mode; outside s32 it saturates with NV, and inside NX says that it is not that
integer (log 19). -/
theorem fpuCvtsR_fin {rm : RM} {x : Word} {neg : Bool} {n d : Nat} (finite : fF32.val (low32 x) = .fin neg n d) :
    ∃ v : Int, RoundsTo rm neg (ratOf neg n d) v ∧
      fpuCvtsR rm x = (if v < -(2 ^ 31) then (BitVec.ofInt 64 (-(2 ^ 31)), 16) else if 2 ^ 31 ≤ v then (2 ^ 31 - 1, 16)
        else (BitVec.ofInt 64 v, if ratOf neg n d = v then 0 else 1)) := by
  have pos := val_den_pos finite
  refine ⟨_, roundNat_roundsTo pos rm neg, ?_⟩
  generalize rounded : (if neg then -(roundNat rm neg n d : Int) else roundNat rm neg n d) = v
  have whole : n % d = 0 ↔ ratOf neg n d = v := by
    rw [← roundNat_exact pos rm neg, ← rounded]
    cases neg with
    | false => simp
    | true => rw [ratOf_neg]; simp
  have past : 2 ^ 31 - 1 < v ↔ 2 ^ 31 ≤ v := by omega
  simp only [fpuCvtsR, finite, roundIntTy, rounded, past, wd_wrap, beq_iff_eq, whole]
  split
  · rfl
  · split <;> rfl

/-! ### s32 to f32 -/

theorem scale2_natCast (n d k : Nat) : scale2 n d k = (n * 2 ^ k, d) := by
  simp [scale2, pow2, Int.not_lt.mpr (Int.natCast_nonneg k)]

/-- A whole number's exponent (R71). -/
theorem ilog2_whole {n : Nat} (nonzero : n ≠ 0) : ilog2 n 1 = Nat.log2 n := by
  have log : (Nat.log2 n : Int) - (Nat.log2 1 : Int) = Nat.log2 n := by simp [show Nat.log2 1 = 0 from rfl]
  simp only [ilog2, log, scale2_natCast, mul_one, one_mul, Nat.not_lt.mpr (Nat.log2_self_le nonzero), if_false]

/-- The significand `q` of a whole number of at most 2^24, as f32 scales it: 24 bits, with nothing left over. -/
theorem scaled_whole {n : Nat} (nonzero : n ≠ 0) (short : n ≤ 2 ^ 24) :
    ∃ q, let p := scale2 n 1 (-((Nat.log2 n : Int) - 23))
      p.1 % p.2 = 0 ∧ p.1 / p.2 = q ∧ q * 2 ^ Nat.log2 n = n * 2 ^ 23 ∧ 2 ^ 23 ≤ q ∧ q < 2 ^ 24 ∧ Nat.log2 n ≤ 24 := by
  have low : 2 ^ Nat.log2 n ≤ n := Nat.log2_self_le nonzero
  have high : n < 2 ^ (Nat.log2 n + 1) := Nat.lt_log2_self
  have le : Nat.log2 n ≤ 24 := (Nat.pow_le_pow_iff_right (by decide)).mp (low.trans short)
  rcases Nat.lt_or_eq_of_le le with less | top
  · obtain ⟨k, sum⟩ : ∃ k, Nat.log2 n + k = 23 := ⟨23 - Nat.log2 n, by omega⟩
    have scaled : scale2 n 1 (-((Nat.log2 n : Int) - 23)) = (n * 2 ^ k, 1) := by
      rw [show -((Nat.log2 n : Int) - 23) = (k : Int) by omega, scale2_natCast]
    have pow : 2 ^ Nat.log2 n * 2 ^ k = 2 ^ 23 := by rw [← pow_add, sum]
    refine ⟨n * 2 ^ k, ?_, ?_, ?_, ?_, ?_, le⟩
    · rw [scaled, Nat.mod_one]
    · rw [scaled, Nat.div_one]
    · rw [mul_assoc, mul_comm (2 ^ k), pow]
    · rw [← pow]
      exact Nat.mul_le_mul_right _ low
    · calc n * 2 ^ k < 2 ^ (Nat.log2 n + 1) * 2 ^ k := Nat.mul_lt_mul_of_pos_right high (Nat.two_pow_pos k)
        _ = 2 ^ 24 := by rw [← pow_add, show Nat.log2 n + 1 + k = 24 by omega]
  · have whole : n = 2 ^ 24 := Nat.le_antisymm short (top ▸ low)
    subst whole
    exact ⟨2 ^ 23, by decide⟩

/-- The value of an encoding of a sign, an exponent and a significand `q` of 24 bits (R68). -/
theorem val_normal {neg : Bool} {e q : Nat} (hq : 2 ^ 23 ≤ q) (hq' : q < 2 ^ 24) (he : e ≤ 24) :
    fF32.val (neg.toNat * 2 ^ 31 + ((e + 126) * 2 ^ 23 + q)) = .fin neg (q * 2 ^ e) (2 ^ 23) := by
  have bit : neg.toNat ≤ 1 := Bool.toNat_le neg
  generalize enc : neg.toNat * 2 ^ 31 + ((e + 126) * 2 ^ 23 + q) = b
  have sign : b / 2 ^ 31 % 2 = neg.toNat := by omega
  have exponent : b / 2 ^ 23 % 2 ^ 8 = e + 127 := by omega
  have fraction : 2 ^ 23 + b % 2 ^ 23 = q := by omega
  have unscaled : ((e + 127 : Nat) : Int) - 127 = e := by omega
  have below : ((e + 127) == 2 ^ 8 - 1) = false := beq_false_of_ne (by omega)
  have negative : (neg.toNat == 1) = neg := by cases neg <;> rfl
  simp only [Fmt.val, Fmt.signOf, fF32, Nat.reduceAdd, sign, exponent, fraction, below, Bool.and_false, Bool.false_and,
    Bool.false_eq_true, if_false, Nat.add_eq_zero_iff, OfNat.ofNat_ne_zero, and_false, Nat.cast_ofNat, unscaled, negative, scale2_natCast]

/-- A nonzero whole number of at most 2^24 is rounded to its own encoding, with no flag. -/
theorem roundFmt_scaled {rm : RM} {neg : Bool} {n q : Nat} (nonzero : n ≠ 0)
    (rest : (scale2 n 1 (-((Nat.log2 n : Int) - 23))).1 % (scale2 n 1 (-((Nat.log2 n : Int) - 23))).2 = 0)
    (quotient : (scale2 n 1 (-((Nat.log2 n : Int) - 23))).1 / (scale2 n 1 (-((Nat.log2 n : Int) - 23))).2 = q)
    (hq : 2 ^ 23 ≤ q) (hq' : q < 2 ^ 24) (he : Nat.log2 n ≤ 24) :
    roundFmt fF32 false rm (.fin neg n 1) = (neg.toNat * 2 ^ 31 + ((Nat.log2 n + 126) * 2 ^ 23 + q), 0) := by
  have above : ¬ (Nat.log2 n : Int) < 1 - 127 := by omega
  have offset : ((Nat.log2 n : Int) - (1 - 127)).toNat = Nat.log2 n + 126 := by omega
  have room : ¬ (2 ^ 8 - 1) * 2 ^ 23 - 1 < (Nat.log2 n + 126) * 2 ^ 23 + q := by omega
  simp only [roundFmt, fF32, nonzero, if_false, ilog2_whole nonzero, Nat.cast_ofNat, above, decide_false, Bool.false_and,
    Bool.false_eq_true, roundNat_whole _ _ rest, quotient, Nat.not_lt.mpr hq, offset, Fmt.maxMag, room, rest, beq_self_eq_true, if_true]

/-- A whole number of at most 2^24 is exact in f32. -/
theorem roundFmt_whole {rm : RM} {neg : Bool} {n : Nat} (short : n ≤ 2 ^ 24) :
    ∃ b m d, roundFmt fF32 false rm (.fin neg n 1) = (b, 0) ∧ b < 2 ^ 32 ∧ fF32.val b = .fin neg m d ∧ (m : ℚ) / d = n := by
  by_cases nonzero : n = 0
  · subst nonzero
    cases neg
    · exact ⟨0, 0, 2 ^ 149, rfl, by decide, by decide, by norm_num⟩
    · exact ⟨2 ^ 31, 0, 2 ^ 149, rfl, by decide, by decide, by norm_num⟩
  · obtain ⟨q, rest, quotient, value, hq, hq', he⟩ := scaled_whole nonzero short
    refine ⟨_, _, _, roundFmt_scaled nonzero rest quotient hq hq' he, ?_, val_normal hq hq' he, ?_⟩
    · have bit := Bool.toNat_le neg
      omega
    · rw [value, Nat.cast_mul, mul_div_cancel_right₀ _ (Nat.cast_ne_zero.mpr (Nat.two_pow_pos 23).ne')]

/-- The exact value of an integer's magnitude with its sign. -/
theorem ratOf_natAbs {k : Int} {m d : Nat} (ratio : (m : ℚ) / d = k.natAbs) : ratOf (decide (k < 0)) m d = k := by
  have magnitude : ratOf false m d = k.natAbs := by simpa [ratOf, sgn] using ratio
  by_cases negative : k < 0
  · have sum : -(k.natAbs : Int) = k := by omega
    rw [decide_eq_true negative, ratOf_neg, magnitude, ← Int.cast_natCast, ← Int.cast_neg, sum]
  · have same : (k.natAbs : Int) = k := by omega
    rw [decide_eq_false negative, magnitude, ← Int.cast_natCast, same]

/-- An integer of at most 2^24 converts exactly (R191). -/
theorem fpuCvtfR_exact {rm : RM} {x : Word} (short : |(x.setWidth 32).toInt| ≤ 2 ^ 24) :
    (fpuCvtfR rm x).2 = 0 ∧
      ∃ (neg : Bool) (n d : Nat), fF32.val (low32 (fpuCvtfR rm x).1) = .fin neg n d ∧ ratOf neg n d = (x.setWidth 32).toInt := by
  have signed : sInt 32 x.toNat = (x.setWidth 32).toInt := by
    rw [sInt_eq_toInt (by decide)]
    congr 1
  generalize (x.setWidth 32).toInt = k at short signed
  obtain ⟨b, m, d, rounded, bound, value, ratio⟩ := roundFmt_whole (rm := rm) (neg := decide (k < 0)) (n := k.natAbs)
    (by rw [Int.abs_eq_natAbs] at short; exact_mod_cast short)
  have result : fpuCvtfR rm x = (wd b, 0) := by simp only [fpuCvtfR, signed, Xr.ofInt, rounded]
  have low : low32 (wd b) = b := by
    rw [low32, BitVec.toNat_ofNat, Nat.mod_eq_of_lt (by omega : b < 2 ^ 64), Nat.mod_eq_of_lt bound]
  exact ⟨by rw [result], _, m, d, by rw [result, low, value], ratOf_natAbs ratio⟩

/-- 2^24 + 1 lies halfway between two f32 values and rounds under the mode with NX. -/
theorem fpuCvtfR_halfway :
    fpuCvtfR .rne 0x100_0001 = (0x4B80_0000, 1) ∧ fpuCvtfR .rup 0x100_0001 = (0x4B80_0001, 1) := by
  decide

/-! ### O8 -/

/-- Equal zeros, whatever their signs (R192). -/
theorem fpuCmpR_zeros :
    (fpuCmpR eqF 0x8000_0000 0).1 = 1 ∧ (fpuCmpR leF 0 0x8000_0000).1 = 1 ∧ (fpuCmpR ltF 0x8000_0000 0).1 = 0 := by
  decide

/-- A NaN operand in a comparison and in add, mul and div (R69, R192). -/
theorem float_nan {rm : RM} {x y : Word} (nan : (∃ q, fF32.val (low32 x) = .nan q) ∨ ∃ q, fF32.val (low32 y) = .nan q) :
    (fpuCmpR eqF x y).1 = 0 ∧ fpuCmpR ltF x y = (0, 16) ∧ fpuCmpR leF x y = (0, 16) ∧
      (fpuAddR rm x y).1 = 0x7FC0_0000 ∧ (fpuMulR rm x y).1 = 0x7FC0_0000 ∧ (fplDivR rm x y).1 = 0x7FC0_0000 := by
  refine ⟨?_, ?_, ?_, fpu2_nan (addX_nan nan rm), fpu2_nan (mulX_nan nan), fpu2_nan (divX_nan nan)⟩
  · simp [fpuCmpR, eqF_nan nan]
  · simp [fpuCmpR, ltF_nan nan]
  · simp [fpuCmpR, leF_nan nan]

/-- Settles O8: NaN, zero and infinity run through the exact operations, a finite operand through its exact value. -/
theorem floatSpecialCases : Obligations.FloatSpecialCases := by
  classical
  intro rm x y val isNan
  refine ⟨float_nan, fpuCmpR_zeros.1, fpuCmpR_zeros.2.1, fpuCmpR_zeros.2.2, ?_, fplDivR_zeros rm, fplSqrtR_negZero rm, ?_, ?_,
    fpuCvtfR_exact, fpuCvtfR_halfway⟩
  · intro nx ny n d e hx hy
    have quotient := fplDivR_byZero (rm := rm) hx hy
    exact ⟨by rw [quotient], by rw [quotient]; exact val_infBits _⟩
  · rintro ⟨q, nan⟩
    exact fpuCvtsR_nan nan
  · intro nx ny n d m e hx hy X Y low less
    have minMax (max : Bool) := fpuMinMaxR_fin hx hy max (P := less) Iff.rfl
    refine ⟨fpuCmpR_eq hx hy, fpuCmpR_lt hx hy, fpuCmpR_le hx hy, fun first => ?_, fun second => ?_, fpuCvtsR_fin hx⟩
    · simp only [minMax, decide_eq_true first]
      exact ⟨rfl, rfl⟩
    · simp only [minMax, decide_eq_false second]
      exact ⟨rfl, rfl⟩

end Sys2Proof.Machine
end

section
namespace Sys2Proof.Machine
open Sys2Proof.Safety

/-! ## Forms that wait, and what stands before an access (R17, R144, R172, R225, R226) -/

/-! ### Parking -/

@[simp] theorem askSelect_xl (q : Fin 64) (c : Fin 4) (s : State) : (askSelect q c s).xl = s.xl := by
  simp only [askSelect]
  split <;> rfl

@[simp] theorem leaveCore_xl (q : Fin 64) (c : Fin 4) (k : Fin 24) (s : State) : (leaveCore q c k s).xl = s.xl := by
  simp only [leaveCore]
  split
  · rw [askSelect_xl, State.updCore_xl]
  · rfl

/-- Parking leaves the translation unit and its monitors. -/
@[simp] theorem parkAgent_xl (a : Agent) (w : Why) (s : State) : (parkAgent a w s).xl = s.xl := by
  cases a <;> simp [parkAgent, fresh]

/-- Parking loses nothing that is on its way. -/
theorem parkAgent_sent (a : Agent) (w : Why) (s : State) : s.md.inflight ⊆ (parkAgent a w s).md.inflight := by
  cases a with
  | strand q c k =>
    refine List.Subset.trans ?_ (leaveCore_sent ..)
    simp [fresh]
  | hart | weir | cmd | sec => simp [parkAgent, fresh]

section
variable {i : Instr} {body : Agent → Act} {me : Agent} {s t u : State} {w : Why} (who : s.md.who = me)
  (runs : exec i s = perform i body s) (stops : Stops i s t)
include who runs stops

/-- An instruction whose body holds its agent parks it in the state that the body leaves, its windows as they were. -/
theorem exec_holds (effect : body me t = .error (.hold w u)) :
    exec i s = .next (parkAgent me w (keepWindows me (pcTrigger s me).1 u)) := by
  subst who
  obtain ⟨issues, alone⟩ := stops
  rw [runs, perform_error (gate_go_of_issues issues) effect, stopBehind_alone alone]
  rfl

/-- An instruction whose body parks its agent with operands keeps them, and every monitor and message that the body left. -/
theorem exec_parksWith {ws : List Word} (effect : body me t = .error (parkWith me ws w u)) :
    ∃ r, exec i s = .next r ∧ (r.ctx me).st = .parked ∧ (r.ctx me).why = some w ∧ (r.ctx me).latch = some ws ∧ r.xl = u.xl ∧
      u.md.inflight ⊆ r.md.inflight := by
  refine ⟨_, exec_holds who runs stops effect, ?_⟩
  have sent := parkAgent_sent me w (keepWindows me (pcTrigger s me).1 (u.updCtx me fun y => { y with latch := some ws }))
  rw [keepWindows_md, State.updCtx_md] at sent
  obtain ⟨f, kept⟩ := keepWindows_ctx me (pcTrigger s me).1 (u.updCtx me fun y => { y with latch := some ws })
  rw [State.ctx_updCtx_same] at kept
  refine ⟨?_, ?_, ?_, ?_, sent⟩
  · rw [parkAgent_ctx, if_pos rfl]
  · rw [parkAgent_ctx, if_pos rfl]
  · rw [parkAgent_ctx, if_pos rfl, kept]
  · rw [parkAgent_xl, keepWindows, State.updFlight_xl, State.updCtx_xl]

end

/-! ### Nothing held back -/

/-- With no committed region's buffer left there is nothing to drain. -/
theorem drained_empty {a : Agent} {s : State} (empty : (s.ctx a).fl.drain = []) : drained a s = .ok s := by
  simp [drained, drainRegion, empty, drainRun]

/-- With nothing uncommitted and no buffer left every access before is performed. -/
theorem settled_empty {a : Agent} {s : State} (none : (s.ctx a).fl.pend = []) (empty : (s.ctx a).fl.drain = []) :
    settled a s = .ok s := by
  simp [settled, commitAll_none none, none, drained_empty empty]

/-! ### Trace and triggers on an access (R379, R380) -/

@[simp] theorem fireTrigger_ctx (q : Fin 64) (c : Fin 4) (k : Nat) (s : State) (a : Agent) : (fireTrigger q c k s).ctx a = s.ctx a := by
  simp only [fireTrigger]
  split
  · rw [← traceRec_ctx q c 7 k s a]
    apply State.ctx_updCore_keep
    intro x
    rfl
  · exact traceRec_ctx ..

@[simp] theorem runTriggers_ctx (q : Fin 64) (c : Fin 4) (kind : Nat) (addr : Word) (fkind : Nat) (ks : List Nat) (s : State)
    (a : Agent) : (runTriggers q c kind addr fkind ks s).1.ctx a = s.ctx a := by
  induction ks generalizing s with
  | nil => rfl
  | cons k ks ih =>
    simp only [runTriggers]
    split
    · rw [ih, fireTrigger_ctx]
    · exact ih s

/-- The trace of an access and its triggers leave its agent's context, but for the single step that a trigger arms. -/
theorem traceAccess_ctx (a : Agent) (kind : Nat) (va : Word) (s : State) :
    ∃ b, (traceAccess a kind va s).ctx a = { s.ctx a with sp := { (s.ctx a).sp with sstep := b } } := by
  cases a with
  | strand q c k =>
    simp only [traceAccess]
    split
    · exact ⟨(s.ctx (.strand q c k)).sp.sstep, traceIf_ctx ..⟩
    · split
      · exact ⟨true, by rw [State.updSpec, State.ctx_updCtx_same, runTriggers_ctx, traceIf_ctx]⟩
      · exact ⟨(s.ctx (.strand q c k)).sp.sstep, by rw [runTriggers_ctx, traceIf_ctx]⟩
  | hart | weir | cmd | sec => exact ⟨_, rfl⟩

/-! ### Addresses, alignment and the bytes of an access (R126, R210) -/

/-- The address of a load or store (R211, R213). -/
theorem memAddr_eq (b : Word) (off : BitVec 7) (n : Nat) : memAddr b off n = b + off.signExtend 64 * wd n := by
  rw [memAddr, sext_toNat off (by decide) (by decide)]

/-- The alignment that only an acquire or a release asks for (R210). -/
theorem aligned_check {p : Bool} {va : Word} {n : Nat} (aligned : p = true → va.toNat % n = 0) : (!p || va.toNat % n == 0) = true := by
  cases p with
  | false => rfl
  | true => rw [aligned rfl, Bool.not_true, Bool.false_or, beq_self_eq_true]

theorem length_readPhys (s : State) (pa n : Nat) : (readPhys s pa n).length = n := by
  rw [readPhys, readCells_eq, List.length_map, List.length_range]

/-- A served access is no IO access. -/
theorem anyIo_served {w : Requester} {right : Right} {need : Access} {va : Word} {n pa : Nat} {s : State}
    (served : Served w right need va n pa s) : anyIo s w [(pa, n)] = false := by
  simp [anyIo, served.cached]

end Sys2Proof.Machine
end

section
namespace Sys2Proof.Machine
open Sys2Proof.Safety

/-! ## Loads (R210 to R212, R225, R226) -/

/-- The value of a load of as many bytes as its size says. -/
theorem ldValue_eq (sz : LdSize) (bs : List Byte) :
    ldValue sz bs = (match sz with
      | .s8 | .s16 | .s32 => (BitVec.ofNat (8 * ldBytes sz) (leNat bs)).signExtend 64
      | .z8 | .z16 | .z32 | .d64 => wd (leNat bs)) := by
  have signed (k : Nat) (pos : 0 < k) (short : k ≤ 64) : sext k (leNat bs) = (BitVec.ofNat k (leNat bs)).signExtend 64 := by
    rw [← sext_toNat _ pos short, BitVec.toNat_ofNat, sext, sext, Nat.mod_mod]
  cases sz with
  | s8 | s16 | s32 =>
    simp only [ldValue, ldSigned, if_true]
    exact signed _ (by decide) (by decide)
  | z8 | z16 | z32 | d64 => simp only [ldValue, ldSigned, Bool.false_eq_true, if_false]

section
variable {sz : LdSize} {acq : Bool} {d : Dst} {base : Src} {off : BitVec 7} {la : Fin 16} {s t u v : State} {me : Agent} {b va : Word}
  {ps : List (Nat × Nat)} (who : s.md.who = me) (reads : Reads t me base b) (addr : memAddr b off (ldBytes sz) = va)
include who reads addr

/-- A misaligned acquire raises ALIGN (R210, R212). -/
theorem ld_misaligned (acquire : acq = true) (odd : va.toNat % ldBytes sz ≠ 0) : Raises (.ld sz acq d base off la) s t 5 0 va := by
  unfold Reads at reads
  refine raises_of_body who (by rw [exec_ld, execLd]) ?_
  simp only [reads, ok_bind, addr, loadValue, acquire, Bool.not_true, Bool.false_or, beq_false_of_ne odd, check_false, alignF, error_bind]

/-- A load whose pieces are translated, permitted and sound writes the bytes that its agent sees (R210 to R212). -/
theorem ld_completes (aligned : acq = true → va.toNat % ldBytes sz = 0)
    (place : resolve (requesterOf t me) .r .read va (ldBytes sz) t = .ok (ps, u))
    (plain : (u.ctx me).sp.inregion = true → anyIo u (requesterOf t me) ps = false) (sound : poisoned u ps = false)
    (before : if acq = true ∨ anyIo u (requesterOf t me) ps = true then settled me u = .ok v else v = u) :
    Yields (.ld sz acq d base off la) s t
      (longResult (traceAccess me 1 va (loadEffects ((requesterOf t me).via (l1Of me) va v) ps v)) me la.val d
        (ldValue sz (ownBytes v me ps)) 0) := by
  have even := aligned_check aligned
  have allowed : (!((u.ctx me).sp.inregion && anyIo u (requesterOf t me) ps)) = true := by
    cases region : (u.ctx me).sp.inregion with
    | false => rfl
    | true => simp [plain region]
  unfold Reads at reads
  refine yields_of_body who (by rw [exec_ld, execLd]) ?_
  simp only [reads, ok_bind, addr, loadValue, even, check_true, place, allowed, sound, Bool.not_false]
  by_cases waits : acq = true ∨ anyIo u (requesterOf t me) ps = true
  · rw [if_pos waits] at before
    simp only [Bool.or_eq_true, waits, if_true, before, ok_bind]
  · rw [if_neg waits] at before
    simp only [Bool.or_eq_true, waits, if_false, before, ok_bind]

end

/-! ### The bytes that an agent sees -/

/-- With no store held back, a load reads memory. -/
theorem overlay_none (pa : Nat) (bs : List Byte) : overlay [] pa bs = bs := by
  refine List.ext_getElem (by simp [overlay]) fun i _ inside => ?_
  simp [overlay, inside]

theorem ownBytes_unheld {s : State} {a : Agent} {ps : List (Nat × Nat)} (memory : ∀ p ∈ ps, isMemory s p.1 = true)
    (unheld : heldStores s a = []) :
    ownBytes s a ps = ps.flatMap fun p => (List.range p.2).map fun i => byteAt s (p.1 + i) := by
  have piece (p : Nat × Nat) (mem : p ∈ ps) :
      overlay [] p.1 (loadPiece s p.1 p.2) = (List.range p.2).map fun i => byteAt s (p.1 + i) := by
    rw [overlay_none, loadPiece, if_pos (memory p mem), readPhys, readCells_eq]
    rfl
  rw [ownBytes, unheld]
  exact List.flatMap_congr piece

/-- The latest held store gives the bytes that it covers (R212). -/
theorem overlay_latest (held : List BufEnt) (via : Via) (pa v : Nat) (bs new : List Byte) :
    overlay (held ++ [.store via [(v, new)]]) pa bs =
      (List.range bs.length).map fun i =>
        if v ≤ pa + i ∧ pa + i < v + new.length then new.getD (pa + i - v) 0 else (overlay held pa bs).getD i 0 := by
  refine List.map_congr_left fun i inside => ?_
  have before : i < bs.length := List.mem_range.mp inside
  simp only [overlay, List.flatMap_append, List.flatMap_cons, List.flatMap_nil, List.append_nil, List.foldl_append, List.foldl_cons,
    List.foldl_nil]
  split
  · rename_i covered
    rw [List.getD_eq_getElem _ _ (by omega), List.getD_eq_getElem _ _ (by omega)]
  · simp only [List.getD_eq_getElem?_getD, List.getElem?_map, List.getElem?_range before, Option.map_some, Option.getD_some]

/-- Settles O19: the body of a load reads its base, asks for its pieces and, before an acquire or an IO access, for what stands before
it; in a quiet state nothing does. -/
theorem loadForms : Obligations.LoadForms := by
  unfold Obligations.LoadForms
  refine ⟨fun sz acq d base off la s t b => ?_, fun s a ps memory => ⟨ownBytes_unheld memory, overlay_latest⟩⟩
  generalize who : s.md.who = me
  intro me' n va i w value loaded reads
  subst me'
  have addr : memAddr b off (ldBytes sz) = va := memAddr_eq ..
  have result (bs : List Byte) : ldValue sz bs = value bs := ldValue_eq sz bs
  have completes {ps : List (Nat × Nat)} {u v : State} (aligned : acq = true → va.toNat % n = 0)
      (place : resolve w .r .read va n t = .ok (ps, u)) (plain : (u.ctx me).sp.inregion = true → anyIo u w ps = false)
      (sound : poisoned u ps = false) (before : if acq = true ∨ anyIo u w ps = true then settled me u = .ok v else v = u) :
      Yields i s t (loaded ps v) := by
    have yields := ld_completes (d := d) (la := la) who reads addr aligned place plain sound before
    rw [result] at yields
    exact yields
  refine ⟨ld_misaligned who reads addr, fun ps u v aligned place plain sound before => completes aligned place plain sound before,
    fun pa same quiet empty aligned served => ?_⟩
  subst same
  have before : settled me t = .ok t := settled_empty quiet.pend empty
  have yields := completes (v := t) aligned (resolve_served served) (fun _ => anyIo_served served) served.clean
    (by split; exacts [before, rfl])
  subst who
  exact yields (.inl ⟨quiet, rfl⟩)

end Sys2Proof.Machine
end

section
namespace Sys2Proof.Machine
open Sys2Proof.Safety

/-! ## Stores (R210, R213, R214, R225, R226) -/

/-! ### Where a store goes -/

section
variable {a : Agent} {via : Via} {new : List (Nat × List Byte)} {s z : State}

/-- A 65th entry of a region's buffer (R225). -/
theorem putStore_overflows (region : (s.ctx a).sp.inregion = true) (full : 64 ≤ (s.ctx a).fl.rbuf.length + (s.ctx a).fl.wst.length) :
    putStore a via new s = regovf := by
  simp only [putStore, region, full, decide_true, Bool.and_self, if_true]

/-- Outside a region, and in one with a place left, no store overflows. -/
theorem noOverflow (room : (s.ctx a).sp.inregion = true → (s.ctx a).fl.rbuf.length + (s.ctx a).fl.wst.length < 64) :
    ((s.ctx a).sp.inregion && decide (64 ≤ (s.ctx a).fl.rbuf.length + (s.ctx a).fl.wst.length)) = false := by
  cases region : (s.ctx a).sp.inregion with
  | false => rfl
  | true => simpa using room region

/-- With nothing uncommitted a store outside a region is performed, behind the buffer of a committed region (R226). -/
theorem putStore_performed (outside : (s.ctx a).sp.inregion = false) (none : (s.ctx a).fl.pend = []) (before : drained a s = .ok z) :
    putStore a via new s = .ok (storePieces (masterOf a) via new z) := by
  simp only [putStore, outside, none, Bool.false_and, Bool.false_eq_true, if_false, List.getLast?_nil, before, ok_bind]

/-- With nothing uncommitted a store in a region enters its buffer (R225). -/
theorem putStore_buffered (region : (s.ctx a).sp.inregion = true) (room : (s.ctx a).fl.rbuf.length + (s.ctx a).fl.wst.length < 64)
    (none : (s.ctx a).fl.pend = []) :
    putStore a via new s = .ok (s.updFlight a fun f => { f with rbuf := f.rbuf ++ [.store via new] }) := by
  have fits := noOverflow fun _ => room
  simp only [putStore, fits, Bool.false_eq_true, if_false]
  simp only [region, none, List.getLast?_nil, if_true]

section
variable {p : Pend} (last : (s.ctx a).fl.pend.getLast? = some p)
include last

/-- Behind an uncommitted instruction a store to memory, or one of a region, is held for the last of them (R172). -/
theorem putStore_held
    (room : (s.ctx a).sp.inregion = true → (s.ctx a).fl.rbuf.length + (s.ctx a).fl.wst.length < 64)
    (holds : (new.all fun x => isMemory s x.1) = true ∨ (s.ctx a).sp.inregion = true) :
    putStore a via new s = .ok (s.updFlight a fun f => { f with wst := f.wst ++ [(p.id, .store via new)] }) := by
  have each : (new.all fun x => isMemory s x.1 || (s.ctx a).sp.inregion) = true := by
    rcases holds with memory | region
    · simp only [List.all_eq_true] at memory ⊢
      exact fun x mem => by rw [memory x mem, Bool.true_or]
    · simp only [region, Bool.or_true, List.all_eq_true, implies_true]
  simp only [putStore, noOverflow room, last, each, Bool.false_eq_true, if_false, if_true]

/-- A store that is none to memory is performed outside a region once all before it is (R172). -/
theorem putStore_settled (window : ¬ (new.all fun x => isMemory s x.1) = true) (outside : (s.ctx a).sp.inregion = false)
    (before : settled a s = .ok z) : putStore a via new s = .ok (storePieces (masterOf a) via new z) := by
  simp only [putStore, outside, Bool.false_and, last, Bool.or_false, window, Bool.false_eq_true, if_false, before, ok_bind]

end
end

/-! ### st -/

section
variable {sz : StSize} {rel : Bool} {data base : Src} {off : BitVec 7} {s t u z : State} {me : Agent} {b y va : Word}
  {ps : List (Nat × Nat)} (who : s.md.who = me) (readsBase : Reads t me base b) (readsData : Reads t me data y)
  (addr : memAddr b off (stBytes sz) = va)
include who readsBase readsData addr

/-- A misaligned release raises ALIGN (R210, R213). -/
theorem st_misaligned (release : rel = true) (odd : va.toNat % stBytes sz ≠ 0) : Raises (.st sz rel data base off) s t 5 0 va := by
  unfold Reads at readsBase readsData
  refine raises_of_body who (by rw [exec_st, execSt]) ?_
  simp only [readsBase, readsData, ok_bind, addr, release, Bool.not_true, Bool.false_or, beq_false_of_ne odd, check_false, alignF,
    error_bind]

section
variable (aligned : rel = true → va.toNat % stBytes sz = 0)
  (place : resolve (requesterOf t me) .w .write va (stBytes sz) t = .ok (ps, u))
include aligned place

/-- A store whose pieces are translated and permitted goes where `putStore` puts its bytes. -/
theorem st_puts (goes : putStore me ((requesterOf t me).via (l1Of me) va u) (withBytes ps (leBytes (stBytes sz) y.toNat))
    (traceAccess me 2 va u) = .ok z) : Yields (.st sz rel data base off) s t z := by
  have even := aligned_check aligned
  unfold Reads at readsBase readsData
  refine yields_of_body who (by rw [exec_st, execSt]) ?_
  simp only [readsBase, readsData, ok_bind, addr, even, check_true, place, goes]

/-- A store that its region's buffer has no place for raises REGOVF (R225). -/
theorem st_overflows (full : putStore me ((requesterOf t me).via (l1Of me) va u) (withBytes ps (leBytes (stBytes sz) y.toNat))
    (traceAccess me 2 va u) = regovf) : Raises (.st sz rel data base off) s t 8 0 0 := by
  have even := aligned_check aligned
  unfold Reads at readsBase readsData
  refine raises_of_body who (by rw [exec_st, execSt]) ?_
  simp only [readsBase, readsData, ok_bind, addr, even, check_true, place, full, regovf]

end
end

/-- A served store's one piece takes all its bytes. -/
theorem withBytes_one (pa n v : Nat) : withBytes [(pa, n)] (leBytes n v) = [(pa, leBytes n v)] := by
  simp [withBytes, List.take_of_length_le]

/-- Settles O20: the body of a store asks for its pieces, and `putStore` puts the bytes where the region and the uncommitted instructions
before it say. -/
theorem storeCompletion : Obligations.StoreCompletion := by
  unfold Obligations.StoreCompletion
  intro sz rel data base off s t b y
  generalize who : s.md.who = me
  intro me' n va i w readsBase readsData
  subst me'
  have addr : memAddr b off (stBytes sz) = va := memAddr_eq ..
  refine ⟨st_misaligned who readsBase readsData addr, ?_, fun pa same quiet empty aligned served => ?_⟩
  · intro ps u aligned place via new v f memory
    have puts {z : State} (goes : putStore me via new v = .ok z) : Yields i s t z :=
      st_puts who readsBase readsData addr aligned place goes
    exact ⟨fun outside none z before => puts (putStore_performed outside none before),
      fun region full => st_overflows who readsBase readsData addr aligned place (putStore_overflows region full),
      fun region room none => puts (putStore_buffered region room none),
      fun p last room => ⟨fun holds => puts (putStore_held last room holds),
        fun window outside z before => puts (putStore_settled last window outside before)⟩⟩
  · subst same
    obtain ⟨b, traced⟩ := traceAccess_ctx me 2 va t
    have performed := putStore_performed (via := w.via (l1Of me) va t) (new := [(pa, leBytes n y.toNat)])
      (by rw [traced]; exact quiet.region) (by rw [traced]; exact quiet.pend) (drained_empty (by rw [traced]; exact empty))
    rw [← withBytes_one] at performed
    have yields : Yields i t t _ := st_puts who readsBase readsData addr aligned (resolve_served served) performed
    rw [withBytes_one] at yields
    subst who
    exact yields (.inl ⟨quiet, rfl⟩)

end Sys2Proof.Machine
end

section
namespace Sys2Proof.Machine
open Sys2Proof.Safety

/-! ## Atomics (R210, R215, R216) -/

/-! ### The functions of R215 -/

/-- The model's function of an atomic is that of words of `k` bits. -/
def IsAmoFun (g : Nat → Nat → Nat → Nat) (k : Nat) (v : BitVec k) (f : BitVec k → BitVec k) : Prop :=
  ∀ x : BitVec k, g k x.toNat v.toNat = (f x).toNat

section
variable {k : Nat} (v : BitVec k)

theorem amoMinS_isAmoFun (pos : 0 < k) : IsAmoFun amoMinS k v fun x => if x.toInt < v.toInt then x else v := by
  intro x
  simp only [amoMinS, sInt_eq_toInt pos, BitVec.ofNat_toNat, BitVec.setWidth_eq]
  split <;> rfl

theorem amoMaxS_isAmoFun (pos : 0 < k) : IsAmoFun amoMaxS k v fun x => if x.toInt < v.toInt then v else x := by
  intro x
  simp only [amoMaxS, sInt_eq_toInt pos, BitVec.ofNat_toNat, BitVec.setWidth_eq]
  split <;> rfl

theorem min_isAmoFun : IsAmoFun (fun _ x y => min x y) k v fun x => if x.toNat < v.toNat then x else v := by
  intro x
  beta_reduce
  split
  · exact Nat.min_eq_left (Nat.le_of_lt ‹_›)
  · exact Nat.min_eq_right (Nat.not_lt.mp ‹_›)

theorem max_isAmoFun : IsAmoFun (fun _ x y => max x y) k v fun x => if x.toNat < v.toNat then v else x := by
  intro x
  beta_reduce
  split
  · exact Nat.max_eq_right (Nat.le_of_lt ‹_›)
  · exact Nat.max_eq_left (Nat.not_lt.mp ‹_›)

end

/-- Every atomic but cas, with its function of R215 on words of `k` bits. -/
def amoForms (wide acq rel : Bool) (d : Dst) (a : Fin 16) (b : Src) (la : Fin 16) {k : Nat} (v : BitVec k) :
    List (Instr × (BitVec k → BitVec k)) :=
  [(.amoAdd wide acq rel d a b la, fun x => x + v), (.amoAnd wide acq rel d a b la, fun x => x &&& v),
   (.amoOr wide acq rel d a b la, fun x => x ||| v), (.amoXor wide acq rel d a b la, fun x => x ^^^ v),
   (.amoMin wide acq rel d a b la, fun x => if x.toInt < v.toInt then x else v),
   (.amoMax wide acq rel d a b la, fun x => if x.toInt < v.toInt then v else x),
   (.amoMinu wide acq rel d a b la, fun x => if x.toNat < v.toNat then x else v),
   (.amoMaxu wide acq rel d a b la, fun x => if x.toNat < v.toNat then v else x),
   (.amoSwap wide acq rel d a b la, fun _ => v)]

/-- Each of them runs the shared body with its function. -/
theorem amoForms_run (wide acq rel : Bool) (d : Dst) (a : Fin 16) (b : Src) (la : Fin 16) {k : Nat} (pos : 0 < k) (v : BitVec k) :
    ∀ f ∈ amoForms wide acq rel d a b la v,
      ∃ g, (∀ s, exec f.1 s = perform f.1 (amoForm wide d a b la g) s) ∧ IsAmoFun g k v f.2 := by
  simp only [amoForms, List.forall_mem_cons, List.not_mem_nil, false_implies, implies_true, and_true]
  exact ⟨⟨_, fun _ => rfl, fun x => (BitVec.toNat_add x v).symm⟩, ⟨_, fun _ => rfl, fun x => (BitVec.toNat_and x v).symm⟩,
    ⟨_, fun _ => rfl, fun x => (BitVec.toNat_or x v).symm⟩, ⟨_, fun _ => rfl, fun x => (BitVec.toNat_xor x v).symm⟩,
    ⟨_, fun _ => rfl, amoMinS_isAmoFun v pos⟩, ⟨_, fun _ => rfl, amoMaxS_isAmoFun v pos⟩, ⟨_, fun _ => rfl, min_isAmoFun v⟩,
    ⟨_, fun _ => rfl, max_isAmoFun v⟩, ⟨_, fun _ => rfl, fun _ => rfl⟩⟩

/-! ### The place of an atomic -/

theorem amoBytes_pos (wide : Bool) : 0 < 8 * amoBytes wide := by cases wide <;> decide

/-- What an atomic reads fits its width. -/
theorem readPhysN_lt (s : State) (pa n : Nat) : readPhysN s pa n < 2 ^ (8 * n) := by
  have bound := leNat_lt (readPhys s pa n)
  rwa [length_readPhys] at bound

section
variable {wide : Bool} {a : Agent} {va : Word} {z u : State} {pa m : Nat} {rest : List (Nat × Nat)}

theorem amoPlace_misaligned (odd : va.toNat % amoBytes wide ≠ 0) : amoPlace wide a va z = alignF va := by
  simp only [amoPlace, beq_false_of_ne odd, check_false, alignF, error_bind]

theorem amoPlace_ok (aligned : va.toNat % amoBytes wide = 0)
    (place : resolve (requesterOf z a) .atomic .write va (amoBytes wide) z = .ok ((pa, m) :: rest, u))
    (memory : ∀ p ∈ (pa, m) :: rest, isMemory z p.1 = true) (sound : poisoned u ((pa, m) :: rest) = false) :
    amoPlace wide a va z = .ok (pa, u) := by
  have every : ((pa, m) :: rest).all (fun p => isMemory z p.1) = true := List.all_eq_true.mpr memory
  simp only [amoPlace, aligned, beq_self_eq_true, check_true, ok_bind, place, every, sound, Bool.not_false]
  rfl

end

/-! ### The forms -/

/-- The state after an atomic whose write or read has left `u`, with the old value in its destination (R215). -/
def amoBack (me : Agent) (va : Word) (la : Fin 16) (d : Dst) (old : Nat) (u : State) : State :=
  windowResult (traceAccess me 1 va u) me la.val d (wd old)

section
variable {wide acq rel : Bool} {d : Dst} {r a : Fin 16} {b : Src} {la : Fin 16} {s t u z : State} {me : Agent} {va y : Word} {pa : Nat}
  (who : s.md.who = me) (readsAddr : Reads t me (.n a) va) (readsData : Reads t me b y) (performed : drained me t = .ok z)
include who readsAddr readsData performed

/-- A misaligned atomic raises ALIGN (R210). -/
theorem amo_misaligned {i : Instr} {g : Nat → Nat → Nat → Nat} (runs : ∀ s, exec i s = perform i (amoForm wide d a b la g) s)
    (odd : va.toNat % amoBytes wide ≠ 0) : Raises i s t 5 0 va := by
  unfold Reads at readsAddr readsData
  refine raises_of_body who (runs s) ?_
  simp only [amoForm, amoAt, readsAddr, readsData, ok_bind, performed, amoPlace_misaligned odd, alignF, error_bind]

/-- An atomic whose place is found writes its function of the old value and returns that. -/
theorem amo_completes {i : Instr} {g : Nat → Nat → Nat → Nat} {f : BitVec (8 * amoBytes wide) → BitVec (8 * amoBytes wide)}
    (runs : ∀ s, exec i s = perform i (amoForm wide d a b la g) s) (function : IsAmoFun g _ (BitVec.ofNat _ y.toNat) f)
    (place : amoPlace wide me va z = .ok (pa, u)) :
    let old := readPhysN u pa (amoBytes wide)
    Yields i s t (amoBack me va la d old
      (writePhys ((requesterOf t me).via none va u) pa (leBytes (amoBytes wide) (f (BitVec.ofNat _ old)).toNat) u)) := by
  intro old
  have new : g (8 * amoBytes wide) old (y.toNat % 2 ^ (8 * amoBytes wide)) = (f (BitVec.ofNat _ old)).toNat := by
    rw [← function, BitVec.toNat_ofNat, BitVec.toNat_ofNat, Nat.mod_eq_of_lt (readPhysN_lt u pa (amoBytes wide))]
  unfold Reads at readsAddr readsData
  refine yields_of_body who (runs s) ?_
  simp only [amoForm, amoAt, readsAddr, readsData, ok_bind, performed, place, amoBack, ← new]
  rfl

section
variable {e : Word} (readsExpected : Reads t me (.n r) e)
include readsExpected

theorem cas_misaligned (odd : va.toNat % amoBytes wide ≠ 0) : Raises (.amoCas wide acq rel r a b la) s t 5 0 va := by
  unfold Reads at readsAddr readsData readsExpected
  refine raises_of_body who (by rw [exec_amoCas, execAmoCas]) ?_
  simp only [readsAddr, readsData, readsExpected, ok_bind, performed, amoPlace_misaligned odd, alignF, error_bind]

/-- A cas writes where the old value is the expected one, and only reads elsewhere (R215). -/
theorem cas_completes (place : amoPlace wide me va z = .ok (pa, u)) :
    let n := amoBytes wide
    let old := readPhysN u pa n
    let via := (requesterOf t me).via none va u
    Yields (.amoCas wide acq rel r a b la) s t (amoBack me va la (.n r) old
      (if BitVec.ofNat (8 * n) old = BitVec.ofNat (8 * n) e.toNat then
        writePhys via pa (leBytes n (BitVec.ofNat (8 * n) y.toNat).toNat) u
      else loadEffects via [(pa, n)] u)) := by
  intro n old via
  have same : BitVec.ofNat (8 * n) old = BitVec.ofNat (8 * n) e.toNat ↔ old = e.toNat % 2 ^ (8 * n) := by
    rw [← BitVec.toNat_inj, BitVec.toNat_ofNat, BitVec.toNat_ofNat, Nat.mod_eq_of_lt (readPhysN_lt u pa n)]
  unfold Reads at readsAddr readsData readsExpected
  refine yields_of_body who (by rw [exec_amoCas, execAmoCas]) ?_
  simp only [readsAddr, readsData, readsExpected, ok_bind, performed, place, amoBack, same, BitVec.toNat_ofNat]
  rfl

end
end

/-- Settles O22: nine atomics are one body with R215's function, and cas chooses between the write and the read. -/
theorem amoResults : Obligations.AmoResults := by
  unfold Obligations.AmoResults
  intro wide acq rel d r a b la s t va y
  generalize who : s.md.who = me
  intro me' n k w v back write seen forms cas readsAddr readsData
  subst me'
  have run := amoForms_run wide acq rel d a b la (amoBytes_pos wide) (BitVec.ofNat (8 * amoBytes wide) y.toNat)
  -- What every form comes to, once its place is found.
  have complete {z u : State} {pa : Nat} (performed : drained me t = .ok z) (place : amoPlace wide me va z = .ok (pa, u)) :
      let old := readPhysN u pa n
      let x := BitVec.ofNat k old
      (∀ f ∈ forms, Yields f.1 s t (back d old (write pa (f.2 x) u))) ∧
        ∀ e, Reads t me (.n r) e → Yields cas s t (back (.n r) old (if x = BitVec.ofNat k e.toNat then write pa v u else seen pa u)) := by
    intro old x
    refine ⟨fun f mem => ?_, fun e expected => cas_completes who readsAddr readsData performed expected place⟩
    obtain ⟨g, runs, function⟩ := run f mem
    exact amo_completes who readsAddr readsData performed runs function place
  refine ⟨fun z performed odd => ⟨fun f mem => ?_, fun e expected => cas_misaligned who readsAddr readsData performed expected odd⟩,
    ?_, ?_⟩
  · obtain ⟨g, runs, -⟩ := run f mem
    exact amo_misaligned who readsAddr readsData performed runs odd
  · intro z u pa m rest performed aligned place memory sound old x
    obtain ⟨plain, swaps⟩ := complete performed (amoPlace_ok aligned place memory sound)
    refine ⟨plain, fun e expected => ⟨fun equal => ?_, fun differs => ?_⟩⟩
    · have yields := swaps e expected
      rwa [if_pos equal] at yields
    · have yields := swaps e expected
      rwa [if_neg differs] at yields
  · intro pa same empty aligned served old x
    subst same
    obtain ⟨plain, swaps⟩ := complete (drained_empty empty) (amoPlace_ok (m := n) (rest := []) aligned (resolve_served served)
      (by simpa using served.memory) served.clean)
    subst who
    exact ⟨fun f mem quiet => plain f mem (.inl ⟨quiet, rfl⟩), fun e expected quiet => swaps e expected (.inl ⟨quiet, rfl⟩)⟩

end Sys2Proof.Machine
end

section
namespace Sys2Proof.Machine
open Sys2Proof.Safety

/-! ## Waits (R120, R144, R218 to R223) -/

/-! ### wait.a -/

/-- An armed monitor is among the monitors. -/
theorem setMonitor_mem (m : Monitor) (s : State) : m ∈ (setMonitor m s).xl.monitors := by
  unfold setMonitor
  split
  · exact List.contains_iff_mem.mp ‹_›
  · exact List.mem_append_right _ (List.mem_singleton_self m)

section
variable {d : Dst} {a b : Src} {s t u v : State} {me : Agent} {va e : Word} {pa m : Nat} {rest : List (Nat × Nat)}

/-- The state of a wait.a behind its read, with its monitor of before disarmed (R218). -/
def waitaSeen (t v : State) (me : Agent) (va : Word) (ps : List (Nat × Nat)) : State :=
  clearMonitor (fun x => x.who == .agent me) (traceAccess me 1 va (loadEffects ((requesterOf t me).via (l1Of me) va v) ps v))

variable (given : Given t me [(a, va), (b, e)]) (aligned : va.toNat % 8 = 0)
  (place : resolve (requesterOf t me) .r .read va 8 t = .ok ((pa, m) :: rest, u))
  (plain : anyIo u (requesterOf t me) ((pa, m) :: rest) = false) (sound : poisoned u ((pa, m) :: rest) = false)
  (before : settled me u = .ok v) (who : s.md.who = me)
include given aligned place plain sound before who

/-- A word that differs from the expected one is written (R218). -/
theorem waita_differs (differs : wd (leNat (ownBytes v me ((pa, m) :: rest))) ≠ e) :
    Yields (.waita d a b) s t
      (writeDst (waitaSeen t v me va ((pa, m) :: rest)) me d (wd (leNat (ownBytes v me ((pa, m) :: rest))))) := by
  have read : operands me [a, b] t = .ok [va, e] := operands_given given
  refine yields_of_body who (by rw [exec_waita, execWaita]) ?_
  simp only [read, ok_bind, List.getD_cons_zero, List.getD_cons_succ, aligned, beq_self_eq_true, check_true, place, plain, sound, before,
    Bool.not_false, bne_iff_ne, ne_eq, differs, not_false_eq_true, if_true, waitaSeen]

/-- With the expected word the agent parks behind its monitor (R218, R219). -/
theorem waita_parks (equal : wd (leNat (ownBytes v me ((pa, m) :: rest))) = e) (stops : Stops (.waita d a b) s t) :
    ∃ r, exec (.waita d a b) s = .next r ∧ (r.ctx me).st = .parked ∧ (r.ctx me).why = some (.waita (pa / 64)) ∧
      (r.ctx me).latch = some [va, e] ∧ ∃ x ∈ r.xl.monitors, x.sector = pa / 64 ∧ x.who = .agent me := by
  have read : operands me [a, b] t = .ok [va, e] := operands_given given
  obtain ⟨r, next, parked, why, latch, xl, -⟩ := exec_parksWith (i := .waita d a b) (w := .waita (pa / 64)) (ws := [va, e])
    (u := setMonitor { sector := pa / 64, who := .agent me } (waitaSeen t v me va ((pa, m) :: rest))) who
    (by rw [exec_waita, execWaita]) stops (by
      simp only [read, ok_bind, List.getD_cons_zero, List.getD_cons_succ, aligned, beq_self_eq_true, check_true, place, plain, sound,
        before, Bool.not_false, bne_iff_ne, ne_eq, equal, not_true_eq_false, if_false, waitaSeen]
      rfl)
  exact ⟨r, next, parked, why, latch, _, xl ▸ setMonitor_mem .., rfl, rfl⟩

end

/-! ### wait.p -/

theorem toNat_append_add {n m : Nat} (x : BitVec n) (y : BitVec m) : (x ++ y).toNat = x.toNat * 2 ^ m + y.toNat := by
  rw [BitVec.toNat_append, ← Nat.shiftLeft_add_eq_or_of_lt y.isLt, Nat.shiftLeft_eq]

/-- The fields of a completion word (R116). -/
theorem completionWord_eq (eng : BitVec 5) (seq : BitVec 11) (status : BitVec 8) :
    completionWord eng seq status.toNat = eng ++ seq ++ status ++ (0 : BitVec 40) := by
  have heng := eng.isLt
  have hseq := seq.isLt
  have hstatus := status.isLt
  apply BitVec.eq_of_toNat_eq
  rw [completionWord, BitVec.toNat_ofNat]
  simp only [toNat_append_add, BitVec.ofNat_eq_ofNat, BitVec.toNat_ofNat, Nat.zero_mod]
  omega

theorem completionWord_done (eng : BitVec 5) (seq : BitVec 11) : completionWord eng seq 0 = eng ++ seq ++ (0 : BitVec 48) := by
  have heng := eng.isLt
  have hseq := seq.isLt
  apply BitVec.eq_of_toNat_eq
  rw [completionWord, BitVec.toNat_ofNat]
  simp only [toNat_append_add, BitVec.ofNat_eq_ofNat, BitVec.toNat_ofNat, Nat.zero_mod]
  omega

/-- The state whose outstanding list has lost a request (R220). -/
def requestGone (me : Agent) (eng : BitVec 5) (seq : BitVec 11) (t : State) : State :=
  t.updCtx me fun y => { y with outst := y.outst.filter fun r => !(r.eng == eng && r.seq == seq) }

/-- What a wait.p on a promise comes to, by what the outstanding list says of its request (R120, R220, R221). -/
def waitpOutcome (d : Dst) (me : Agent) (eng : BitVec 5) (seq : BitVec 11) (due : BitVec 48) (t : State) :
    Option ReqSt → Except Stop State
  | none => .ok (writeDst t me d (eng ++ seq ++ (0 : BitVec 48)))
  | some .cancelled => .ok (writeDst (requestGone me eng seq t) me d (eng ++ seq ++ (1 : BitVec 8) ++ (0 : BitVec 40)))
  | some (.faulted k c v) => .error (.faultIn k c v (requestGone me eng seq t))
  | some .running =>
    if duePassed t due.toNat && lateAllowed t me then .error (.trap 1 (lateWord t (ownId t me) eng seq) (t.arch me).pc)
    else .error (parkWith me [eng ++ seq ++ due] (.waitp due) t)

theorem waitp_body {d : Dst} {a : Src} {me : Agent} {t : State} {eng : BitVec 5} {seq : BitVec 11} {due : BitVec 48}
    (given : Given t me [(a, eng ++ seq ++ due)]) (engine : eng = 0 ∨ eng = 1 ∨ 16 ≤ eng.toNat) :
    ∃ body, (∀ s, exec (.waitp d a) s = perform (.waitp d a) body s) ∧
      body me t = waitpOutcome d me eng seq due t
        (((t.ctx me).outst.find? fun r => r.eng == eng && r.seq == seq).map fun r => r.st) := by
  obtain ⟨feng, fseq, fdue⟩ := promise_fields eng seq due
  have read : operands me [a] t = .ok [eng ++ seq ++ due] := operands_given given
  have engOk : promiseEngOk (eng ++ seq ++ due) = true := by
    simp only [promiseEngOk, feng, Bool.or_eq_true, decide_eq_true_iff, or_assoc]
    exact engine.imp (congrArg BitVec.toNat) (Or.imp_left (congrArg BitVec.toNat))
  refine ⟨_, fun s => by rw [exec_waitp, execWaitp], ?_⟩
  simp only [read, ok_bind, List.getD_cons_zero, engOk, check_true, feng, fseq, fdue, BitVec.ofNat_toNat, BitVec.setWidth_eq]
  cases (t.ctx me).outst.find? fun r => r.eng == eng && r.seq == seq with
  | none => simp only [Option.map_none, waitpOutcome, completionWord_done]
  | some r =>
    simp only [Option.map_some]
    cases r.st with
    | cancelled => simp only [waitpOutcome, requestGone, ← completionWord_eq]; rfl
    | faulted | running => rfl

section
variable {d : Dst} {a : Src} {s t : State} {me : Agent} {eng : BitVec 5} {seq : BitVec 11} {due : BitVec 48}
  (who : s.md.who = me) (given : Given t me [(a, eng ++ seq ++ due)]) (engine : eng = 0 ∨ eng = 1 ∨ 16 ≤ eng.toNat)
include who given engine

/-- A request that is no longer outstanding has ended (R220). -/
theorem waitp_ended (unlisted : (t.ctx me).outst.find? (fun r => r.eng == eng && r.seq == seq) = none) :
    Yields (.waitp d a) s t (writeDst t me d (eng ++ seq ++ (0 : BitVec 48))) := by
  obtain ⟨body, runs, effect⟩ := waitp_body (d := d) given engine
  exact yields_of_body who (runs s) (by rw [effect, unlisted]; rfl)

section
variable {r : OutReq} (listed : (t.ctx me).outst.find? (fun r => r.eng == eng && r.seq == seq) = some r)
include listed

/-- The observation of a cancelled request takes it off the list (R220). -/
theorem waitp_cancelled (cancelled : r.st = .cancelled) :
    Yields (.waitp d a) s t (writeDst (requestGone me eng seq t) me d (eng ++ seq ++ (1 : BitVec 8) ++ (0 : BitVec 40))) := by
  obtain ⟨body, runs, effect⟩ := waitp_body (d := d) given engine
  exact yields_of_body who (runs s) (by rw [effect, listed, Option.map_some, cancelled]; rfl)

/-- That of a faulted one raises the request's fault (R121, R221). -/
theorem waitp_faulted {kind cause : Nat} {value : Word} (faulted : r.st = .faulted kind cause value) (stops : Stops (.waitp d a) s t) :
    exec (.waitp d a) s = .next (takeFault me kind cause value (requestGone me eng seq t)) := by
  obtain ⟨body, runs, effect⟩ := waitp_body (d := d) given engine
  have stop : body me t = .error (.faultIn kind cause value (requestGone me eng seq t)) := by
    rw [effect, listed, Option.map_some, faulted]; rfl
  subst who
  obtain ⟨issues, alone⟩ := stops
  rw [runs, perform_error (gate_go_of_issues issues) stop, stopBehind_alone alone]
  rfl

section
variable (runs : r.st = .running) (stops : Stops (.waitp d a) s t)
include runs stops

/-- A running request whose DUE has passed is LATE, where a handler can take that (R120). -/
theorem waitp_takesLate (passed : duePassed t due.toNat = true) (allowed : lateAllowed t me = true) :
    ∃ u, exec (.waitp d a) s = .next u ∧ TrapTaken me (atStop s) u 1 (lateWord t (ownId t me) eng seq) (t.arch me).pc := by
  obtain ⟨body, form, effect⟩ := waitp_body (d := d) given engine
  exact exec_takesTrap who (form s) stops (by rw [effect, listed, Option.map_some, runs, waitpOutcome, passed, allowed]; rfl)

/-- Any other running request is waited for. -/
theorem waitp_parks (early : (duePassed t due.toNat && lateAllowed t me) = false) :
    ∃ u, exec (.waitp d a) s = .next u ∧ (u.ctx me).st = .parked ∧ (u.ctx me).why = some (.waitp due) ∧
      (u.ctx me).latch = some [eng ++ seq ++ due] := by
  obtain ⟨body, form, effect⟩ := waitp_body (d := d) given engine
  obtain ⟨u, next, parked, why, latch, -⟩ := exec_parksWith who (form s) stops
    (by rw [effect, listed, Option.map_some, runs, waitpOutcome, early]; rfl)
  exact ⟨u, next, parked, why, latch⟩

end
end
end

/-- Settles O23: a wait.a goes by the word that it reads, a wait.p by what the outstanding list says of its request. -/
theorem waitCompletions : Obligations.WaitCompletions := by
  unfold Obligations.WaitCompletions
  intro d a b s t va e eng seq due
  generalize who : s.md.who = me
  intro me' w p named off seen read parks
  subst me'
  refine ⟨fun given aligned => ⟨?_, fun pa same quiet empty served differs => ?_⟩,
    fun given engine => ⟨fun unlisted => waitp_ended who given engine unlisted, fun r listed =>
      ⟨fun cancelled => waitp_cancelled who given engine listed cancelled,
        fun k c v faulted stops => waitp_faulted who given engine listed faulted stops,
        fun runs passed allowed stops => ?_, fun runs early stops => waitp_parks who given engine listed runs stops early⟩⟩⟩
  · intro pa m rest u v ps place plain sound before
    exact ⟨fun differs => waita_differs given aligned place plain sound before who differs,
      fun equal stops => waita_parks given aligned place plain sound before who equal stops⟩
  · subst same
    have yields : Yields (.waita d a b) t t _ := waita_differs given aligned (resolve_served served) (anyIo_served served) served.clean
      (settled_empty quiet.pend empty) who differs
    subst who
    exact yields (.inl ⟨quiet, rfl⟩)
  · obtain ⟨u, next, cause, -, pc, inside, regs⟩ := waitp_takesLate who given engine listed runs stops passed allowed
    exact ⟨u, next, cause, pc, inside, by rw [regs]⟩

/-! ### wait.park -/

section
variable {d : Dst} {a b : Src} {s t : State} {me : Agent} {m due : Word} (who : s.md.who = me) (given : Given t me [(a, m), (b, due)])
include who given

/-- A mask above 16 bits is ILLEGAL (R223). -/
theorem park_illegal (high : 2 ^ 16 ≤ m.toNat) : Raises (.park d a b) s t 1 0 0 := by
  have read : operands me [a, b] t = .ok [m, due] := operands_given given
  refine raises_of_body who (by rw [exec_park, execPark]) ?_
  simp only [read, ok_bind, List.getD_cons_zero, List.getD_cons_succ, decide_eq_false (Nat.not_lt.mpr high), check_false, illegal, error_bind]

/-- With neither a mask nor a deadline there is nothing to wait for. -/
theorem park_nothing (noMask : m = 0) (noDeadline : due = 0) : Yields (.park d a b) s t (writeDst t me d 0) := by
  have read : operands me [a, b] t = .ok [m, due] := operands_given given
  subst noMask noDeadline
  refine yields_of_body who (by rw [exec_park, execPark]) ?_
  simp only [read, ok_bind, List.getD_cons_zero, List.getD_cons_succ]
  rfl

section
variable (low : m.toNat < 2 ^ 16)
include low

/-- Landed deposits of the mask, or a passed deadline, end the wait. -/
theorem park_ends (ends : (t.arch me).deps &&& m.setWidth 16 ≠ 0 ∨ (due ≠ 0 ∧ due.toNat ≤ t.ctc.toNat)) :
    Yields (.park d a b) s t (writeDst (t.updArch me fun y => { y with deps := y.deps &&& ~~~ m.setWidth 16 }) me d
      (((t.arch me).deps &&& m.setWidth 16).zeroExtend 64)) := by
  have read : operands me [a, b] t = .ok [m, due] := operands_given given
  have nonempty : (m.setWidth 16 == 0 && due == 0) = false := by
    rcases ends with landed | ⟨deadline, -⟩
    · have mask : m.setWidth 16 ≠ 0 := fun none => landed (by rw [none]; exact BitVec.and_zero)
      rw [beq_false_of_ne mask, Bool.false_and]
    · rw [beq_false_of_ne deadline, Bool.and_false]
  have ended : ((t.arch me).deps &&& m.setWidth 16 != 0 || (due != 0 && !t.ctc.ult due)) = true := by
    rcases ends with landed | ⟨deadline, passed⟩
    · rw [bne_iff_ne.mpr landed, Bool.true_or]
    · have reached : t.ctc.ult due = false := decide_eq_false (Nat.not_lt.mpr passed)
      rw [bne_iff_ne.mpr deadline, reached, Bool.not_false, Bool.and_true, Bool.or_true]
  refine yields_of_body who (by rw [exec_park, execPark]) ?_
  simp only [read, ok_bind, List.getD_cons_zero, List.getD_cons_succ, low, decide_true, check_true, BitVec.ofNat_toNat, nonempty, ended,
    Bool.false_eq_true, if_false, if_true]

/-- Until then the agent parks with what it read. -/
theorem park_parks (something : ¬ (m = 0 ∧ due = 0)) (unlanded : (t.arch me).deps &&& m.setWidth 16 = 0)
    (early : ¬ (due ≠ 0 ∧ due.toNat ≤ t.ctc.toNat)) (stops : Stops (.park d a b) s t) :
    ∃ u, exec (.park d a b) s = .next u ∧ (u.ctx me).st = .parked ∧ (u.ctx me).why = some (.deposit due) ∧
      (u.ctx me).latch = some [m, due] := by
  have read : operands me [a, b] t = .ok [m, due] := operands_given given
  have noMask : m.setWidth 16 = (0 : BitVec 16) ↔ m = 0 := by
    rw [← BitVec.toNat_inj, ← BitVec.toNat_inj, BitVec.toNat_setWidth, Nat.mod_eq_of_lt low]
    rfl
  have nonempty : (m.setWidth 16 == 0 && due == 0) = false := by
    rw [Bool.eq_false_iff, ne_eq, Bool.and_eq_true, beq_iff_eq, beq_iff_eq, noMask]
    exact something
  have goesOn : ((t.arch me).deps &&& m.setWidth 16 != 0 || (due != 0 && !t.ctc.ult due)) = false := by
    simpa [unlanded, BitVec.ult] using early
  obtain ⟨u, next, parked, why, latch, -⟩ := exec_parksWith (w := .deposit due) (ws := [m, due]) (u := t) who
    (by rw [exec_park, execPark]) stops (by
      simp only [read, ok_bind, List.getD_cons_zero, List.getD_cons_succ, low, decide_true, check_true, BitVec.ofNat_toNat, nonempty, goesOn,
        Bool.false_eq_true, if_false])
  exact ⟨u, next, parked, why, latch⟩

end
end

/-- Settles O24: the body asks for the mask, then for the landed deposits and the deadline. -/
theorem parkForm : Obligations.ParkForm := by
  unfold Obligations.ParkForm
  intro d a b s t m due
  generalize who : s.md.who = me
  intro me' i mask landed out given
  subst me'
  exact ⟨park_illegal who given, park_nothing who given, park_ends who given, park_parks who given⟩

end Sys2Proof.Machine
end

section
namespace Sys2Proof.Machine
open Sys2Proof.Safety

/-! ## Cache maintenance, prefetch and fences (R150, R228 to R231) -/

/-! ### flushr and invr -/

/-- What an invr does with each sector: a strand's drops its own core's copy (R230). -/
def invrWork : Agent → Nat → State → State
  | .strand q c _ => dropL1 fun q' c' => q' == q && c' == c
  | .hart .. | .weir _ | .cmd _ | .sec => fun _ s => s

theorem exec_flushr_maintains (a b : Src) (s : State) :
    exec (.flushr a b) s = perform (.flushr a b) (maintainForm a b fun _ => flushSector) s := by
  rw [exec_flushr, execFlushr]

theorem exec_invr_maintains (a b : Src) (s : State) : exec (.invr a b) s = perform (.invr a b) (maintainForm a b invrWork) s :=
  (exec_invr (a := a) (b := b) (s := s)).trans rfl

section
variable {a b : Src} {i : Instr} {f : Agent → Nat → State → State} {s t z : State} {me : Agent} {x len : Word}
  (who : s.md.who = me) (runs : exec i s = perform i (maintainForm a b f) s) (readsBase : Reads t me a x) (readsLen : Reads t me b len)
include who runs readsBase readsLen

/-- Maintenance of no bytes, or that has completed, retires (R229). -/
theorem maintenance_retires (completed : len = 0 ∨ (t.ctx me).answer.isSome = true) : Yields i s t t := by
  have ended : (len == 0 || (t.ctx me).answer.isSome) = true := by simpa using completed
  unfold Reads at readsBase readsLen
  refine yields_of_body who runs ?_
  simp only [maintainForm, readsBase, readsLen, ok_bind, ended, if_true]

/-- Maintenance of a range does its work and parks until CACHE_MAINTENANCE_COMPLETE, which is on its way (R229, R230). -/
theorem maintenance_parks {g : Nat → State → State} (work : f me = g) (nonempty : len ≠ 0)
    (unanswered : (t.ctx me).answer = none) (performed : drained me t = .ok z) (stops : Stops i s t) :
    exec i s = .next (parkAgent me .flush (keepWindows me (pcTrigger s me).1 (post (.cacheMaintenanceComplete me)
      (maintain g (requesterOf t me) (rangeEnd x len) (len.toNat / 65536 + 2) x.toNat z)))) := by
  have pending : (len == 0 || (t.ctx me).answer.isSome) = false := by
    rw [beq_false_of_ne nonempty, unanswered, Option.isSome_none, Bool.or_self]
  unfold Reads at readsBase readsLen
  subst work
  refine exec_holds who runs stops ?_
  simp only [maintainForm, readsBase, readsLen, ok_bind, pending, Bool.false_eq_true, if_false, performed]

end

/-! ### pref -/

section
variable {a : Src} {s t u : State} {me : Agent} {x : Word} (who : s.md.who = me) (reads : Reads t me a x)
include who reads

/-- A prefetch takes a sector that it may read, and that is not IO, into the L1 (R230). -/
theorem pref_takes {pa : Nat} (found : xlatPiece (requesterOf t me) .read x t = (.ok pa, u))
    (permitted : allowed u (requesterOf t me).master (requesterOf t me).part (requesterOf t me).command .r pa = true)
    (cached : domain u (requesterOf t me).part pa ≠ .io) :
    Yields (.pref a) s t (lineRead ((requesterOf t me).via (l1Of me) x u) (pa / 64) u) := by
  unfold Reads at reads
  refine yields_of_body who (by rw [exec_pref, execPref]) ?_
  simp only [reads, ok_bind, found, permitted, bne_iff_ne.mpr cached, Bool.and_self, if_true]

/-- One that does not translate has no effect. -/
theorem pref_passes {e : Stop} (unfound : xlatPiece (requesterOf t me) .read x t = (.error e, u)) : Yields (.pref a) s t t := by
  unfold Reads at reads
  refine yields_of_body who (by rw [exec_pref, execPref]) ?_
  simp only [reads, ok_bind, unfound]

end

/-! ### fence -/

section
variable {s t z : State} {me : Agent} (who : s.md.who = me)
include who

theorem fence_acquires : Yields (.fence .acq) s t (dropClean me t) :=
  yields_of_body who (by rw [exec_fence, execFence]) rfl

section
variable (performed : drained me t = .ok z)
include performed

theorem fence_releases : Yields (.fence .rel) s t z :=
  yields_of_body who (by rw [exec_fence, execFence]) (by simp only [reduceCtorEq, if_false, performed, ok_bind, if_true])

theorem fence_orders : Yields (.fence .full) s t (dropClean me z) :=
  yields_of_body who (by rw [exec_fence, execFence]) (by simp only [reduceCtorEq, if_false, performed, ok_bind])

end
end

/-! ### The write-back of a sector (R150) -/

theorem flushSector_mem (sector : Nat) (s : State) : (flushSector sector s).mm.mem = s.mm.mem := by
  simp only [flushSector, putLine_mem, arrBack_mem]

/-- The array of memory with a sector written back to it. -/
theorem flushSector_arr (sector : Nat) (s : State) :
    (flushSector sector s).mm.arr = writeCells s.mm.arr (64 * sector) (readPhys s (64 * sector) 64) := by
  simp only [flushSector, putLine_arr, arrBack]

/-- A sector's bytes are what agents read there. -/
theorem readPhys_getD (s : State) {pa n k : Nat} (inside : k < n) : (readPhys s pa n).getD k 0 = byteAt s (pa + k) := by
  simp only [readPhys, readCells_eq, byteAt, List.getD_eq_getElem?_getD, List.getElem?_map, List.getElem?_range inside, Option.map_some,
    Option.getD_some]

section
variable {sector : Nat} {s : State} (canonical : MemoryWf s)
include canonical

theorem flushSector_inside {k : Nat} (inside : k < 64) :
    readCell (flushSector sector s).mm.arr (64 * sector + k) = byteAt s (64 * sector + k) := by
  rw [flushSector_arr, readCell_writeCells _ _ _ canonical.2, length_readPhys, if_pos (by omega), Nat.add_sub_cancel_left,
    readPhys_getD s inside]

theorem flushSector_outside {a : Nat} (out : a < 64 * sector ∨ 64 * sector + 64 ≤ a) :
    readCell (flushSector sector s).mm.arr a = readCell s.mm.arr a := by
  rw [flushSector_arr]
  exact readCell_writeCells_outside canonical.2 (by rwa [length_readPhys])

end

/-- Settles O26: both maintenance forms are one body; the write-back copies the sector's bytes from memory to the array. -/
theorem cacheForms : Obligations.CacheForms := by
  unfold Obligations.CacheForms
  refine ⟨fun a b s t x len => ?_, fun sector s canonical =>
    ⟨flushSector_mem sector s, fun k inside => flushSector_inside canonical inside, fun a out => flushSector_outside canonical out⟩⟩
  generalize who : s.md.who = me
  intro me' w
  subst me' w
  have flushRuns := exec_flushr_maintains a b s
  have invRuns := exec_invr_maintains a b s
  refine ⟨fun readsBase readsLen => ⟨fun completed => ⟨maintenance_retires who flushRuns readsBase readsLen completed,
      maintenance_retires who invRuns readsBase readsLen completed⟩, ?_⟩,
    fun reads => ⟨fun pa u found permitted cached => pref_takes who reads found permitted cached, fun e u => pref_passes who reads⟩,
    fence_acquires who, fun z performed => ⟨fence_releases who performed, fence_orders who performed⟩⟩
  intro z nonempty unanswered performed work
  subst work
  exact ⟨maintenance_parks who flushRuns readsBase readsLen rfl nonempty unanswered performed, fun q c k strand =>
    maintenance_parks who invRuns readsBase readsLen (congrArg invrWork strand) nonempty unanswered performed⟩

end Sys2Proof.Machine
end

section
namespace Sys2Proof.Machine
open Sys2Proof.Safety

/-! ## vtget, vtset and announce (R238 to R240) -/

section
variable {d : Dst} {a : Src} {s t : State} {v : Word} {q : Fin 64} {c : Fin 4} {k : Fin 24} (who : s.md.who = .strand q c k)
include who

/-- A strand reads its core's VT (R238). -/
theorem vtget_completes :
    Yields (.vtget d) s t (writeDst t (.strand q c k) d (if t.ltm (.strand q c k) then (t.core q c).lt.vt else 0)) :=
  yields_of_body who (by rw [exec_vtget, execVtget]) rfl

/-- The VT that a vtset on operand `v` leaves: raised to the least of `v`, the earliest waiting stamp and the least input bound less 1
(R239). -/
def raisedVt (t : State) (q : Fin 64) (c : Fin 4) (v : Word) : Word :=
  let lt := (t.core q c).lt
  let stamp := match waitingEvents t q c with | e :: _ => e.stamp.toNat | [] => 2 ^ 64 - 1
  let bound := match leastBound lt with | some b => b - 1 | none => 2 ^ 64 - 1
  wd (max lt.vt.toNat (min v.toNat (min stamp bound)))

variable (reads : Reads t (.strand q c k) a v)
include reads

section
variable (timed : t.ltm (.strand q c k) = true)
include timed

/-- A vtset raises VT, writes it and announces it (R239). -/
theorem vtset_completes :
    Yields (.vtset d a) s t (announceAll false q c (raisedVt t q c v)
      (writeDst (t.updCore q c fun x => { x with lt := { x.lt with vt := raisedVt t q c v } }) (.strand q c k) d (raisedVt t q c v))) := by
  unfold Reads at reads
  refine yields_of_body who (by rw [exec_vtset, execVtset]) ?_
  simp only [reads, ok_bind, needLtm, timed, check_true, strandCore]
  rfl

/-- An announce sends its operand (R240). -/
theorem announce_completes : Yields (.announce a) s t (announceAll false q c v t) := by
  unfold Reads at reads
  refine yields_of_body who (by rw [exec_announce, execAnnounce]) ?_
  simp only [reads, ok_bind, needLtm, timed, check_true, strandCore]

end

section
variable (plain : t.ltm (.strand q c k) = false)
include plain

theorem vtset_refused : Raises (.vtset d a) s t 7 4 0 := by
  unfold Reads at reads
  refine raises_of_body who (by rw [exec_vtset, execVtset]) ?_
  simp only [reads, ok_bind, needLtm, plain, check_false, perm, error_bind]

theorem announce_refused : Raises (.announce a) s t 7 4 0 := by
  unfold Reads at reads
  refine raises_of_body who (by rw [exec_announce, execAnnounce]) ?_
  simp only [reads, ok_bind, needLtm, plain, check_false, perm, error_bind]

end
end

/-- Settles O30: vtset and announce read their operand, then ask for local time. -/
theorem localTimeForms : Obligations.LocalTimeForms := by
  unfold Obligations.LocalTimeForms
  intro d a s t v q c k
  generalize who : s.md.who = me
  intro me' lt stamp bound nv strand
  subst me'
  subst strand
  exact ⟨vtget_completes who, fun reads => ⟨fun timed => ⟨vtset_completes who reads timed, announce_completes who reads timed⟩,
    fun plain => ⟨vtset_refused who reads plain, announce_refused who reads plain⟩⟩⟩

end Sys2Proof.Machine
end

section
namespace Sys2Proof.Machine
open Sys2Proof.Safety

/-! ## Sender forms (R37, R225, R226, R232 to R235, R241) -/

/-! ### What is sent -/

theorem sendCreation_onWay (src : Fin 64) (m : CreMsg) (s : State) :
    OnWay src m.q m.hdr.launch (meshKey s src) (fun h => .creationMessage { m with hdr := h }) (sendCreation src m s) := by
  rw [sendCreation, ← meshKey_updLaunch s m.hdr.launch (fun x => { x with inflight := x.inflight + 1 }) src]
  exact mail_onWay ..

theorem sendStamped_onWay (src : Fin 64) (m : CreMsg) (s : State) :
    OnWay src m.q m.hdr.launch (meshKey s src) (fun h => .stampedEvent { m with hdr := h }) (sendStamped src m s) := by
  rw [sendStamped, ← meshKey_updLaunch s m.hdr.launch (fun x => { x with inflight := x.inflight + 1 }) src]
  exact mail_onWay ..

theorem sendDeposit_onWay (src : Fin 64) (m : DepMsg) (s : State) :
    OnWay src m.q m.hdr.launch (meshKey s src) (fun h => .deposit { m with hdr := h }) (sendDeposit src m s) := by
  rw [sendDeposit, ← meshKey_updLaunch s m.hdr.launch (fun x => { x with inflight := x.inflight + 1 }) src]
  exact mail_onWay ..

/-- A sender form whose body parks for the answer sends what the body put on its way. -/
theorem exec_sends {i : Instr} {body : Agent → Act} {me : Agent} {s t u : State} {ws : List Word} {src dst : Fin 64} {l : LaunchId}
    {key : Option (BitVec 128)} {mk : Header → Instr} (who : s.md.who = me) (runs : exec i s = perform i body s)
    (effect : body me t = .error (parkWith me ws .answer u)) (sent : OnWay src dst l key mk u) (stops : Stops i s t) :
    ∃ r, exec i s = .next r ∧ OnWay src dst l key mk r ∧ (r.ctx me).st = .parked ∧ (r.ctx me).why = some .answer := by
  obtain ⟨r, next, parked, why, -, -, kept⟩ := exec_parksWith who runs stops effect
  exact ⟨r, next, OnWay.mono kept sent, parked, why⟩

/-! ### The answer -/

section
variable {a : Agent} {ok : Answer → Act} {send : Act} {t : State}

/-- Before the answer is there a sender form sends. -/
theorem answered_none (unanswered : (t.ctx a).answer = none) : answered a ok send t = send t := by
  simp only [answered, unanswered]

theorem answered_denied (denied : (t.ctx a).answer = some .denied) : answered a ok send t = perm 3 0 := by
  simp only [answered, denied]

/-- Once it is there, an answer that is no denial decides alone. -/
theorem answered_some {ans : Answer} (answer : (t.ctx a).answer = some ans) (taken : ans ≠ .denied) :
    answered a ok send t = ok ans t := by
  cases ans with
  | denied => exact absurd rfl taken
  | accepted | refused | landed | dropped => simp only [answered, answer]

end

section
variable {d : Dst} {a b : Src} {reg : Fin 16} {s t : State} {me : Agent} (who : s.md.who = me)
include who

/-- A denial raises PERM cause 3 at every sender form (R232). -/
theorem sender_denied (denied : (t.ctx me).answer = some .denied) :
    ∀ i ∈ [Instr.spark a b, .frame d a b, .send reg a b, .sendt a b], Raises i s t 7 3 0 := by
  simp only [List.forall_mem_cons, List.not_mem_nil, false_implies, implies_true, and_true]
  exact ⟨raises_of_body who (by rw [exec_spark, execSpark]) (answered_denied denied),
    raises_of_body who (by rw [exec_frame, execFrame]) (answered_denied denied),
    raises_of_body who (by rw [exec_send, execSend]) (answered_denied denied),
    raises_of_body who (by rw [exec_sendt, execSendt]) (answered_denied denied)⟩

section
variable {ans : Answer} (answer : (t.ctx me).answer = some ans) (taken : ans ≠ .denied)
include answer taken

theorem spark_retires : Yields (.spark a b) s t t :=
  yields_of_body who (by rw [exec_spark, execSpark]) (answered_some answer taken)

theorem sendt_retires : Yields (.sendt a b) s t t :=
  yields_of_body who (by rw [exec_sendt, execSendt]) (answered_some answer taken)

theorem send_retires (outside : (t.ctx me).sp.inregion = false) : Yields (.send reg a b) s t t := by
  refine yields_of_body who (by rw [exec_send, execSend]) ((answered_some answer taken).trans ?_)
  simp only [outside, Bool.false_eq_true, if_false]

/-- A send that its check has let through is held in the region, with the token and the value that were checked (R235). -/
theorem send_held {x w : Word} {to_ : Fin 64 × Fin 4} (region : (t.ctx me).sp.inregion = true)
    (latch : (t.ctx me).latch = some [x, w]) (target : targetCore t me x = .ok to_) (room : (t.ctx me).fl.rbuf.length < 64) :
    Yields (.send reg a b) s t (t.updFlight me fun f =>
      { f with rbuf := f.rbuf ++ [.send { depositMsg t me reg to_ x w false with sender := none }] }) := by
  refine yields_of_body who (by rw [exec_send, execSend]) ((answered_some answer taken).trans ?_)
  simp only [region, if_true, holdSend, latch, Option.getD_some, List.getD_cons_zero, List.getD_cons_succ, target, ok_bind, bufferMsg,
    Nat.not_le.mpr room, if_false]

end

/-- A frame that is accepted takes its token (R234). -/
theorem frame_accepted {token : Word} (answer : (t.ctx me).answer = some (.accepted token)) :
    Yields (.frame d a b) s t (writeDst t me d token) :=
  yields_of_body who (by rw [exec_frame, execFrame]) (answered_some answer (by simp))

end

/-! ### Sending -/

section
variable {a : Agent} {ws : List Word} {e : BufEnt} {f : State → State} {t z : State}

/-- Outside a region a message goes out once everything before it is performed, and its sender parks for the answer (R232). -/
theorem sendOrHold_sends (outside : (t.ctx a).sp.inregion = false) (performed : drained a t = .ok z) :
    sendOrHold a ws e f t = .error (parkWith a ws .answer (f z)) := by
  simp only [sendOrHold, outside, Bool.false_eq_true, if_false, performed, ok_bind]

/-- In a region it is held in the buffer (R225). -/
theorem sendOrHold_holds (region : (t.ctx a).sp.inregion = true) (room : (t.ctx a).fl.rbuf.length < 64) :
    sendOrHold a ws e f t = .ok (t.updFlight a fun f => { f with rbuf := f.rbuf ++ [e] }) := by
  simp only [sendOrHold, region, if_true, bufferMsg, Nat.not_le.mpr room, if_false]

end

/-- A strand's q3 to q1 hold the arguments of what it sends (R233). -/
def ReadsArgs (t : State) (me : Agent) (a0 a1 a2 : Word) : Prop :=
  Reads t me (.q 2) a0 ∧ Reads t me (.q 1) a1 ∧ Reads t me (.q 0) a2

/-- `i` puts on the mesh, from quad `src` to quad `dst`, a message of its launch, and its agent parks for the answer (R232). -/
def Sends (i : Instr) (me : Agent) (s t : State) (src dst : Fin 64) (key : Option (BitVec 128)) (mk : Header → Instr) : Prop :=
  Stops i s t → ∃ u, exec i s = .next u ∧ OnWay src dst ((t.launchOf me).getD noLaunch) key mk u ∧ (u.ctx me).st = .parked ∧
    (u.ctx me).why = some .answer

section
variable {d : Dst} {a b : Src} {reg : Fin 16} {s t z : State} {x w a0 a1 a2 st : Word} {q q' : Fin 64} {c c' : Fin 4} {k : Fin 24}

/-- A stamped event of a strand goes out with its core's next sequence number (R37, R241). -/
theorem sendEvent_sends {entry stamp : Word} (outside : (t.ctx (.strand q c k)).sp.inregion = false)
    (performed : drained (.strand q c k) t = .ok z) :
    let m := (stampedMsg t (.strand q c k) q' c' entry a0 a1 a2 stamp).1
    ∃ u, sendEvent (.strand q c k) q' c' entry a0 a1 a2 stamp t = .error (parkWith (.strand q c k) [] .answer u) ∧
      OnWay q q' ((t.launchOf (.strand q c k)).getD noLaunch) (meshKey z q) (fun h => .stampedEvent { m with hdr := h }) u := by
  intro m
  have sent := sendStamped_onWay q m (z.updCore q c fun y => { y with lt := { y.lt with
    sendSeq := ((stampedMsg t (.strand q c k) q' c' entry a0 a1 a2 stamp).2.core q c).lt.sendSeq } })
  rw [meshKey_updCore] at sent
  refine ⟨_, ?_, sent⟩
  simp only [sendEvent, strandCore, outside, Bool.false_eq_true, if_false]
  exact sendOrHold_sends outside performed

variable (who : s.md.who = .strand q c k) (unanswered : (t.ctx (.strand q c k)).answer = none)
  (readsA : Reads t (.strand q c k) a x) (readsB : Reads t (.strand q c k) b w)
include who unanswered readsA readsB

section
variable (args : ReadsArgs t (.strand q c k) a0 a1 a2) (target : targetCore t (.strand q c k) w = .ok (q', c'))
  (even : x.toNat % 2 = 0)
include args target even

section
variable (plain : t.ltm (.strand q c k) = false)
include plain

omit who in
/-- Outside local time a spark comes to `sendOrHold` of its creation message (R233). -/
theorem spark_body :
    ∃ body, (∀ s, exec (.spark a b) s = perform (.spark a b) body s) ∧
      body (.strand q c k) t = sendOrHold (.strand q c k) []
        (.spark { strandMsg t (.strand q c k) q' c' x a0 a1 a2 0 with sender := .firmware })
        (sendCreation q (strandMsg t (.strand q c k) q' c' x a0 a1 a2 0)) t := by
  obtain ⟨read0, read1, read2⟩ := args
  unfold Reads at readsA readsB read0 read1 read2
  refine ⟨_, fun s => by rw [exec_spark, execSpark], ?_⟩
  simp only [answered_none unanswered, readsA, readsB, read0, read1, read2, ok_bind, target, even, beq_self_eq_true, check_true, plain,
    strandCore, Bool.false_eq_true, if_false]

theorem spark_sends (outside : (t.ctx (.strand q c k)).sp.inregion = false) (performed : drained (.strand q c k) t = .ok z) :
    Sends (.spark a b) (.strand q c k) s t q q' (meshKey z q)
      (fun h => .creationMessage { strandMsg t (.strand q c k) q' c' x a0 a1 a2 0 with hdr := h }) := by
  intro stops
  obtain ⟨body, runs, effect⟩ := spark_body unanswered readsA readsB args target even plain
  exact exec_sends who (runs s) (effect.trans (sendOrHold_sends outside performed))
    (sendCreation_onWay q (strandMsg t (.strand q c k) q' c' x a0 a1 a2 0) z) stops

theorem spark_held (region : (t.ctx (.strand q c k)).sp.inregion = true) (room : (t.ctx (.strand q c k)).fl.rbuf.length < 64) :
    Yields (.spark a b) s t (t.updFlight (.strand q c k) fun f =>
      { f with rbuf := f.rbuf ++ [.spark { strandMsg t (.strand q c k) q' c' x a0 a1 a2 0 with sender := .firmware }] }) := by
  obtain ⟨body, runs, effect⟩ := spark_body unanswered readsA readsB args target even plain
  exact yields_of_body who (runs s) (effect.trans (sendOrHold_holds region room))

end

section
variable (outside : (t.ctx (.strand q c k)).sp.inregion = false) (performed : drained (.strand q c k) t = .ok z)
include outside performed

/-- In local time a spark is an event at VT on its own core (R37). -/
theorem spark_sendsEvent (timed : t.ltm (.strand q c k) = true) (own : (q', c') = (q, c)) :
    Sends (.spark a b) (.strand q c k) s t q q (meshKey z q)
      (fun h => .stampedEvent { (stampedMsg t (.strand q c k) q c x a0 a1 a2 (t.core q c).lt.vt).1 with hdr := h }) := by
  intro stops
  obtain ⟨read0, read1, read2⟩ := args
  obtain ⟨u, sends, sent⟩ := sendEvent_sends (q' := q) (c' := c) (entry := x) (a0 := a0) (a1 := a1) (a2 := a2)
    (stamp := (t.core q c).lt.vt) outside performed
  unfold Reads at readsA readsB read0 read1 read2
  refine exec_sends (ws := []) who (by rw [exec_spark, execSpark]) ?_ sent stops
  simp only [answered_none unanswered, readsA, readsB, read0, read1, read2, ok_bind, target, even, beq_self_eq_true, check_true, timed,
    strandCore, if_true, own, sends]

end
end

section
variable (plain : t.ltm (.strand q c k) = false)
include plain

section
variable (outside : (t.ctx (.strand q c k)).sp.inregion = false) (performed : drained (.strand q c k) t = .ok z)
include outside performed

omit outside in
/-- A frame sends a creation message that reserves its slots (R234). -/
theorem frame_sends (target : targetCore t (.strand q c k) w = .ok (q', c')) (even : x.toNat % 2 = 0) (count : bits w 3 0 ≠ 0) :
    Sends (.frame d a b) (.strand q c k) s t q q' (meshKey z q)
      (fun h => .creationMessage { strandMsg t (.strand q c k) q' c' x 0 0 0 (bits w 3 0) with hdr := h }) := by
  intro stops
  unfold Reads at readsA readsB
  refine exec_sends (ws := []) who (by rw [exec_frame, execFrame]) ?_
    (sendCreation_onWay q (strandMsg t (.strand q c k) q' c' x 0 0 0 (bits w 3 0)) z) stops
  simp only [answered_none unanswered, readsA, readsB, ok_bind, bne_iff_ne.mpr count, check_true, plain, Bool.not_false, target, even,
    beq_self_eq_true, performed, strandCore]

/-- A send outside a region sends its deposit (R235). -/
theorem send_sends (target : targetCore t (.strand q c k) x = .ok (q', c')) :
    Sends (.send reg a b) (.strand q c k) s t q q' (meshKey z q)
      (fun h => .deposit { depositMsg t (.strand q c k) reg (q', c') x w false with hdr := h }) := by
  intro stops
  unfold Reads at readsA readsB
  refine exec_sends (ws := [x, w]) who (by rw [exec_send, execSend]) ?_
    (sendDeposit_onWay q (depositMsg t (.strand q c k) reg (q', c') x w false) z) stops
  simp only [answered_none unanswered, readsA, readsB, ok_bind, plain, Bool.not_false, check_true, target, outside, Bool.false_and,
    Bool.false_eq_true, if_false, performed, strandCore]

end

/-- A send in a region sends its check first (R235). -/
theorem send_checks (target : targetCore t (.strand q c k) x = .ok (q', c')) (region : (t.ctx (.strand q c k)).sp.inregion = true)
    (room : (t.ctx (.strand q c k)).fl.rbuf.length < 64) :
    Sends (.send reg a b) (.strand q c k) s t q q' (meshKey t q)
      (fun h => .deposit { depositMsg t (.strand q c k) reg (q', c') x w true with hdr := h }) := by
  intro stops
  unfold Reads at readsA readsB
  refine exec_sends (ws := [x, w]) who (by rw [exec_send, execSend]) ?_
    (sendDeposit_onWay q (depositMsg t (.strand q c k) reg (q', c') x w true) t) stops
  simp only [answered_none unanswered, readsA, readsB, ok_bind, plain, Bool.not_false, check_true, target, region,
    decide_eq_false (Nat.not_le.mpr room), Bool.and_false, if_true, strandCore]

end

/-- A sendt sends an event on an output channel, of a stamp that its lookahead permits (R241). -/
theorem sendt_sends {j : Fin 8} {o : OutCh} (outside : (t.ctx (.strand q c k)).sp.inregion = false)
    (performed : drained (.strand q c k) t = .ok z) (timed : t.ltm (.strand q c k) = true) (readsStamp : Reads t (.strand q c k) (.q 3) st)
    (args : ReadsArgs t (.strand q c k) a0 a1 a2) (even : x.toNat % 2 = 0) (channel : w = wd j.val)
    (out : (t.core q c).lt.out.get j = some o)
    (late : max (t.core q c).lt.vt.toNat ((t.core q c).lt.a.get j).toNat + o.l.toNat ≤ st.toNat) :
    Sends (.sendt a b) (.strand q c k) s t q o.q (meshKey z q)
      (fun h => .stampedEvent { (stampedMsg t (.strand q c k) o.q o.c x a0 a1 a2 st).1 with hdr := h }) := by
  intro stops
  obtain ⟨read0, read1, read2⟩ := args
  obtain ⟨u, sends, sent⟩ := sendEvent_sends (q' := o.q) (c' := o.c) (entry := x) (a0 := a0) (a1 := a1) (a2 := a2) (stamp := st)
    outside performed
  have number : w.toNat = j.val := by
    rw [channel, BitVec.toNat_ofNat]
    omega
  unfold Reads at readsA readsB readsStamp read0 read1 read2
  refine exec_sends (ws := []) who (by rw [exec_sendt, execSendt]) ?_ sent stops
  simp only [answered_none unanswered, readsA, readsB, readsStamp, read0, read1, read2, ok_bind, needLtm, timed, check_true, strandCore,
    number, j.isLt, if_true, Fin.ofNat_val_eq_self, out, even, beq_self_eq_true, late, decide_true, sends]

end

/-- Settles O27: each form asks for its answer first, then for its operands, and sends or holds its message. -/
theorem senderForms : Obligations.SenderForms := by
  unfold Obligations.SenderForms
  intro d a b reg s t z x w a0 a1 a2 st q q' c c' k
  generalize who : s.md.who = me
  intro me' parks l sends sendsCre args inrgn strand
  subst me'
  subst strand
  -- A creation message or event that is sent, with what is said of its fields.
  have creation {i : Instr} {f : CreMsg → Instr} {p : CreMsg → Prop} (m : CreMsg) (fields : p m)
      (h : Sends i (.strand q c k) s t q m.q (meshKey z q) fun h => f { m with hdr := h }) : sendsCre i f p := by
    intro stops
    obtain ⟨u, next, sent, waits⟩ := h stops
    exact ⟨u, m, next, sent, fields, waits⟩
  refine ⟨fun ans answer => ⟨fun taken => ⟨spark_retires who answer taken, sendt_retires who answer taken,
      send_retires who answer taken⟩, fun taken region latch target room => ?_, ?_, ?_⟩,
    fun unanswered readsA readsB => ⟨fun outside performed => ⟨fun args target even => ⟨fun plain => ?_, fun timed own => ?_⟩,
      fun plain target even count => ?_, fun plain target => ?_, fun timed readsStamp args even j o channel out late => ?_⟩,
    fun region plain room => ⟨fun args target even => ?_, fun target => ?_⟩⟩⟩
  · exact ⟨{ depositMsg t (.strand q c k) reg (q', c') x w false with sender := none }, rfl, rfl, rfl, rfl, rfl, rfl, rfl,
      send_held who answer taken region latch target room⟩
  · rintro token rfl
    exact frame_accepted who answer
  · rintro rfl
    exact sender_denied who answer
  · exact creation (strandMsg t (.strand q c k) q' c' x a0 a1 a2 0) ⟨rfl, rfl, rfl, rfl, rfl, rfl, rfl, rfl⟩
      (spark_sends who unanswered readsA readsB args target even plain outside performed)
  · exact creation (stampedMsg t (.strand q c k) q c x a0 a1 a2 (t.core q c).lt.vt).1 ⟨rfl, rfl, rfl, rfl, rfl, rfl, rfl⟩
      (spark_sendsEvent who unanswered readsA readsB args target even outside performed timed own)
  · exact creation (strandMsg t (.strand q c k) q' c' x 0 0 0 (bits w 3 0)) ⟨rfl, rfl, rfl, rfl⟩
      (frame_sends who unanswered readsA readsB plain performed target even count)
  · exact ⟨depositMsg t (.strand q c k) reg (q', c') x w false, rfl, rfl, rfl, rfl, rfl, rfl, rfl,
      send_sends who unanswered readsA readsB plain outside performed target⟩
  · exact creation (stampedMsg t (.strand q c k) o.q o.c x a0 a1 a2 st).1 ⟨rfl, rfl, rfl, rfl, rfl, rfl, rfl⟩
      (sendt_sends who unanswered readsA readsB outside performed timed readsStamp args even channel out late)
  · exact ⟨{ strandMsg t (.strand q c k) q' c' x a0 a1 a2 0 with sender := .firmware }, rfl, rfl, rfl, rfl, rfl, rfl, rfl,
      spark_held who unanswered readsA readsB args target even plain region room⟩
  · exact ⟨depositMsg t (.strand q c k) reg (q', c') x w true, rfl, rfl, rfl, rfl, rfl,
      send_checks who unanswered readsA readsB plain target region room⟩

end Sys2Proof.Machine
end

section
namespace Sys2Proof.Machine
open Sys2Proof.Safety

/-! ## The results of the other lane forms (R253 to R265) -/

/-! ### Lanes by their number, and masks by their lanes -/

theorem lanes_getD (L : Lanes) (n : Nat) : L.toList.getD n 0 = if h : n < 96 then L[n] else 0 := by
  split
  case isTrue h => exact toList_getD L ⟨n, h⟩ 0
  case isFalse h => exact List.getD_eq_default _ _ (by simpa using h)

/-- A lane by its number, as a word (R258). -/
theorem lanes_getD_word (L : Lanes) (n : Nat) :
    wd (L.toList.getD n 0).toNat = (if h : n < 96 then (L[n]).zeroExtend 64 else 0 : Word) := by
  rw [lanes_getD]
  split
  · exact BitVec.ofNat_toNat ..
  · rfl

theorem mem_active {M : BitVec 96} {i : Fin 96} : i ∈ active M ↔ M.getLsbD i.val = true := by
  simp [active]

theorem sortedLT_active_filter (M : BitVec 96) (p : Fin 96 → Bool) : ((active M).filter p).SortedLT :=
  (((List.sortedLT_finRange 96).pairwise.filter _).filter _).sortedLT

/-- The sum of the lanes' powers of two has exactly the bits of those lanes. -/
theorem testBit_foldl_two_pow {hits : List (Fin 96)} (sorted : hits.SortedLT) (i : Fin 96) :
    (hits.foldl (fun n (j : Fin 96) => n + 2 ^ j.val) 0).testBit i.val = true ↔ i ∈ hits := by
  have sum : hits.foldl (fun n (j : Fin 96) => n + 2 ^ j.val) 0 = ((hits.map Fin.val).map (2 ^ ·)).sum := by
    simp only [List.sum_eq_foldl, List.foldl_map]
  have lanes : (hits.map Fin.val).SortedLT := ((List.pairwise_map (f := Fin.val)).mpr sorted.pairwise).sortedLT
  rw [sum, ← Nat.mem_bitIndices, Nat.bitIndices_sum_map_two_pow lanes, List.mem_map_of_injective Fin.val_injective]

/-- The mask of the active lanes that pass a test (R257). -/
theorem getLsbD_hits (M : BitVec 96) (p : Fin 96 → Bool) (i : Fin 96) :
    (BitVec.ofNat 96 (((active M).filter p).foldl (fun n j => n + 2 ^ j.val) 0)).getLsbD i.val = (M.getLsbD i.val && p i) := by
  rw [Bool.eq_iff_iff, BitVec.getLsbD_ofNat, decide_eq_true i.isLt, Bool.true_and,
    testBit_foldl_two_pow (sortedLT_active_filter M p), List.mem_filter, mem_active, Bool.and_eq_true]

/-! ### Forms without named sources -/

/-- What a scan leaves in a lane: the sums of the active elements up to each of its own (R255). -/
def scanLane (ty : LaneTy) (rm : RM) (M : BitVec 96) (Y : Lanes) (i : Fin 96) : BitVec 32 × Flags :=
  let upTo := fun (e : Nat) => rsumOf ty rm
    (activeElems ty (M &&& BitVec.ofNat 96 (2 ^ i.val - 1)) Y ++ (laneElems ty (Y.get i)).take (e + 1))
  if packed16 ty then (BitVec.ofNat 16 (upTo 1).1 ++ BitVec.ofNat 16 (upTo 0).1, (upTo 0).2 ||| (upTo 1).2)
  else (BitVec.ofNat 32 (upTo 0).1, (upTo 0).2)

/-- A compare of two lanes, by the float relation of their type's format or by the integer one, with its flags (R257). -/
def cmpLane (ty : LaneTy) (g : Fmt → Nat → Nat → Bool × Flags) (o : Int → Int → Bool) (a b : BitVec 32) : Bool × Flags :=
  match tyFmt ty with
  | some f => g f a.toNat b.toNat
  | none => (o (intVal ty a.toNat) (intVal ty b.toNat), 0)

section
variable {ty : LaneTy} {m d x y : Fin 8} {q : Fin 64} {c : Fin 4} {k : Fin 24} {v : State} {M : BitVec 96} {X Y : Lanes}
  (hM : readM v (.strand q c k) m = .ok M)
include hM

/-- mpop counts the lanes of a mask (R258). -/
theorem mpopForm_ok (g : Dst) : mpopForm m g (.strand q c k) v = .ok (writeDst v (.strand q c k) g (mpopWord M)) := by
  simp only [mpopForm, hM, ok_bind]

/-- A mask operation under its mask (R257). -/
theorem maskForm_ok {P Q : BitVec 96} (hP : readM v (.strand q c k) x = .ok P) (hQ : readM v (.strand q c k) y = .ok Q)
    (op : BitVec 96 → BitVec 96 → BitVec 96) :
    maskForm m d x y op (.strand q c k) v = .ok (writeM (.strand q c k) d (M &&& op P Q) v) := by
  simp only [maskForm, hM, hP, hQ, ok_bind]

section
variable (hY : readW v (.strand q c k) y = .ok Y)
include hY

/-- A function of the second operand's lanes, rounded to nearest even (R253). -/
theorem laneOp_rne (f : ElemFn) :
    laneOp ty rneAlways m d none (some y) none f (.strand q c k) v =
      .ok (laneResult (.strand q c k) M d (fun i => onLane ty f .rne 0 (Y.get i) 0) v) := by
  rw [laneOp_ok (x := none) (y := some y) (z := none) hM rfl hY rfl, replicate_zero_get]
  rfl

/-- A reduction stands in every element of every lane (R254). -/
theorem reduceForm_ok (g : RM → List Nat → Nat × Flags) :
    reduceForm ty m d y g (.strand q c k) v =
      .ok (raiseFlags (.strand q c k) (g (rmOf v (.strand q c k)) (activeElems ty M Y)).2
        (writeW (.strand q c k) d (BitVec.allOnes 96)
          (Vector.replicate 96 (fillLane ty (g (rmOf v (.strand q c k)) (activeElems ty M Y)).1)) v)) := by
  simp only [reduceForm, hM, hY, ok_bind]

/-- A scan leaves its sums in the lanes of the mask, with their flags (R255). -/
theorem scanForm_ok :
    scanForm ty m d y (.strand q c k) v =
      .ok (laneResult (.strand q c k) M d (scanLane ty (rmOf v (.strand q c k)) M Y) v) := by
  simp only [scanForm, hM, hY, ok_bind, ofNat_halves]
  rfl

end

section
variable (hX : readW v (.strand q c k) x = .ok X) (hY : readW v (.strand q c k) y = .ok Y)
include hX hY

/-- perm takes the lane that an index names, and 0 where it names none (R256). -/
theorem permForm_ok :
    permForm m d x y (.strand q c k) v = .ok (writeW (.strand q c k) d M
      (Vector.ofFn fun i => if h : (Y.get i).toNat < 96 then X[(Y.get i).toNat] else 0) v) := by
  simp only [permForm, hM, hX, hY, ok_bind, lanes_getD]

/-- A conversion of the first operand's lanes under the scales of the second, under FRM (R262). -/
theorem cvtForm_ok (src dst : LaneTy) (sat : Bool) :
    cvtForm src dst sat m d x y (.strand q c k) v =
      .ok (elemResult .f32 M d (cvtElem src dst sat) X.get Y.get noLanes (.strand q c k) v) :=
  laneOp_two hM hX hY

/-- A compare writes the mask of the active lanes where it holds, and raises the flags of the active lanes (R257). -/
theorem cmpForm_ok (g : Fmt → Nat → Nat → Bool × Flags) (o : Int → Int → Bool) :
    ∃ R : BitVec 96, (∀ i : Fin 96, R.getLsbD i.val = (M.getLsbD i.val && (cmpLane ty g o (X.get i) (Y.get i)).1)) ∧
      cmpForm ty m d x y g o (.strand q c k) v =
        .ok (raiseFlags (.strand q c k) ((active M).foldl (fun l i => l ||| (cmpLane ty g o (X.get i) (Y.get i)).2) 0)
          (writeM (.strand q c k) d R v)) := by
  refine ⟨_, getLsbD_hits M fun i => (cmpLane ty g o (X.get i) (Y.get i)).1, ?_⟩
  simp only [cmpForm, hM, hX, hY, ok_bind]
  rfl

/-- topk leaves the rank of each of the first candidates in its lane, and all ones in every other lane (R263). -/
theorem topkForm_ok :
    topkForm m d x y (.strand q c k) v = .ok (writeW (.strand q c k) d (BitVec.allOnes 96) (Vector.ofFn fun i =>
      let cand := (active M).filter fun j => !(fF32.val (X.get j).toNat).isNan
      if i ∈ cand ∧ rankOf X cand i < min 96 (Y.get 0).toNat then BitVec.ofNat 32 (rankOf X cand i) else BitVec.allOnes 32) v) := by
  simp only [topkForm, hM, hX, hY, ok_bind, Bool.and_eq_true, List.contains_iff_mem, decide_eq_true_eq]

/-- cbg leaves the generator's word of each active lane, draw its uniform value (R264). -/
theorem cbgForm_ok (draw : Bool) :
    cbgForm draw m d x y (.strand q c k) v = .ok (writeW (.strand q c k) d M (Vector.ofFn fun i =>
      if draw then BitVec.ofNat 32 (uniformF32 (cbg4 (pairWord X) (pairWord Y) i.val))
      else cbg4 (pairWord X) (pairWord Y) i.val) v) := by
  simp only [cbgForm, hM, hX, hY, ok_bind]

/-- pick leaves the drawn lane's number in every lane, and raises NV for an active lane's weight that counts as 0 (R265). -/
theorem pickForm_ok :
    pickForm m d x y (.strand q c k) v =
      .ok (raiseFlags (.strand q c k) (if (active M).any fun i => (pickWeight (X.get i).toNat).2 then flNV else 0)
        (writeW (.strand q c k) d (BitVec.allOnes 96) (Vector.replicate 96 (BitVec.ofNat 32
          (pickIndex (active M) (fun i => (pickWeight (X.get i).toNat).1) (fF32.val (Y.get 0).toNat)))) v)) := by
  simp only [pickForm, hM, hX, hY, ok_bind]

end
end

/-! ### Moves of a word and of a tile row -/

section
variable {m b : Fin 8} {a : Src} {q : Fin 64} {c : Fin 4} {k : Fin 24} {v : State} {M : BitVec 96} {X : Lanes} {w : Word}
  {ts : Handles}

/-- bcast puts the low half of its word in the lanes of the mask (R258). -/
theorem bcastForm_effect (hM : readM v (.strand q c k) m = .ok M) :
    (bcastForm m a b).effect [w] ts (.strand q c k) v =
      .ok (writeW (.strand q c k) b M (Vector.replicate 96 (w.setWidth 32)) v) := by
  simp only [bcastForm, hM, ok_bind, opAt_single, BitVec.ofNat_toNat]

/-- ext brings the lane that its word names, zero-extended, or 0 where it names none (R258). -/
theorem extForm_effect (g : Dst) (hX : readW v (.strand q c k) b = .ok X) :
    (extForm g a b).effect [w] ts (.strand q c k) v =
      .ok (writeDst v (.strand q c k) g (if h : w.toNat < 96 then (X[w.toNat]).zeroExtend 64 else 0)) := by
  simp only [extForm, hX, ok_bind, opAt_single, lanes_getD_word]
  rfl

section
variable {p : Nat × Tile} (hM : readM v (.strand q c k) m = .ok M) (row : rowTile ts v (.strand q c k) w = .ok p)

section
include row

/-- A transfer claims the row that its word names (R259). -/
theorem rowClaims_row (write : Bool) :
    rowClaims write [w] ts (.strand q c k) v =
      [{ tile := p.1, gen := p.2.gen, lo := rowOfWord w, hi := rowOfWord w, write := write }] := by
  simp only [rowClaims, opAt_single, row]

end

include hM row

/-- trld brings each active lane what the row holds for it (R260). -/
theorem trldForm_effect {vs : List (Nat × BitVec 32)} (lanes : rowLanes v (.strand q c k) p.2 w (active M) = .ok vs) :
    (trldForm m a b).effect [w] ts (.strand q c k) v =
      .ok (writeW (.strand q c k) b M (Vector.ofFn fun i => (lookupNat vs i.val).getD 0) v) := by
  simp only [trldForm, opAt_single, hM, row, lanes, ok_bind]

/-- trst puts each active lane in its place of the row (R261). -/
theorem trstForm_effect (here : (v.quads.get q).entry p.1 = some p.2) (hX : readW v (.strand q c k) b = .ok X) :
    (trstForm m a b).effect [w] ts (.strand q c k) v =
      .ok (v.updQuad q fun z => (active M).foldl (fun z i => putRowLane p.2 w (X.get i) i.val z) z) := by
  simp only [trstForm, opAt_single, hM, row, hX, ok_bind, writeHeld_standing here]

end
end

/-- Settles O38: each form is an easel form with the claims of its rule, and its effect on the mask, fields and tile that it reads. -/
theorem laneFunctions : Obligations.LaneFunctions := by
  unfold Obligations.LaneFunctions
  intro ty m d x y g a s v q c k M P Q X Y w p vs me all rm yields reads hd moves ts fill row
  refine ⟨fun hM => ⟨fun hP hQ => ?_, ?_, ?_, fun tile lanes => ?_, fun tile here hX => ?_⟩, fun hX => ?_,
    fun hM hX hY => ?_⟩
  · exact ⟨grantYields_plainForm rfl (maskForm_ok hM hP hQ _), grantYields_plainForm rfl (maskForm_ok hM hP hQ _),
      grantYields_plainForm rfl (maskForm_ok hM hP hQ _)⟩
  · exact grantYields_of_form (f := bcastForm m a d) rfl rfl rfl rfl (bcastForm_effect hM)
  · exact grantYields_plainForm rfl (mpopForm_ok hM g)
  · exact grantYields_of_form (f := trldForm m a d) rfl rfl rfl (rowClaims_row tile false) (trldForm_effect hM tile lanes)
  · exact grantYields_of_form (f := trstForm m a x) rfl rfl rfl (rowClaims_row tile true) (trstForm_effect hM tile here hX)
  · exact grantYields_of_form (f := extForm g a x) rfl rfl rfl rfl (extForm_effect g hX)
  · intro fn cvt cmp
    have fn_yields {i : Instr} {h : Xr → Xr × Flags}
        (runs : exec i s = performEasel i (plainForm (laneOp ty rneAlways m d none (some y) none (elemFn ty h))) s) :
        yields i (fn h) := grantYields_plainForm runs (laneOp_rne hM hY (elemFn ty h))
    have cvt_yields {i : Instr} {src dst : LaneTy} {sat : Bool}
        (runs : exec i s = performEasel i (plainForm (cvtForm src dst sat m d x y)) s) : yields i (cvt (cvtElem src dst sat)) :=
      grantYields_plainForm runs (cvtForm_ok hM hX hY src dst sat)
    have cmp_yields {i : Instr} (e : Fmt → Nat → Nat → Bool × Flags) (o : Int → Int → Bool)
        (runs : exec i s = performEasel i (plainForm (cmpForm ty m d x y e o)) s) : cmp i e o := by
      obtain ⟨R, bits, effect⟩ := cmpForm_ok hM hX hY (ty := ty) (d := d) e o
      exact ⟨R, bits, grantYields_plainForm runs effect⟩
    refine ⟨⟨fn_yields rfl, fn_yields rfl, fn_yields rfl, fn_yields rfl, fn_yields rfl, ?_, ?_, ?_, ?_⟩,
      ⟨cmp_yields eqF (fun x y => x == y) rfl, cmp_yields ltF (fun x y => decide (x < y)) rfl,
        cmp_yields leF (fun x y => decide (x ≤ y)) rfl⟩,
      ⟨cvt_yields rfl, cvt_yields rfl, cvt_yields rfl, cvt_yields rfl, cvt_yields rfl⟩, ?_, ?_, ?_, ?_⟩
    · exact grantYields_plainForm rfl (reduceForm_ok hM hY (rsumOf ty))
    · exact grantYields_plainForm rfl (reduceForm_ok hM hY fun _ => rmaxOf ty)
    · exact grantYields_plainForm rfl (scanForm_ok hM hY)
    · exact grantYields_plainForm rfl (permForm_ok hM hX hY)
    · exact grantYields_plainForm rfl (topkForm_ok hM hX hY)
    · exact grantYields_plainForm rfl (cbgForm_ok hM hX hY false)
    · exact grantYields_plainForm rfl (cbgForm_ok hM hX hY true)
    · exact grantYields_plainForm rfl (pickForm_ok hM hX hY)

end Sys2Proof.Machine
end

section
namespace Sys2Proof.Machine
open Sys2Proof.Safety

/-! ## The priv forms (R294, R295, R385 to R389) -/

/-! ### Who executes them, and what a scrub leaves of its agent (R176) -/

section
variable {i : Instr} {s t : State}

/-- An instruction that issues is none that its agent's core class refuses (R176). -/
theorem classStop_of_issues (issues : Issues i s t) : classStop (Agent.cls s.md.who) (shapeOf i).major (isQown i) = none := by
  rcases issues with ⟨quiet, -⟩ | go
  · exact quiet.cls
  · by_contra refused
    obtain ⟨e, stop⟩ := Option.ne_none_iff_exists'.mp refused
    simp only [gate, stop] at go
    repeat' split at go
    all_goals exact Gate.noConfusion go

/-- A command core or the security core. -/
def Privileged : Agent → Prop
  | .cmd _ | .sec => True
  | .strand .. | .hart .. | .weir _ => False

/-- A priv form issues on such a core only (R176). -/
theorem privileged_of_issues (priv : (shapeOf i).major = 0x31) (issues : Issues i s t) : Privileged s.md.who := by
  have passes := classStop_of_issues issues
  rw [priv] at passes
  cases who : s.md.who with
  | cmd | sec => trivial
  | strand | hart | weir =>
    rw [who] at passes
    exact absurd passes (Option.some_ne_none _)

theorem ownForms_of_privileged {a : Agent} (priv : Privileged a) : ownForms s a = false := by
  cases a with
  | cmd | sec => rfl
  | strand | hart | weir => exact priv.elim

/-- No quad holds anything of such a core: its parking leaves every quad. -/
theorem parkAgent_quads_of_privileged {a : Agent} (priv : Privileged a) (w : Why) (s u : State) :
    (parkAgent a w (keepWindows a s u)).quads = u.quads := by
  cases a with
  | cmd | sec => rfl
  | strand | hart | weir => exact priv.elim

end

section
variable {i : Instr} {body : Agent → Act} {me : Agent} {s t u : State} {q : Fin 64} (who : s.md.who = me)
  (runs : exec i s = perform i body s) (priv : (shapeOf i).major = 0x31) (issues : Issues i s t)
include who runs priv issues

/-- A priv form that parks does so behind no easel form of its own. -/
theorem priv_parks {w : Why} (effect : body me t = .error (.park w)) :
    ∃ r, exec i s = .next r ∧ (r.ctx me).st = .parked ∧ (r.ctx me).why = some w :=
  parks_of_body who runs effect ⟨issues, ownForms_of_privileged (privileged_of_issues priv issues)⟩

/-- A priv form that begins a scrub parks for it; the quad scrubs, and the scrub's end is on its way (R295). -/
theorem priv_scrubs (effect : body me t = beginScrub q u) :
    ∃ r, exec i s = .next r ∧ (r.ctx me).st = .parked ∧ (r.ctx me).why = some (.scrub q) ∧
      r.quads.get q = { u.quads.get q with scrubbing := true } ∧ .genscrubComplete q ∈ r.md.inflight := by
  have core : Privileged me := who ▸ privileged_of_issues priv issues
  have alone : ownForms s s.md.who = false := ownForms_of_privileged (who ▸ core)
  refine ⟨_, exec_holds who runs ⟨issues, alone⟩ effect, ?_, ?_, ?_, parkAgent_sent _ _ _ ?_⟩
  · rw [parkAgent_ctx, if_pos rfl]
  · rw [parkAgent_ctx, if_pos rfl]
  · rw [parkAgent_quads_of_privileged core, post_quads, State.quads_updQuad, if_pos rfl]
  · rw [keepWindows_md, post_md_inflight]
    exact List.mem_append_right _ (List.mem_singleton_self _)

end

/-! ### Operands in range -/

theorem partArg_of_lt {n : Nat} (small : n < 64) : partArg n = some (Fin.ofNat 64 n) := by
  simp only [partArg, small, if_true]

/-- A partition's or a quad's number leaves the bits above it 0. -/
theorem bits_high_of_lt {x : Word} (small : x.toNat < 64) : bits x 63 8 = 0 := by
  simp only [bits]
  omega

/-! ### What a form leaves -/

/-- What a tlbinv of kind `op` discards (R294): the partition's translations, those of one granule, or those of every one. -/
def tlbinvEffect (op : Nat) (x y : Word) (t : State) : State :=
  let p : BitVec 8 := BitVec.ofNat 8 (bits y 15 8)
  match op with
  | 0 => discard p none none false t
  | 1 => discard p none (some (x.toNat / 65536)) false t
  | _ => discard p none none true t

/-- The quad of a qown that goes on, as it is before its scrub: its copies written back, its translations gone (R386). -/
def emptied (q : Fin 64) (t : State) : State :=
  (flushQuad q t).updQuad q fun x => { x with tlb := [], cores := x.cores.each fun y => { y with tlb := [] } }

theorem emptied_tlb (q : Fin 64) (t : State) : ((emptied q t).quads.get q).tlb = [] := by
  rw [emptied, State.quads_updQuad, if_pos rfl]

/-- What a pset leaves of the state `z` in which everything before it is performed (R133, R388, R389). -/
def psetEffect (x y : Word) (z : State) : State :=
  let p : Fin 64 := Fin.ofNat 64 (bits x 15 8)
  if isFrozen z p then (if y = rgnWord (z.parts.get p) (bits x 5 0) (bitAt x 16) then z else refuseConfig p z)
  else if configClosed z p then z
  else writeRegion p (bits x 5 0) (bitAt x 16) y z

section
variable {d : Dst} {a b : Src} {s t z : State} {me : Agent} {x y : Word} (who : s.md.who = me) (readsA : Reads t me a x)
include who readsA

section
variable (readsB : Reads t me b y)
include readsB

/-! ### tlbinv -/

section
variable (high : bits y 63 16 = 0) (middle : bits y 7 2 = 0)
include high middle

theorem tlbinv_completes (legal : bits y 1 0 ≠ 3) : Yields (.tlbinv a b) s t (tlbinvEffect (bits y 1 0) x y t) := by
  unfold Reads at readsA readsB
  refine yields_of_body who exec_tlbinv ?_
  simp only [readsA, readsB, ok_bind, high, middle, bne_iff_ne.mpr legal, beq_self_eq_true, Bool.and_self, check_true]
  rfl

end

theorem tlbinv_illegal (kind : bits y 1 0 = 3) : Raises (.tlbinv a b) s t 1 0 0 := by
  unfold Reads at readsA readsB
  refine raises_of_body who exec_tlbinv ?_
  simp only [readsA, readsB, ok_bind, kind, bne_self_eq_false, Bool.and_false, check_false]
  rfl

/-! ### halt and cctl -/

section
variable (small : x.toNat < 64)
include small

theorem halt_raises (set : y = 1) : Yields (.halt a b) s t (raiseLine (Fin.ofNat 64 x.toNat) 0 t) := by
  subst set
  unfold Reads at readsA readsB
  refine yields_of_body who exec_halt ?_
  simp only [readsA, readsB, ok_bind, bits_high_of_lt small, partArg_of_lt small]
  rfl

theorem halt_releases (clear : y = 0) : Yields (.halt a b) s t (releaseLine (Fin.ofNat 64 x.toNat) t) := by
  subst clear
  unfold Reads at readsA readsB
  refine yields_of_body who exec_halt ?_
  simp only [readsA, readsB, ok_bind, bits_high_of_lt small, partArg_of_lt small]
  rfl

theorem cctl_flushes (kind : y = 0) : Yields (.cctl a b) s t (flushQuad (Fin.ofNat 64 x.toNat) t) := by
  subst kind
  unfold Reads at readsA readsB
  refine yields_of_body who exec_cctl ?_
  have inRange : (decide ((0 : Word).toNat ≤ 2) && decide (x.toNat < 64)) = true := by
    simpa using small
  simp only [readsA, readsB, ok_bind, inRange, check_true, beq_self_eq_true, if_true]

theorem cctl_cleans (kind : y = 1) :
    Yields (.cctl a b) s t (foldSectors cleanBasin (linesWhere t fun n =>
      target t (64 * n) == .device && ownV (ownerOf t (64 * n)) && ownPart (ownerOf t (64 * n)) == x.toNat) t) := by
  subst kind
  unfold Reads at readsA readsB
  refine yields_of_body who exec_cctl ?_
  have inRange : (decide ((1 : Word).toNat ≤ 2) && decide (x.toNat < if (1 : Word) == 0 then 64 else 256)) = true := by
    simpa using small.trans (by decide)
  simp only [readsA, readsB, ok_bind, inRange, check_true]
  rfl

theorem cctl_fences (kind : y = 2) (performed : homeFence (BitVec.ofNat 8 x.toNat) t = .ok z) : Yields (.cctl a b) s t z := by
  subst kind
  unfold Reads at readsA readsB
  refine yields_of_body who exec_cctl ?_
  have inRange : (decide ((2 : Word).toNat ≤ 2) && decide (x.toNat < if (2 : Word) == 0 then 64 else 256)) = true := by
    simpa using small.trans (by decide)
  simp only [readsA, readsB, ok_bind, inRange, check_true]
  exact performed

end

theorem halt_illegal (kind : 1 < y.toNat) : Raises (.halt a b) s t 1 0 0 := by
  unfold Reads at readsA readsB
  refine raises_of_body who exec_halt ?_
  simp only [readsA, readsB, ok_bind, decide_eq_false kind.not_ge, Bool.and_false, check_false]
  rfl

theorem cctl_illegal (kind : 2 < y.toNat) : Raises (.cctl a b) s t 1 0 0 := by
  unfold Reads at readsA readsB
  refine raises_of_body who exec_cctl ?_
  simp only [readsA, readsB, ok_bind, decide_eq_false kind.not_ge, Bool.false_and, check_false]
  rfl

end

/-! ### stoprec -/

section
variable (small : x.toNat < 64)
include small

theorem stoprec_answers (arrived : (t.parts.get (Fin.ofNat 64 x.toNat)).toStop = []) :
    Yields (.stoprec d a) s t (writeDst (t.updPart (Fin.ofNat 64 x.toNat) fun z => { z with stopCount := 0 }) me d
      (wd (t.parts.get (Fin.ofNat 64 x.toNat)).stopCount)) := by
  unfold Reads at readsA
  refine yields_of_body who exec_stoprec ?_
  simp only [readsA, ok_bind, bits_high_of_lt small, beq_self_eq_true, check_true, partArg_of_lt small, arrived, List.isEmpty_nil,
    Bool.not_true, Bool.false_eq_true, if_false]

theorem stoprec_parks (awaited : (t.parts.get (Fin.ofNat 64 x.toNat)).toStop ≠ []) (issues : Issues (.stoprec d a) s t) :
    ∃ u, exec (.stoprec d a) s = .next u ∧ (u.ctx me).st = .parked ∧
      (u.ctx me).why = some (.stopRecords (Fin.ofNat 64 x.toNat)) := by
  unfold Reads at readsA
  refine priv_parks who exec_stoprec rfl issues ?_
  simp only [readsA, ok_bind, bits_high_of_lt small, beq_self_eq_true, check_true, partArg_of_lt small,
    List.isEmpty_eq_false_iff.mpr awaited, Bool.not_false, if_true]

end

/-! ### genscrub -/

section
variable (small : x.toNat < 64)
include small

theorem genscrub_ends (landed : (t.ctx me).answer = some .landed) :
    Yields (.genscrub d a) s t (endScrub (Fin.ofNat 64 x.toNat) (writeDst t me d 0)) := by
  unfold Reads at readsA
  refine yields_of_body who exec_genscrub ?_
  simp only [readsA, ok_bind, small, decide_true, check_true, landed, beq_self_eq_true, if_true]

section
variable (first : (t.ctx me).answer ≠ some .landed) (still : (t.quads.get (Fin.ofNat 64 x.toNat)).scrubbing = false)
include first still

theorem genscrub_busy (busy : quadBusy t (Fin.ofNat 64 x.toNat) = true) : Yields (.genscrub d a) s t (writeDst t me d 1) := by
  unfold Reads at readsA
  refine yields_of_body who exec_genscrub ?_
  simp only [readsA, ok_bind, small, decide_true, check_true, beq_eq_false_iff_ne.mpr first, still, busy, Bool.false_eq_true,
    if_false, if_true]

theorem genscrub_begins (idle : quadBusy t (Fin.ofNat 64 x.toNat) = false) (issues : Issues (.genscrub d a) s t) :
    ∃ u, exec (.genscrub d a) s = .next u ∧ (u.ctx me).st = .parked ∧ (u.ctx me).why = some (.scrub (Fin.ofNat 64 x.toNat)) ∧
      (u.quads.get (Fin.ofNat 64 x.toNat)).scrubbing = true ∧ .genscrubComplete (Fin.ofNat 64 x.toNat) ∈ u.md.inflight := by
  unfold Reads at readsA
  obtain ⟨u, next, parked, why, quad, sent⟩ := priv_scrubs (u := t) (q := Fin.ofNat 64 x.toNat) who exec_genscrub rfl issues (by
    simp only [readsA, ok_bind, small, decide_true, check_true, beq_eq_false_iff_ne.mpr first, still, idle, Bool.false_eq_true,
      if_false])
  exact ⟨u, next, parked, why, by rw [quad], sent⟩

end
end

theorem genscrub_illegal (large : 64 ≤ x.toNat) : Raises (.genscrub d a) s t 1 0 0 := by
  unfold Reads at readsA
  refine raises_of_body who exec_genscrub ?_
  simp only [readsA, ok_bind, decide_eq_false large.not_gt, check_false]
  rfl

/-! ### qown -/

section
variable (readsB : Reads t me b y)
include readsB

theorem qown_illegal (large : 64 ≤ x.toNat) : Raises (.qown d a b) s t 1 0 0 := by
  unfold Reads at readsA readsB
  refine raises_of_body who exec_qown ?_
  simp only [readsA, readsB, ok_bind, decide_eq_false large.not_gt, Bool.false_and, check_false]
  rfl

section
variable (small : x.toNat < 64) (legal : qownOk y = true)
include small legal

theorem qown_ends (landed : (t.ctx me).answer = some .landed) :
    Yields (.qown d a b) s t (endScrub (Fin.ofNat 64 x.toNat) (giveQuad (Fin.ofNat 64 x.toNat) y (writeDst t me d 0))) := by
  unfold Reads at readsA readsB
  refine yields_of_body who exec_qown ?_
  simp only [readsA, readsB, ok_bind, small, legal, decide_true, Bool.and_self, check_true, landed, beq_self_eq_true, if_true]

section
variable (first : (t.ctx me).answer ≠ some .landed)
include first

/-- A move that R388, R389 or R416 refuses (log 33). -/
theorem qown_refused (refused : qownRefused (Fin.ofNat 64 x.toNat) y t = some z) :
    Yields (.qown d a b) s t (writeDst z me d 1) := by
  unfold Reads at readsA readsB
  refine yields_of_body who exec_qown ?_
  simp only [readsA, readsB, ok_bind, small, legal, decide_true, Bool.and_self, check_true, beq_eq_false_iff_ne.mpr first, refused,
    Bool.false_eq_true, if_false]

section
variable (permitted : qownRefused (Fin.ofNat 64 x.toNat) y t = none)
  (still : (t.quads.get (Fin.ofNat 64 x.toNat)).scrubbing = false)
include permitted still

theorem qown_busy (busy : quadBusy t (Fin.ofNat 64 x.toNat) = true) : Yields (.qown d a b) s t (writeDst t me d 1) := by
  unfold Reads at readsA readsB
  refine yields_of_body who exec_qown ?_
  simp only [readsA, readsB, ok_bind, small, legal, decide_true, Bool.and_self, check_true, beq_eq_false_iff_ne.mpr first, permitted,
    still, busy, Bool.false_eq_true, if_false, if_true]

theorem qown_begins (idle : quadBusy t (Fin.ofNat 64 x.toNat) = false) (quiet : quadTraffic t (Fin.ofNat 64 x.toNat) = false)
    (issues : Issues (.qown d a b) s t) :
    ∃ u, exec (.qown d a b) s = .next u ∧ (u.ctx me).st = .parked ∧ (u.ctx me).why = some (.scrub (Fin.ofNat 64 x.toNat)) ∧
      (u.quads.get (Fin.ofNat 64 x.toNat)).scrubbing = true ∧ (u.quads.get (Fin.ofNat 64 x.toNat)).tlb = [] ∧
      .genscrubComplete (Fin.ofNat 64 x.toNat) ∈ u.md.inflight := by
  unfold Reads at readsA readsB
  obtain ⟨u, next, parked, why, quad, sent⟩ := priv_scrubs (u := emptied (Fin.ofNat 64 x.toNat) t) (q := Fin.ofNat 64 x.toNat) who
    exec_qown rfl issues (by
      simp only [readsA, readsB, ok_bind, small, legal, decide_true, Bool.and_self, check_true, beq_eq_false_iff_ne.mpr first,
        permitted, still, idle, quiet, Bool.false_eq_true, if_false, emptied])
  exact ⟨u, next, parked, why, by rw [quad], by rw [quad, emptied_tlb], sent⟩

end
end
end

/-! ### pset -/

theorem pset_illegal
    (reserved : bits x 63 17 ≠ 0 ∨ bits x 7 6 ≠ 0 ∨ y &&& ~~~ (if bitAt x 16 = true then rgnlMask else rgnbMask) ≠ 0) :
    Raises (.pset a b) s t 1 0 0 := by
  unfold Reads at readsA readsB
  refine raises_of_body who exec_pset ?_
  have refused : (bits x 63 17 == 0 && bits x 7 6 == 0 && y &&& ~~~ (if bitAt x 16 = true then rgnlMask else rgnbMask) == 0) =
      false := by
    simpa only [Bool.and_eq_false_iff, beq_eq_false_iff_ne, or_assoc] using reserved
  simp only [readsA, readsB, ok_bind, refused, check_false]
  rfl

theorem pset_completes (high : bits x 63 17 = 0) (middle : bits x 7 6 = 0) (part : bits x 15 8 < 64)
    (writable : y &&& ~~~ (if bitAt x 16 = true then rgnlMask else rgnbMask) = 0) (performed : drained me t = .ok z) :
    Yields (.pset a b) s t (psetEffect x y z) := by
  unfold Reads at readsA readsB
  refine yields_of_body who exec_pset ?_
  simp only [readsA, readsB, ok_bind, high, middle, writable, beq_self_eq_true, Bool.and_self, check_true, performed,
    partArg_of_lt part, beq_iff_eq, psetEffect]

end
end

/-- Settles O44: each form by what its operand fields, its partition and its quad have it do. -/
theorem privForms : Obligations.PrivForms := by
  unfold Obligations.PrivForms
  intro d a b s t x y me readsA readsB
  refine ⟨fun high middle => ?_, fun small => ⟨halt_raises rfl readsA readsB small, halt_releases rfl readsA readsB small,
      halt_illegal rfl readsA readsB, stoprec_answers rfl readsA small, stoprec_parks rfl readsA small,
      cctl_flushes rfl readsA readsB small, fun z => cctl_fences rfl readsA readsB small, cctl_cleans rfl readsA readsB small,
      cctl_illegal rfl readsA readsB, fun landed => ?_, fun first still => ?_⟩,
    fun large => ⟨genscrub_illegal rfl readsA large, qown_illegal rfl readsA readsB large⟩,
    pset_illegal rfl readsA readsB, fun z high middle part writable performed => ?_⟩
  · have completes := tlbinv_completes rfl readsA readsB high middle
    refine ⟨fun kind => ?_, fun kind => ?_, fun kind => ?_, tlbinv_illegal rfl readsA readsB⟩
    all_goals
      rw [kind] at completes
      exact completes (by decide)
  · exact ⟨genscrub_ends rfl readsA small landed, fun legal => qown_ends rfl readsA readsB small legal landed⟩
  · exact ⟨genscrub_busy rfl readsA small first still, genscrub_begins rfl readsA small first still, fun legal =>
      ⟨fun z => qown_refused rfl readsA readsB small legal first,
        fun permitted => qown_busy rfl readsA readsB small legal first permitted still,
        fun permitted => qown_begins rfl readsA readsB small legal first permitted still⟩⟩
  · have completes := pset_completes rfl readsA readsB high middle part writable performed
    refine ⟨fun frozen => ?_, fun free closed => ?_, fun free opened => ?_⟩
    · simpa only [psetEffect, frozen, if_true] using completes
    · simpa only [psetEffect, free, closed, Bool.false_eq_true, if_false, if_true] using completes
    · simpa only [psetEffect, free, opened, Bool.false_eq_true, if_false] using completes

end Sys2Proof.Machine
end

section
namespace Sys2Proof.Machine
open Sys2Proof.Safety

/-! ## What a slot's own writes leave as it was (R325, R342, R343) -/

/-! ### Memory, with no event lost -/

/-- From `s` to `t` memory, translations and events on their way have changed, and none of those events is lost. -/
structure MemoryOnly (s t : State) : Prop where
  same : SameButMemory s t
  sent : s.md.inflight ⊆ t.md.inflight

theorem MemoryOnly.refl (s : State) : MemoryOnly s s := ⟨.refl s, List.Subset.refl _⟩

theorem MemoryOnly.trans {s t u : State} (h : MemoryOnly s t) (k : MemoryOnly t u) : MemoryOnly s u :=
  ⟨h.same.trans k.same, List.Subset.trans h.sent k.sent⟩

theorem MemoryOnly.ite {c : Prop} [Decidable c] {s t u : State} (ht : MemoryOnly s t) (hu : MemoryOnly s u) :
    MemoryOnly s (if c then t else u) := by
  split <;> assumption

theorem MemoryOnly.of_xl (s : State) (x : Xlat) : MemoryOnly s { s with xl := x } :=
  ⟨⟨s.mm, x, s.md.inflight, rfl⟩, List.Subset.refl _⟩

theorem postAll_inflight (es : List Instr) (s : State) : (postAll es s).md.inflight = s.md.inflight ++ es := by
  induction es generalizing s with
  | nil => exact (List.append_nil _).symm
  | cons e t ih => rw [postAll, ih, post_md_inflight, List.append_assoc, List.singleton_append]

@[simp] theorem postAll_slots (es : List Instr) (s : State) : (postAll es s).slots = s.slots := by
  obtain ⟨-, -, -, slots, -⟩ := (postAll_same es s).fields
  exact slots

theorem putLine_md (l : Line) (s : State) : (putLine l s).md = s.md := rfl

theorem arrBack_md (x : Nat) (s : State) : (arrBack x s).md = s.md := by
  simp only [arrBack]

theorem lineWritten_md (v : Via) (x : Nat) (s : State) : (lineWritten v x s).md = s.md := by
  unfold lineWritten
  split
  · exact (putLine_md ..).trans (arrBack_md ..)
  · split <;> exact putLine_md ..

theorem foldSectors_md {f : Nat → State → State} (hf : ∀ x s, (f x s).md = s.md) (l : List Nat) (s : State) :
    (foldSectors f l s).md = s.md := by
  induction l generalizing s with
  | nil => rfl
  | cons x t ih => exact (ih _).trans (hf x s)

theorem dropWalks_md (a n : Nat) (s : State) : (dropWalks a n s).md = s.md := by
  simp only [dropWalks]
  split <;> rfl

/-- A write of memory sends the events of the monitors that it fires behind those on their way. -/
theorem writePhys_only (v : Via) (pa : Nat) (bs : List Byte) (s : State) : MemoryOnly s (writePhys v pa bs s) := by
  refine ⟨writePhys_same v pa bs s, ?_⟩
  simp only [writePhys, postAll_inflight, foldSectors_md (lineWritten_md v), dropWalks_md]
  exact List.subset_append_left _ _

theorem writePieces_only (v : Via) (l : List (Nat × Nat)) (bs : List Byte) (s : State) : MemoryOnly s (writePieces v l bs s) := by
  induction l generalizing bs s with
  | nil => exact .refl s
  | cons p t ih => exact .trans (.ite (writePhys_only ..) (.refl s)) (ih _ _)

theorem setMonitor_only (m : Monitor) (s : State) : MemoryOnly s (setMonitor m s) := .ite (.refl s) (.of_xl s _)

theorem askPage_only (sp : Space) (va : Word) (kind : Access) (ea : Nat) (s : State) : MemoryOnly s (askPage sp va kind ea s) :=
  .trans (setMonitor_only ..) (.ite (.refl _) (.ite (.of_xl ..) (.of_xl ..)))

/-! The walk of a requester that is no agent with stores of its own. -/

theorem orBits_only (v : Via) (ea m : Nat) (s : State) : MemoryOnly s (orBits none v ea m s) := .ite (.refl s) (writePhys_only ..)

theorem takeLeaf_only (p : Part) (sp : Space) (need : Access) (va : Word) (l ea : Nat) (e : Word) (s : State) :
    MemoryOnly s (takeLeaf none p sp need va l ea e s).2 := by
  simp only [takeLeaf]
  repeat' split
  all_goals first | exact .refl s | exact orBits_only ..

theorem walkFrom_only (p : Part) (sp : Space) (need : Access) (va : Word) (fuel l t : Nat) (s : State) :
    MemoryOnly s (walkFrom none p sp need va fuel l t s).2 := by
  induction fuel generalizing l t s with
  | zero => exact .refl s
  | succ fuel ih =>
    simp only [walkFrom]
    split
    · exact .refl s
    · split
      · exact takeLeaf_only ..
      · exact .trans (.ite (.ite (.refl s) (.of_xl ..)) (.refl s)) (ih _ _ _)

theorem walk_only (sp : Space) (need : Access) (va : Word) (s : State) : MemoryOnly s (walk none sp need va s).2 := by
  simp only [walk, apply_ite Prod.snd]
  exact .ite (.refl s) (.ite (.refl s) (walkFrom_only ..))

theorem askGranule_only (sp : Space) (va : Word) (kind : Access) (s : State) : MemoryOnly s (askGranule none sp va kind s) :=
  .trans (walk_only sp kind va s) (.ite (.refl _) (.ite (.of_xl ..) (.of_xl ..)))

/-! ### One slot, as its own accesses leave it -/

/-- A slot without what its own accesses change: its translations, the writes that it holds and what the host refused them, and what
a queue fault sets (R342, R343). -/
def HwSlot.lasting (x : HwSlot) : HwSlot :=
  { x with st := .free, since := 0, waitSector := none, refusedW := none, holdWrite := none, held := [], tlb := []
           q := { x.q with err := 0 } }

/-- From `s` to `t` slot `i` has made accesses of its own: no other slot has changed, no event is lost, and the slot stands as it did
or in ERROR, to which a FREE or RESETTING one does not go. -/
structure SlotAccess (i : Fin 16) (s t : State) : Prop where
  ctc : t.ctc = s.ctc
  kpend : t.cw.kpend = s.cw.kpend
  others : ∀ j, j ≠ i → t.slots.get j = s.slots.get j
  lasting : (t.slots.get i).lasting = (s.slots.get i).lasting
  st : (t.slots.get i).st = (s.slots.get i).st ∨
    ((t.slots.get i).st = .error ∧ (s.slots.get i).st ≠ .free ∧ (s.slots.get i).st ≠ .resetting)
  sent : s.md.inflight ⊆ t.md.inflight

section
variable {i j : Fin 16} {s t u : State}

theorem SlotAccess.refl (i : Fin 16) (s : State) : SlotAccess i s s :=
  ⟨rfl, rfl, fun _ _ => rfl, rfl, .inl rfl, List.Subset.refl _⟩

theorem SlotAccess.trans (h : SlotAccess i s t) (k : SlotAccess i t u) : SlotAccess i s u := by
  refine ⟨k.ctc.trans h.ctc, k.kpend.trans h.kpend, fun j ne => (k.others j ne).trans (h.others j ne), k.lasting.trans h.lasting, ?_,
    List.Subset.trans h.sent k.sent⟩
  rcases k.st with kept | ⟨error, live, going⟩
  · rw [kept]
    exact h.st
  · rcases h.st with kept | ⟨-, before⟩
    · exact .inr ⟨error, kept ▸ live, kept ▸ going⟩
    · exact .inr ⟨error, before⟩

theorem SlotAccess.ite {c : Prop} [Decidable c] (ht : SlotAccess i s t) (hu : SlotAccess i s u) :
    SlotAccess i s (if c then t else u) := by
  split <;> assumption

theorem MemoryOnly.access (i : Fin 16) (h : MemoryOnly s t) : SlotAccess i s t := by
  obtain ⟨-, -, -, slots, -, ctc, cw, -⟩ := h.same.fields
  exact ⟨ctc, by rw [cw], fun _ _ => by rw [slots], by rw [slots], .inl (by rw [slots]), h.sent⟩

theorem State.slots_updSlot (s : State) (i j : Fin 16) (g : HwSlot → HwSlot) :
    (s.updSlot i g).slots.get j = if j = i then g (s.slots.get i) else s.slots.get j := by
  simp only [State.updSlot, vget_set]

@[simp] theorem State.slots_updSlot_same (s : State) (i : Fin 16) (g : HwSlot → HwSlot) :
    (s.updSlot i g).slots.get i = g (s.slots.get i) := by
  rw [State.slots_updSlot, if_pos rfl]

theorem State.slots_updSlot_ne (s : State) (g : HwSlot → HwSlot) (ne : j ≠ i) : (s.updSlot i g).slots.get j = s.slots.get j := by
  rw [State.slots_updSlot, if_neg ne]

/-- An update of what does not last, which leaves the slot's state. -/
theorem updSlot_access {g : HwSlot → HwSlot} (lasting : ∀ x, (g x).lasting = x.lasting) (st : ∀ x, (g x).st = x.st) :
    SlotAccess i s (s.updSlot i g) := by
  refine ⟨rfl, rfl, fun j ne => State.slots_updSlot_ne s g ne, ?_, .inl ?_, List.Subset.refl _⟩
  · rw [State.slots_updSlot_same, lasting]
  · rw [State.slots_updSlot_same, st]

/-! ### Accesses of the slot's requester -/

theorem walkAgent_slot (s : State) (i : Fin 16) : walkAgent s (.slot i) = none := rfl

theorem translate_access {refused : Option (BitVec 48 × Access)} {sp : Space} {need : Access} {va : Word} {pa : Nat}
    (h : translate (.slot i) refused sp need va s = .ok (pa, u)) : SlotAccess i s u := by
  simp only [translate, walkAgent_slot] at h
  split at h
  · cases h
    exact .refl i s
  · have walked := walk_only sp need va s
    split at h <;> rename_i hx <;> rw [hx] at walked
    · cases h
      simp only [fenceFound, keepFound, walkAgent_slot, fillTlb]
      exact (walked.access i).trans (updSlot_access (fun _ => rfl) fun _ => rfl)
    · cases h
    · cases h
    all_goals split at h <;> cases h

section
variable {w : Requester} (own : w.tlb = .slot i)
include own

theorem xlatPiece_access (need : Access) (va : Word) (s : State) : SlotAccess i s (xlatPiece w need va s).2 := by
  simp only [xlatPiece, own]
  split
  · split <;> exact .refl i s
  · split
    · exact .refl i s
    · split
      · exact translate_access ‹_›
      · exact .refl i s

theorem xlatPieces_access (need : Access) (va : Word) (l : List (Nat × Nat)) (s : State) :
    SlotAccess i s (xlatPieces w need va l s).2 := by
  induction l generalizing s with
  | nil => exact .refl i s
  | cons p t ih => exact (xlatPiece_access own ..).trans (ih _)

theorem resolve_access {right : Right} {need : Access} {va : Word} {len : Nat} {r : List (Nat × Nat) × State}
    (h : resolve w right need va len s = .ok r) : SlotAccess i s r.2 := by
  simp only [resolve] at h
  repeat' split at h
  all_goals cases h
  exact xlatPieces_access own ..

theorem plainRead_access {va : Word} {len : Nat} {bs : List Byte} (h : plainRead w va len s = .ok (bs, u)) : SlotAccess i s u := by
  simp only [plainRead] at h
  cases resolved : resolve w .r .read va len s with
  | error e =>
    rw [resolved, error_bind] at h
    cases h
  | ok r =>
    rw [resolved, ok_bind] at h
    split at h <;> cases h
    exact resolve_access own resolved

theorem plainWrite_access {l1 : Option (Fin 64 × Fin 4)} {va : Word} {bs : List Byte} (h : plainWrite w l1 va bs s = .ok u) :
    SlotAccess i s u := by
  simp only [plainWrite] at h
  cases resolved : resolve w .w .write va bs.length s with
  | error e =>
    rw [resolved, error_bind] at h
    cases h
  | ok r =>
    rw [resolved, ok_bind] at h
    cases h
    exact (resolve_access own resolved).trans ((writePieces_only ..).access i)

end

theorem askWrite_access {e : Stop} (h : askWrite i e s = some t) : SlotAccess i s t := by
  simp only [askWrite] at h
  split at h <;> cases h
  · exact ((askPage_only ..).access i).trans (updSlot_access (fun _ => rfl) fun _ => rfl)
  · exact ((askGranule_only ..).access i).trans (updSlot_access (fun _ => rfl) fun _ => rfl)

theorem rawPut_access {va : Word} {bs : List Byte} (h : rawPut i va bs s = some t) : SlotAccess i s t := by
  simp only [rawPut] at h
  split at h
  · cases h
    exact updSlot_access (fun _ => rfl) fun _ => rfl
  split at h
  · cases h
    have written : SlotAccess i s _ := plainWrite_access rfl ‹_›
    exact .ite (written.trans (updSlot_access (fun _ => rfl) fun _ => rfl)) written
  · obtain ⟨v, asked, rfl⟩ := Option.map_eq_some_iff.mp h
    exact (askWrite_access asked).trans (updSlot_access (fun _ => rfl) fun _ => rfl)

theorem getD_rawPut_access (i : Fin 16) (va : Word) (bs : List Byte) (s : State) : SlotAccess i s ((rawPut i va bs s).getD s) := by
  cases h : rawPut i va bs s with
  | none => exact .refl i s
  | some t => exact rawPut_access h

/-- A fault of a queue whose slot is neither FREE nor RESETTING. -/
theorem enterFault_access (code : Nat) (live : (s.slots.get i).st ≠ .free) (going : (s.slots.get i).st ≠ .resetting) :
    SlotAccess i s (enterFault i code s) := by
  unfold enterFault
  extract_lets s1 x s2
  have failed : SlotAccess i s s1 := by
    refine ⟨rfl, rfl, fun j ne => State.slots_updSlot_ne _ _ ne, ?_, .inr ⟨?_, live, going⟩, List.Subset.refl _⟩ <;>
      rw [State.slots_updSlot_same]
    rfl
  have status : SlotAccess i s1 s2 := getD_rawPut_access ..
  exact failed.trans (status.trans ((getD_rawPut_access ..).trans (MemoryOnly.access i ⟨post_same .., by simp⟩)))

theorem queueFault_access (i : Fin 16) (code : Nat) (s : State) : SlotAccess i s (queueFault i code s) := by
  unfold queueFault
  extract_lets x
  split
  · exact .refl i s
  · rename_i h
    rw [Bool.or_eq_true, beq_iff_eq, beq_iff_eq, not_or] at h
    exact enterFault_access code h.1 h.2

theorem slotPut_access (i : Fin 16) (va : Word) (bs : List Byte) (s : State) : SlotAccess i s (slotPut i va bs s) := by
  rw [slotPut]
  split
  · exact rawPut_access ‹_›
  · exact queueFault_access ..

/-- A slot enters a state, and writes its STATUS through. -/
theorem setSlot_access (i : Fin 16) (st : HwSt) (s : State) :
    SlotAccess i (s.updSlot i fun x => { x with st := st, since := s.ctc }) (setSlot i st s) := slotPut_access ..

theorem setSlot_lasting (i : Fin 16) (st : HwSt) (s : State) :
    ((setSlot i st s).slots.get i).lasting = (s.slots.get i).lasting := by
  rw [(setSlot_access i st s).lasting, State.slots_updSlot_same]
  rfl

theorem setSlot_st (i : Fin 16) (st : HwSt) (s : State) : ((setSlot i st s).slots.get i).st = st ∨
    (((setSlot i st s).slots.get i).st = .error ∧ st ≠ .free ∧ st ≠ .resetting) := by
  simpa only [State.slots_updSlot_same] using (setSlot_access i st s).st

/-! ### Another slot -/

/-- From `s` to `t` slot `i` stands as it did, the time and the pending queues too, and no event is lost. -/
structure KeepsSlot (i : Fin 16) (s t : State) : Prop where
  ctc : t.ctc = s.ctc
  kpend : t.cw.kpend = s.cw.kpend
  slot : t.slots.get i = s.slots.get i
  sent : s.md.inflight ⊆ t.md.inflight

theorem KeepsSlot.refl (i : Fin 16) (s : State) : KeepsSlot i s s := ⟨rfl, rfl, rfl, List.Subset.refl _⟩

theorem KeepsSlot.trans (h : KeepsSlot i s t) (k : KeepsSlot i t u) : KeepsSlot i s u :=
  ⟨k.ctc.trans h.ctc, k.kpend.trans h.kpend, k.slot.trans h.slot, List.Subset.trans h.sent k.sent⟩

theorem KeepsSlot.ite {c : Prop} [Decidable c] (ht : KeepsSlot i s t) (hu : KeepsSlot i s u) :
    KeepsSlot i s (if c then t else u) := by
  split <;> assumption

theorem SlotAccess.keeps (h : SlotAccess j s t) (ne : i ≠ j) : KeepsSlot i s t := ⟨h.ctc, h.kpend, h.others i ne, h.sent⟩

theorem post_keeps (i : Fin 16) (e : Instr) (s : State) : KeepsSlot i s (post e s) := ⟨rfl, rfl, rfl, by simp⟩

theorem updSlot_keeps (g : HwSlot → HwSlot) (ne : i ≠ j) : KeepsSlot i s (s.updSlot j g) :=
  ⟨rfl, rfl, State.slots_updSlot_ne s g ne, List.Subset.refl _⟩

theorem setSlot_keeps (st : HwSt) (ne : i ≠ j) : KeepsSlot i s (setSlot j st s) :=
  (updSlot_keeps _ ne).trans ((setSlot_access j st s).keeps ne)

theorem startPreempt_keeps (ne : i ≠ j) : KeepsSlot i s (startPreempt j s) :=
  (updSlot_keeps _ ne).trans ((setSlot_keeps _ ne).trans (post_keeps ..))

end

end Sys2Proof.Machine
end

section
namespace Sys2Proof.Machine
open Sys2Proof.Safety

/-! ## Selection (R351, R374) -/

/-! ### The order of the candidates -/

/-- Descending rank, then longest waiting, then lower number, in numbers. -/
theorem before_iff {s : State} {i j : Fin 16} : before s i j = true ↔
    rank (s.slots.get j) < rank (s.slots.get i) ∨ (rank (s.slots.get i) = rank (s.slots.get j) ∧
      ((s.slots.get i).rsince.toNat < (s.slots.get j).rsince.toNat ∨
        ((s.slots.get i).rsince.toNat = (s.slots.get j).rsince.toNat ∧ i.val < j.val))) := by
  simp only [before, ← BitVec.toNat_inj]
  split
  · split <;> simp only [decide_eq_true_eq] <;> omega
  · simp only [decide_eq_true_eq]
    omega

theorem before_trans {s : State} {i j k : Fin 16} (h : before s i j = true) (h' : before s j k = true) : before s i k = true := by
  rw [before_iff] at *
  omega

theorem before_total {s : State} {i j : Fin 16} (ne : i ≠ j) (h : before s i j ≠ true) : before s j i = true := by
  have apart := Fin.val_ne_of_ne ne
  rw [Ne, before_iff] at h
  rw [before_iff]
  omega

theorem insertRanked_perm (s : State) (i : Fin 16) (l : List (Fin 16)) : (insertRanked s i l).Perm (i :: l) := by
  induction l with
  | nil => exact .refl _
  | cons j t ih =>
    rw [insertRanked]
    split
    · exact .refl _
    · exact (ih.cons j).trans (.swap i j t)

theorem insertRanked_pairwise {s : State} {i : Fin 16} {l : List (Fin 16)} (sorted : l.Pairwise fun j k => before s j k = true)
    (new : i ∉ l) : (insertRanked s i l).Pairwise fun j k => before s j k = true := by
  induction l with
  | nil => exact List.pairwise_singleton _ _
  | cons j t ih =>
    obtain ⟨first, rest⟩ := List.pairwise_cons.mp sorted
    rw [List.mem_cons, not_or] at new
    rw [insertRanked]
    split
    · rename_i front
      refine List.pairwise_cons.mpr ⟨fun k hk => ?_, sorted⟩
      rcases List.mem_cons.mp hk with rfl | later
      · exact front
      · exact before_trans front (first k later)
    · rename_i behind
      refine List.pairwise_cons.mpr ⟨fun k hk => ?_, ih rest new.2⟩
      rcases List.mem_cons.mp ((insertRanked_perm s i t).mem_iff.mp hk) with rfl | later
      · exact before_total new.1 behind
      · exact first k later

/-- A slot that selection may grant: RUNNABLE, or RUNNING with its quantum ended. -/
def candidate (x : HwSlot) : Bool := x.st == .runnable || (x.st == .running && x.ended)

theorem candidate_iff {x : HwSlot} : candidate x = true ↔ x.st = .runnable ∨ (x.st = .running ∧ x.ended = true) := by
  simp only [candidate, Bool.or_eq_true, Bool.and_eq_true, beq_iff_eq]

theorem candidate_of_keptSlot {s : State} {x : HwSlot} (kept : keptSlot s x = true) : candidate x = false := by
  simp only [keptSlot, Bool.or_eq_true, Bool.and_eq_true, beq_iff_eq, Bool.not_eq_true'] at kept
  rcases kept with ⟨running, going⟩ | ⟨error, -⟩
  · simp only [candidate, running, going, Bool.and_false, Bool.or_false]
    rfl
  · simp only [candidate, error]
    rfl

/-- The candidates in the order of their grants. -/
def ranked (s : State) : List (Fin 16) :=
  ((List.finRange 16).filter fun i => candidate (s.slots.get i)).foldr (insertRanked s) []

/-- The slots that selection keeps. -/
def keptSlots (s : State) : List (Fin 16) := (List.finRange 16).filter fun i => keptSlot s (s.slots.get i)

theorem select_eq (s : State) : select s = grantAll (ranked s) (keptSlots s) s := rfl

theorem mem_keptSlots {s : State} {i : Fin 16} : i ∈ keptSlots s ↔ keptSlot s (s.slots.get i) = true := by
  simp only [keptSlots, List.mem_filter, List.mem_finRange, true_and]

theorem foldr_insertRanked_perm (s : State) (l : List (Fin 16)) : (l.foldr (insertRanked s) []).Perm l := by
  induction l with
  | nil => exact .refl _
  | cons i t ih => exact (insertRanked_perm s i _).trans (ih.cons i)

theorem foldr_insertRanked_pairwise (s : State) {l : List (Fin 16)} (once : l.Nodup) :
    (l.foldr (insertRanked s) []).Pairwise fun j k => before s j k = true := by
  induction l with
  | nil => exact .nil
  | cons i t ih =>
    obtain ⟨new, rest⟩ := List.nodup_cons.mp once
    exact insertRanked_pairwise (ih rest) fun h => new ((foldr_insertRanked_perm s t).mem_iff.mp h)

theorem mem_ranked {s : State} {i : Fin 16} : i ∈ ranked s ↔ candidate (s.slots.get i) = true := by
  rw [ranked, (foldr_insertRanked_perm s _).mem_iff]
  simp only [List.mem_filter, List.mem_finRange, true_and]

theorem ranked_nodup (s : State) : (ranked s).Nodup :=
  (foldr_insertRanked_perm s _).nodup_iff.mpr ((List.nodup_finRange 16).filter _)

theorem ranked_pairwise (s : State) : (ranked s).Pairwise fun j k => before s j k = true :=
  foldr_insertRanked_pairwise s ((List.nodup_finRange 16).filter _)

/-! ### One grant, one pre-emption -/

section
variable {i j : Fin 16} {s t u : State}

/-- The slot as a grant has it run, before what it saved is restored. -/
def enterRunning (i : Fin 16) (s : State) : State :=
  let t := s.updSlot i fun x => { x with granted := s.ctc, ended := false, eprio := x.prio }
  if (s.slots.get i).st == .running then t else setSlot i .running t

theorem grant_eq (i : Fin 16) (s : State) : grant i s =
    if ((enterRunning i s).slots.get i).saved then post (.restore i) (enterRunning i s) else enterRunning i s := rfl

theorem enterRunning_slot (i : Fin 16) (s : State) :
    ((enterRunning i s).slots.get i).lasting = { (s.slots.get i).lasting with
      granted := s.ctc, ended := false, eprio := (s.slots.get i).prio } ∧
    (((enterRunning i s).slots.get i).st = .running ∨ ((enterRunning i s).slots.get i).st = .error) := by
  unfold enterRunning
  extract_lets t
  have granted : t.slots.get i = { s.slots.get i with granted := s.ctc, ended := false, eprio := (s.slots.get i).prio } :=
    State.slots_updSlot_same ..
  split
  · rename_i running
    rw [granted]
    exact ⟨rfl, .inl (beq_iff_eq.mp running)⟩
  · rw [setSlot_lasting, granted]
    exact ⟨rfl, (setSlot_st i .running t).imp_right And.left⟩

/-- What a grant leaves in the slot (R351): it is RUNNING, or in ERROR when its STATUS is refused. -/
theorem grant_slot (i : Fin 16) (s : State) :
    ((grant i s).slots.get i).lasting = { (s.slots.get i).lasting with
      granted := s.ctc, ended := false, eprio := (s.slots.get i).prio } ∧
    (((grant i s).slots.get i).st = .running ∨ ((grant i s).slots.get i).st = .error) := by
  have same : (grant i s).slots = (enterRunning i s).slots := by
    rw [grant_eq]
    split <;> rfl
  rw [same]
  exact enterRunning_slot i s

/-- A granted slot with a saved context is restored (R377). -/
theorem grant_restores (saved : (s.slots.get i).saved = true) : .restore i ∈ (grant i s).md.inflight := by
  have kept : ((enterRunning i s).slots.get i).saved = true := (congrArg HwSlot.saved (enterRunning_slot i s).1).trans saved
  rw [grant_eq, if_pos kept, post_md_inflight]
  exact List.mem_append_right _ (List.mem_singleton_self _)

theorem grant_keeps (ne : i ≠ j) : KeepsSlot i s (grant j s) := by
  have entered : KeepsSlot i s (enterRunning j s) := .ite (updSlot_keeps _ ne) ((updSlot_keeps _ ne).trans (setSlot_keeps _ ne))
  rw [grant_eq]
  exact .ite (entered.trans (post_keeps ..)) entered

/-- What a pre-emption leaves in the slot (R374). -/
theorem startPreempt_slot (i : Fin 16) (s : State) :
    ((startPreempt i s).slots.get i).lasting = { (s.slots.get i).lasting with deadline := false, charged := [] } ∧
    (((startPreempt i s).slots.get i).st = .preempting ∨ ((startPreempt i s).slots.get i).st = .error) ∧
    .saveComplete i ∈ (startPreempt i s).md.inflight := by
  refine ⟨?_, (setSlot_st i .preempting _).imp_right And.left, by simp [startPreempt]⟩
  rw [startPreempt, post_slots, setSlot_lasting, State.slots_updSlot_same]
  rfl

/-- The quads that a slot's mask names. -/
def HwSlot.mask (x : HwSlot) : BitVec 8 × Word := (x.part, x.qmask)

/-- Every slot has the mask that it had. -/
def SameMasks (s t : State) : Prop := ∀ j, (t.slots.get j).mask = (s.slots.get j).mask

theorem SameMasks.trans (h : SameMasks s t) (k : SameMasks t u) : SameMasks s u := fun j => (k j).trans (h j)

theorem SameMasks.overlap (h : SameMasks s t) (i j : Fin 16) :
    masksOverlap (t.slots.get i) (t.slots.get j) = masksOverlap (s.slots.get i) (s.slots.get j) := by
  obtain ⟨pi, mi⟩ := Prod.mk.inj (h i)
  obtain ⟨pj, mj⟩ := Prod.mk.inj (h j)
  rw [masksOverlap, pi, mi, pj, mj, masksOverlap]

theorem grant_masks (i : Fin 16) (s : State) : SameMasks s (grant i s) := fun j => by
  by_cases e : j = i
  · rw [e]
    exact (congrArg HwSlot.mask (grant_slot i s).1 :)
  · rw [(grant_keeps e).slot]

theorem startPreempt_masks (i : Fin 16) (s : State) : SameMasks s (startPreempt i s) := fun j => by
  by_cases e : j = i
  · rw [e]
    exact (congrArg HwSlot.mask (startPreempt_slot i s).1 :)
  · rw [(startPreempt_keeps e).slot]

/-- What becomes of a candidate that overlaps a slot kept or granted before it. -/
def passedOver (i : Fin 16) (s : State) : State := if (s.slots.get i).st == .running then startPreempt i s else s

theorem passedOver_keeps (ne : i ≠ j) : KeepsSlot i s (passedOver j s) := .ite (startPreempt_keeps ne) (.refl i s)

theorem passedOver_masks (i : Fin 16) (s : State) : SameMasks s (passedOver i s) := by
  unfold passedOver
  split
  · exact startPreempt_masks i s
  · exact fun _ => rfl

theorem grantAll_cons (i : Fin 16) (l held : List (Fin 16)) (s : State) : grantAll (i :: l) held s =
    if held.any fun j => masksOverlap (s.slots.get i) (s.slots.get j) then grantAll l held (passedOver i s)
    else grantAll l (i :: held) (grant i s) := rfl

/-- The grants of other slots leave a slot as it is. -/
theorem grantAll_keeps {l held : List (Fin 16)} (out : i ∉ l) : KeepsSlot i s (grantAll l held s) := by
  induction l generalizing held s with
  | nil => exact .refl i s
  | cons j l ih =>
    rw [List.mem_cons, not_or] at out
    rw [grantAll_cons]
    split
    · exact (passedOver_keeps out.1).trans (ih out.2)
    · exact (grant_keeps out.1).trans (ih out.2)

/-- When a candidate's turn comes, it and every mask stand as they did, and the slots granted so far are of those before it. -/
theorem grantAll_reaches {front rest held : List (Fin 16)} (out : i ∉ front) : ∃ u held',
    grantAll (front ++ i :: rest) held s = grantAll (i :: rest) held' u ∧ KeepsSlot i s u ∧ SameMasks s u ∧
      (∀ j ∈ held, j ∈ held') ∧ ∀ j ∈ held', j ∈ held ∨ j ∈ front := by
  induction front generalizing held s with
  | nil => exact ⟨s, held, rfl, .refl i s, fun _ => rfl, fun _ h => h, fun _ => .inl⟩
  | cons k front ih =>
    rw [List.mem_cons, not_or] at out
    rw [List.cons_append, grantAll_cons]
    split
    · obtain ⟨u, held', run, keeps, masks, sub, from_⟩ := ih (s := passedOver k s) (held := held) out.2
      exact ⟨u, held', run, (passedOver_keeps out.1).trans keeps, (passedOver_masks k s).trans masks, sub,
        fun j hj => (from_ j hj).imp_right (List.mem_cons_of_mem k)⟩
    · obtain ⟨u, held', run, keeps, masks, sub, from_⟩ := ih (s := grant k s) (held := k :: held) out.2
      refine ⟨u, held', run, (grant_keeps out.1).trans keeps, (grant_masks k s).trans masks,
        fun j hj => sub j (List.mem_cons_of_mem k hj), fun j hj => ?_⟩
      rcases from_ j hj with h | h
      · exact (List.mem_cons.mp h).elim (fun e => .inr (e ▸ List.mem_cons_self)) .inl
      · exact .inr (List.mem_cons_of_mem k h)

/-! ### What selection leaves in each slot -/

/-- Selection leaves a slot that is no candidate as it is. -/
theorem select_keeps (none : candidate (s.slots.get i) = false) : KeepsSlot i s (select s) :=
  grantAll_keeps fun h => by simp only [mem_ranked.mp h, Bool.true_eq_false] at none

/-- A candidate's turn in selection: it stands as it did, and against it are the kept slots and granted candidates before it. -/
theorem select_turn (cand : candidate (s.slots.get i) = true) : ∃ u held rest, i ∉ rest ∧ select s = grantAll (i :: rest) held u ∧
    KeepsSlot i s u ∧ SameMasks s u ∧ (∀ j, keptSlot s (s.slots.get j) = true → j ∈ held) ∧
    ∀ j ∈ held, keptSlot s (s.slots.get j) = true ∨ (candidate (s.slots.get j) = true ∧ before s j i = true) := by
  obtain ⟨front, rest, split⟩ := List.append_of_mem (mem_ranked.mpr cand)
  have once := ranked_nodup s
  have sorted := ranked_pairwise s
  rw [split] at once sorted
  obtain ⟨-, tail, apart⟩ := List.nodup_append.mp once
  obtain ⟨u, held, run, keeps, masks, sub, from_⟩ := grantAll_reaches (s := s) (rest := rest) (held := keptSlots s)
    fun h : i ∈ front => apart i h i List.mem_cons_self rfl
  refine ⟨u, held, rest, (List.nodup_cons.mp tail).1, by rw [select_eq, split, run], keeps, masks,
    fun j kept => sub j (mem_keptSlots.mpr kept), fun j hj => ?_⟩
  rcases from_ j hj with kept | earlier
  · exact .inl (mem_keptSlots.mp kept)
  · refine .inr ⟨mem_ranked.mp (split ▸ List.mem_append_left _ earlier), ?_⟩
    exact (List.pairwise_append.mp sorted).2.2 j earlier i List.mem_cons_self

section
variable (cand : candidate (s.slots.get i) = true)
include cand

/-- A candidate that overlaps no kept slot and no candidate before it is granted. -/
theorem select_grants
    (free : ∀ j, keptSlot s (s.slots.get j) = true → masksOverlap (s.slots.get i) (s.slots.get j) = false)
    (first : ∀ j, candidate (s.slots.get j) = true → before s j i = true →
      masksOverlap (s.slots.get i) (s.slots.get j) = false) :
    let x := s.slots.get i
    let y := (select s).slots.get i
    y.granted = s.ctc ∧ y.ended = false ∧ y.eprio = x.prio ∧ (y.st = .running ∨ y.st = .error) ∧
      (x.saved = true → .restore i ∈ (select s).md.inflight) := by
  obtain ⟨u, held, rest, out, run, keeps, masks, -, from_⟩ := select_turn cand
  have clear : ¬ (held.any fun j => masksOverlap (u.slots.get i) (u.slots.get j)) = true := by
    rw [Bool.not_eq_true, List.any_eq_false]
    intro j hj
    rw [masks.overlap, Bool.not_eq_true]
    exact (from_ j hj).elim (free j) fun h => first j h.1 h.2
  rw [grantAll_cons, if_neg clear] at run
  have later : KeepsSlot i (grant i u) (select s) := run ▸ grantAll_keeps out
  obtain ⟨lasting, st⟩ := grant_slot i u
  rw [← later.slot, keeps.slot] at lasting
  rw [← later.slot] at st
  exact ⟨(congrArg HwSlot.granted lasting).trans keeps.ctc, congrArg HwSlot.ended lasting, congrArg HwSlot.eprio lasting, st,
    fun saved => later.sent (grant_restores (by rw [keeps.slot, saved]))⟩

/-- A candidate that overlaps a kept slot is not granted: it stays RUNNABLE, or is pre-empted. -/
theorem select_passesOver {j : Fin 16} (kept : keptSlot s (s.slots.get j) = true)
    (overlap : masksOverlap (s.slots.get i) (s.slots.get j) = true) :
    let x := s.slots.get i
    let y := (select s).slots.get i
    (x.st = .runnable → y = x) ∧
      (x.st = .running → (y.st = .preempting ∨ y.st = .error) ∧ .saveComplete i ∈ (select s).md.inflight) := by
  obtain ⟨u, held, rest, out, run, keeps, masks, sub, -⟩ := select_turn cand
  have taken : (held.any fun j => masksOverlap (u.slots.get i) (u.slots.get j)) = true :=
    List.any_eq_true.mpr ⟨j, sub j kept, (masks.overlap i j).trans overlap⟩
  rw [grantAll_cons, if_pos taken] at run
  have later : KeepsSlot i (passedOver i u) (select s) := run ▸ grantAll_keeps out
  refine ⟨fun runnable => ?_, fun running => ?_⟩
  · have stays : passedOver i u = u := if_neg (by rw [keeps.slot, runnable]; decide)
    rw [later.slot, stays, keeps.slot]
  · have preempts : passedOver i u = startPreempt i u := if_pos (by rw [keeps.slot, running]; rfl)
    rw [preempts] at later
    obtain ⟨-, st, saves⟩ := startPreempt_slot i u
    exact ⟨later.slot ▸ st, later.sent saves⟩

end

end

end Sys2Proof.Machine
end

section
namespace Sys2Proof.Machine
open Sys2Proof.Safety

/-- An event whose state is known goes on in that state. -/
theorem next_congr {s t : State} (h : s = t) : (.next s : Host.Outcome State Fault Refusal) = .next t := congrArg _ h

/-! ## Kicks and cancels (R328, R330, R347) -/

section
variable {s : State} {n : Fin 4096}

/-- The kick filter passes what reaches the queue: the aperture is open and the queue's entry valid (R330, R331). -/
def KickPasses (s : State) (n : Fin 4096) : Prop := bitAt s.cw.kapbase 0 = true ∧ kftValid s n = true

theorem kickOp_dropped (v : BitVec 32) (filtered : bitAt s.cw.kapbase 0 = false ∨ kftValid s n = false) :
    kickOp n v s = { s with cw := { s.cw with dropKicks := s.cw.dropKicks + 1 } } := by
  unfold kickOp
  rcases filtered with closed | invalid
  · rw [if_pos (by rw [closed]; rfl)]
  · rw [invalid]
    split <;> rfl

theorem cancelStore_dropped (kind : Nat) (filtered : bitAt s.cw.kapbase 0 = false ∨ kftValid s n = false) :
    cancelStore n kind s = s := by
  refine if_pos ?_
  simpa only [Bool.or_eq_true, Bool.not_eq_true'] using filtered

section
variable (passes : KickPasses s n)
include passes

theorem kickOp_unmapped (v : BitVec 32) (unmapped : slotOfQueue s n = none) :
    kickOp n v s = serveKicks (raiseIrq (setPending n (noteKval n v s))) := by
  simp only [kickOp, passes.1, passes.2, unmapped, Bool.not_true, Bool.false_eq_true, if_false]

theorem cancelStore_unmapped (kind : Nat) (unmapped : slotOfQueue s n = none) : cancelStore n kind s = cancelUnmapped n kind s := by
  simp only [cancelStore, passes.1, passes.2, unmapped, Bool.not_true, Bool.or_self, Bool.false_eq_true, if_false]

theorem kickOp_mapped {i : Fin 16} (v : BitVec 32) (mapped : slotOfQueue s n = some i) :
    kickOp n v s = if (s.slots.get i).st == .unmapping then noteKval n v (setPend i s)
      else wakeSlot i (s.updSlot i fun x => { x with q := applyKick v x.q }) := by
  simp only [kickOp, passes.1, passes.2, mapped, Bool.not_true, Bool.false_eq_true, if_false]

theorem cancelStore_mapped {i : Fin 16} (kind : Nat) (mapped : slotOfQueue s n = some i) :
    cancelStore n kind s = cancelLevel i kind s := by
  simp only [cancelStore, passes.1, passes.2, mapped, Bool.not_true, Bool.or_self, Bool.false_eq_true, if_false]

end

end

/-! ## The map of a queue (R330, R352, R353) -/

/-- A queue's state without its limit, its error, its pending bit and its cancel marks. -/
def QueueSt.assigned (q : QueueSt) : QueueSt :=
  { q with klim := 0, stuck := false, err := 0, pend := false, cancelG := [], cancelP := [], jobCancelled := false }

/-- What the map of a queue gives a slot: what lasts, without its rank among the candidates. -/
def HwSlot.assigned (x : HwSlot) : HwSlot :=
  { x.lasting with eprio := 0, age := 0, rsince := 0, ended := false, q := x.q.assigned }

theorem assigned_of_lasting {x y : HwSlot} (h : x.lasting = y.lasting) : x.assigned = y.assigned :=
  (congrArg HwSlot.assigned h :)

/-- From `s` to `t` a mapped slot has changed its state or its rank: its assignment and the pending queues stand as they did. -/
structure StaysMapped (i : Fin 16) (s t : State) : Prop where
  assigned : (t.slots.get i).assigned = (s.slots.get i).assigned
  mapped : (s.slots.get i).st ≠ .free → (t.slots.get i).st ≠ .free
  kpend : t.cw.kpend = s.cw.kpend

section
variable {i : Fin 16} {s t u : State}

theorem StaysMapped.refl (i : Fin 16) (s : State) : StaysMapped i s s := ⟨rfl, id, rfl⟩

theorem StaysMapped.trans (h : StaysMapped i s t) (k : StaysMapped i t u) : StaysMapped i s u :=
  ⟨k.assigned.trans h.assigned, fun live => k.mapped (h.mapped live), k.kpend.trans h.kpend⟩

theorem KeepsSlot.staysMapped (h : KeepsSlot i s t) : StaysMapped i s t := ⟨by rw [h.slot], by rw [h.slot]; exact id, h.kpend⟩

/-- An update of a slot's rank or of its queue's marks. -/
theorem updSlot_staysMapped {g : HwSlot → HwSlot} (assigned : ∀ x, (g x).assigned = x.assigned) (st : ∀ x, (g x).st = x.st) :
    StaysMapped i s (s.updSlot i g) := by
  refine ⟨?_, ?_, rfl⟩ <;> rw [State.slots_updSlot_same]
  · exact assigned _
  · rw [st]
    exact id

theorem setSlot_mapped {st : HwSt} (live : st ≠ .free) : ((setSlot i st s).slots.get i).st ≠ .free := by
  rcases setSlot_st i st s with same | ⟨error, -⟩
  · rwa [same]
  · rw [error]
    decide

theorem setSlot_staysMapped {st : HwSt} (live : st ≠ .free) : StaysMapped i s (setSlot i st s) :=
  ⟨assigned_of_lasting (setSlot_lasting ..), fun _ => setSlot_mapped live, (setSlot_access i st s).kpend⟩

/-- The pre-emption of lower slots is of other ones. -/
theorem preemptLower_keeps (i : Fin 16) (l : List (Fin 16)) (s : State) : KeepsSlot i s (preemptLower i l s) := by
  induction l generalizing s with
  | nil => exact .refl i s
  | cons j l ih =>
    rw [preemptLower]
    refine .trans ?_ (ih _)
    split
    · rename_i lower
      simp only [Bool.and_eq_true, bne_iff_ne] at lower
      exact startPreempt_keeps lower.1.1.1
    · exact .refl i s

theorem makeRunnable_staysMapped (i : Fin 16) (s : State) : StaysMapped i s (makeRunnable i s) := by
  unfold makeRunnable
  extract_lets s1
  have entered : StaysMapped i s s1 := by
    refine .trans ?_ (setSlot_staysMapped (by decide))
    exact updSlot_staysMapped (fun _ => rfl) fun _ => rfl
  exact entered.trans ((preemptLower_keeps ..).trans (post_keeps ..)).staysMapped

theorem wakeSlot_staysMapped (i : Fin 16) (s : State) : StaysMapped i s (wakeSlot i s) := by
  unfold wakeSlot
  extract_lets x
  split
  · refine .trans ?_ (makeRunnable_staysMapped ..)
    exact updSlot_staysMapped (fun _ => rfl) fun _ => rfl
  · exact .refl i s

end

theorem applyKick_assigned (v : BitVec 32) (q : QueueSt) : (applyKick v q).assigned = q.assigned := rfl

theorem withMarks_assigned (s : State) (n : Fin 4096) (q : QueueSt) : (withMarks s n q).assigned = q.assigned := by
  unfold withMarks
  split <;> rfl

/-- A queue's pending bit is clear once it is cleared. -/
theorem isPending_clearPending (n : Fin 4096) (s : State) : isPending (clearPending n s) n = false := by
  have word : n.val / 64 < 64 := by omega
  have bit : n.val % 64 < 64 := by omega
  have cleared : (wd (2 ^ (n.val % 64))).getLsbD (n.val % 64) = true := by
    rw [BitVec.getLsbD_ofNat, Nat.testBit_two_pow_self, decide_eq_true bit, Bool.true_and]
  simp only [isPending, clearPending, bitAt_eq, Vector.toList_setIfInBounds, List.getD_eq_getElem?_getD, List.getElem?_set,
    Vector.length_toList, word, if_true, Option.getD_some, BitVec.getLsbD_and, BitVec.getLsbD_not, cleared, Bool.not_true,
    Bool.and_false]

theorem isPending_congr {s t : State} (same : t.cw.kpend = s.cw.kpend) (n : Fin 4096) : isPending t n = isPending s n := by
  rw [isPending, same, isPending]

section
variable {i : Fin 16} {n : Fin 4096} {s u : State} {bs : List Byte}

/-- The slot with a queue that its QCB, read as `bs`, gives, with no save area (R353). -/
def installed (i : Fin 16) (n : Fin 4096) (bs : List Byte) (s u : State) : State :=
  let graph := fresh u
  let phase := fresh graph.2
  (clearPending n phase.2).updSlot i fun x =>
    { x with refused := none
             q := withMarks phase.2 n (applyKick (BitVec.ofNat 32 (kftField phase.2 n 24 4))
               (loadQueue (wd (kftField s n 0 8)) bs [] graph.1 phase.1)) }

/-- A queue whose QCB is read, and that has no save area, is mapped: the slot is IDLE, and wakes if it has a packet. -/
theorem loadSlot_installs (read : plainRead (slotRequester (s.updSlot i HwSlot.cleared) i) (wd (kftField s n 0 8)) 256
      (s.updSlot i HwSlot.cleared) = .ok (bs, u)) (plain : fieldAt bs 80 8 = 0) :
    loadSlot i n s = wakeSlot i (setSlot i .idle (installed i n bs s u)) := by
  have none : (wd (fieldAt bs 80 8) == 0) = true := by
    rw [plain]
    rfl
  simp only [loadSlot, read, none, if_true, installed]

/-- What the map leaves in the slot: the QCB's queue, with nothing of an earlier one (R353). -/
theorem loadSlot_maps (read : plainRead (slotRequester (s.updSlot i HwSlot.cleared) i) (wd (kftField s n 0 8)) 256
      (s.updSlot i HwSlot.cleared) = .ok (bs, u)) (plain : fieldAt bs 80 8 = 0) :
    ((loadSlot i n s).slots.get i).st ≠ .free ∧ isPending (loadSlot i n s) n = false ∧ ∃ graph phase,
      ((loadSlot i n s).slots.get i).assigned = ({ (s.slots.get i).cleared with
        refused := none, q := loadQueue (wd (kftField s n 0 8)) bs [] graph phase } : HwSlot).assigned := by
  rw [loadSlot_installs read plain]
  have idle : ((setSlot i .idle (installed i n bs s u)).slots.get i).st ≠ .free := setSlot_mapped (by decide)
  have entered : StaysMapped i (installed i n bs s u) (setSlot i .idle (installed i n bs s u)) := setSlot_staysMapped (by decide)
  have stays := entered.trans (wakeSlot_staysMapped i _)
  refine ⟨(wakeSlot_staysMapped i _).mapped idle, ?_, (fresh u).1, (fresh (fresh u).2).1, ?_⟩
  · rw [isPending_congr stays.kpend]
    exact isPending_clearPending n _
  · have assign : ∀ (x : HwSlot) (q : QueueSt), ({ x with refused := none, q := q } : HwSlot).assigned =
        { x.lasting with refused := none, eprio := 0, age := 0, rsince := 0, ended := false, q := q.assigned } := fun _ _ => rfl
    have lasting := (plainRead_access (i := i) rfl read).lasting
    rw [State.slots_updSlot_same] at lasting
    have slot : (clearPending n (fresh (fresh u).2).2).slots.get i = u.slots.get i := rfl
    rw [stays.assigned]
    simp only [installed, State.slots_updSlot_same, slot, assign, withMarks_assigned, applyKick_assigned, lasting]

end

section
variable {i : Fin 16} {n : Fin 4096} {s : State}

theorem mapSlot_taken (live : (s.slots.get i).st ≠ .free) : mapSlot i n s = s := by
  refine if_pos ?_
  rw [bne_iff_ne.mpr live, Bool.true_or]

/-- Firmware maps a queue by its kick filter entry (R349, R353). -/
theorem mapSlot_names (free : (s.slots.get i).st = .free) (unmapped : slotOfQueue s n = none) (valid : kftValid s n = true)
    (off : (s.slots.get i).en = false) : mapSlot i n s = loadSlot i n (s.updSlot i (HwSlot.named s n)) := by
  simp only [mapSlot, free, unmapped, valid, off, bne_self_eq_false, Option.isSome_none, Bool.or_self, Bool.false_and,
    Bool.not_true, Bool.false_eq_true, if_false]

/-- A map by firmware leaves the slot with the queue of its kick filter entry, in the state of its QCB, no longer pending (R353). -/
theorem mapSlot_maps {bs : List Byte} {u : State} (free : (s.slots.get i).st = .free) (unmapped : slotOfQueue s n = none)
    (valid : kftValid s n = true) (off : (s.slots.get i).en = false)
    (read : plainRead (slotRequester ((s.updSlot i (HwSlot.named s n)).updSlot i HwSlot.cleared) i) (wd (kftField s n 0 8)) 256
      ((s.updSlot i (HwSlot.named s n)).updSlot i HwSlot.cleared) = .ok (bs, u)) (plain : fieldAt bs 80 8 = 0) :
    ((mapSlot i n s).slots.get i).st ≠ .free ∧ isPending (mapSlot i n s) n = false ∧ ∃ graph phase,
      ((mapSlot i n s).slots.get i).assigned = ({ (HwSlot.named s n (s.slots.get i)).cleared with
        refused := none, q := loadQueue (wd (kftField s n 0 8)) bs [] graph phase } : HwSlot).assigned := by
  have maps := loadSlot_maps (s := s.updSlot i (HwSlot.named s n)) read plain
  rw [State.slots_updSlot_same] at maps
  rw [mapSlot_names free unmapped valid off]
  exact maps

theorem execSctlMap_stays (free : ((mapSlot i n s).slots.get i).st = .free) : execSctlMap i n s = .next (mapSlot i n s) :=
  next_congr (if_pos (beq_iff_eq.mpr free))

theorem execSctlMap_serves (mapped : ((mapSlot i n s).slots.get i).st ≠ .free) :
    execSctlMap i n s = .next (serveKicks (mapSlot i n s)) :=
  next_congr (if_neg (by rwa [beq_iff_eq]))

end

/-! ## The unmap of a queue (R353) -/

section
variable {i : Fin 16} {s : State}

theorem startUnmap_idle (h : (s.slots.get i).st = .free ∨ (s.slots.get i).st = .unmapping) : startUnmap i s = s := by
  refine if_pos ?_
  simpa only [Bool.or_eq_true, beq_iff_eq] using h

theorem startUnmap_begins (live : (s.slots.get i).st ≠ .free) (mapped : (s.slots.get i).st ≠ .unmapping) :
    startUnmap i s = post .slotSelection (post (.unmapComplete i) (setSlot i .unmapping
      ((setKval (s.slots.get i).qid (s.slots.get i).q.klim.toNat s).updSlot i fun y =>
        { y with en := false, waitSector := none, holdFetch := none }))) := by
  refine if_neg ?_
  simp only [Bool.or_eq_true, beq_iff_eq, live, mapped, or_self, not_false_eq_true]

theorem finishUnmap_waits (h : (s.slots.get i).st ≠ .unmapping ∨ outstanding s (s.slots.get i).qid = true ∨
    (s.slots.get i).writesHeld = true) : finishUnmap i s = s := by
  refine if_pos ?_
  simpa only [Bool.or_eq_true, bne_iff_ne, or_assoc] using h

/-- The fetch state and the shadow registers stored. -/
def unmapStored (i : Fin 16) (s : State) : State :=
  let q := (s.slots.get i).q
  let t := putAll i q.qcb (qcbBytes q) s
  if q.shsave == 0 then t else putAll i q.shsave [(0, q.sh.toList.flatMap fun w => leBytes 8 w.toNat)] t

/-- PEND passed to the pending bitmap, and STATUS as it is left. -/
def unmapStatus (i : Fin 16) (s : State) : State :=
  let x := s.slots.get i
  putQcb i 24 4 (if x.q.err != 0 then 32 + x.q.err.toNat * 256 else 0)
    (if x.q.pend then setPending x.qid (unmapStored i s) else unmapStored i s)

/-- The slot is FREE, and its queue's cancel marks are kept. -/
def unmapFreed (i : Fin 16) (now : Word) (s : State) : State :=
  (keepMarks i (clearMonitor (fun m => m.who == .slot i) s)).updSlot i fun x =>
    { x with st := .free, en := false, q := Init.queue, since := now, refused := none, refusedW := none }

section
variable (unmapping : (s.slots.get i).st = .unmapping) (done : outstanding s (s.slots.get i).qid = false)
  (written : (s.slots.get i).writesHeld = false)
include unmapping done written

/-- With no launch left, the unmap ends in its stores one after the other. -/
theorem finishUnmap_stores : finishUnmap i s =
    if ((unmapStored i s).slots.get i).writesHeld || ((unmapStored i s).slots.get i).st == .error then unmapStored i s
    else if ((unmapStatus i s).slots.get i).st == .error then unmapStatus i s
    else serveKicks (post .slotSelection (unmapFreed i s.ctc (unmapStatus i s))) := by
  unfold finishUnmap
  extract_lets x q s1 s2 s3 s4 s5
  have stored : unmapStored i s = s2 := rfl
  have status : unmapStatus i s = s4 := rfl
  have freed : unmapFreed i s.ctc s4 = s5 := rfl
  rw [stored, status, freed]
  clear_value s2 s4 s5
  refine if_neg ?_
  simp only [x, unmapping, done, written, bne_self_eq_false, Bool.or_self, Bool.false_eq_true, not_false_eq_true]

theorem finishUnmap_held (h : ((unmapStored i s).slots.get i).writesHeld = true ∨ ((unmapStored i s).slots.get i).st = .error) :
    finishUnmap i s = unmapStored i s := by
  rw [finishUnmap_stores unmapping done written]
  refine if_pos ?_
  simpa only [Bool.or_eq_true, beq_iff_eq] using h

section
variable (stored : ((unmapStored i s).slots.get i).writesHeld = false) (kept : ((unmapStored i s).slots.get i).st ≠ .error)
include stored kept

theorem finishUnmap_refused (error : ((unmapStatus i s).slots.get i).st = .error) : finishUnmap i s = unmapStatus i s := by
  rw [finishUnmap_stores unmapping done written, if_neg (by simp only [stored, kept, Bool.false_or, beq_iff_eq, not_false_eq_true])]
  exact if_pos (beq_iff_eq.mpr error)

theorem finishUnmap_frees (through : ((unmapStatus i s).slots.get i).st ≠ .error) :
    finishUnmap i s = serveKicks (post .slotSelection (unmapFreed i s.ctc (unmapStatus i s))) := by
  rw [finishUnmap_stores unmapping done written, if_neg (by simp only [stored, kept, Bool.false_or, beq_iff_eq, not_false_eq_true])]
  exact if_neg (by rwa [beq_iff_eq])

end

end

theorem unmapFreed_slot (i : Fin 16) (now : Word) (s : State) :
    ((unmapFreed i now s).slots.get i).st = .free ∧ ((unmapFreed i now s).slots.get i).en = false := by
  rw [unmapFreed, State.slots_updSlot_same]
  exact ⟨rfl, rfl⟩

theorem unmapFreed_mm (i : Fin 16) (now : Word) (s : State) : (unmapFreed i now s).mm = s.mm := by
  rw [unmapFreed, State.updSlot_mm, keepMarks_mm, clearMonitor_mm]

theorem keepMarks_kpend (i : Fin 16) (s : State) : (keepMarks i s).cw.kpend = s.cw.kpend := by
  simp only [keepMarks]

theorem unmapFreed_kpend (i : Fin 16) (now : Word) (s : State) : (unmapFreed i now s).cw.kpend = s.cw.kpend := by
  rw [unmapFreed, State.updSlot_cw, keepMarks_kpend]
  simp only [clearMonitor]

/-! ## The reset of a queue (R354) -/

theorem startReset_idle (h : (s.slots.get i).st = .free ∨ (s.slots.get i).st = .resetting) : startReset i s = s := by
  refine if_pos ?_
  simpa only [Bool.or_eq_true, beq_iff_eq] using h

theorem forgetSaved_saved (i : Fin 16) (s : State) : ((forgetSaved i s).slots.get i).saved = false := by
  simp only [forgetSaved, apply_ite State.slots, ite_self, State.slots_updSlot_same]

/-- The slot once its reset has begun. -/
def resetBegun (i : Fin 16) (s : State) : State :=
  (setSlot i .resetting (clearMonitor (fun m => m.who == .slot i) (forgetSaved i s))).updSlot i fun x =>
    { x with holdFetch := none, refused := none, waitSector := none, ended := false }

theorem resetBegun_st (i : Fin 16) (s : State) : ((resetBegun i s).slots.get i).st = .resetting := by
  rw [resetBegun, State.slots_updSlot_same]
  exact (setSlot_st i .resetting _).resolve_right fun h => h.2.2 rfl

theorem resetBegun_saved (i : Fin 16) (s : State) : ((resetBegun i s).slots.get i).saved = false := by
  rw [resetBegun, State.slots_updSlot_same]
  exact (congrArg HwSlot.saved (setSlot_lasting i .resetting _)).trans (forgetSaved_saved i s)

theorem startReset_begins (live : (s.slots.get i).st ≠ .free) (going : (s.slots.get i).st ≠ .resetting) :
    startReset i s = post .slotSelection (post (.queueResetComplete i)
      (cancelLaunches (queueLaunches (resetBegun i s) (s.slots.get i).qid) (resetBegun i s))) := by
  refine if_neg ?_
  simp only [Bool.or_eq_true, beq_iff_eq, live, going, or_self, not_false_eq_true]

theorem execQueueResetComplete_waits (h : (s.slots.get i).st ≠ .resetting ∨ outstanding s (s.slots.get i).qid = true) :
    execQueueResetComplete i s = .next s := by
  refine if_pos ?_
  simpa only [Bool.or_eq_true, bne_iff_ne] using h

theorem execQueueResetComplete_fences (resetting : (s.slots.get i).st = .resetting)
    (done : outstanding s (s.slots.get i).qid = false) :
    (∀ t, homeFence (s.slots.get i).part s = .error (.wait t) → execQueueResetComplete i s = .next t) ∧
    ∀ t, homeFence (s.slots.get i).part s = .ok t → execQueueResetComplete i s = .next (finishReset i t) := by
  refine ⟨fun t fence => ?_, fun t fence => ?_⟩ <;>
    simp only [execQueueResetComplete, resetting, done, fence, bne_self_eq_false, Bool.or_self, Bool.false_eq_true, if_false]

theorem finishReset_held (held : (s.slots.get i).writesHeld = true) : finishReset i s = s := by
  refine if_pos ?_
  rw [held, Bool.or_true]

theorem finishReset_ends (resetting : (s.slots.get i).st = .resetting) (done : outstanding s (s.slots.get i).qid = false)
    (written : (s.slots.get i).writesHeld = false) : finishReset i s = serveKicks (post .slotSelection (setSlot i .idle
      (s.updSlot i fun z => { z with q := { z.q with
        klim := z.q.rptr, pos := z.q.rptr, ib := [], skip := 0, err := 0, pend := false, stuck := false, ahead := [], half := none
        gpol := 2, ppol := 2, jpol := 2, job := 0, cancelG := [], cancelP := [], jobCancelled := false
        loop := Init.queue.loop } }))) := by
  refine (if_neg ?_).trans ?_
  · simp only [resetting, done, written, bne_self_eq_false, Bool.or_self, Bool.false_eq_true, not_false_eq_true]
  · rfl

/-! ## Ageing and quanta (R351, R352) -/

theorem execAgeingInterval_ages (runnable : (s.slots.get i).st = .runnable) (below : (s.slots.get i).eprio.toNat < 7)
    (due : (s.slots.get i).age.toNat + s.cw.ageint.toNat ≤ s.ctc.toNat) : execAgeingInterval i s =
      .next (s.updSlot i fun x => { x with eprio := x.eprio + 1, age := x.age + wd s.cw.ageint.toNat }) := by
  refine if_pos ?_
  simp only [ageDue, runnable, below, due, beq_self_eq_true, decide_true, Bool.and_self]

theorem execQuantumExpiry_ends (due : quantumDue s i = true) : execQuantumExpiry i s =
    .next (select (s.updSlot i fun x => { x with ended := true, since := s.ctc, rsince := s.ctc })) := if_pos due

end

end Sys2Proof.Machine
end

section
namespace Sys2Proof.Machine
open Sys2Proof.Safety

/-! ## The deadline of a pre-emption (R374) -/

theorem foldl_stopStrand_slots (l : List (Fin 64 × Fin 4 × Fin 24)) (s : State) : (l.foldl stopStrand s).slots = s.slots := by
  refine foldl_keeps State.slots (fun t p => ?_) l s
  rw [stopStrand]
  split
  · exact State.updCtx_slots ..
  · rfl

/-- What is cancelled of an agent leaves every agent its launch. -/
theorem cancelPending_launch (a b : Agent) (s : State) : ((cancelPending a s).ctx b).launch = (s.ctx b).launch := by
  rw [cancelPending, State.ctx_updCtx]
  split
  · rename_i same
    rw [same]
    split <;> rfl
  · rfl

theorem foldl_stopStrand_launch (l : List (Fin 64 × Fin 4 × Fin 24)) (s : State) (a : Agent) :
    ((l.foldl stopStrand s).ctx a).launch = (s.ctx a).launch := by
  refine foldl_keeps (fun t => (t.ctx a).launch) (fun t p => ?_) l s
  rw [stopStrand]
  split
  · exact cancelPending_launch ..
  · rfl

/-- A strand whose save's deadline has passed issues nothing. -/
theorem mayIssue_pastDeadline {s : State} {q : Fin 64} {c : Fin 4} {k : Fin 24} (past : pastDeadline s (.strand q c k) = true) :
    mayIssue s (.strand q c k) = false := by
  simp only [mayIssue, past, Bool.not_true, Bool.and_false, Bool.false_and]

section
variable {i : Fin 16} {s : State}

/-- The strands of the slot's launches stopped, and the deadline noted. -/
def deadlinePassed (i : Fin 16) (s : State) : State :=
  ((queueSlots s (s.slots.get i).qid).foldl stopStrand s).updSlot i fun y => { y with deadline := true }

theorem execPreemptionDeadline_passes (due : deadlineDue s i = true) :
    execPreemptionDeadline i s = .next (post (.saveComplete i) (deadlinePassed i s)) := if_pos due

theorem execPreemptionDeadline_waits (early : deadlineDue s i = false) : execPreemptionDeadline i s = .next s := by
  refine if_neg ?_
  rw [early, Bool.false_eq_true]
  exact not_false

theorem deadlinePassed_slot (i : Fin 16) (s : State) :
    (deadlinePassed i s).slots.get i = { s.slots.get i with deadline := true } := by
  rw [deadlinePassed, State.slots_updSlot_same, foldl_stopStrand_slots]

/-- No strand of the slot's launches issues once the deadline has passed. -/
theorem deadlinePassed_mayIssue (due : deadlineDue s i = true) {q : Fin 64} {c : Fin 4} {k : Fin 24} {l : LaunchId}
    (launch : (s.ctx (.strand q c k)).launch = some l) (here : l.hwq = i) :
    mayIssue (post (.saveComplete i) (deadlinePassed i s)) (.strand q c k) = false := by
  simp only [deadlineDue, Bool.and_eq_true, beq_iff_eq] at due
  obtain ⟨⟨preempting, -⟩, -⟩ := due
  have same : ((deadlinePassed i s).ctx (.strand q c k)).launch = some l :=
    (foldl_stopStrand_launch _ s (.strand q c k)).trans launch
  refine mayIssue_pastDeadline ?_
  simp only [pastDeadline, post_ctx, same, post_slots, here, deadlinePassed_slot, preempting, beq_self_eq_true, Bool.and_self]

theorem stopStrand_running {q : Fin 64} {c : Fin 4} {k : Fin 24} (running : (s.ctx (.strand q c k)).st = .running) :
    stopStrand s (q, c, k) = cancelPending (.strand q c k) s := if_pos (beq_iff_eq.mpr running)

/-! ## The save (R374 to R376) -/

theorem execSaveComplete_waits (h : (s.slots.get i).st ≠ .preempting ∨ strandsStopped s (s.slots.get i).qid = false ∨
    messagesLand s (s.slots.get i).qid = false ∨ (s.slots.get i).writesHeld = true) : execSaveComplete i s = .next s := by
  refine if_pos ?_
  simpa only [Bool.or_eq_true, bne_iff_ne, Bool.not_eq_true', or_assoc] using h

/-- The messages that strands wait for and the forms that have not begun recalled, the requests that no save waits for cancelled. -/
def saveRecalled (i : Fin 16) (s : State) : State :=
  let x := s.slots.get i
  let t := recallEasel x.qid (recallMessages x.qid (drainQueue x.qid s))
  cancelAllReq (keptRanges t) ((queueRequests t x.qid).filter (saveCancels t x.deadline)) t

/-- Nothing of a slot's launches is outstanding that their save waits for. -/
def SaveEnded (x : HwSlot) (s : State) : Prop :=
  queueRequests s x.qid = [] ∧ boardOpen s x.qid = false ∧ (s.parts.get (pIdx x.part)).faults = []

theorem saveEnded_iff {x : HwSlot} {s : State} : SaveEnded x s ↔
    (!(queueRequests s x.qid).isEmpty || boardOpen s x.qid || !(s.parts.get (pIdx x.part)).faults.isEmpty) = false := by
  simp only [SaveEnded, Bool.or_eq_false_iff, Bool.not_eq_false', List.isEmpty_iff, and_assoc]

section
variable (preempting : (s.slots.get i).st = .preempting) (stopped : strandsStopped s (s.slots.get i).qid = true)
  (landed : messagesLand s (s.slots.get i).qid = true) (written : (s.slots.get i).writesHeld = false)
include preempting stopped landed written

/-- A save whose strands and messages are at rest drains the committed regions first. -/
theorem execSaveComplete_drains (sent : messagesLand (drainQueue (s.slots.get i).qid s) (s.slots.get i).qid = false) :
    execSaveComplete i s = .next (drainQueue (s.slots.get i).qid s) := by
  simp only [execSaveComplete, preempting, stopped, landed, written, sent, bne_self_eq_false, Bool.not_true, Bool.not_false,
    Bool.or_self, Bool.false_eq_true, if_false, if_true]

section
variable (rest : messagesLand (drainQueue (s.slots.get i).qid s) (s.slots.get i).qid = true)
include rest

/-- It then recalls what it does not wait for, and goes by what is left and by the mismatch that is not charged yet. -/
theorem execSaveComplete_recalls {found : Option LaunchId}
    (mismatch : saveMismatch (saveRecalled i s) (s.slots.get i).qid (s.slots.get i).charged = found) :
    execSaveComplete i s =
      if !(queueRequests (saveRecalled i s) (s.slots.get i).qid).isEmpty || boardOpen (saveRecalled i s) (s.slots.get i).qid ||
          !((saveRecalled i s).parts.get (pIdx (s.slots.get i).part)).faults.isEmpty then .next (saveRecalled i s)
      else .next (found.elim (writeSave i (saveRecalled i s)) fun l => chargeSave i l (saveRecalled i s)) := by
  unfold saveRecalled at mismatch ⊢
  cases found <;>
    simp only [execSaveComplete, preempting, stopped, landed, written, rest, mismatch, bne_self_eq_false, Bool.not_true, Bool.or_self,
      Bool.false_eq_true, if_false, Option.elim_none, Option.elim_some]

theorem execSaveComplete_holds (open_ : ¬ SaveEnded (s.slots.get i) (saveRecalled i s)) :
    execSaveComplete i s = .next (saveRecalled i s) := by
  rw [saveEnded_iff, Bool.not_eq_false] at open_
  exact (execSaveComplete_recalls preempting stopped landed written rest rfl).trans (if_pos open_)

section
variable (ended : SaveEnded (s.slots.get i) (saveRecalled i s))
include ended

theorem execSaveComplete_writes (clean : saveMismatch (saveRecalled i s) (s.slots.get i).qid (s.slots.get i).charged = none) :
    execSaveComplete i s = .next (writeSave i (saveRecalled i s)) := by
  rw [saveEnded_iff, ← Bool.not_eq_true] at ended
  rw [execSaveComplete_recalls preempting stopped landed written rest clean, if_neg ended, Option.elim_none]

theorem execSaveComplete_charges {l : LaunchId}
    (bad : saveMismatch (saveRecalled i s) (s.slots.get i).qid (s.slots.get i).charged = some l) :
    execSaveComplete i s = .next (chargeSave i l (saveRecalled i s)) := by
  rw [saveEnded_iff, ← Bool.not_eq_true] at ended
  rw [execSaveComplete_recalls preempting stopped landed written rest bad, if_neg ended, Option.elim_some]

end

end

end

/-- An area that holds the save has it, and the slot the launches of its tile images. -/
theorem writeSave_saves (on : bitAt (s.slots.get i).ssave 0 = true)
    (fits : (saveArea i s).1.length ≤ 2 ^ bits (s.slots.get i).ssave 9 4) :
    ((writeSave i s).slots.get i).saved = true ∧ ((writeSave i s).slots.get i).keptTiles = (saveArea i s).2 := by
  have room : ¬ (!bitAt (s.slots.get i).ssave 0 || 2 ^ bits (s.slots.get i).ssave 9 4 < (saveArea i s).1.length) = true := by
    simp only [on, Bool.not_true, Bool.false_or, decide_eq_true_eq, not_lt, fits]
  unfold writeSave
  extract_lets x since cores kept area s1 s2 s3
  rw [if_neg room, pokeLaunches, postAll_slots, post_slots]
  have lasting : ((setSlot i .runnable s3).slots.get i).lasting = (s3.slots.get i).lasting := setSlot_lasting ..
  have slot : (s3.slots.get i).saved = true ∧ (s3.slots.get i).keptTiles = area.2 := by
    rw [State.slots_updSlot_same]
    exact ⟨rfl, rfl⟩
  clear_value s3
  exact ⟨(congrArg HwSlot.saved lasting :).trans slot.1, (congrArg HwSlot.keptTiles lasting :).trans slot.2⟩

end

/-! ## The restore (R377) -/

@[simp] theorem askSelect_slots (q : Fin 64) (c : Fin 4) (s : State) : (askSelect q c s).slots = s.slots := by
  simp only [askSelect]
  split <;> rfl

@[simp] theorem makeReady_slots (a : Agent) (s : State) : (makeReady a s).slots = s.slots := by
  cases a with
  | strand q c k => rw [makeReady, askSelect_slots, State.updCore_slots]
  | hart | weir | cmd | sec => exact State.updCtx_slots ..

theorem wakeWhere_slots (p : Why → Bool) (l : List Agent) (s : State) : (wakeWhere p l s).slots = s.slots := by
  induction l generalizing s with
  | nil => rfl
  | cons a l ih =>
    rw [wakeWhere, ih]
    simp only [wake, apply_ite State.slots, makeReady_slots, ite_self]

theorem restoreStrand_slots (i : Fin 16) (part : BitVec 8) (kept : List Kept) (s : State) (b : List Byte) :
    (restoreStrand i part kept s b).slots = s.slots := by
  simp only [restoreStrand]
  split
  · simp only [apply_ite State.slots, makeReady_slots, post_slots, State.updCore_slots, ite_self]
  · rfl

theorem restoreNext_slots (i : Fin 16) (u : State × List (List Byte)) (b : List Byte) : (restoreNext i u b).1.slots = u.1.slots := by
  simp only [restoreNext, apply_ite Prod.fst, apply_ite State.slots, restoreStrand_slots, ite_self]

theorem foldl_restoreNext_slots (i : Fin 16) (bs : List (List Byte)) (u : State × List (List Byte)) :
    (bs.foldl (restoreNext i) u).1.slots = u.1.slots := by
  induction bs generalizing u with
  | nil => rfl
  | cons b bs ih => rw [List.foldl_cons, ih, restoreNext_slots]

/-- What still waits is of the images that did. -/
theorem mem_foldl_restoreNext {i : Fin 16} {bs : List (List Byte)} {u : State × List (List Byte)} {b : List Byte}
    (h : b ∈ (bs.foldl (restoreNext i) u).2) : b ∈ u.2 ∨ b ∈ bs := by
  induction bs generalizing u with
  | nil => exact .inl h
  | cons a bs ih =>
    rcases ih h with early | late
    · simp only [restoreNext, apply_ite Prod.snd] at early
      split at early
      · exact .inl early
      · rcases List.mem_append.mp early with old | new
        · exact .inl old
        · exact .inr (List.mem_singleton.mp new ▸ List.mem_cons_self)
    · exact .inr (List.mem_cons_of_mem a late)

theorem mem_insertImage {a b : List Byte} {l : List (List Byte)} : a ∈ insertImage b l ↔ a = b ∨ a ∈ l := by
  induction l with
  | nil => simp only [insertImage, List.mem_singleton, List.not_mem_nil, or_false]
  | cons c l ih =>
    rw [insertImage]
    split
    · exact List.mem_cons
    · rw [List.mem_cons, ih, List.mem_cons]
      tauto

theorem mem_foldr_insertImage {a : List Byte} {l : List (List Byte)} : a ∈ l.foldr insertImage [] ↔ a ∈ l := by
  induction l with
  | nil => rfl
  | cons b l ih => rw [List.foldr_cons, mem_insertImage, ih, List.mem_cons]

/-- The images of a slot tried in ascending slot order: the state, and those that still wait. -/
def imagesTried (i : Fin 16) (s : State) : State × List (List Byte) :=
  ((waitingImages s i).foldr insertImage []).foldl (restoreNext i) (s, [])

theorem restoreWaiting_slot (i : Fin 16) (s : State) : (restoreWaiting i s).slots.get i =
    { s.slots.get i with restoring := (imagesTried i s).2, kept := if (imagesTried i s).2.isEmpty then [] else (s.slots.get i).kept } := by
  have tried : (imagesTried i s).1.slots = s.slots := foldl_restoreNext_slots ..
  rw [← tried]
  simp only [restoreWaiting, postAll_slots, wakeRestored, wakeWhere_slots]
  exact State.slots_updSlot_same ..

section
variable {i : Fin 16} {s : State}

theorem mem_restoring_restoreWaiting {b : List Byte} (h : b ∈ ((restoreWaiting i s).slots.get i).restoring) :
    b ∈ (s.slots.get i).restoring := by
  rw [restoreWaiting_slot] at h
  have waits := (mem_foldl_restoreNext (u := (s, [])) h).resolve_left List.not_mem_nil
  exact (List.mem_filter.mp (mem_foldr_insertImage.mp waits)).1

/-- The one image that waits enters when its place is free, else waits on. -/
theorem restoring_restoreWaiting_single {b : List Byte} (one : waitingImages s i = [b]) :
    ((restoreWaiting i s).slots.get i).restoring = if placeFree s (s.slots.get i).part b then [] else [b] := by
  rw [restoreWaiting_slot]
  simp only [imagesTried, one, List.foldr_cons, List.foldr_nil, insertImage, List.foldl_cons, List.foldl_nil, restoreNext,
    apply_ite Prod.snd, List.nil_append]

theorem execRestore_none (fresh : (s.slots.get i).saved = false) (none : restoring (s.slots.get i) = false) :
    execRestore i s = .next s := by
  simp only [execRestore, fresh, none, Bool.not_false, Bool.and_false, Bool.or_true, Bool.true_or, Bool.false_eq_true, if_false,
    if_true]

theorem execRestore_notRunning (saved : (s.slots.get i).saved = true) (st : (s.slots.get i).st ≠ .running) :
    execRestore i s = .next s := by
  simp only [execRestore, saved, bne_iff_ne.mpr st, Bool.not_true, Bool.false_and, Bool.true_or, Bool.false_eq_true, if_false,
    if_true]

theorem execRestore_waiting (fresh : (s.slots.get i).saved = false) (more : restoring (s.slots.get i) = true) :
    execRestore i s = .next (restoreWaiting i s) := by
  simp only [execRestore, fresh, more, Bool.not_false, Bool.and_self, if_true]

/-- Where a slot's save area lies (R376). -/
def areaBase (x : HwSlot) : Nat := bits x.ssave 51 16 * 65536

section
variable (running : (s.slots.get i).st = .running) (saved : (s.slots.get i).saved = true)
  (apart : ∀ j, j ≠ i → (s.slots.get j).st = .preempting → masksOverlap (s.slots.get i) (s.slots.get j) = false)
include apart

/-- No slot that is being pre-empted still holds quads of the slot. -/
theorem noOverlap : ((List.finRange 16).any fun j =>
    j != i && (s.slots.get j).st == .preempting && masksOverlap (s.slots.get i) (s.slots.get j)) = false := by
  simp only [List.any_eq_false, List.mem_finRange, Bool.and_eq_true, bne_iff_ne, beq_iff_eq, true_imp_iff]
  rintro j ⟨⟨ne, st⟩, overlap⟩
  rw [apart j ne st] at overlap
  exact absurd overlap Bool.false_ne_true

include running saved

/-- A restore that the area does not fit is refused. -/
theorem execRestore_refused (misfit : readPhysN s (areaBase (s.slots.get i)) 1 ≠ Config.rev ∨
      (s.partQuads (s.slots.get i).part).length < readPhysN s (areaBase (s.slots.get i) + 1) 1) :
    execRestore i s = .next (refuseRestore i s) := by
  have refuses : (readPhysN s (areaBase (s.slots.get i)) 1 != Config.rev ||
      decide ((s.partQuads (s.slots.get i).part).length < readPhysN s (areaBase (s.slots.get i) + 1) 1)) = true := by
    simpa only [Bool.or_eq_true, bne_iff_ne, decide_eq_true_eq] using misfit
  unfold areaBase at refuses
  simp only [execRestore, running, saved, noOverlap apart, refuses, bne_self_eq_false, Bool.not_true, Bool.false_and, Bool.or_self,
    Bool.false_eq_true, if_false, if_true]

/-- A restore that the area fits takes the saved context, and of its strands leaves those waiting whose places are not free. -/
theorem execRestore_enters (rev : readPhysN s (areaBase (s.slots.get i)) 1 = Config.rev)
    (room : readPhysN s (areaBase (s.slots.get i) + 1) 1 ≤ (s.partQuads (s.slots.get i).part).length) :
    ∃ v, execRestore i s = .next (restoreWaiting i v) ∧ (v.slots.get i).saved = false ∧ (v.slots.get i).restoring =
      (readStrands s (readPhysN s (areaBase (s.slots.get i) + 4) 4) (areaBase (s.slots.get i) + 64)).1 := by
  have fits : (readPhysN s (areaBase (s.slots.get i)) 1 != Config.rev ||
      decide ((s.partQuads (s.slots.get i).part).length < readPhysN s (areaBase (s.slots.get i) + 1) 1)) = false := by
    simpa only [Bool.or_eq_false_iff, bne_eq_false_iff_eq, decide_eq_false_iff_not, not_lt] using ⟨rev, room⟩
  unfold areaBase at fits ⊢
  simp only [execRestore, running, saved, noOverlap apart, fits, bne_self_eq_false, Bool.not_true, Bool.false_and, Bool.or_self,
    Bool.false_eq_true, if_false]
  refine ⟨_, rfl, ?_, ?_⟩ <;> rw [State.slots_updSlot_same]

end

end

end Sys2Proof.Machine
end

section
namespace Sys2Proof.Machine
open Sys2Proof.Safety

/-- Settles O49: each event by what its slot's state and its queue's filter entry have it do. -/
theorem slotEvents : Obligations.SlotEvents := by
  unfold Obligations.SlotEvents
  intro s i n v
  refine ⟨?_, ?_, ?_, ?_, ?_, ?_, ?_, ?_, ?_, ?_, ?_, ?_, ?_, ?_, exec_slotSelection, ⟨?_, ?_, ?_⟩,
    ?_, ?_, ?_, ?_, ?_, ?_, ?_, ?_, ?_, ?_, ?_⟩
  · intro filtered
    have cancels := fun kind => next_congr (cancelStore_dropped kind filtered)
    exact ⟨exec_kick.trans (next_congr (kickOp_dropped v filtered)), exec_cancelGraph.trans (cancels 1),
      exec_cancelPhase.trans (cancels 2), exec_cancelJob.trans (cancels 3)⟩
  · intro passes unmapped
    have cancels := fun kind => next_congr (cancelStore_unmapped passes kind unmapped)
    exact ⟨exec_kick.trans (next_congr (kickOp_unmapped passes v unmapped)), exec_cancelGraph.trans (cancels 1),
      exec_cancelPhase.trans (cancels 2), exec_cancelJob.trans (cancels 3)⟩
  · intro passes mapped
    have cancels := fun kind => next_congr (cancelStore_mapped passes kind mapped)
    have kick := exec_kick.trans (next_congr (kickOp_mapped passes v mapped))
    refine ⟨fun st => kick.trans (next_congr (if_neg (by rwa [beq_iff_eq]))),
      fun st => kick.trans (next_congr (if_pos (beq_iff_eq.mpr st))), exec_cancelGraph.trans (cancels 1),
      exec_cancelPhase.trans (cancels 2), exec_cancelJob.trans (cancels 3)⟩
  · intro live
    have taken := mapSlot_taken (n := n) live
    have serves := execSctlMap_serves (n := n) (by rwa [taken])
    rw [taken] at serves
    exact exec_sctlMap.trans serves
  · intro free
    exact ⟨fun st => exec_sctlMap.trans (execSctlMap_stays st), fun st => exec_sctlMap.trans (execSctlMap_serves st)⟩
  · intro bs u free unmapped valid off s1 read plain y
    obtain ⟨mapped, clear, graph, phase, assigned⟩ := mapSlot_maps free unmapped valid off read plain
    exact ⟨mapped, (congrArg HwSlot.qid assigned :), (congrArg HwSlot.qmask assigned :), (congrArg HwSlot.part assigned :),
      (congrArg HwSlot.prio assigned :), (congrArg HwSlot.quantum assigned :), (congrArg (fun x => x.q.qcb) assigned :),
      (congrArg (fun x => x.q.rbase) assigned :), (congrArg (fun x => x.q.rsize) assigned :),
      (congrArg (fun x => x.q.rptr) assigned :), (congrArg (fun x => x.q.crbase) assigned :),
      (congrArg (fun x => x.q.lseq) assigned :), (congrArg (fun x => x.q.ldone) assigned :), clear⟩
  · exact fun h => exec_sctlUnmap.trans (next_congr (startUnmap_idle h))
  · exact fun live mapped => exec_sctlUnmap.trans (next_congr (startUnmap_begins live mapped))
  · exact fun h => exec_unmapComplete.trans (next_congr (finishUnmap_waits h))
  · intro unmapping done written
    refine ⟨fun h => exec_unmapComplete.trans (next_congr (finishUnmap_held unmapping done written h)), fun stored kept =>
      ⟨fun error => exec_unmapComplete.trans (next_congr (finishUnmap_refused unmapping done written stored kept error)),
        fun through => ⟨unmapFreed i s.ctc (unmapStatus i s), ?_, (unmapFreed_slot ..).1, (unmapFreed_slot ..).2, unmapFreed_mm ..,
          unmapFreed_kpend ..⟩⟩⟩
    exact exec_unmapComplete.trans (next_congr (finishUnmap_frees unmapping done written stored kept through))
  · exact fun h => exec_sctlReset.trans (next_congr (startReset_idle h))
  · intro live going
    exact ⟨resetBegun_st i s, resetBegun_saved i s, exec_sctlReset.trans (next_congr (startReset_begins live going))⟩
  · exact fun h => exec_queueResetComplete.trans (execQueueResetComplete_waits h)
  · intro resetting done
    obtain ⟨waits, passes⟩ := execQueueResetComplete_fences resetting done
    refine ⟨fun t fence => exec_queueResetComplete.trans (waits t fence),
      fun t fence => ⟨fun held => ?_, fun st ended written => ?_⟩⟩
    · exact exec_queueResetComplete.trans ((passes t fence).trans (next_congr (finishReset_held held)))
    · exact exec_queueResetComplete.trans ((passes t fence).trans (next_congr (finishReset_ends st ended written)))
  · exact fun kept => (select_keeps (candidate_of_keptSlot kept)).slot
  · exact fun cand free first => select_grants (candidate_iff.mpr cand) free fun j other => first j (candidate_iff.mp other)
  · exact fun j cand kept overlap => select_passesOver (candidate_iff.mpr cand) kept overlap
  · exact fun runnable below due => exec_ageingInterval.trans (execAgeingInterval_ages runnable below due)
  · exact fun due => exec_quantumExpiry.trans (execQuantumExpiry_ends due)
  · intro due
    refine ⟨post (.saveComplete i) (deadlinePassed i s), exec_preemptionDeadline.trans (execPreemptionDeadline_passes due), ?_, ?_, rfl,
      fun q c k l launch here => ⟨deadlinePassed_mayIssue due launch here, stopStrand_running⟩⟩
    · rw [post_slots, deadlinePassed_slot]
    · rw [post_md_inflight]
      exact List.mem_append_right _ (List.mem_singleton_self _)
  · exact fun early => exec_preemptionDeadline.trans (execPreemptionDeadline_waits early)
  · exact fun h => exec_saveComplete.trans (execSaveComplete_waits h)
  · intro preempting stopped landed written
    refine ⟨fun sent => exec_saveComplete.trans (execSaveComplete_drains preempting stopped landed written sent), fun rest =>
      ⟨fun open_ => exec_saveComplete.trans (execSaveComplete_holds preempting stopped landed written rest open_),
        fun ended clean => exec_saveComplete.trans (execSaveComplete_writes preempting stopped landed written rest ended clean),
        fun l ended bad => exec_saveComplete.trans (execSaveComplete_charges preempting stopped landed written rest ended bad)⟩⟩
  · exact writeSave_saves
  · exact fun fresh none => exec_restore.trans (execRestore_none fresh none)
  · exact fun saved st => exec_restore.trans (execRestore_notRunning saved st)
  · intro running saved apart
    refine ⟨fun misfit => exec_restore.trans (execRestore_refused running saved apart misfit), fun rev room => ?_⟩
    obtain ⟨t, enters, unsaved, images⟩ := execRestore_enters running saved apart rev room
    refine ⟨_, exec_restore.trans enters, ?_, fun b waits => images ▸ mem_restoring_restoreWaiting waits⟩
    rw [restoreWaiting_slot]
    exact unsaved
  · exact fun b fresh more one => ⟨_, exec_restore.trans (execRestore_waiting fresh more), restoring_restoreWaiting_single one⟩

end Sys2Proof.Machine
end

section
namespace Sys2Proof.Machine
open Sys2Proof.Safety

/-! ## The packet at the head of a queue (R329, R334, R335) -/

section
variable {s : State} {f : List Byte → Bool} {g : Fin 16 → List Byte → State → State}

theorem packetForm_absent (absent : headPacket s f = none) : packetForm f g s = .next s := by
  simp only [packetForm, absent]

theorem packetForm_head {p : List Byte} (head : headPacket s f = some p) : packetForm f g s = .next (g s.md.req.slot p s) := by
  simp only [packetForm, head]

end

/-- The rows of the opcode table that process a packet, each with the packets that are its own. -/
def packetRows : List ((List Byte → Bool) × Instr) :=
  [(isKind 1, .pktNop), (isKind 2, .pktDispatch), (isKind 3, .pktDelta), (isKind 4, .pktIbcall), (isKind 5, .pktPred),
    (isKind 6, .pktLoop), (isKind 7, .pktFfence), (isKind 8, .pktSignal), (isKind 9, .pktWaitmem), (isLevel 1, .levelGraph),
    (isLevel 2, .levelPhase), (isLevel 3, .levelJob), (isLevel 4, .levelCancel)]

/-- Each row is a packet's form, and so does nothing when no packet of its own is there. -/
theorem exec_packet_absent {s : State} {f : List Byte → Bool} {e : Instr} (row : (f, e) ∈ packetRows)
    (absent : headPacket s f = none) : exec e s = .next s := by
  simp only [packetRows, List.mem_cons, List.not_mem_nil, Prod.mk.injEq, or_false] at row
  rcases row with ⟨rfl, rfl⟩ | ⟨rfl, rfl⟩ | ⟨rfl, rfl⟩ | ⟨rfl, rfl⟩ | ⟨rfl, rfl⟩ | ⟨rfl, rfl⟩ | ⟨rfl, rfl⟩ |
    ⟨rfl, rfl⟩ | ⟨rfl, rfl⟩ | ⟨rfl, rfl⟩ | ⟨rfl, rfl⟩ | ⟨rfl, rfl⟩ | ⟨rfl, rfl⟩
  all_goals
    simp only [exec_pktNop, exec_pktDispatch, exec_pktDelta, exec_pktIbcall, exec_pktPred, exec_pktLoop, exec_pktFfence, exec_pktSignal,
      exec_pktWaitmem, exec_levelGraph, exec_levelPhase, exec_levelJob, exec_levelCancel]
    exact packetForm_absent absent

/-! ### Control flow (R338 to R340) -/

section
variable {s u : State} {p : List Byte}

section
variable (head : headPacket s (isKind 4) = some p)
include head

theorem execPktIbcall_enters (room : (s.slots.get s.md.req.slot).q.ib.length < 3) :
    execPktIbcall s = .next (moveOn s.md.req.slot (QueueSt.enter (wd (fieldAt p 8 8)) (fieldAt p 16 4)) s) := by
  rw [execPktIbcall, packetForm_head head, if_neg (by omega)]

theorem execPktIbcall_nests (full : 3 ≤ (s.slots.get s.md.req.slot).q.ib.length) :
    execPktIbcall s = .next (queueFault s.md.req.slot 2 s) := by
  rw [execPktIbcall, packetForm_head head, if_pos full]

end

/-- A PRED that has read its word goes by its comparison (R339). -/
theorem execPktPred_reads (head : headPacket s (isKind 5) = some p) {v : Word} {ps : List (Nat × Nat)}
    (word : pktWord s.md.req.slot (wd (fieldAt p 8 8)) s = .ok (v, ps, u)) :
    execPktPred s = .next (if pktHolds p v then moveOn s.md.req.slot QueueSt.advance u
      else skipPackets s.md.req.slot (fieldAt p 3 1) 1 u) := by
  simp only [execPktPred, packetForm_head head, word, packetDone]

section
variable (head : headPacket s (isKind 6) = some p)
include head

theorem execPktLoop_nests (bad : (s.slots.get s.md.req.slot).q.loopBad (fieldAt p 2 1) = true) :
    execPktLoop s = .next (queueFault s.md.req.slot 3 s) := by
  rw [execPktLoop, packetForm_head head, if_pos bad]

theorem execPktLoop_opens (fits : (s.slots.get s.md.req.slot).q.loopBad (fieldAt p 2 1) = false) :
    execPktLoop s = .next (if fieldAt p 4 4 = 0 then skipPackets s.md.req.slot (fieldAt p 2 1) 3 s
      else moveOn s.md.req.slot (QueueSt.openLoop (fieldAt p 2 1) (fieldAt p 4 4)) s) := by
  rw [execPktLoop, packetForm_head head, if_neg (by simp only [fits, Bool.false_eq_true, not_false_eq_true])]

end

/-- A loop cannot stand in its buffer when one is active, or when its span passes the buffer's end (R340). -/
theorem loopBad_of_active_or_past {q : QueueSt} {span : Nat}
    (h : q.loop.active = true ∨ ∃ n, q.after = some n ∧ n < span) : q.loopBad span = true := by
  rcases h with active | ⟨n, after, past⟩
  · simp only [QueueSt.loopBad, active, Bool.true_or]
  · simp only [QueueSt.loopBad, after, past, decide_true, Bool.or_true]

theorem loopBad_of_fits {q : QueueSt} {span : Nat} (alone : q.loop.active = false) (within : ∀ n, q.after = some n → span ≤ n)
    (ring : q.after = none → span ≤ q.rsize.toNat) : q.loopBad span = false := by
  simp only [QueueSt.loopBad, alone, Bool.false_or]
  cases after : q.after with
  | some n => simpa using within n after
  | none => simpa using ring after

/-! ### SIGNAL and WAITMEM (R341) -/

theorem execPktSignal_performs (head : headPacket s (isKind 8) = some p)
    (done : signal s.md.req.slot (fieldAt p 2 1) (wd (fieldAt p 8 8)) (wd (fieldAt p 16 8)) s = .ok u) :
    execPktSignal s = .next (moveOn s.md.req.slot QueueSt.advance u) := by
  simp only [execPktSignal, packetForm_head head, done, packetDone]

/-- A slot watches a sector (R341). -/
def watching (i : Fin 16) (sec : Nat) (s : State) : State :=
  (setMonitor { sector := sec, who := .slot i } s).updSlot i fun x => { x with waitSector := some sec }

theorem watching_qid (i : Fin 16) (sec : Nat) (s : State) : ((watching i sec s).slots.get i).qid = (s.slots.get i).qid := by
  obtain ⟨-, -, -, slots, -⟩ := (setMonitor_only { sector := sec, who := .slot i } s).same.fields
  rw [watching, State.slots_updSlot_same, slots]

theorem outstanding_watching (i : Fin 16) (sec : Nat) (s : State) (q : Fin 4096) :
    outstanding (watching i sec s) q = outstanding s q := by
  simp only [outstanding, watching, State.updSlot_launches, setMonitor_launches]

section
variable (head : headPacket s (isKind 9) = some p) {sec : Nat}
include head

theorem execPktWaitmem_holds (holds : waitmemHolds s.md.req.slot p s = .ok (true, sec, u)) :
    execPktWaitmem s = .next (moveOn s.md.req.slot QueueSt.advance u) := by
  simp only [execPktWaitmem, packetForm_head head, holds, packetDone]

/-- A WAITMEM that does not hold watches its sector; the slot waits once no launch of its queue is left (R350). -/
theorem execPktWaitmem_watches (fails : waitmemHolds s.md.req.slot p s = .ok (false, sec, u)) :
    execPktWaitmem s = .next (if outstanding u (u.slots.get s.md.req.slot).qid then watching s.md.req.slot sec u
      else leaveRunning s.md.req.slot .waiting (watching s.md.req.slot sec u)) := by
  rw [← outstanding_watching s.md.req.slot sec u, ← watching_qid s.md.req.slot sec u]
  simp only [execPktWaitmem, packetForm_head head, fails]
  rfl

end

end

/-! ### A read ahead (R329, R342) -/

section
variable {s t : State} {j : Fin 16}

theorem execPacketRead_waits
    (h : (s.slots.get j).st ≠ .running ∨ (s.slots.get j).q.stuck = true ∨ (s.slots.get j).holdFetch.isSome = true) :
    execPacketRead j s = .next s := by
  have stays : ((s.slots.get j).st != .running || (s.slots.get j).q.stuck || (s.slots.get j).holdFetch.isSome ||
      8 < (aheadOf (s.slots.get j).q).length) = true := by
    simp only [Bool.or_eq_true, bne_iff_ne]
    tauto
  simp only [execPacketRead, stays, if_true]

/-- The fetch unit of slot `j` is to read the packet at `va`, where the pointer `q'` stands past what was read ahead. -/
structure ReadsAhead (s : State) (j : Fin 16) (q' : QueueSt) (va : Word) : Prop where
  running : (s.slots.get j).st = .running
  full : (s.slots.get j).q.stuck = false
  free : (s.slots.get j).holdFetch = none
  near : (aheadOf (s.slots.get j).q).length ≤ 8
  walks : walkAhead (aheadOf (s.slots.get j).q) (s.slots.get j).q = some q'
  head : q'.head = some va

variable {va : Word} {b : List Byte} {q' : QueueSt} (reads : ReadsAhead s j q' va)
include reads

theorem ReadsAhead.goes : ((s.slots.get j).st != .running || (s.slots.get j).q.stuck || (s.slots.get j).holdFetch.isSome ||
    8 < (aheadOf (s.slots.get j).q).length) = false := by
  simp only [reads.running, reads.full, reads.free, bne_self_eq_false, Option.isSome_none, Bool.or_false, Bool.false_or,
    decide_eq_false_iff_not, not_lt, reads.near]

/-- With no half of the packet read, the half that `req.on` names is; a first half of an empty ring entry stops the fetch. -/
theorem execPacketRead_half (new : (s.slots.get j).q.halfAt va = none) (half : readHalf j va s.md.req.on s = .ok (b, t)) :
    execPacketRead j s = .next (if !s.md.req.on && pktKind b == 0 && q'.ib.isEmpty then stickAt j t
      else t.updSlot j fun x => { x with q := { x.q with half := some (s.md.req.on, va, b) } }) := by
  simp only [execPacketRead, reads.goes, reads.walks, reads.head, new, half, apply_ite Host.Outcome.next, Bool.false_eq_true, if_false]

/-- With one half read, the other is, and the packet is appended to those read ahead, unless it is an empty ring entry. -/
theorem execPacketRead_whole (half : (s.slots.get j).q.halfAt va ≠ none) (packet : readPacket j va s = .ok (b, t)) :
    execPacketRead j s = .next (if pktKind b == 0 && q'.ib.isEmpty then stickAt j t
      else t.updSlot j fun x => { x with q := { x.q with ahead := aheadOf (s.slots.get j).q ++ [(va, b)], half := none } }) := by
  obtain ⟨h, first⟩ := Option.ne_none_iff_exists'.mp half
  simp only [execPacketRead, reads.goes, reads.walks, reads.head, first, packet, apply_ite Host.Outcome.next, Bool.false_eq_true,
    if_false]

end

/-- Settles O50: each row is a packet's form, whose effect is that of its kind on the packet at the head; a read ahead goes by what of
its packet has been read. -/
theorem packetEvents : Obligations.PacketEvents := by
  unfold Obligations.PacketEvents
  intro s u p
  refine ⟨fun f e row absent => exec_packet_absent row absent, fun head => exec_pktNop.trans (packetForm_head head),
    fun head => exec_pktFfence.trans (packetForm_head head),
    fun room head => execPktIbcall_enters head room, fun full head => execPktIbcall_nests head full,
    fun v ps word => ⟨fun holds head => ?_, fun fails head => ?_⟩,
    fun bad head => execPktLoop_nests head (loopBad_of_active_or_past bad),
    fun alone within ring => ⟨fun empty head => ?_, fun count head => ?_⟩,
    fun done head => execPktSignal_performs head done, fun sec holds head => execPktWaitmem_holds head holds,
    fun sec fails busy head => ?_, fun sec fails idle head => ?_,
    fun head => exec_pktDispatch.trans (packetForm_head head),
    fun head => exec_pktDelta.trans (packetForm_head head),
    fun head => exec_levelGraph.trans (packetForm_head head),
    fun head => exec_levelPhase.trans (packetForm_head head),
    fun head => exec_levelJob.trans (packetForm_head head),
    fun head => exec_levelCancel.trans (packetForm_head head),
    fun j va b q' t => ⟨execPacketRead_waits, fun running full free near walks head =>
      ⟨fun new half => ⟨fun kept => ?_, fun first empty ring => ?_⟩, fun half packet kind => ?_⟩⟩⟩
  · exact (execPktPred_reads head word).trans (congrArg _ (if_pos holds))
  · exact (execPktPred_reads head word).trans (congrArg _ (if_neg (by simp only [pktHolds, fails, Bool.false_eq_true, not_false_eq_true])))
  · exact (execPktLoop_opens head (loopBad_of_fits alone within ring)).trans (congrArg _ (if_pos empty))
  · exact (execPktLoop_opens head (loopBad_of_fits alone within ring)).trans (congrArg _ (if_neg count))
  · exact (execPktWaitmem_watches head fails).trans (congrArg _ (if_pos busy))
  · exact (execPktWaitmem_watches head fails).trans (congrArg _ (if_neg (by simp only [idle, Bool.false_eq_true, not_false_eq_true])))
  · have whole := execPacketRead_half ⟨running, full, free, near, walks, head⟩ new half
    refine whole.trans (congrArg _ (if_neg ?_))
    simp only [Bool.and_eq_true, Bool.not_eq_true', beq_iff_eq, List.isEmpty_iff]
    rintro ⟨⟨first, empty⟩, ring⟩
    rcases kept with later | nonempty | buffer
    · exact absurd later (by simp only [first, Bool.false_eq_true, not_false_eq_true])
    · exact nonempty empty
    · exact buffer ring
  · have whole := execPacketRead_half ⟨running, full, free, near, walks, head⟩ new half
    refine whole.trans (congrArg _ (if_pos ?_))
    simp only [first, empty, ring, Bool.not_false, beq_self_eq_true, List.isEmpty_nil, Bool.and_self]
  · have whole := execPacketRead_whole ⟨running, full, free, near, walks, head⟩ half packet
    refine whole.trans (congrArg _ (if_neg ?_))
    simp only [beq_eq_false_iff_ne.mpr kind, Bool.false_and, Bool.false_eq_true, not_false_eq_true]

end Sys2Proof.Machine
end

section
namespace Sys2Proof.Machine
open Sys2Proof.Safety

/-! ## The halt line and the holds (R366 to R368) -/

theorem vget_each {α β : Type} {n : Nat} (v : Vector α n) (f : α → β) (i : Fin n) : (v.each f).get i = f (v.get i) := by
  simp only [Vector.each, Vector.get_ofFn]

theorem State.parts_updPart (s : State) (p r : Fin 64) (g : Part → Part) :
    (s.updPart p g).parts.get r = if r = p then g (s.parts.get p) else s.parts.get r := by
  simp only [State.updPart, vget_set]

@[simp] theorem State.parts_updPart_same (s : State) (p : Fin 64) (g : Part → Part) :
    (s.updPart p g).parts.get p = g (s.parts.get p) := by
  rw [State.parts_updPart, if_pos rfl]

theorem postAll_quads (es : List Instr) (s : State) : (postAll es s).quads = s.quads := by
  obtain ⟨quads, -⟩ := (postAll_same es s).fields
  exact quads

theorem postAll_parts (es : List Instr) (s : State) : (postAll es s).parts = s.parts := by
  obtain ⟨-, -, -, -, parts, -⟩ := (postAll_same es s).fields
  exact parts

theorem raiseLine_line (p : Fin 64) (kind : Nat) (s : State) : ((raiseLine p kind s).parts.get p).line = true := by
  unfold raiseLine
  extract_lets es s1 s2
  split
  case isTrue up => exact up
  case isFalse => rw [postAll_parts, State.parts_updPart_same]

/-- A line that rises leaves every hold as it is. -/
theorem raiseLine_hold (p : Fin 64) (kind : Nat) (s : State) (q : Fin 64) :
    ((raiseLine p kind s).quads.get q).halt.hold = (s.quads.get q).halt.hold := by
  unfold raiseLine
  extract_lets es s1 s2
  split
  · rfl
  · rw [postAll_quads, vget_each]
    split <;> rfl

theorem setHold_line (q : Fin 64) (s : State) : ((setHold q s).parts.get (pIdx (s.quads.get q).part)).line = true :=
  raiseLine_line ..

theorem setHold_hold (q : Fin 64) (s : State) : ((setHold q s).quads.get q).halt.hold = true := by
  rw [setHold, raiseLine_hold, State.quads_updQuad, if_pos rfl]

theorem askSelect_quads (q : Fin 64) (c : Fin 4) (s : State) : (askSelect q c s).quads = s.quads := by
  simp only [askSelect, apply_ite State.quads, post_quads, ite_self]

theorem selectAll_quads (l : List (Fin 64 × Fin 4)) (s : State) : (selectAll l s).quads = s.quads := by
  induction l generalizing s with
  | nil => rfl
  | cons x l ih => rw [selectAll, ih, askSelect_quads]

/-- A line that falls leaves every hold as it is. -/
theorem releaseLine_hold (p : Fin 64) (s : State) (q : Fin 64) :
    ((releaseLine p s).quads.get q).halt.hold = (s.quads.get q).halt.hold := by
  unfold releaseLine
  extract_lets s1 s2
  split
  · rfl
  · rw [selectAll_quads, vget_each]
    split <;> rfl

theorem askWalk_quads (p : Fin 64) (s : State) : (askWalk p s).quads = s.quads := by
  simp only [askWalk, apply_ite State.quads, post_quads, State.updPart_quads, ite_self]

theorem clearHold_hold (q : Fin 64) (s : State) : ((clearHold q s).quads.get q).halt.hold = false := by
  unfold clearHold
  extract_lets p s1
  have off : (s1.quads.get q).halt.hold = false := by rw [State.quads_updQuad, if_pos rfl]
  split
  case isTrue none => simpa only [Bool.not_eq_true'] using none
  split
  · exact off
  split
  · rw [releaseLine_hold, off]
  · rw [askWalk_quads, off]

section
variable {s : State} {q : Fin 64}

/-- HALTCTL.HOLD := 1 on an enabled quad leaves its hold set. -/
theorem execHaltctlHoldSet_holds (enabled : (s.quads.get q).enabled = true) :
    ∃ t, execHaltctlHoldSet q s = .next t ∧ (t.quads.get q).halt.hold = true ∧
      ((s.quads.get q).halt.hold = false → (t.parts.get (pIdx (s.quads.get q).part)).line = true) := by
  refine ⟨_, rfl, ?_⟩
  rw [enabled, Bool.true_and]
  cases hold : (s.quads.get q).halt.hold with
  | false => exact ⟨setHold_hold q s, fun _ => setHold_line q s⟩
  | true => exact ⟨hold, fun off => absurd off (by decide)⟩

/-- An engine stops for the one partition whose raised line has reached it (R367). -/
theorem execEngineStop_single {e : Engine} {p : Fin 64} (one : ((List.finRange 64).filter fun p =>
      (s.parts.get p).line && (s.parts.get p).toStop.contains e) = [p]) : execEngineStop e s = .next (stopEngine p e none s) := by
  rw [execEngineStop, one, List.foldl_cons, List.foldl_nil]

end

/-! ## The containment walk (R370 to R372) -/

/-- The launch of a walked fault, if it names one, is looked at: it may be complete now. -/
def askLaunch (f : FaultRec) (u : State) : State :=
  match f.launch with
  | some l => post (.launchComplete l) u
  | none => u

theorem askLaunch_parts (f : FaultRec) (u : State) : (askLaunch f u).parts = u.parts := by
  unfold askLaunch
  split <;> rfl

section
variable {s : State} {p : Fin 64}

theorem execContainmentWalk_waits
    (h : (s.parts.get p).toStop ≠ [] ∨ (s.parts.get p).line = false ∨ (s.parts.get p).walking = false) :
    execContainmentWalk p s = .next s := by
  refine if_pos ?_
  simp only [Bool.or_eq_true, Bool.not_eq_true', List.isEmpty_eq_false_iff]
  tauto

/-- The walk of a partition may go on but for a hold: it is asked for, every engine has stopped, and firmware is up (R371). -/
structure WalkReady (s : State) (p : Fin 64) : Prop where
  walking : (s.parts.get p).walking = true
  line : (s.parts.get p).line = true
  stopped : (s.parts.get p).toStop = []
  firmware : firmwareUp s = true

variable (ready : WalkReady s p)
include ready

theorem WalkReady.goes :
    (!(s.parts.get p).walking || !(s.parts.get p).line || !(s.parts.get p).toStop.isEmpty || !firmwareUp s) = false := by
  simp only [ready.walking, ready.line, ready.stopped, ready.firmware, List.isEmpty_nil, Bool.not_true, Bool.or_self]

theorem execContainmentWalk_held (hold : held s p = true) :
    execContainmentWalk p s = .next (s.updPart p fun y => { y with walking := false }) := by
  simp only [execContainmentWalk, ready.goes, hold, Bool.false_eq_true, if_false, if_true]

section
variable (free : held s p = false)
include free

theorem execContainmentWalk_ends (none : (s.parts.get p).faults = []) :
    execContainmentWalk p s = .next (releaseLine p (s.updPart p fun y => { y with walking := false })) := by
  simp only [execContainmentWalk, ready.goes, free, none, Bool.false_eq_true, if_false]

/-- The oldest fault is walked, and its launch looked at once more; after the last one the line is released. -/
theorem execContainmentWalk_walks {f : FaultRec} {rest : List FaultRec} (oldest : (s.parts.get p).faults = f :: rest) {u : State}
    (walked : countFaults p (walkFault p f (s.updPart p fun y => { y with faults := rest })) = u) :
    execContainmentWalk p s = if (u.parts.get p).faults.isEmpty then
      .next (releaseLine p ((askLaunch f u).updPart p fun y => { y with walking := false }))
      else .next (post (.containmentWalk p) (askLaunch f u)) := by
  subst walked
  rw [← askLaunch_parts f]
  simp only [execContainmentWalk, ready.goes, free, oldest, Bool.false_eq_true, if_false]
  rfl

end

end

section
variable {l : Launch} {id : Option StrandId} {kind cause : Nat} {lv : Level} {rest : List Level} {s : State}

/-- A level that the walk has killed and marked. -/
def killedLevel (l : Launch) (id : Option StrandId) (kind cause : Nat) (lv : Level) (s : State) : State :=
  markLevel l kind cause lv (killLevel l id lv s)

theorem walkLevels_ignore (pol : (levelPol l lv).toNat % 4 = 0) :
    walkLevels l id kind cause (lv :: rest) s = ignoreLevel l id kind cause lv s := by
  simp only [walkLevels, pol, if_true]

theorem walkLevels_kill (pol : (levelPol l lv).toNat % 4 = 2) :
    walkLevels l id kind cause (lv :: rest) s = killedLevel l id kind cause lv s := by
  simp [walkLevels, killedLevel, pol]

theorem walkLevels_killParent (pol : (levelPol l lv).toNat % 4 = 3) :
    walkLevels l id kind cause (lv :: rest) s = walkLevels l id kind cause rest (killedLevel l id kind cause lv s) := by
  simp [walkLevels, killedLevel, pol]

section
variable (pol : (levelPol l lv).toNat % 4 = 1)
include pol

/-- RETRY at a graph, a phase or a job is KILL. -/
theorem walkLevels_retry_high (unit : lv ≠ .unit) (launch : lv ≠ .launch) :
    walkLevels l id kind cause (lv :: rest) s = killedLevel l id kind cause lv s := by
  simp [walkLevels, killedLevel, pol, beq_eq_false_iff_ne.mpr unit, beq_eq_false_iff_ne.mpr launch]

section
variable (low : lv = .unit ∨ lv = .launch)
include low

/-- RETRY at a unit or a launch restarts it where R371 allows it, and else is KILLPARENT. -/
theorem walkLevels_retry_low : walkLevels l id kind cause (lv :: rest) s =
    (retryLevel l id ((levelPol l lv).toNat / 4 % 8) lv s).getD
      (walkLevels l id kind cause rest (killedLevel l id kind cause lv s)) := by
  have isLow : (lv == .unit || lv == .launch) = true := by simpa only [Bool.or_eq_true, beq_iff_eq] using low
  rw [walkLevels]
  simp only [pol, isLow, one_ne_zero, and_self, if_false, if_true]
  cases retryLevel l id ((levelPol l lv).toNat / 4 % 8) lv s <;> rfl

end
end

theorem retryLevel_launch {lim : Nat} (left : l.tries < lim) : retryLevel l id lim .launch s = some (restartLaunch l.id s) :=
  if_pos left

theorem retryLevel_launch_spent {lim : Nat} (spent : lim ≤ l.tries) : retryLevel l id lim .launch s = none :=
  if_neg spent.not_gt

theorem retryLevel_unit {lim : Nat} {x : StrandId} (kept : (s.ctx (agentOf x)).copy.retriable = true)
    (left : (s.ctx (agentOf x)).copy.tries < lim) : retryLevel l (some x) lim .unit s = some (restartUnit l.id x s) := by
  simp only [retryLevel, kept, left, decide_true, Bool.and_self, if_true]

end

theorem execDebugResume_resumes {a : Agent} {s : State} (parked : (s.ctx a).st = .parked) (why : (s.ctx a).why = some .debug) :
    execDebugResume a s = .next (wake a (s.updCtx a fun y => { y with stepping := true })) := by
  refine if_pos ?_
  simp only [parkedOn, parked, why, beq_self_eq_true, Bool.and_self]

/-- Settles O48: each event by its own rule, the walk over the levels by the policy of the level that is next. -/
theorem haltEvents : Obligations.HaltEvents := by
  unfold Obligations.HaltEvents
  intro s p q
  refine ⟨fun e one => exec_engineStop.trans (execEngineStop_single one), ?_, ⟨_, exec_haltctlHoldClear, clearHold_hold q s⟩, ?_, ?_,
    fun c ch v => exec_chlaWrite, fun a parked why => exec_debugResume.trans (execDebugResume_resumes parked why)⟩
  · rw [exec_haltctlHoldSet]
    by_cases enabled : (s.quads.get q).enabled = true
    · obtain ⟨t, next, hold, line⟩ := execHaltctlHoldSet_holds enabled
      exact ⟨t, next, fun _ => ⟨hold, line⟩⟩
    · exact ⟨_, rfl, fun on => absurd on enabled⟩
  · refine ⟨fun h => exec_containmentWalk.trans (execContainmentWalk_waits h), fun walking line stopped hold up => ?_,
      fun walking line stopped free up => ?_⟩
    · exact exec_containmentWalk.trans (execContainmentWalk_held ⟨walking, line, stopped, up⟩ hold)
    · have ready : WalkReady s p := ⟨walking, line, stopped, up⟩
      refine ⟨fun none => exec_containmentWalk.trans (execContainmentWalk_ends ready free none), fun f rest oldest => ?_⟩
      have walks := exec_containmentWalk.trans (execContainmentWalk_walks ready free oldest rfl)
      exact ⟨fun more => walks.trans (if_neg (by rwa [List.isEmpty_iff])),
        fun last => walks.trans (if_pos (List.isEmpty_iff.mpr last))⟩
  · intro l id kind cause lv rest
    refine ⟨walkLevels_ignore, walkLevels_kill, walkLevels_killParent, walkLevels_retry_high, ?_, ?_, ?_⟩
    · rintro pol rfl left
      rw [walkLevels_retry_low pol (.inr rfl), retryLevel_launch left, Option.getD_some]
    · rintro pol rfl spent
      rw [walkLevels_retry_low pol (.inr rfl), retryLevel_launch_spent spent, Option.getD_none]
      rfl
    · rintro x pol rfl rfl kept left
      rw [walkLevels_retry_low pol (.inl rfl), retryLevel_unit kept left, Option.getD_some]

end Sys2Proof.Machine
end

section
namespace Sys2Proof.Machine
open Sys2Proof.Safety

/-! ## Granules zeroed, and the replay-protected store (R390, R393, R399) -/

theorem readCell_filter_above {lo : Nat} {m : List Host.Cell} (keep : Nat → Bool) (a : Nat) (h : cellsAbove lo m = true) :
    readCell (m.filter fun c => keep c.1) a = if keep a then readCell m a else unlisted := by
  induction m generalizing lo with
  | nil => exact (ite_self _).symm
  | cons c t ih =>
    obtain ⟨a', b⟩ := c
    obtain ⟨-, -, above⟩ := cellsAbove_cons.mp h
    have rest := ih above
    have below : a ≤ a' → readCell t a = unlisted := fun le => readCell_below (Nat.lt_succ_of_le le) above
    rcases kept : keep a' with _ | _
    · rw [List.filter_cons_of_neg (by simp [kept]), rest, readCell]
      by_cases same : a = a'
      · simp [same, kept]
      · by_cases lt : a < a'
        · simp [same, lt, below lt.le]
        · simp [same, lt]
    · rw [List.filter_cons_of_pos (p := fun c : Host.Cell => keep c.1) kept, readCell, readCell, rest]
      by_cases same : a = a'
      · simp [same, kept]
      · by_cases lt : a < a' <;> simp [same, lt]

/-- With cells taken out by their addresses, those addresses read as unlisted and every other as before. -/
theorem readCell_filter {m : List Host.Cell} (keep : Nat → Bool) (a : Nat) (h : Memory.wf m = true) :
    readCell (m.filter fun c => keep c.1) a = if keep a then readCell m a else unlisted := readCell_filter_above keep a h

/-- Zeroed granules read zero, and every other byte as it did. -/
theorem byteAt_zeroGranules {s : State} (g : Nat → Bool) (a : Nat) (h : MemoryWf s) :
    byteAt (zeroGranules g s) a = if g (a / 65536) then 0 else byteAt s a := by
  have read := readCell_filter (fun x => !g (x / 65536)) a h.1
  refine read.trans ?_
  cases g (a / 65536) <;> rfl

/-- A commit takes the next counter value, so that the flash takes it (R399). -/
theorem storeCommit_eq (f : Mgmt → Mgmt) (s : State) : storeCommit f s = { s with mg := { f s.mg with
    storeCtr := s.mg.storeCtr + 1, storeTag := Config.freeStoreTag (storeKey s) (s.mg.storeCtr + 1) } } := if_pos rfl

/-! ## Locking, starting and stopping (R388, R390, R395) -/

section
variable {s : State}

theorem interface_unnamed (none : s.md.req.part = none) :
    execLockInterface s = .next s ∧ execStartInterface s = .next s ∧ execStopInterface s = .next s := by
  simp only [execLockInterface, execStartInterface, execStopInterface, namedPart, none, and_self]

section
variable {p : Fin 64} (named : s.md.req.part = some p)
include named

theorem execLockInterface_stays
    (h : (s.parts.get p).st ≠ .unlocked ∨ partConf s p.val = false ∨ freeKeyid s = none) : execLockInterface s = .next s := by
  simp only [execLockInterface, namedPart, named]
  split
  · rfl
  case isFalse goes =>
    simp only [Bool.or_eq_true, bne_iff_ne, Bool.not_eq_true', not_or] at goes
    obtain ⟨unlocked, conf⟩ := goes
    rw [(h.resolve_left unlocked).resolve_left conf]

/-- A lock: the partition is LOCKED with the KEYID and two fresh keys, and its granules are zeroed. -/
theorem execLockInterface_locks {k : BitVec 6} (st : (s.parts.get p).st = .unlocked) (conf : partConf s p.val = true)
    (free : freeKeyid s = some k) : ∃ t mesh mem, execLockInterface s = .next t ∧
      t.parts.get p = { s.parts.get p with st := .locked, keyid := k, meshKey := some mesh, memKey := some mem } ∧
      t.mm.mem = (zeroGranules (ownedGranules s p).contains s).mm.mem := by
  simp -zeta only [execLockInterface, namedPart, named, st, conf, free, bne_self_eq_false, Bool.not_true, Bool.or_self,
    Bool.false_eq_true, if_false]
  extract_lets a b c own mem s1 s2 f s3 s4
  have part : s1.parts.get p =
      { s.parts.get p with st := .locked, keyid := k, meshKey := some (Config.freeKey a.1), memKey := some mem } :=
    State.parts_updPart_same c.2 p _
  exact ⟨_, _, _, rfl, part, rfl⟩

theorem execStartInterface_eq : execStartInterface s =
    .next (if (s.parts.get p).st = .locked then s.updPart p fun x => { x with st := .run, acked := false } else s) := by
  simp only [execStartInterface, namedPart, named, beq_iff_eq, apply_ite Host.Outcome.next]

theorem execStopInterface_eq : execStopInterface s =
    .next (if (s.parts.get p).st = .locked ∨ (s.parts.get p).st = .run ∨ (s.parts.get p).st = .error then beginRelease p s else s) := by
  simp only [execStopInterface, namedPart, named, Bool.or_eq_true, beq_iff_eq, or_assoc, apply_ite Host.Outcome.next]

end

/-! ## The release (R390) -/

section
variable {p : Fin 64}

theorem execReleaseSequenceComplete_waits (h : (s.parts.get p).st ≠ .releasing ∨ queuesReset s p = false) :
    execReleaseSequenceComplete p s = .next s := by
  refine if_pos ?_
  simpa only [Bool.or_eq_true, bne_iff_ne, Bool.not_eq_true'] using h

section
variable (st : (s.parts.get p).st = .releasing) (reset : queuesReset s p = true)
include st reset

theorem execReleaseSequenceComplete_first (step : (s.parts.get p).releaseStep = 0) : execReleaseSequenceComplete p s =
    .next (post (.releaseSequenceComplete p) (s.updPart p fun x => { x with releaseStep := 1 })) := by
  simp only [execReleaseSequenceComplete, st, reset, step, bne_self_eq_false, Bool.not_true, Bool.or_self, Bool.false_eq_true,
    if_false, if_true]

theorem execReleaseSequenceComplete_ends (step : (s.parts.get p).releaseStep ≠ 0)
    (rest : ∀ q ∈ s.partQuads (BitVec.ofNat 8 p.val),
      quadTraffic s q = false ∧ quadBusy s q = false ∧ (s.quads.get q).scrubbing = false) :
    execReleaseSequenceComplete p s = .next (releaseMemory p ((s.partQuads (BitVec.ofNat 8 p.val)).foldl releaseQuad s)) := by
  have idle : ((s.partQuads (BitVec.ofNat 8 p.val)).any fun q =>
      quadTraffic s q || quadBusy s q || (s.quads.get q).scrubbing) = false := by
    rw [List.any_eq_false]
    intro q own
    obtain ⟨traffic, busy, scrubbing⟩ := rest q own
    simp only [traffic, busy, scrubbing, Bool.or_self, Bool.false_eq_true, not_false_eq_true]
  simp only [execReleaseSequenceComplete, st, reset, step, idle, bne_self_eq_false, Bool.not_true, Bool.or_self,
    Bool.false_eq_true, if_false]

end

theorem releaseMemory_part (p : Fin 64) (s : State) : (releaseMemory p s).parts.get p =
    { (s.parts.get p) with
      st := .unlocked, keyid := 0, meshKey := none, memKey := none, releaseStep := 0, acked := false } := by
  rw [releaseMemory, State.parts_updPart_same, storeCommit_eq]
  rfl

/-- Of a release that is complete the store keeps no record. -/
theorem not_mem_release_releaseMemory (p : Fin 64) (s : State) : p ∉ (releaseMemory p s).mg.release := by
  simp only [releaseMemory, State.updPart_mg, storeCommit_eq, List.mem_filter, bne_self_eq_false, Bool.false_eq_true, and_false,
    not_false_eq_true]

end

/-! ## IDE key management (R395) -/

/-- The partitions bound to the request's stream. -/
def streamParts (s : State) : List (Fin 64) :=
  match s.mg.ide.find? fun e => e.1 == s.md.req.stream with
  | some e => e.2.2
  | none => []

/-- Those partitions, with the one that the request names. -/
def boundParts (s : State) : List (Fin 64) :=
  match s.md.req.part with
  | some p => if (streamParts s).contains p then streamParts s else streamParts s ++ [p]
  | none => streamParts s

theorem mem_boundParts {m : Fin 64} (named : s.md.req.part = some m) : m ∈ boundParts s := by
  simp only [boundParts, named]
  split
  case isTrue bound => exact List.mem_of_elem_eq_true bound
  case isFalse => exact List.mem_append_right _ (List.mem_singleton_self m)

/-- With a complete session the request's stream takes its key and its bindings; without one the answer is an error. -/
theorem execIdeKeyManagement_eq : execIdeKeyManagement s = .next (if (session s).isSome then say (.ok []) { s with mg := { s.mg with
      ide := (s.mg.ide.filter fun e => e.1 != s.md.req.stream) ++ [(s.md.req.stream, s.md.req.key, boundParts s)] } }
    else sayError s) := by
  unfold execIdeKeyManagement
  cases session s <;> rfl

end

/-- Settles O53: each event by the state of the partition that it names, and of what it waits for. -/
theorem interfaceEvents : Obligations.InterfaceEvents := by
  unfold Obligations.InterfaceEvents
  intro s p
  refine ⟨interface_unnamed, fun named => ⟨fun h => execLockInterface_stays named h, fun k st conf free wf => ?_, fun st => ?_,
    fun st => ?_, fun st => ?_, fun st => ?_⟩, execReleaseSequenceComplete_waits, fun st reset =>
    ⟨execReleaseSequenceComplete_first st reset, fun step rest => ?_⟩, exec_ideIntegrityFailure, fun complete => ?_, fun none => ?_⟩
  · obtain ⟨t, mesh, mem, locks, part, cells⟩ := execLockInterface_locks named st conf free
    have bytes (a : Nat) : byteAt t a = if (ownedGranules s p).contains (a / 65536) then 0 else byteAt s a := by
      rw [← byteAt_zeroGranules _ a wf, byteAt, byteAt, cells]
    refine ⟨t, locks, (congrArg Part.st part :), (congrArg Part.keyid part :), (congrArg (fun x => x.meshKey.isSome) part :),
      (congrArg (fun x => x.memKey.isSome) part :), fun a own => ?_, fun a other => ?_⟩
    · rw [bytes, if_pos (List.elem_eq_true_of_mem own)]
    · rw [bytes, if_neg (by rwa [List.contains_iff_mem])]
  · refine ⟨_, (execStartInterface_eq named).trans (next_congr (if_pos st)), ?_⟩
    rw [State.parts_updPart_same]
  · exact (execStartInterface_eq named).trans (next_congr (if_neg st))
  · exact (execStopInterface_eq named).trans (next_congr (if_pos st))
  · refine (execStopInterface_eq named).trans (next_congr (if_neg ?_))
    rcases st with st | st | st <;> simp only [st, reduceCtorEq, or_self, not_false_eq_true]
  · refine ⟨_, execReleaseSequenceComplete_ends st reset step rest, rfl, ?_⟩
    rw [releaseMemory_part]
    exact ⟨rfl, rfl, rfl, rfl, not_mem_release_releaseMemory _ _⟩
  · refine ⟨_, boundParts s, execIdeKeyManagement_eq.trans (next_congr (if_pos complete)), ?_, fun m => mem_boundParts, ?_⟩
    · exact List.mem_append_right _ (List.mem_singleton_self _)
    · intro e bound other
      rcases List.mem_append.mp bound with old | new
      · exact List.mem_of_mem_filter old
      · exact absurd (congrArg Prod.fst (List.mem_singleton.mp new)) other
  · exact ⟨_, execIdeKeyManagement_eq.trans (next_congr (if_neg (by rw [none]; decide))), rfl, rfl⟩

end Sys2Proof.Machine
end

section
namespace Sys2Proof.Machine
open Sys2Proof.Safety

/-! ## Answers of the responder (R402) -/

/-- The request `i` is answered with `a`, behind the answers before it. -/
def Tells (s : State) (i : Instr) (a : SpdmAnswer) : Prop := ∃ t, exec i s = .next t ∧ t.mg.answers = s.mg.answers ++ [a]

section
variable {s : State} {i : Instr} {a : SpdmAnswer}

theorem say_quads (a : SpdmAnswer) (s : State) : (say a s).quads = s.quads := rfl

theorem say_parts (a : SpdmAnswer) (s : State) : (say a s).parts = s.parts := rfl

theorem tells_of_say {u : State} (next : exec i s = .next (say a u)) (same : u.mg.answers = s.mg.answers) : Tells s i a :=
  ⟨_, next, congrArg (· ++ [a]) same⟩

theorem tells_of_sayError (next : exec i s = .next (sayError s)) : Tells s i .error := tells_of_say next rfl

theorem sayErrors_answers (n : Nat) (s : State) : (sayErrors n s).mg.answers = s.mg.answers ++ List.replicate n .error := by
  induction n generalizing s with
  | zero => exact (List.append_nil _).symm
  | succ n ih => rw [sayErrors, ih, List.replicate_succ, sayError, say, List.append_assoc, List.singleton_append]

end

/-! ## Signatures (R400) -/

theorem sign_spent {s : State} (spent : 2 ^ 40 ≤ s.mg.xmssNext) : sign s = none := if_pos spent

/-- From `s` to `t` the next index of the attestation key has been taken, within the committed run, and nothing that an answer rests
on has changed. -/
structure IndexTaken (s t : State) : Prop where
  next : t.mg.xmssNext = s.mg.xmssNext + 1
  within : t.mg.xmssNext ≤ t.mg.xmssEnd
  certs : t.mg.certs = s.mg.certs
  sessions : t.mg.sessions = s.mg.sessions
  answers : t.mg.answers = s.mg.answers

theorem sign_takes {s : State} (left : s.mg.xmssNext < 2 ^ 40) : ∃ t, sign s = some (s.mg.xmssNext, t) ∧ IndexTaken s t := by
  simp only [sign, left.not_ge, if_false]
  refine ⟨_, rfl, ?_⟩
  split
  case isTrue => exact storeCommit_eq _ s ▸ ⟨rfl, Nat.add_le_add_left (by decide) _, rfl, rfl, rfl⟩
  case isFalse run => exact ⟨rfl, Nat.lt_of_not_ge run, rfl, rfl, rfl⟩

/-! ## Certificate slots and signed responses (R400, R403) -/

theorem updCert_certs_same (k : Fin 8) (f : CertSlot → CertSlot) (s : State) :
    (updCert k f s).mg.certs.get k = f (s.mg.certs.get k) := by
  rw [updCert, vget_set, if_pos rfl]

theorem rewriteCert_answers (k : Fin 8) (chain : Nat) (s : State) : (rewriteCert k chain s).mg.answers = s.mg.answers := by
  rw [rewriteCert, storeCommit_eq]

theorem rewriteCert_certs_same (k : Fin 8) (chain : Nat) (s : State) : (rewriteCert k chain s).mg.certs.get k =
    { s.mg.certs.get k with chain := chain, epoch := (s.mg.certs.get k).epoch + 1, rewrite := none } := by
  rw [rewriteCert, storeCommit_eq, vget_set, if_pos rfl]

section
variable {s : State}

theorem execGetCertificate_first (start : s.md.req.offset = 0) : ∃ t ws, execGetCertificate s = .next t ∧
    t.mg.answers = s.mg.answers ++ [.ok ws] ∧
    (s.md.req.port, s.md.req.cert, (s.mg.certs.get s.md.req.cert).epoch) ∈ t.mg.reading :=
  ⟨_, _, if_pos start, rfl, List.mem_append_right _ (List.mem_singleton_self _)⟩

/-- A chunk of a chain that was rewritten since its sequence began is an error. -/
theorem execGetCertificate_rewritten (later : s.md.req.offset ≠ 0)
    (gone : (s.md.req.port, s.md.req.cert, (s.mg.certs.get s.md.req.cert).epoch) ∉ s.mg.reading) :
    Tells s .getCertificate .error := by
  refine tells_of_say (exec_getCertificate.trans ((if_neg later).trans (if_neg ?_))) rfl
  rwa [List.contains_iff_mem]

/-- CHALLENGE and GET_MEASUREMENTS are answered by a signed response over some words. -/
theorem exec_signedAnswer {i : Instr} (asks : i ∈ [Instr.challenge, .getMeasurements]) :
    ∃ ws, exec i s = .next (signedAnswer ws s) := by
  rcases List.mem_pair.mp asks with rfl | rfl
  · exact ⟨_, exec_challenge⟩
  · exact ⟨_, exec_getMeasurements⟩

section
variable (words : List Word)

theorem signedAnswer_spent (asked : s.md.req.on = false) (spent : 2 ^ 40 ≤ s.mg.xmssNext) :
    signedAnswer words s = sayError s := by
  simp only [signedAnswer, asked, sign_spent spent, Bool.not_false, if_true]

/-- A response that is asked for is pending with the index of its signature. -/
theorem signedAnswer_asked (asked : s.md.req.on = false) {n : Nat} {t : State} (signs : sign s = some (n, t)) :
    signedAnswer words s = updCert s.md.req.cert (fun c => { c with pending := c.pending ++ [(n, words)] }) t := by
  simp only [signedAnswer, asked, signs, Bool.not_false, if_true]

theorem signedAnswer_none (due : s.md.req.on = true) (none : (s.mg.certs.get s.md.req.cert).pending = []) :
    signedAnswer words s = sayError s := by
  simp only [signedAnswer, due, none, Bool.not_true, Bool.false_eq_true, if_false]

/-- The oldest pending response is sent with the index of its signature, and the others stay pending. -/
theorem signedAnswer_sent (due : s.md.req.on = true) {n : Nat} {ws : List Word} {rest : List (Nat × List Word)}
    (oldest : (s.mg.certs.get s.md.req.cert).pending = (n, ws) :: rest) :
    (signedAnswer words s).mg.answers = s.mg.answers ++ [.ok (ws ++ [Config.freeSignature n])] ∧
      ((signedAnswer words s).mg.certs.get s.md.req.cert).pending = rest := by
  simp only [signedAnswer, due, oldest, Bool.not_true, Bool.false_eq_true, if_false]
  split
  · rw [rewriteCert_answers, rewriteCert_certs_same, updCert_certs_same]
    exact ⟨rfl, rfl⟩
  · rw [updCert_certs_same]
    exact ⟨rfl, rfl⟩

end

/-! ### A rewrite -/

theorem execSetCertificate_refused (h : s.md.req.cert = 0 ∨ ownerSession s = false) : execSetCertificate s = .next (sayError s) :=
  if_pos (by simpa only [Bool.or_eq_true, decide_eq_true_eq, Bool.not_eq_true'] using h)

section
variable (cert : s.md.req.cert ≠ 0) (owner : ownerSession s = true)
include cert owner

theorem execSetCertificate_now (idle : (s.mg.certs.get s.md.req.cert).pending = []) :
    execSetCertificate s = .next (say (.ok []) (rewriteCert s.md.req.cert s.md.req.chain s)) := by
  simp only [execSetCertificate, cert, owner, idle, decide_false, Bool.not_true, Bool.or_self, Bool.false_eq_true, if_false,
    List.isEmpty_nil, if_true]

theorem execSetCertificate_later (busy : (s.mg.certs.get s.md.req.cert).pending ≠ []) : execSetCertificate s =
    .next (say (.ok []) (updCert s.md.req.cert (fun c => { c with rewrite := some s.md.req.chain, since := s.ctc }) s)) := by
  simp only [execSetCertificate, cert, owner, List.isEmpty_eq_false_iff.mpr busy, decide_false, Bool.not_true, Bool.or_self,
    Bool.false_eq_true, if_false]

end

section
variable {chain : Nat} (waits : (s.mg.certs.get s.md.req.cert).rewrite = some chain)
include waits

theorem execCertRewriteTimeout_waits (early : s.ctc.toNat < (s.mg.certs.get s.md.req.cert).since.toNat + 50000000) :
    execCertRewriteTimeout s = .next s := by
  simp only [execCertRewriteTimeout, rewriteDue, waits, early.not_ge, decide_false, Bool.and_false, Bool.not_false, if_true]

/-- 50 ms after it arrived the rewrite goes ahead, and each response that was pending is an error. -/
theorem execCertRewriteTimeout_rewrites (due : (s.mg.certs.get s.md.req.cert).since.toNat + 50000000 ≤ s.ctc.toNat) :
    ∃ t, execCertRewriteTimeout s = .next t ∧ (t.mg.certs.get s.md.req.cert).chain = chain ∧
      (t.mg.certs.get s.md.req.cert).pending = [] ∧ t.mg.answers = s.mg.answers ++
        List.replicate (s.mg.certs.get s.md.req.cert).pending.length .error := by
  simp only [execCertRewriteTimeout, rewriteDue, waits, due, decide_true, Option.isSome_some, Bool.and_self, Bool.not_true,
    Bool.false_eq_true, if_false]
  refine ⟨_, rfl, ?_⟩
  rw [rewriteCert_certs_same, rewriteCert_answers, updCert_certs_same, updCert, sayErrors_answers]
  exact ⟨rfl, rfl, rfl⟩

end

/-! ## Sessions (R402) -/

/-- A session opens, with a number above every other's. -/
theorem execKeyExchange_opens (left : s.mg.xmssNext < 2 ^ 40) : ∃ t x, execKeyExchange s = .next t ∧
    t.mg.sessions = s.mg.sessions ++ [x] ∧ x.tenant = s.md.req.part ∧ x.finished = false ∧ ∀ y ∈ s.mg.sessions, y.num < x.num := by
  obtain ⟨u, signs, taken⟩ := sign_takes left
  simp only [execKeyExchange, signs]
  refine ⟨_, _, rfl, congrArg (· ++ [_]) taken.sessions, rfl, rfl, fun y here => Nat.lt_succ_of_le ?_⟩
  rw [List.foldl_max]
  exact (List.le_max?_getD_of_mem (List.mem_map_of_mem here)).trans (le_max_right _ _)

/-- Some session of the request's number satisfies `p`. -/
def hasSession (s : State) (p : Session → Bool) : Bool := s.mg.sessions.any fun x => x.num == s.md.req.session && p x

section
variable {i : Instr} {p : Session → Bool} {f : Session → Option Session} (acts : exec i s = .next (onSession p f s))
include acts

theorem tells_onSession (found : hasSession s p = true) : Tells s i (.ok []) :=
  tells_of_say (acts.trans (next_congr (if_pos found))) rfl

theorem tells_onSession_none (none : hasSession s p = false) : Tells s i .error :=
  tells_of_sayError (acts.trans (next_congr (if_neg (Bool.eq_false_iff.mp none))))

end

/-- HEARTBEAT, KEY_UPDATE and END_SESSION act on the request's session once it is complete. -/
theorem exec_onFinished {i : Instr} (h : i ∈ [Instr.heartbeat, .keyUpdate, .endSession]) :
    ∃ f, exec i s = .next (onSession (fun x => x.finished) f s) := by
  rcases List.mem_cons.mp h with rfl | h
  · exact ⟨_, exec_heartbeat⟩
  · rcases List.mem_pair.mp h with rfl | rfl
    · exact ⟨_, exec_keyUpdate⟩
    · exact ⟨_, exec_endSession⟩

/-! ## Copy-in keys and consent (R396, R402) -/

theorem requests_of_tenant_none (none : tenant s = none) :
    Tells s .setCopyKey .error ∧ Tells s .setDebugConsent .error ∧ Tells s .acknowledgeStaged .error := by
  refine ⟨tells_of_sayError ?_, tells_of_sayError ?_, tells_of_sayError ?_⟩
  · simp only [exec_setCopyKey, execSetCopyKey, none]
  · simp only [exec_setDebugConsent, execSetDebugConsent, none]
  · simp only [exec_acknowledgeStaged, execAcknowledgeStaged, none]

/-- What SET_COPY_KEY puts in its slot for the tenant of partition `p`: the request's key, or nothing when that is zero. -/
def copySlot (p : Fin 64) (s : State) : KeySlot :=
  if BitVec.ofNat 128 s.md.req.key.toNat == 0 then { key := 0, salt := 0, grant := none }
  else { key := BitVec.ofNat 128 s.md.req.key.toNat, salt := s.md.req.salt, grant := some p }

theorem ofNat_key_zero {n : Nat} : (BitVec.ofNat 128 n == 0) = true ↔ n % 2 ^ 128 = 0 := by
  rw [beq_iff_eq, ← BitVec.toNat_inj, BitVec.toNat_ofNat]
  rfl

theorem copySlot_clears (p : Fin 64) (zero : s.md.req.key.toNat % 2 ^ 128 = 0) :
    copySlot p s = { key := 0, salt := 0, grant := none } :=
  if_pos (ofNat_key_zero.mpr zero)

theorem copySlot_sets (p : Fin 64) (nonzero : s.md.req.key.toNat % 2 ^ 128 ≠ 0) :
    copySlot p s = { key := BitVec.ofNat 128 s.md.req.key.toNat, salt := s.md.req.salt, grant := some p } :=
  if_neg fun zero => nonzero (ofNat_key_zero.mp zero)

theorem mapOwner_owner {p : Fin 64} {f : BitVec 32 → BitVec 32} {n : Fin 64} (part : (s.quads.get n).part.toNat = p.val)
    (valid : (s.quads.get n).owner.toNat % 2 = 1) : ((mapOwner p f s).quads.get n).owner = f (s.quads.get n).owner := by
  simp only [mapOwner, vget_each, part, valid, beq_self_eq_true, Bool.and_self, if_true]

/-- DCONSENT is bit 2 of OWNER (R385). -/
theorem dconsent_set (o : BitVec 32) (on : Bool) : (if on then o ||| 4 else o &&& 0xFFFFFFFB).getLsbD 2 = on := by
  cases on <;> simp

section
variable {p : Fin 64} (own : tenant s = some p)
include own

section
variable (frozen : isFrozen s p = true)
include frozen

theorem execSetCopyKey_refused (held : (s.mg.slots.get s.md.req.keySlot).grant ≠ none)
    (other : (s.mg.slots.get s.md.req.keySlot).grant ≠ some p) : execSetCopyKey s = .next (sayError s) := by
  simp only [execSetCopyKey, own, frozen, Option.isSome_iff_ne_none.mpr held, bne_iff_ne.mpr other, Bool.and_self, Bool.or_true,
    if_true]

theorem execSetCopyKey_sets (free : (s.mg.slots.get s.md.req.keySlot).grant = none ∨ (s.mg.slots.get s.md.req.keySlot).grant = some p) :
    ∃ t, execSetCopyKey s = .next t ∧ t.mg.answers = s.mg.answers ++ [.ok []] ∧ t.mg.slots.get s.md.req.keySlot = copySlot p s := by
  have goes : ((s.mg.slots.get s.md.req.keySlot).grant.isSome && (s.mg.slots.get s.md.req.keySlot).grant != some p) = false := by
    rcases free with grant | grant <;> simp only [grant, Option.isSome_none, Bool.false_and, bne_self_eq_false, Bool.and_false]
  simp only [execSetCopyKey, own, frozen, goes, Bool.not_true, Bool.or_self, Bool.false_eq_true, if_false]
  exact ⟨_, rfl, rfl, (vget_set ..).trans (if_pos rfl)⟩

end

theorem execSetDebugConsent_sets (allowed : s.mg.allowDebug = true) : ∃ t, execSetDebugConsent s = .next t ∧
    ∀ n : Fin 64, (s.quads.get n).part.toNat = p.val → (s.quads.get n).owner.toNat % 2 = 1 →
      (t.quads.get n).owner.getLsbD 2 = s.md.req.on := by
  simp only [execSetDebugConsent, own, allowed, Bool.not_true, Bool.false_eq_true, if_false]
  refine ⟨_, rfl, fun n part valid => ?_⟩
  rw [say_quads, mapOwner_owner part valid]
  exact dconsent_set (s.quads.get n).owner s.md.req.on

end

end

end Sys2Proof.Machine
end

section
namespace Sys2Proof.Machine
open Sys2Proof.Safety

/-! ## Staged images and their activation (R398, R401, R404) -/

section
variable {s : State}

/-- An image is verified under a key of the ROM or of the configuration (R398). -/
theorem verified_iff {im : FwImage} : verified s im = true ↔ im.sig.param = Config.xmssParam ∧
    (im.sig.key ∈ s.mg.romKeys ∨ im.sig.key ∈ s.mg.blobKeys) ∧ im.sig.verifies = true := by
  simp only [verified, Bool.and_eq_true, beq_iff_eq, List.contains_iff_mem, List.mem_append, and_assoc]

theorem rolledBack_eq_false_iff {im : FwImage} :
    rolledBack s im = false ↔ (s.mg.svn.get im.comp).toNat ≤ im.svn.toNat := by
  rw [rolledBack, decide_eq_false_iff_not, not_lt]

/-- An image may be staged: its component can be replaced, its signature verifies, and its SVN is not below the counter. -/
def Stageable (s : State) (im : FwImage) : Prop := im.comp ∈ updatable ∧ verified s im = true ∧ rolledBack s im = false

theorem stageUpdate_goes_iff {im : FwImage} :
    (!updatable.contains im.comp || !verified s im || rolledBack s im) = false ↔ Stageable s im := by
  simp only [Stageable, Bool.or_eq_false_iff, Bool.not_eq_false', List.contains_iff_mem, and_assoc]

theorem execStageUpdate_refused (bad : ¬ Stageable s s.md.req.image) : execStageUpdate s = .next (sayError s) :=
  if_pos (by rwa [← stageUpdate_goes_iff, Bool.not_eq_false] at bad)

section
variable (good : Stageable s s.md.req.image)
include good

/-- Firmware of the command complexes is staged, and every acknowledgement of another image forgotten. -/
theorem execStageUpdate_staged (comp : s.md.req.image.comp = cmdIndex) : ∃ t, execStageUpdate s = .next t ∧ t.cmds = s.cmds ∧
    t.mg.flash = s.mg.flash ∧ t.mg.svn = s.mg.svn ∧ t.mg.update.staged = some s.md.req.image ∧
    ∀ p : Fin 64, (t.parts.get p).acked = false := by
  unfold execStageUpdate
  extract_lets im
  rw [stageUpdate_goes_iff.mpr good, if_neg Bool.false_ne_true, if_pos (beq_iff_eq.mpr comp)]
  refine ⟨_, rfl, ?_⟩
  simp only [say, clearAcks, setMeasure, setUpdate, vget_each, true_and, implies_true, im]

/-- Firmware of another component waits for the next reset. -/
theorem execStageUpdate_waits (comp : s.md.req.image.comp ≠ cmdIndex) : ∃ t, execStageUpdate s = .next t ∧ t.cmds = s.cmds ∧
    t.mg.flash = s.mg.flash ∧ t.mg.svn = s.mg.svn ∧ s.md.req.image ∈ t.mg.update.others ∧
    t.mg.update.staged = s.mg.update.staged := by
  simp only [execStageUpdate, stageUpdate_goes_iff.mpr good, beq_eq_false_iff_ne.mpr comp, Bool.false_eq_true, if_false]
  exact ⟨_, rfl, rfl, rfl, rfl, List.mem_append_right _ (List.mem_singleton_self _), rfl⟩

end

theorem activationReady_iff : activationReady s = true ↔ s.mg.update.wanted = true ∧ s.mg.update.staged.isSome = true ∧
    ∀ p : Fin 64, (s.parts.get p).st = .run → (s.parts.get p).acked = true := by
  simp only [activationReady, Bool.and_eq_true, and_assoc, Vector.all_toList, Vector.all_eq_true, Bool.or_eq_true, bne_iff_ne,
    ← imp_iff_not_or, Vector.get_eq_getElem]
  exact and_congr_right' (and_congr_right' ⟨fun all p => all p.val p.isLt, fun all i lt => all ⟨i, lt⟩⟩)

theorem bootStandby_wanted (s : State) : (bootStandby s).mg.update.wanted = s.mg.update.wanted := by
  unfold bootStandby
  split <;> rfl

theorem bootStandby_reading (ready : activationReady s = true) : (bootStandby s).mg.update.reading = true := by
  rw [bootStandby, if_pos ready]
  rfl

theorem bootStandby_parts (s : State) : (bootStandby s).parts = s.parts := by
  unfold bootStandby
  split <;> rfl

theorem bootStandby_answers (s : State) : (bootStandby s).mg.answers = s.mg.answers := by
  unfold bootStandby
  split <;> rfl

theorem execActivationRequest_refused (h : ownerSession s = false ∨ s.mg.update.staged = none) :
    execActivationRequest s = .next (sayError s) :=
  if_pos (by simpa only [Bool.or_eq_true, Bool.not_eq_true', Option.isNone_iff_eq_none] using h)

/-- The owner's request is recorded, and lets the standby complex boot once no partition in RUN holds it up. -/
theorem execActivationRequest_records (owner : ownerSession s = true) (staged : s.mg.update.staged.isSome = true) :
    ∃ t, execActivationRequest s = .next t ∧ t.mg.update.wanted = s.md.req.on ∧
      (s.md.req.on = true → (∀ p : Fin 64, (s.parts.get p).st = .run → (s.parts.get p).acked = true) →
        t.mg.update.reading = true) := by
  refine ⟨_, if_neg ?_, bootStandby_wanted _, fun on acked => bootStandby_reading (activationReady_iff.mpr ⟨on, staged, acked⟩)⟩
  rw [owner, ← Option.not_isSome, staged]
  decide

theorem execAcknowledgeStaged_acks {p : Fin 64} (own : tenant s = some p) (run : (s.parts.get p).st = .run)
    (staged : s.mg.update.staged.isSome = true) : ∃ t, execAcknowledgeStaged s = .next t ∧ (t.parts.get p).acked = true := by
  simp only [execAcknowledgeStaged, own, run, ← Option.not_isSome, staged, bne_self_eq_false, Bool.not_true, Bool.or_self,
    Bool.false_eq_true, if_false]
  refine ⟨_, rfl, ?_⟩
  rw [bootStandby_parts, say_parts, State.parts_updPart_same]

/-! ## The takeover (R405) -/

theorem role_of_cmdWith {r : CmdRole} {i : Fin 2} (has : cmdWith s r = some i) : (s.cmds.get i).role = r :=
  beq_iff_eq.mp (List.find?_some (p := fun i => (s.cmds.get i).role == r) has)

theorem updCmd_cmds (s : State) (i j : Fin 2) (f : CmdCore → CmdCore) :
    (updCmd i f s).cmds.get j = if j = i then f (s.cmds.get i) else s.cmds.get j := by
  rw [updCmd, vget_set]

/-- The active and the standby complex are two. -/
theorem active_ne_standby {a b : Fin 2} (active : cmdWith s .active = some a) (standby : cmdWith s .standby = some b) : b ≠ a := by
  rintro rfl
  exact absurd ((role_of_cmdWith active).symm.trans (role_of_cmdWith standby)) (by decide)

/-- Firmware serves pending kicks by an event that it sends, and changes nothing else itself. -/
theorem serveKicks_same (s : State) : SameButMemory s (serveKicks s) := by
  simp only [serveKicks]
  repeat' split
  all_goals first | exact .refl s | exact post_same _ s

theorem resumeFirmware_same (s : State) : SameButMemory s (resumeFirmware s) := (postAll_same _ s).trans (serveKicks_same _)

/-- A counter raised to its image's SVN never goes back (R401, R405). -/
theorem raiseSvn_svn (im : FwImage) (s : State) :
    ((raiseSvn im s).mg.svn.get im.comp).toNat = max im.svn.toNat (s.mg.svn.get im.comp).toNat := by
  unfold raiseSvn
  split
  case isTrue below =>
    rw [storeCommit_eq, vget_set, if_pos rfl, max_eq_left (of_decide_eq_true below).le]
  case isFalse above => rw [max_eq_right (not_lt.mp (by simpa only [decide_eq_true_eq] using above))]

theorem raiseSvn_cmds (im : FwImage) (s : State) : (raiseSvn im s).cmds = s.cmds := by
  simp only [raiseSvn, storeCommit_eq, apply_ite State.cmds, ite_self]

theorem raiseSvn_update (im : FwImage) (s : State) : (raiseSvn im s).mg.update = s.mg.update := by
  unfold raiseSvn
  split
  · rw [storeCommit_eq]
  · rfl

section
variable {im : FwImage} {a b : Fin 2} (staged : s.mg.update.staged = some im) (active : cmdWith s .active = some a)
  (standby : cmdWith s .standby = some b)
include staged active standby

theorem execLiveUpdateTakeover_boots (h : s.mg.update.reading = false ∨ activationReady s = false) :
    execLiveUpdateTakeover s = .next (bootStandby s) := by
  have boots : (!s.mg.update.reading || !activationReady s) = true := by simpa only [Bool.or_eq_true, Bool.not_eq_true'] using h
  simp only [execLiveUpdateTakeover, staged, active, standby, boots, if_true]

section
variable (reading : s.mg.update.reading = true) (ready : activationReady s = true)
include reading ready

theorem execLiveUpdateTakeover_aborts (version : im.version ≠ Config.tableVersion) : execLiveUpdateTakeover s =
    .next (setUpdate (fun u => { u with wanted := false, reading := false }) s) := by
  simp only [execLiveUpdateTakeover, staged, active, standby, reading, ready, bne_iff_ne.mpr version, Bool.not_true, Bool.or_self,
    Bool.false_eq_true, if_false, if_true]

variable (version : im.version = Config.tableVersion)
include version

theorem execLiveUpdateTakeover_waits (moving : quiescent s = false) : execLiveUpdateTakeover s = .next s := by
  simp only [execLiveUpdateTakeover, staged, active, standby, reading, ready, version, moving, bne_self_eq_false, Bool.not_true,
    Bool.not_false, Bool.or_self, Bool.false_eq_true, if_false, if_true]

/-- A takeover: the standby complex is the active one with the staged image, and the other the standby. -/
theorem execLiveUpdateTakeover_takes (still : quiescent s = true) :
    ∃ u, execLiveUpdateTakeover s = .next (resumeFirmware (setFlash im (raiseSvn im u))) ∧
      (u.cmds.get b).role = .active ∧ (u.cmds.get b).fw = im.number ∧ (u.cmds.get a).role = .standby ∧
      u.mg.update.staged = none ∧ u.mg.svn = s.mg.svn := by
  have onB : (updCmd a (bootCmd .standby im.number) (updCmd b (bootCmd .active im.number) s)).cmds.get b =
      bootCmd .active im.number (s.cmds.get b) := by
    rw [updCmd_cmds, if_neg (active_ne_standby active standby), updCmd_cmds, if_pos rfl]
  have onA := (updCmd_cmds (updCmd b (bootCmd .active im.number) s) a a (bootCmd .standby im.number)).trans (if_pos rfl)
  simp only [execLiveUpdateTakeover, staged, active, standby, reading, ready, version, still, bne_self_eq_false, Bool.not_true,
    Bool.or_self, Bool.false_eq_true, if_false]
  exact ⟨_, rfl, (congrArg CmdCore.role onB :), (congrArg CmdCore.fw onB :), (congrArg CmdCore.role onA :), rfl, rfl⟩

/-- The image goes to flash, its component's counter rises to its SVN, and firmware resumes. -/
theorem execLiveUpdateTakeover_settles (still : quiescent s = true) : ∃ t, execLiveUpdateTakeover s = .next t ∧
    (t.cmds.get b).role = .active ∧ (t.cmds.get b).fw = im.number ∧ (t.cmds.get a).role = .standby ∧
    t.mg.update.staged = none ∧ t.mg.flash.get im.comp = im ∧
    (t.mg.svn.get im.comp).toNat = max im.svn.toNat (s.mg.svn.get im.comp).toNat := by
  obtain ⟨u, takes, role, fw, other, none, svn⟩ := execLiveUpdateTakeover_takes staged active standby reading ready version still
  obtain ⟨-, -, -, -, -, -, -, mg, cmds, -⟩ := (resumeFirmware_same (setFlash im (raiseSvn im u))).fields
  rw [← svn, ← raiseSvn_svn]
  rw [← raiseSvn_cmds im u] at role fw other
  rw [← raiseSvn_update im u] at none
  refine ⟨_, takes, ?_⟩
  rw [mg, cmds]
  exact ⟨role, fw, other, none, (vget_set ..).trans (if_pos rfl), rfl⟩

end
end

theorem execStandbyFailure_fails {b : Fin 2} (standby : cmdWith s .standby = some b) :
    ∃ t, execStandbyFailure s = .next t ∧ (t.cmds.get b).role = .failed ∧ t.mg.update.reading = false := by
  simp only [execStandbyFailure, standby]
  have fails := (updCmd_cmds s b b fun c => { c with role := .failed }).trans (if_pos rfl)
  exact ⟨_, rfl, (congrArg CmdCore.role fails :), rfl⟩

theorem execStandbyFailure_none (none : cmdWith s .standby = none) : execStandbyFailure s = .next s := by
  simp only [execStandbyFailure, none]

end

/-- Settles O54: each request by the session, the slot or the image that it names, and a takeover by what it waits for. -/
theorem spdmEvents : Obligations.SpdmEvents := by
  unfold Obligations.SpdmEvents
  intro s q cert tells
  refine ⟨tells_of_say exec_getVersion rfl, tells_of_say exec_negotiateAlgorithms rfl, ⟨_, tells_of_say exec_getCapabilities rfl⟩,
    tells_of_say exec_getDigests rfl, fun start => execGetCertificate_first start, execGetCertificate_rewritten, ?_, ?_, ?_, ?_,
    fun left => execKeyExchange_opens left, ?_, ?_, requests_of_tenant_none, fun p own allowed => execSetDebugConsent_sets own allowed,
    ?_, fun owner staged => execActivationRequest_records owner staged,
    fun h => tells_of_sayError (exec_activationRequest.trans (execActivationRequest_refused h)),
    fun p own run staged => execAcknowledgeStaged_acks own run staged, ?_, fun b standby => execStandbyFailure_fails standby,
    fun none => exec_standbyFailure.trans (execStandbyFailure_none none)⟩
  · intro i asks
    obtain ⟨words, answers⟩ := exec_signedAnswer asks
    refine ⟨fun off left => ?_,
      fun off spent => tells_of_sayError (answers.trans (next_congr (signedAnswer_spent words off spent))),
      fun on none => tells_of_sayError (answers.trans (next_congr (signedAnswer_none words on none))),
      fun n ws rest on oldest => ⟨_, answers, signedAnswer_sent words on oldest⟩⟩
    obtain ⟨t, signs, taken⟩ := sign_takes left
    refine ⟨_, answers.trans (next_congr (signedAnswer_asked words off signs)), taken.next, ⟨words, ?_⟩, taken.answers, taken.within⟩
    rw [updCert_certs_same, taken.certs]
  · exact fun h => tells_of_sayError (exec_setCertificate.trans (execSetCertificate_refused h))
  · intro slot owner
    by_cases idle : cert.pending = []
    · refine ⟨_, execSetCertificate_now slot owner idle, congrArg (· ++ [_]) (rewriteCert_answers ..), fun _ => ?_,
        fun busy => absurd idle busy⟩
      have rewritten := rewriteCert_certs_same q.cert q.chain s
      exact ⟨(congrArg CertSlot.chain rewritten :), (congrArg CertSlot.epoch rewritten :)⟩
    · refine ⟨_, execSetCertificate_later slot owner idle, rfl, fun none => absurd none idle, fun _ => ?_⟩
      have waits := updCert_certs_same q.cert (fun c => { c with rewrite := some q.chain, since := s.ctc }) s
      exact ⟨(congrArg CertSlot.chain waits :), (congrArg CertSlot.rewrite waits :)⟩
  · exact fun ch waits => ⟨execCertRewriteTimeout_waits waits, execCertRewriteTimeout_rewrites waits⟩
  · intro open_
    have opened : open_ false = hasSession s fun x => !x.finished := by simp only [open_, q, hasSession, beq_false]
    have complete : open_ true = hasSession s fun x => x.finished := by simp only [open_, q, hasSession, beq_true]
    rw [opened, complete]
    refine ⟨tells_onSession exec_finish, tells_onSession_none exec_finish, fun i acts => ?_⟩
    obtain ⟨f, acts⟩ := exec_onFinished acts
    exact ⟨tells_onSession acts, tells_onSession_none acts⟩
  · intro p own frozen g
    refine ⟨fun held other => tells_of_sayError (exec_setCopyKey.trans (execSetCopyKey_refused own frozen held other)),
      fun free => ?_⟩
    obtain ⟨t, sets, answers, slot⟩ := execSetCopyKey_sets own frozen free
    refine ⟨t, sets, answers, fun zero => ?_, fun nonzero => ?_⟩
    · rw [slot, copySlot_clears p zero]
      exact ⟨rfl, rfl⟩
    · rw [slot, copySlot_sets p nonzero]
      exact ⟨rfl, BitVec.toNat_ofNat _ _, rfl⟩
  · intro im good newer
    have stageable : Stageable s im ↔ im.comp ∈ updatable ∧ good ∧ newer :=
      and_congr_right' (and_congr verified_iff rolledBack_eq_false_iff)
    refine ⟨fun bad => tells_of_sayError (exec_stageUpdate.trans (execStageUpdate_refused (by rw [stageable]; tauto))),
      fun comp signed above => ?_⟩
    have goes := stageable.mpr ⟨comp, signed, above⟩
    by_cases own : im.comp = 3
    · obtain ⟨t, next, cmds, flash, svn, staged, acks⟩ := execStageUpdate_staged goes own
      exact ⟨t, next, cmds, flash, svn, fun _ => ⟨staged, acks⟩, fun other => absurd own other⟩
    · obtain ⟨t, next, cmds, flash, svn, waits⟩ := execStageUpdate_waits goes own
      exact ⟨t, next, cmds, flash, svn, fun same => absurd same own, fun _ => waits⟩
  · intro im a b staged active standby
    exact ⟨fun h => exec_liveUpdateTakeover.trans (execLiveUpdateTakeover_boots staged active standby h),
      fun reading ready version => ⟨_, execLiveUpdateTakeover_aborts staged active standby reading ready version, rfl, rfl⟩,
      fun reading ready version moving =>
        exec_liveUpdateTakeover.trans (execLiveUpdateTakeover_waits staged active standby reading ready version moving),
      fun reading ready version still => execLiveUpdateTakeover_settles staged active standby reading ready version still⟩

end Sys2Proof.Machine
end
